-- ==== Sys2Proof/Word.lean ====
section
/-! DEFINITION. The words of the device and the shapes of its data: bytes, register words, sparse tables. -/

namespace Sys2Proof

/-- One byte (R5). -/
abbrev Byte := BitVec 8

/-- One register word: every register is 64 bits wide (R6). -/
abbrev Word := BitVec 64

/-- One instruction word of a cell (R169). -/
abbrev InsnWord := BitVec 128

/-- The status flag bits of R113. -/
abbrev Flags := BitVec 8

/-- A logical cell number (R17): region in bits [11:10], block in [9:4], cell in [3:0]. -/
abbrev LCell := BitVec 12

/-- A table with few entries: pairs of a key and a value, keys strictly rising, and no entry equal to
what an unlisted key reads as. -/
abbrev Sparse (α : Type) := List (Nat × α)

end Sys2Proof
end

