-- ==== Sys2Proof/Syntax.lean ====
section
/-! DEFINITION. The commands and events of the device, one constructor for each row of the table of operations, with
the operands that come from outside: which unit, what a message or a pin carries, and what the silicon met. -/

namespace Sys2Proof

/-- What the check bits of a memory word show when it is read: a fact of the silicon, so an operand. -/
inductive Ecc
  | clean | corrected | uncorrectable
  deriving DecidableEq, Repr

/-- What a cell instruction meets: the check of its word in instruction memory, and of the data it reads. -/
structure Meet where
  imem : Ecc
  data : Ecc
  deriving DecidableEq, Repr

/-- The memories of a cell whose check bits a unit meets. -/
inductive CellMem
  | store | imem | acc | buf
  deriving DecidableEq, Repr

/-- What the check bits show where a unit of a cell reads: which memory, the array or buffer in it, the byte (in the
store) or entry (in the accumulators) where it shows, and what. -/
structure Hit where
  mem : CellMem
  unit : Nat
  loc : Nat
  ecc : Ecc
  deriving DecidableEq, Repr

/-- What the check bits of a line of device memory show: the line's place among the lines an event reads, and what. -/
structure LineHit where
  which : Nat
  ecc : Ecc
  deriving DecidableEq, Repr

/-- A sum that an array got wrong, a fault of the silicon: the array, the column, and the number num × 2^exp that left the
column. -/
structure Upset where
  array : BitVec 2
  col : BitVec 4
  num : Int
  exp : Int
  deriving DecidableEq, Repr

/-- A UDP datagram that the management port takes: source address and port, and the UDP payload, least significant byte
first. -/
structure Datagram where
  addr : BitVec 128
  port : BitVec 16
  bytes : List Byte
  deriving DecidableEq, Repr

/-- What arrives at the management port and carries no command to accept: a neighbour solicitation or an echo request with
its bytes, a datagram to the command port, a fragment, or any other packet. -/
inductive MgmtPacket
  | solicit (addr : BitVec 128)
  | echo (addr : BitVec 128) (bytes : List Byte)
  | udp (d : Datagram)
  | fragment
  | other
  deriving DecidableEq, Repr

/-- The way a command reaches Ozmin: the normal or urgent ring of a context's ring set, a datagram of a session, or the
queue of its class, in which it has waited. -/
inductive Route
  | normal (ctx : BitVec 14)
  | urgent (ctx : BitVec 14)
  | session (d : Datagram)
  | queued (i : BitVec 16)
  deriving DecidableEq, Repr

/-- A parity error that a move meets on its way (R251): on a street of a block, on an avenue at the stop of a block, or at
a port of a region's edges: west 0 to 7, east 8 to 15, north 16 to 23, near links 24 and 25, hub ports 26 and 27. -/
inductive NetErr
  | none
  | street (block : BitVec 8)
  | avenue (block : BitVec 8)
  | edge (region : BitVec 2) (port : BitVec 5)
  deriving DecidableEq, Repr

/-- What the power manager measures in a sense interval, in units of 10^-3 W: for each region, each base die with its stack
and each engine the power and the idle or refresh part of it; the Hall; the regulation loss; and for each context with blocks
in a region the power it takes there and its ungated cell-cycles. `held` counts the cell-cycles held by pacing. -/
structure PowerReading where
  regions : List (Nat × Nat)
  dies : List (Nat × Nat)
  engines : List (Nat × Nat)
  hall : Nat
  loss : Nat
  shares : List (Nat × Nat × Nat × Nat)
  held : Nat
  deriving DecidableEq, Repr

/-- An uncorrectable error that the save of a park meets: in a memory of a logical cell, or at a byte of a block store. -/
inductive SaveHit
  | cell (c : BitVec 12) (h : Hit)
  | block (g : BitVec 8) (off : BitVec 23)
  deriving DecidableEq, Repr

/-- An array whose signature differs from the golden one: its number (4 × physical cell + array), the signature, and the
physical rows and columns that the analysis finds at fault. -/
structure MusterArray where
  arr : BitVec 15
  sig : BitVec 64
  rows : List Nat
  cols : List Nat
  deriving DecidableEq, Repr

/-- A memory that fails its test, or a stack that fails its training: memories of a physical cell, a block store, the bell
store and the translation store of a region, an 8 MiB unit of a Square, a stack in training, a row of a stack by a
stack-local address, and the memories of an engine, a ring link or spoke, and the Hall. -/
inductive MusterMem
  | cell (p : BitVec 13)
  | block (g : BitVec 8)
  | bells (r : BitVec 2)
  | xlate (r : BitVec 2)
  | square (n : BitVec 3) (u : BitVec 4)
  | training (n : BitVec 3)
  | row (stack : BitVec 3) (la : BitVec 37)
  | engine (k : BitVec 3)
  | link (l : BitVec 3)
  | hall
  deriving DecidableEq, Repr

/-- What a self-test run finds: signatures of instances but arrays by kind and number, arrays and memories that fail, and
the time in µs. -/
structure MusterResult where
  logic : List (Nat × Nat × BitVec 64)
  arrays : List MusterArray
  mems : List MusterMem
  time : BitVec 64
  deriving DecidableEq, Repr

/-- The part of a register that an aligned access reaches: all of it, or its low or high 32 bits (R6). -/
inductive RegPart
  | whole | low | high
  deriving DecidableEq, Repr

/-- What a Hall core does: it loads or stores 1 to 64 bytes (n + 1 of them), the first byte of a store in the low bits; or it
reaches for the firmware SRAM, the flash controller or the identity engine (R253, R549). -/
inductive HallOp
  | load (n : BitVec 6)
  | store (n : BitVec 6) (data : BitVec 512)
  | inner
  deriving DecidableEq, Repr

/-- The commands and events of the device: one constructor for each row of the table of operations. -/
inductive Instr
  /-- BEAT_BOUNDARY (R50). At the guard point G the device runs boundary processing, applying the actions of R30 in
  order, and opens the next beat at D. -/
  | beatBoundary
  /-- EARLY_BOUNDARY (R51). On a standalone device with EARLY set, boundary processing starts as soon as every
  resident, unparked partition has closed. -/
  | earlyBoundary
  /-- STRETCH_CHECK (R57). At D − NOTICE the beat master extends D by 1 µs when an Elastic cell has not yielded,
  and sends STRETCH. -/
  | stretchCheck
  /-- STRETCH (R58). A received STRETCH moves the deadline to T + L + k µs, or raises FLT_BEAT_ALIGN when it
  arrives after G. -/
  | stretch (idx : BitVec 16)
  /-- SLACK (R64). The leader takes a follower's SLACK report into the adaptation decision. -/
  | slack (idx : BitVec 16)
  /-- ADAPT_DECIDE (R65). During the step's last beat, no later than open plus L/2, the leader decides new_len and
  sends LEN_SET to every member. -/
  | adaptDecide
  /-- LEN_SET (R67). A received LEN_SET schedules new beat values for the boundary that opens EFFECTIVE, or raises
  FLT_BEAT_ALIGN when late. -/
  | lenSet (idx : BitVec 16)
  /-- SYNC (R72). A follower takes its parent's SYNC, records t2 and sends DELAY_REQ; on joining it adopts GNUM, L,
  STRETCH_MAX and NOTICE. -/
  | syncMsg (idx : BitVec 16)
  /-- DELAY_REQ (R70). A parent records t4 of a DELAY_REQ and answers with DELAY_RESP. -/
  | delayReq (idx : BitVec 16)
  /-- DELAY_RESP (R70). A follower computes offset and delay, steers its timebase and sets LOCKED, ALIGN_WARN or
  SYNC_LOST. -/
  | delayResp (idx : BitVec 16)
  /-- SYNC_TIMEOUT (R72). Eight SYNC intervals without a SYNC set SYNC_LOST, clear LOCKED and raise FLT_BEAT_ALIGN. -/
  | syncTimeout
  /-- NOP (R171). Does nothing. -/
  | nop (c : LCell) (m : Meet)
  /-- YIELD (R48). Issues the end of the cell's work for the beat; the cell issues nothing further. -/
  | yield (c : LCell) (m : Meet)
  /-- YIELD_RETIRE (R48). YIELD retires once every earlier operation has completed; the cell counts as yielded and
  the partition may close. -/
  | yieldRetire (c : LCell)
  /-- LI (R171). Loads an immediate into a scalar register. -/
  | li (c : LCell) (m : Meet)
  /-- ADD (R171). Adds two scalar registers and an immediate, mod 2^64. -/
  | add (c : LCell) (m : Meet)
  /-- SUB (R171). Subtracts two scalar registers. -/
  | sub (c : LCell) (m : Meet)
  /-- AND (R171). Bitwise and of two scalar registers. -/
  | andOp (c : LCell) (m : Meet)
  /-- OR (R171). Bitwise or of two scalar registers. -/
  | orOp (c : LCell) (m : Meet)
  /-- XOR (R171). Bitwise exclusive or of two scalar registers. -/
  | xorOp (c : LCell) (m : Meet)
  /-- SHL (R171). Shifts a scalar register left. -/
  | shl (c : LCell) (m : Meet)
  /-- SHR (R171). Shifts a scalar register right logically. -/
  | shr (c : LCell) (m : Meet)
  /-- MUL (R171). Multiplies two scalar registers, keeping the low 64 bits. -/
  | mul (c : LCell) (m : Meet)
  /-- LDX (R171). Loads 8 bytes from the cell store into a scalar register. -/
  | ldx (c : LCell) (m : Meet)
  /-- STX (R171). Stores a scalar register to the cell store. -/
  | stx (c : LCell) (m : Meet)
  /-- LDD (R171). Loads 16 bytes from the cell store into a descriptor register. -/
  | ldd (c : LCell) (m : Meet)
  /-- DADD (R171). Adds to the BASE of a descriptor register, mod 2^40. -/
  | dadd (c : LCell) (m : Meet)
  /-- BR (R171). Branches when its condition holds. -/
  | br (c : LCell) (m : Meet)
  /-- LOOP (R171). Repeats a body a register-given number of times, pushing a loop level. -/
  | loop (c : LCell) (m : Meet)
  /-- RDINFO (R171). Reads a cell information item into a scalar register. -/
  | rdinfo (c : LCell) (m : Meet)
  /-- FENCE (R171). Waits until every issued operation of the named units has completed. -/
  | fence (c : LCell) (m : Meet)
  /-- TRAP (R171). Raises FLT_TRAP with an immediate detail. -/
  | trap (c : LCell) (m : Meet)
  /-- DQPUSH (R359). Appends an entry to the cell's deferred lane, or raises FLT_DEFER_FULL. -/
  | dqpush (c : LCell) (m : Meet)
  /-- DQPOP (R360). In a FILLABLE frame, pops the head deferred entry and branches to it when its cost fits the
  fill limit. -/
  | dqpop (c : LCell) (m : Meet)
  /-- BTEST (R359). Tests whether a bell's count has reached a target without changing it. -/
  | btest (c : LCell) (m : Meet)
  /-- MPASS (R176). Issues a matrix pass into the matrix queue, checking shape, format and descriptors. -/
  | mpass (c : LCell) (m : Meet)
  /-- WEIGHT_LOAD_START (R129). A pass's weight load into the standby registers begins once the previous pass's
  weights are active. -/
  | weightLoadStart (c : LCell) (idx : BitVec 2) (h : Hit)
  /-- PASS_FEED_START (R130). A pass begins feeding at the first cycle meeting every condition of R130. -/
  | passFeedStart (c : LCell) (idx : BitVec 2) (h : Hit)
  /-- ACCUMULATOR_WRITE (R125). A vector's sums are accumulated and written at F_m + L_A, and check mode decides
  the vector. -/
  | accumulatorWrite (c : LCell) (idx : BitVec 8) (h : Hit) (u : Option Upset)
  /-- FINISHED_TILE_ENTRY (R143). A FINISH pass places its entry in the finished-tile queue at F_last + L_A + 2. -/
  | finishedTileEntry (c : LCell)
  /-- MOVE (R183). Issues a tile copy between spaces. -/
  | move (c : LCell) (m : Meet)
  /-- RDEF (R186). Defines or undefines a ring in the consumer's cell store. -/
  | rdef (c : LCell) (m : Meet)
  /-- RCONN (R187). Binds a producer handle to a consumer ring and collects its credits. -/
  | rconn (c : LCell) (m : Meet)
  /-- RPUSH (R188). Copies a tile into the next slot of a bound ring, taking one credit. -/
  | rpush (c : LCell) (m : Meet)
  /-- RWAIT (R189). Waits for a filled, unreturned slot and writes its address to a register. -/
  | rwait (c : LCell) (m : Meet)
  /-- RFREE (R189). Releases the oldest returned slot and sends a credit to the producer. -/
  | rfree (c : LCell) (m : Meet)
  /-- IMLOAD (R185). Writes a segment of the active program image into the cell's instruction memory. -/
  | imload (c : LCell) (m : Meet)
  /-- MOVE_START (R184). The move engine starts a queued move-class operation and raises its start-time faults. -/
  | moveStart (c : LCell) (h : Hit) (lh : LineHit) (e : NetErr)
  /-- MOVE_COMPLETE (R184). A move completes when its destination acknowledges the last byte, and posts its bell if
  POST is set. -/
  | moveComplete (c : LCell) (idx : BitVec 2) (lh : LineHit) (e : NetErr)
  /-- RING_SLOT_FILL (R188). A pushed slot is filled when its last byte is written, and a pending RWAIT may return
  it. -/
  | ringSlotFill (c : LCell) (idx : BitVec 2)
  /-- CREDIT_RETURN (R614). A ring credit reaches the producer's handle, ending an RPUSH stall or completing RCONN. -/
  | creditReturn (c : LCell) (idx : BitVec 2)
  /-- ATOM_ADD (R282). Atomic add at the Square. -/
  | atomAdd (c : LCell) (m : Meet)
  /-- ATOM_MIN (R282). Atomic minimum at the Square. -/
  | atomMin (c : LCell) (m : Meet)
  /-- ATOM_MAX (R282). Atomic maximum at the Square. -/
  | atomMax (c : LCell) (m : Meet)
  /-- ATOM_SWAP (R282). Atomic swap at the Square. -/
  | atomSwap (c : LCell) (m : Meet)
  /-- ATOM_CAS (R280). Atomic compare-and-swap at the Square, returning old values. -/
  | atomCas (c : LCell) (m : Meet)
  /-- ATOM_VADD (R280). Atomic 128-byte vector add per destination row. -/
  | atomVadd (c : LCell) (m : Meet)
  /-- ATOMIC_APPLY (R281). An atomic element or row, or a gate reduction, is applied indivisibly at the Square on
  arrival. -/
  | atomicApply (c : LCell) (idx : BitVec 2) (e : Ecc)
  /-- GATHER (R350). Issues a gather of shards of a tensor into a block store or scratch unit. -/
  | gather (c : LCell) (m : Meet)
  /-- GATHER_APPLY (R352). A gather arriving at the residency table fetches, keeps, reuses or refetches each shard
  and compares epoch tags. -/
  | gatherApply (c : LCell) (idx : BitVec 2) (lh : LineHit)
  /-- RSCAT (R432). Reduce-scatter: each shard's owner receives the sum of the members' contributions in its GRAD
  slot. -/
  | rscat (c : LCell) (m : Meet)
  /-- REDUCE (R432). The root receives the elementwise sum of every member's tile. -/
  | reduce (c : LCell) (m : Meet)
  /-- ALLGATH (R432). Every member receives every member's tile in member order. -/
  | allgath (c : LCell) (m : Meet)
  /-- POST (R300). Issues an add of n to a bell. -/
  | post (c : LCell) (m : Meet)
  /-- WAIT (R300). Issues a wait until a bell's count reaches a target, blocking the sequencer. -/
  | wait (c : LCell) (m : Meet)
  /-- TAKE (R300). Issues a semaphore take on a bell, blocking the sequencer. -/
  | take (c : LCell) (m : Meet)
  /-- ARRIVE (R311). Marks the cell's arrival at a bell line and may complete the phase. -/
  | arrive (c : LCell) (m : Meet)
  /-- LWAIT (R311). Waits for the cell's latch of a bell line and clears it. -/
  | lwait (c : LCell) (m : Meet)
  /-- BELL_OP_APPLY (R300). The bell store applies an arriving bell operation whole, releasing waiters as reached. -/
  | bellOpApply (idx : BitVec 16) (e : Ecc)
  /-- BELL_RELEASE (R303). A release reaches a waiting cell, which resumes issue, reclaiming a lent power share if
  gated. -/
  | bellRelease (idx : BitVec 16)
  /-- WAIT_TIMEOUT (R306). A wait's timeout expires and the cell sends a cancel to the bell store or line. -/
  | waitTimeout (c : LCell)
  /-- CANCEL_APPLY (R306). A cancel is applied: ignored if already released, otherwise the waiter is removed and
  FLT_BELL_TIMEOUT is raised. -/
  | cancelApply (idx : BitVec 16)
  /-- LINE_LATCH (R312). 120 cycles after a line completes, the participants' latches are set and waiting cells
  resume. -/
  | lineLatch (l : BitVec 5)
  /-- ARRIVED (R313). A line message from another member is placed in PEERS or PEERS_NEXT, possibly completing the
  line. -/
  | arrived (idx : BitVec 16)
  /-- CELL_LEND (R308). A wait pending for LEND_THRESH with no operation in flight gates the cell and lends its
  power share. -/
  | cellLend (c : LCell)
  /-- VMOV (R214). Vector copy, bit for bit. -/
  | vmov (c : LCell) (m : Meet)
  /-- NEG (R214). Vector sign inversion. -/
  | neg (c : LCell) (m : Meet)
  /-- ABS (R214). Vector absolute value. -/
  | abs (c : LCell) (m : Meet)
  /-- CSGN (R214). Vector copy-sign. -/
  | csgn (c : LCell) (m : Meet)
  /-- VEC_AND (R214). Vector bitwise and. -/
  | vecAnd (c : LCell) (m : Meet)
  /-- VEC_OR (R214). Vector bitwise or. -/
  | vecOr (c : LCell) (m : Meet)
  /-- VEC_XOR (R214). Vector bitwise exclusive or. -/
  | vecXor (c : LCell) (m : Meet)
  /-- SEL (R214). Vector select by mask. -/
  | sel (c : LCell) (m : Meet)
  /-- VEC_ADD (R214). Vector addition, RNE. -/
  | vecAdd (c : LCell) (m : Meet)
  /-- VEC_SUB (R214). Vector subtraction, RNE. -/
  | vecSub (c : LCell) (m : Meet)
  /-- VEC_MUL (R214). Vector multiplication, RNE. -/
  | vecMul (c : LCell) (m : Meet)
  /-- FMA (R214). Vector fused multiply-add with one rounding. -/
  | fma (c : LCell) (m : Meet)
  /-- MAX (R105). Vector maximum. -/
  | vecMax (c : LCell) (m : Meet)
  /-- MIN (R105). Vector minimum. -/
  | vecMin (c : LCell) (m : Meet)
  /-- CMP (R215). Vector comparison writing 1.0 or +0. -/
  | cmp (c : LCell) (m : Meet)
  /-- DIV (R214). Vector division, correctly rounded. -/
  | div (c : LCell) (m : Meet)
  /-- SQRT (R217). Vector square root. -/
  | sqrt (c : LCell) (m : Meet)
  /-- RSQRT (R217). Vector reciprocal square root. -/
  | rsqrt (c : LCell) (m : Meet)
  /-- RCP (R217). Vector reciprocal. -/
  | rcp (c : LCell) (m : Meet)
  /-- EXP2 (R217). Vector base-2 exponential. -/
  | exp2 (c : LCell) (m : Meet)
  /-- LOG2 (R217). Vector base-2 logarithm. -/
  | log2 (c : LCell) (m : Meet)
  /-- TANH (R217). Vector hyperbolic tangent. -/
  | tanh (c : LCell) (m : Meet)
  /-- RRED (R219). Row reduction in the fixed tree order. -/
  | rred (c : LCell) (m : Meet)
  /-- CRED (R219). Column reduction in row order. -/
  | cred (c : LCell) (m : Meet)
  /-- TRANS (R221). Vector transpose, bit for bit. -/
  | trans (c : LCell) (m : Meet)
  /-- CVT (R222). Format conversion with a rounding and overflow mode, computing block scales where needed. -/
  | cvt (c : LCell) (m : Meet)
  /-- RAND (R224). Writes uniform generator draws. -/
  | rand (c : LCell) (m : Meet)
  /-- DROP (R225). Applies a regenerated drop-out mask and scale. -/
  | drop (c : LCell) (m : Meet)
  /-- VENQ (R226). Places an entry from a register in the finished-tile queue. -/
  | venq (c : LCell) (m : Meet)
  /-- ADROP (R227). Removes the head finished-tile entry without reading it. -/
  | adrop (c : LCell) (m : Meet)
  /-- VEC_START (R228). The vector engine starts a queued instruction once its operands, entry or queue room are
  ready, raising its start-time faults. -/
  | vecStart (c : LCell) (h : Hit)
  /-- CELL_SCRUB (R158). Each cell patrol-scrubs one store line every SCRUB_INT × 1,024 cycles. -/
  | cellScrub (p : BitVec 13) (h : Hit)
  /-- RING_NAK (R249). A ring-road or spoke receiver finding a bad CRC or sequence gap sends a negative
  acknowledgement. -/
  | ringNak (link : BitVec 3) (dir : Bool) (again : Bool)
  /-- RING_REPLAY (R249). The sender replays from the named flit, and declares the link down after the limits of
  R250. -/
  | ringReplay (link : BitVec 3) (dir : Bool) (e : NetErr)
  /-- REFRESH (R271). Per-bank refresh visits each bank every 3.9 µs, or 1.95 µs when hot. -/
  | refresh (stack : BitVec 3) (pc : BitVec 6) (bank : BitVec 6)
  /-- HBM_PATROL_SCRUB (R286). Patrol scrub reads and corrects lines of a stack within the maintenance schedule. -/
  | hbmPatrolScrub (stack : BitVec 3) (e : Ecc)
  /-- REPAIR_COPY_DONE (R290). A row's repair copy finishes and the remap slot serves the row. -/
  | repairCopyDone (stack : BitVec 3) (la : BitVec 37)
  /-- HPPR_CONVERSION (R291). When the stack is idle, a remapped row is converted to hPPR and its slot released. -/
  | hpprConversion (stack : BitVec 3) (la : BitVec 37) (ok : Bool)
  /-- FRAME_RETIRE (R292). A retiring frame is retired once no resident context maps it. -/
  | frameRetire (stack : BitVec 3) (la : BitVec 37)
  /-- SQUARE_CLEAR_DONE (R274). A Square unit that changed owner or mode finishes clearing. -/
  | squareClearDone (die : BitVec 3) (unit : BitVec 4)
  /-- MEM_MARGIN_DONE (R295). A margining run ends, restores rows and reports results. -/
  | memMarginDone (stack : BitVec 3) (lows highs : BitVec 512)
  /-- MEM_ECC_DONE (R285). An ECC mode change finishes zeroing job space and replies. -/
  | memEccDone
  /-- PARK_SAVE_DONE (R328). A park's save is complete in HBM and the park reply is sent. -/
  | parkSaveDone (ctx : BitVec 14) (hit : Option SaveHit)
  /-- UNPARK_PREP_DONE (R333). Unpark preparation completes: translation, line table and state restored. -/
  | unparkPrepDone (ctx : BitVec 14) (h : LineHit)
  /-- SNAPSHOT_STAGE_END (R343). Staging ends and shipping of the snapshot begins. -/
  | snapshotStageEnd (ctx : BitVec 14) (h : LineHit)
  /-- SNAPSHOT_SHIP_DONE (R343). The last shipped byte is acknowledged and the snapshot reply is sent. -/
  | snapshotShipDone (ctx : BitVec 14)
  /-- RESHARD_DONE (R369). Every received shard has been written and the RESHARD reply is sent. -/
  | reshardDone (ctx : BitVec 14) (received : List Byte) (served : BitVec 64) (fails : Bool) (h : LineHit)
  /-- MILL_PASS_A_DONE (R384). Pass A ends on every Mill and the device sends NORMS. -/
  | millPassADone (ctx : BitVec 14) (h : LineHit)
  /-- MILL_PASS_B_DONE (R384). Pass B ends; the parity refresh runs on a refresh step and DONE is then sent. -/
  | millPassBDone (ctx : BitVec 14) (h : LineHit)
  /-- MILL_FUSED_DONE (R389). A fused pass ends on every Mill and the flip follows at the next boundary. -/
  | millFusedDone (ctx : BitVec 14) (h : LineHit)
  /-- NORMS (R384). Group member 0 sums received norms in member order and sends NORMS_SUM. -/
  | norms (idx : BitVec 16)
  /-- NORMS_SUM (R384). A member writes GR, DR and WR and sends VOTE. -/
  | normsSum (idx : BitVec 16)
  /-- VOTE (R384). The commit leader collects votes and sends VOTE_SUM with GTOT and DECISION, or ABORT. -/
  | vote (idx : BitVec 16)
  /-- VOTE_SUM (R384). A member forms k and starts pass B on DECISION 1. -/
  | voteSum (idx : BitVec 16)
  /-- DONE (R386). The leader collects DONE messages and sends COMMIT once every member reports OK. -/
  | doneMsg (idx : BitVec 16)
  /-- COMMIT (R386). A member records COMMIT for the flip at the closing boundary. -/
  | commitMsg (idx : BitVec 16)
  /-- ABORT (R386). A member records ABORT and closes the window without a flip. -/
  | abortMsg (idx : BitVec 16)
  /-- UPDATE_DEADLINE (R386). At E − NOTICE with a VOTE or DONE missing, the leader sends ABORT. -/
  | updateDeadline (ctx : BitVec 14)
  /-- FETCH (R437). An owner's gate serves a shard request from the context holding the KEY, or refuses it. -/
  | fetch (idx : BitVec 16) (lh : LineHit)
  /-- SHARD (R439). A gathering gate receives a chunk of a shard and checks the whole shard's CRC. -/
  | shard (idx : BitVec 16)
  /-- PULL (R437). A member's gate serves one chunk of its contribution or tile. -/
  | pull (idx : BitVec 16)
  /-- PART (R434). A reducer or gatherer receives a chunk of a contribution or tile and reduces or places it. -/
  | partMsg (idx : BitVec 16)
  /-- DONE_ACK (R433). A member learns that its contribution has been applied or placed. -/
  | doneAck (idx : BitVec 16)
  /-- COLL_REFUSE (R437). A refused request raises FLT_SHARD_OWNER or FLT_COLL at the requester. -/
  | collRefuse (idx : BitVec 16)
  /-- COLL_TIMEOUT (R441). A gate operation reaching COLL_TIMEOUT raises FLT_COLL_TIMEOUT. -/
  | collTimeout (idx : BitVec 16)
  /-- JOB_FAULT (R443). A received JOB_FAULT matching C_KEY and epoch discards the context's work with
  FLT_JOB_FAULT. -/
  | jobFault (idx : BitVec 16)
  /-- PIECE (R449). A parity holder applies a chunk of a data piece to its parity. -/
  | piece (idx : BitVec 16)
  /-- PIECE_ACK (R449). A member learns its piece has been applied, towards sending DONE. -/
  | pieceAck (idx : BitVec 16)
  /-- PIECE_REQ (R453). A survivor answers a rebuild request from area CCB or buffer CB. -/
  | pieceReq (idx : BitVec 16) (lh : LineHit)
  /-- SYMBOL (R453). A rebuilding target receives a chunk of a symbol and decodes its stripe. -/
  | symbol (idx : BitVec 16)
  /-- PAR_REFUSE (R438). A refused coded-state request ends a refresh or rebuild as its cause gives. -/
  | parRefuse (idx : BitVec 16)
  /-- CODE_REBUILD_DONE (R453). A target has decoded every stripe, written its image and parities and sets CSTEP
  and VALID. -/
  | codeRebuildDone (ctx : BitVec 14)
  /-- CODE_REFRESH_DONE (R450). A refresh outside a step has completed area 1 − CCB and replies. -/
  | codeRefreshDone (ctx : BitVec 14)
  /-- DATA_FLIT (R408). A receiver accepts, discards with NAK, or drops a duplicate DATA flit, delivering or
  forwarding its message. -/
  | dataFlit (port : BitVec 5) (raw : BitVec 2048) (rs : Bool)
  /-- IDLE_FLIT (R403). An IDLE flit delivers ACK and credits. -/
  | idleFlit (port : BitVec 5) (raw : BitVec 2048) (rs : Bool)
  /-- NAK_FLIT (R409). A NAK opens or advances a retry episode and replays from the oldest unacknowledged flit. -/
  | nakFlit (port : BitVec 5) (raw : BitVec 2048) (rs : Bool)
  /-- ACK_TIMEOUT (R409). No ACK advance within RTT + 1 µs opens or advances a retry episode. -/
  | ackTimeout (port : BitVec 5)
  /-- LLR_WINDOW_EXPIRY (R409). A retry episode open for LLR_WINDOW declares the port down. -/
  | llrWindowExpiry (port : BitVec 5)
  /-- BULK_DATA (R406). A BULK DATA message delivers transfer bytes at an offset. -/
  | bulkData (idx : BitVec 16)
  /-- BULK_ACK (R406). A BULK ACK reports the offset received for a transfer. -/
  | bulkAck (idx : BitVec 16)
  /-- LANE_FAIL (R400). A receiving lane loses light, lock or exceeds LANE_FAIL in Reach mode, and sparing or
  port-down follows. -/
  | laneFail (engine : BitVec 3) (lane : BitVec 5) (all : Bool)
  /-- SPARE_REQ (R401). A far transmitter answers a spare request with SPARE_ACK for beat AT. -/
  | spareReq (idx : BitVec 16)
  /-- SPARE_ACK (R401). The receiver records acceptance so both ends switch the lane at beat AT. -/
  | spareAck (idx : BitVec 16)
  /-- BER_WINDOW_END (R399). At the end of each 64-beat window lane error ratios are taken and FEC mode changes are
  decided. -/
  | berWindowEnd (engine : BitVec 3) (ber : BitVec 544) (eye : BitVec 272) (ce : BitVec 544) (ue : BitVec 544)
  /-- TRAINING_FRAME (R423). A port takes a training frame, adapting, checking identity and finding coding start. -/
  | trainingFrame (port : BitVec 5) (lane : BitVec 5) (raw : BitVec 2048)
  /-- TRAINING_PHASE_TIMEOUT (R422). A training phase exceeding its bound ends training with STATE 3. -/
  | trainingPhaseTimeout (port : BitVec 5)
  /-- HELLO (R424). A port takes the far end's capabilities and delays and starts credits and sequences. -/
  | hello (idx : BitVec 16)
  /-- ECHO_INTERVAL (R424). Every 64 beats a port sends ECHO. -/
  | echoInterval (port : BitVec 5)
  /-- ECHO (R424). A port answers ECHO with ECHO_REPLY and its turnaround. -/
  | echo (idx : BitVec 16) (turn : BitVec 32)
  /-- ECHO_REPLY (R424). A port measures RTT and asymmetry and checks R410. -/
  | echoReply (idx : BitVec 16)
  /-- UNREACH (R420). An origin learns that its message could not leave an intermediate device. -/
  | unreach (idx : BitVec 16)
  /-- NORMAL_TAIL (R462). A doorbell publishes a normal submission ring tail. -/
  | normalTail (ctx : BitVec 14) (tail : BitVec 32)
  /-- URGENT_TAIL (R464). A doorbell publishes an urgent submission ring tail. -/
  | urgentTail (ctx : BitVec 14) (tail : BitVec 32)
  /-- COMPLETION_HEAD (R463). A doorbell publishes the completion ring head, freeing room for replies. -/
  | completionHead (ctx : BitVec 14) (head : BitVec 32)
  /-- REPLY_POST (R463). A held reply is written into the completion ring once it has room and the tail advances. -/
  | replyPost (ctx : BitVec 14)
  /-- MGMT_DATAGRAM (R473). The management port takes a packet that carries no command to accept, answering ICMPv6
  or dropping and counting it. -/
  | mgmtDatagram (p : MgmtPacket)
  /-- XFER_RESEND (R475). After 1 s without progress the device resends output from the acknowledged offset. -/
  | xferResend (num : BitVec 32) (tag : BitVec 32)
  /-- XFER_TIMEOUT (R475). After 10 s without progress a transfer ends with ST_XFER_TIMEOUT. -/
  | xferTimeout (num : BitVec 32) (tag : BitVec 32)
  /-- SESSION_IDLE_EXPIRY (R472). A session closes after MGMT_CTL.IDLE seconds without an accepted datagram. -/
  | sessionIdleExpiry (num : BitVec 32)
  /-- SESSION_LIFETIME_EXPIRY (R472). A session closes when its ticket LIFETIME has passed. -/
  | sessionLifetimeExpiry (num : BitVec 32)
  /-- CTX_CREATE (R322). Creates a PARKED context from a descriptor image. -/
  | ctxCreate (r : Route) (h : LineHit)
  /-- CTX_PARK (R326). Schedules a park at a boundary, or moves a PARKED context to STORED. -/
  | ctxPark (r : Route)
  /-- CTX_UNPARK (R332). Starts preparation to unpark a parked or stored context. -/
  | ctxUnpark (r : Route)
  /-- CTX_RESIZE (R335). Discards a parked context's saved cell state and sets RESUME to 0xFFFF. -/
  | ctxResize (r : Route)
  /-- CTX_DESTROY (R336). Frees a parked or stored context that holds no block or unit. -/
  | ctxDestroy (r : Route)
  /-- CTX_QUERY (R320). Returns a context descriptor. -/
  | ctxQuery (r : Route)
  /-- RING_SET (R461). Installs or removes a context's command ring set. -/
  | ringSet (r : Route)
  /-- GRANARY_SWAP (R340). Requests exchange of the granary window and alias at a step boundary. -/
  | granarySwap (r : Route)
  /-- CFG_WRITE (R480). Records a shadow configuration set of the named scope. -/
  | cfgWrite (r : Route) (h : LineHit)
  /-- CFG_SWAP (R77). Validates a shadow set and schedules its swap. -/
  | cfgSwap (r : Route) (h : LineHit)
  /-- BEAT_SET (R67). Changes beat length, stretch, notice and adaptation settings. -/
  | beatSet (r : Route)
  /-- BEAT_JOIN (R74). Sets the device's beat group role, parent and pacing context. -/
  | beatJoin (r : Route)
  /-- STEP (R481). Starts or queues a step of the context's plan, optionally with an update. -/
  | stepCmd (r : Route) (h : LineHit)
  /-- STEP_RESOLVE (R387). Settles an update in doubt by FORWARD, BACK or DISCARD. -/
  | stepResolve (r : Route)
  /-- RESHARD (R367). Moves committed state from the active shard layout to the shadow layout. -/
  | reshard (r : Route) (h : LineHit)
  /-- MILL_FUSED (R389). Runs one fused REFRESH or APPLY pass on every Mill. -/
  | millFused (r : Route) (h : LineHit)
  /-- MEM_MAP (R266). Loads or checks translation entries for a range of context pages. -/
  | memMap (r : Route) (h : LineHit)
  /-- MEM_ECC (R285). Changes the HBM ECC mode and zeroes job space. -/
  | memEcc (r : Route)
  /-- MEM_READ (R482). Reads bytes from any physical address. -/
  | memRead (r : Route) (h : LineHit)
  /-- MEM_WRITE (R482). Writes bytes to any physical address. -/
  | memWrite (r : Route) (h : LineHit)
  /-- LNK_CONFIG (R480). Sets link retry, hop, FEC and timeout settings. -/
  | lnkConfig (r : Route)
  /-- LNK_FEC (R399). Fixes or releases the FEC mode of a port. -/
  | lnkFec (r : Route)
  /-- LNK_SPARE (R482). Switches a lane onto the engine's spare or releases it. -/
  | lnkSpare (r : Route)
  /-- CODE_SET (R445). Installs a context's coding descriptor. -/
  | codeSet (r : Route) (h : LineHit)
  /-- CODE_REFRESH (R450). Refreshes coded state from the committed buffer outside a step. -/
  | codeRefresh (r : Route) (h : LineHit)
  /-- CODE_COMMIT (R450). Flips the committed coded area at a boundary. -/
  | codeCommit (r : Route)
  /-- CODE_REBUILD (R452). Rebuilds lost coding group members as survivor or target. -/
  | codeRebuild (r : Route) (h : LineHit)
  /-- SNAPSHOT (R341). Copies committed parameter extents to staging and ships them. -/
  | snapshot (r : Route) (h : LineHit)
  /-- MUSTER_RUN (R575). Runs logic, memory and repair self-test on a scope. -/
  | musterRun (r : Route)
  /-- MUSTER_RUN_DONE (R583). A self-test run ends, applies repairs and returns passing units to service. -/
  | musterRunDone (r : MusterResult)
  /-- MEM_MARGIN (R294). Margins pseudo-channels of one stack on one parameter. -/
  | memMargin (r : Route)
  /-- LNK_MARGIN (R425). Margins one receive lane using the spare. -/
  | lnkMargin (r : Route)
  /-- LNK_MARGIN_DONE (R425). A lane margining run ends and traffic returns to the lane. -/
  | lnkMarginDone (engine : BitVec 3) (phLow phHigh vLow vHigh : BitVec 8)
  /-- REPORT_GET (R527). Produces a signed Tally report of the requested kind. -/
  | reportGet (r : Route)
  /-- PWR_CAP (R565). Sets the device power cap. -/
  | pwrCap (r : Route)
  /-- PWR_SHARE (R566). Replaces a context's power share weight. -/
  | pwrShare (r : Route)
  /-- SESSION_HELLO (R471). Starts a half-open management session and returns a device nonce. -/
  | sessionHello (r : Route)
  /-- SESSION_OPEN (R472). Opens a session by verifying a ticket and the session key. -/
  | sessionOpen (r : Route)
  /-- SESSION_CLOSE (R472). Closes the session. -/
  | sessionClose (r : Route)
  /-- FW_WRITE (R550). Programs bytes into the shadow firmware image slot. -/
  | fwWrite (r : Route) (h : LineHit)
  /-- FW_ACTIVATE (R551). Checks the shadow image and makes it ACTIVE in trial. -/
  | fwActivate (r : Route)
  /-- ATTEST_QUOTE (R554). Returns a signed quote of the measurement chain. -/
  | attestQuote (r : Route)
  /-- TICKET_FLOOR (R483). Raises the TICKET_ID floor of a key slot. -/
  | ticketFloor (r : Route)
  /-- XFER_ACK (R475). Acknowledges output received over the management port. -/
  | xferAck (r : Route)
  /-- STOP (R484). Stops the named or every context at the next guard point, ending steps with ST_STOPPED. -/
  | stop (r : Route)
  /-- FENCE_CELL (R485). Fences the physical cell holding a logical number at the next boundary. -/
  | fenceCell (r : Route)
  /-- QUARANTINE (R485). Takes a scope out of service at the next boundary. -/
  | quarantine (r : Route)
  /-- BEAT_CTL_WRITE (R84). A write of BEAT_CTL changes beat settings at the next boundary, or propagates by
  LEN_SET on a leader. -/
  | beatCtlWrite (core : Fin 36) (part : RegPart) (v : Word)
  /-- MGMT_CONFIG_WRITE (R488). A write to MGMT_CTL or an address register changes the port settings and closes
  every session. -/
  | mgmtConfigWrite (core : Fin 36) (reg : BitVec 2) (part : RegPart) (v : Word)
  /-- CKPT_NOW (R524). Writing CKPT_NOW starts a Tally checkpoint. -/
  | ckptNow (core : Fin 36) (wide : Bool) (v : Word)
  /-- BOOT_COMMIT (R556). Writing COMMIT builds and programs a new owner record from the staged items. -/
  | bootCommit (core : Fin 36)
  /-- BOOT_RELEASE (R556). Writing RELEASE erases the owner record, leaving the part unclaimed. -/
  | bootRelease (core : Fin 36)
  /-- BOOT_OWN_DATA (R556). A write to BOOT_OWN_DATA stages bytes of the selected owner record item. -/
  | bootOwnData (core : Fin 36) (idx : BitVec 2) (part : RegPart) (v : Word)
  /-- OWNER_RECORD_WRITTEN (R540). The new owner record copy is programmed; BUSY clears and every session closes. -/
  | ownerRecordWritten
  /-- REGISTER_WRITE (R7). A write to a register with no row of its own sets its fields, or is refused and recorded
  as FLT_REG_ACCESS. -/
  | registerWrite (core : Fin 36) (addr : BitVec 40) (n : BitVec 6) (v : BitVec 512)
  /-- SENSE_PERIOD_END (R518). At each sense period end, temperature bands, maxima and pending control changes are
  applied. -/
  | sensePeriodEnd
  /-- DIE_TEMP_READ (R517). The Tally reads a die temperature over the sense bus. -/
  | dieTempRead (die : BitVec 5) (temp : Int)
  /-- SENSE_READ_SKIP (R517). A read finding no bus slot within 1 ms of its due time is skipped and counted. -/
  | senseReadSkip (osc : Bool) (unit : BitVec 6)
  /-- DROOP_EVENT (R519). A clock domain's supply falls below the droop threshold for 2 ns and the event is
  counted. -/
  | droopEvent (domain : BitVec 6)
  /-- AGE_READ (R520). Every AGE_HOURS the aging oscillators are read and AGE_PPM updated. -/
  | ageRead (unit : BitVec 6) (hz : Nat)
  /-- CHECKPOINT (R524). Every CKPT_MIN minutes the Tally writes a checkpoint of every entry. -/
  | checkpoint
  /-- LOG_PROGRAM (R523). A queued log record is programmed into the flash log. -/
  | logProgram
  /-- POWER_INTERVAL (R567). Every 10 µs the power manager forms budgets and shares, adjusts pacing levels and
  divides energy. -/
  | powerInterval (m : PowerReading)
  /-- ENV_SENSOR_SAMPLE (R561). The power manager samples an environment sensor and raises a Safe-Hold fault after
  its filter. -/
  | envSensorSample (sensor : BitVec 2) (value : Int)
  /-- REFCLOCK_LOSS (R561). No reference edge for 1 µs raises FLT_ENV_CLOCK at once. -/
  | refclockLoss
  /-- THERMTRIP (R563). A die passes its trip temperature, asserting THERMTRIP_N and raising FLT_THERMTRIP. -/
  | thermtrip (die : BitVec 5)
  /-- PLL_LOCK_LOSS (R571). A domain's PLL loses lock, the domain stops and FLT_POWER_MANAGER is raised. -/
  | pllLockLoss (domain : BitVec 6)
  /-- INPUT_QUALIFIED (R558). After the input stands in range for 10 ms the rails are brought up in order and PWRGD
  rises. -/
  | inputQualified
  /-- INPUT_PROTECT (R560). An input below 38 V or above 63 V turns every rail off in reverse order. -/
  | inputProtect
  /-- PERST_N_ASSERT (R559). Assertion of PERST_N resets the device with the rails kept up. -/
  | perstNAssert
  /-- RESET_RELEASE (R559). At the last of PWRGD, a stable reference clock and PERST_N deassertion, reset is
  released and straps are sampled. -/
  | resetRelease (straps : BitVec 4)
  /-- BOOT_STAGE (R546). Each boot stage runs in order when the previous ends, through Ozmin start. -/
  | bootStage (fails : BitVec 8) (torn : Option Nat)
  /-- OZMIN_RESTART (R552). Ozmin restarts, running boot stages 7 and 8 only. -/
  | ozminRestart
  /-- FLT_HALL_FW (R490). An uncorrectable Hall firmware error faults every resident context and restarts Ozmin. -/
  | fltHallFw
  /-- TRIAL_CONFIRM (R553). A trial image running 60 s without FLT_HALL_FW is confirmed and FLOOR is raised. -/
  | trialConfirm
  /-- EXTEST (R586). TAP instruction driving the boundary scan, accepted only while PERST_N is asserted. -/
  | extest
  /-- SAMPLE_PRELOAD (R586). TAP instruction sampling the boundary scan. -/
  | samplePreload
  /-- IDCODE (R606). TAP instruction returning the 32-bit identification code. -/
  | idcode
  /-- BYPASS (R606). TAP instruction selecting the one-bit bypass register. -/
  | bypass
  /-- JTAG_CLAIM (R587). TAP instruction requesting debug ownership for JTAG. -/
  | jtagClaim
  /-- MUSTER (R587). TAP instruction running a self-test from a payload and returning the reply words. -/
  | musterTap (payload : Word) (r : MusterResult)
  /-- REGACC (R606). TAP instruction reading or writing a register address. -/
  | regacc (addr : BitVec 40) (v : Word) (write : Bool)
  /-- TEST_LOGIC_RESET (R587). Entry to Test-Logic-Reset releases JTAG debug ownership. -/
  | testLogicReset
  /-- I3C_CLAIM (R587). I3C private command claiming or releasing debug ownership. -/
  | i3cClaim (v : BitVec 8)
  /-- SETADDR (R607). I3C private command setting the register address. -/
  | setaddr (addr : BitVec 40)
  /-- I3C_READ (R607). I3C private command reading 8 bytes and advancing the address. -/
  | i3cRead
  /-- I3C_WRITE (R607). I3C private command writing 8 bytes and advancing the address. -/
  | i3cWrite (v : Word)
  /-- I3C_BUS_RESET (R587). An I3C bus reset releases I3C debug ownership. -/
  | i3cBusReset
  /-- ENTDAA (R607). I3C CCC for dynamic address assignment. -/
  | entdaa (addr : BitVec 7)
  /-- SETDASA (R607). I3C CCC setting the dynamic address from the static address. -/
  | setdasa (static addr : BitVec 7)
  /-- RSTDAA (R607). I3C CCC resetting the dynamic address. -/
  | rstdaa
  /-- GETPID (R607). I3C CCC returning the provisioned identifier. -/
  | getpid
  /-- GETBCR (R607). I3C CCC returning the bus characteristics register. -/
  | getbcr
  /-- GETDCR (R607). I3C CCC returning the device characteristics register. -/
  | getdcr
  /-- GETSTATUS (R607). I3C CCC returning target status. -/
  | getstatus
  /-- ENEC (R607). I3C CCC enabling events. -/
  | enec (events : BitVec 8)
  /-- DISEC (R607). I3C CCC disabling events. -/
  | disec (events : BitVec 8)
  /-- RSTACT (R607). I3C CCC setting the target reset action. -/
  | rstact (action : BitVec 8)
  /-- SYNC_START (R303). The sync unit starts the operation at the head of its queue and it leaves 2 cycles later,
  raising its start-time faults such as FLT_BELL_ACCESS. -/
  | syncStart (c : LCell)
  /-- FLT_CELL_INTERNAL (R490). A parity or state check in a sequencer, unit queue or sync unit fails and the cell
  is fenced at the discard boundary. -/
  | fltCellInternal (c : LCell)
  /-- FLT_GATE_INTERNAL (R490). An internal check in a gate, its hub or its reduce buffer fails, faulting every
  context in the region and barring new partitions there. -/
  | fltGateInternal (region : BitVec 2)
  /-- FLT_BEAT_MASTER (R490). A beat master check fails, faulting every resident context and barring unparks until
  a Hall MUSTER_RUN passes. -/
  | fltBeatMaster
  /-- FLT_POWER_MANAGER (R490). A power manager check fails, faulting every resident context and barring unparks
  until a Hall MUSTER_RUN passes. -/
  | fltPowerManager
  /-- HALL_ACCESS (R253). A Hall core loads or stores to job space, the carve-out, a Square window, a reserved
  range or a register page, with mirroring, poison and FLT_CARVEOUT_UE, RESERVED_ACCESS counting, or FLT_REG_ACCESS for a bad size. -/
  | hallAccess (core : Fin 36) (addr : BitVec 40) (op : HallOp) (h : LineHit)
  /-- MGMT_LINK_UP (R601). The management Ethernet lane completes clause 73 auto-negotiation and comes up, or loses
  its link, setting MGMT_STAT.LINK_UP and SPEED. -/
  | mgmtLinkUp (speed : BitVec 2)
  /-- IMAGE_PROGRAMMING_DONE (R550). Flash programming of a FW_WRITE's bytes into the shadow image slot finishes,
  after any suspensions for Tally appends, and its reply is sent. -/
  | imageProgrammingDone
  deriving DecidableEq, Repr

end Sys2Proof
end

