-- ==== Sys2Proof/Decode.lean ====
section
/-! DEFINITION. Words of the table of operations: no row of it gives bits, so no word spells a command. -/

namespace Sys2Proof

/-- The command that a word of the table spells: the table gives no row any bits. -/
def decodeTableWord (_nbits _w : Nat) : Option Instr := none

end Sys2Proof
end

