-- ==== Sys2Proof/Config.lean ====
section
/-! DEFINITION. What an implementation fixes and the spec leaves open: functions without a body, so that no proof can
know a value of theirs. -/

namespace Sys2Proof.Config

/-- A free value: the n-th value that the spec does not state. State.fresh counts them. -/
opaque freeValue : Nat → Nat

/-- The result of finite overflow of a stochastic conversion in overflow mode, of which R110 names no result: by the
target's width in bits and the sign. -/
opaque srOverflow : Nat → Bool → Nat

/-- Ed25519 key generation from a 32-byte seed (RFC 8032): the public key. -/
opaque ed25519Public : List Byte → List Byte

/-- Ed25519 signing (RFC 8032): seed and message to a 64-byte signature. -/
opaque ed25519Sign : List Byte → List Byte → List Byte

/-- Ed25519 verification (RFC 8032): public key, message, signature. -/
opaque ed25519Verify : List Byte → List Byte → List Byte → Bool

/-- The 256-bit secret that the part corrects its PUF response to with the helper data (R541). -/
opaque pufSecret : List Byte → List Byte

/-- The hash held in the ROM mask (R535). -/
opaque romHash : List Byte

/-- The sign of the NaN that a NaN scale makes of an element of a given encoding, of which no rule names a sign. -/
opaque nanScaleSign : Nat → Bool

/-- The sign of an exact zero that scale-and-zero-point expansion makes of a product with a negative sign, of which R96 names
no sign: by the trailing bits of the target. -/
opaque expandZeroSign : Nat → Bool

/-- TX_DELAY and RX_DELAY that a port reports in HELLO (R424), in units of 2^-16 ns: delays of the part that the spec gives
no figure for. -/
opaque txDelay : Nat → Nat

opaque rxDelay : Nat → Nat

/-- The identifier and characteristics that the I3C target returns to GETPID, GETBCR and GETDCR (R607): constants of the part
that the spec gives no value for. -/
opaque i3cPid : Nat

opaque i3cBcr : Nat

opaque i3cDcr : Nat

end Sys2Proof.Config
end

