-- ==== Sys2Proof/Machine/Sparse.lean ====
section
/-! DEFINITION. Sparse tables in one canonical form: reading, writing, and the form itself. -/

namespace Sys2Proof.Machine

/-- The entry listed for a key, if any. -/
def sFind {α : Type} (m : Sparse α) (k : Nat) : Option α :=
  match m with
  | [] => none
  | (j, v) :: t => if j = k then some v else sFind t k

/-- What a key reads as; d is what an unlisted key reads as. -/
def sGet {α : Type} (d : α) (m : Sparse α) (k : Nat) : α := (sFind m k).getD d

/-- The table without a key. -/
def sErase {α : Type} (m : Sparse α) (k : Nat) : Sparse α := m.filter (fun e => e.1 != k)

/-- The table with an entry for a key, keys in rising order. -/
def sPut {α : Type} (m : Sparse α) (k : Nat) (v : α) : Sparse α :=
  match m with
  | [] => [(k, v)]
  | (j, w) :: t => if j < k then (j, w) :: sPut t k v else if j = k then (k, v) :: t else (k, v) :: (j, w) :: t

/-- Writing a key: the value an unlisted key reads as removes the entry. -/
def sSet {α : Type} [DecidableEq α] (d : α) (m : Sparse α) (k : Nat) (v : α) : Sparse α :=
  if v = d then sErase m k else sPut m k v

/-- Writing the values of a list at rising keys. -/
def sSetAll {α : Type} [DecidableEq α] (d : α) (m : Sparse α) (k : Nat) (vs : List α) : Sparse α :=
  match vs with
  | [] => m
  | v :: t => sSetAll d (sSet d m k v) (k + 1) t

/-- The values at n rising keys. -/
def sGetAll {α : Type} (d : α) (m : Sparse α) (k n : Nat) : List α := (List.range n).map (fun i => sGet d m (k + i))

/-- The table without the keys in [lo, hi): they read as unlisted keys do. -/
def sClear {α : Type} (m : Sparse α) (lo hi : Nat) : Sparse α := m.filter (fun e => decide (e.1 < lo) || decide (hi ≤ e.1))

/-- Applying a function to what a key holds. -/
def sUpd {α : Type} [DecidableEq α] (d : α) (m : Sparse α) (k : Nat) (f : α → α) : Sparse α :=
  sSet d m k (f (sGet d m k))

/-- Keys strictly rise. -/
def sRising {α : Type} (m : Sparse α) : Bool :=
  match m with
  | [] => true
  | (j, _) :: t => t.all (fun e => decide (j < e.1)) && sRising t

/-- The canonical form: keys strictly rise and no entry holds what an unlisted key reads as. -/
def sWf {α : Type} [DecidableEq α] (d : α) (m : Sparse α) : Bool := sRising m && m.all (fun e => decide (e.2 ≠ d))

/-- The little-endian number in a list of bytes (R5). -/
def leNat (bs : List Byte) : Nat :=
  match bs with
  | [] => 0
  | b :: t => b.toNat + 256 * leNat t

/-- The n low bytes of a number, least significant first (R5). -/
def natLe (n v : Nat) : List Byte :=
  match n with
  | 0 => []
  | k + 1 => BitVec.ofNat 8 v :: natLe k (v / 256)

/-- Bits [hi:lo] of a number. -/
def bitsOf (v hi lo : Nat) : Nat := v / 2 ^ lo % 2 ^ (hi + 1 - lo)

/-- A counter of n bits counts up and stays at all ones (R512). -/
def satAdd (n v k : Nat) : Nat := min (v + k) (2 ^ n - 1)

/-- A list with the element at an index replaced by what the function makes of it. -/
def updAt {α : Type} (l : List α) (i : Nat) (f : α → α) : List α :=
  match l, i with
  | [], _ => []
  | a :: t, 0 => f a :: t
  | a :: t, i + 1 => a :: updAt t i f

end Sys2Proof.Machine
end

