-- ==== Sys2Proof/Machine/Crc.lean ====
section
/-! DEFINITION. Checksums: CRC-32C over packets, records and tables, and the CRC-64 of flits (R404). -/

namespace Sys2Proof.Machine

/-- One bit of a reflected CRC with the given polynomial. -/
def crcBit (poly c : Nat) : Nat := if c % 2 = 1 then Nat.xor (c / 2) poly else c / 2

/-- One byte of a reflected CRC. -/
def crcByte (poly c : Nat) (b : Byte) : Nat :=
  let x := Nat.xor c b.toNat
  crcBit poly (crcBit poly (crcBit poly (crcBit poly (crcBit poly (crcBit poly (crcBit poly (crcBit poly x)))))))

/-- CRC-32C: the Castagnoli polynomial, reflected, initial value and final exclusive or all ones (PRESUMED, log entry 3:
the spec names CRC-32C and does not write it out). -/
def crc32c (bs : List Byte) : Nat := Nat.xor (bs.foldl (crcByte 0x82F63B78) 0xFFFFFFFF) 0xFFFFFFFF

/-- One bit of the CRC-64 of R404. -/
def crc64Bit (c : Nat) : Nat :=
  if c ≥ 2 ^ 63 then Nat.xor (c * 2 % 2 ^ 64) 0x42F0E1EBA9EA3693 else c * 2

/-- One byte of the CRC-64. -/
def crc64Byte (c : Nat) (b : Byte) : Nat :=
  let x := Nat.xor c (b.toNat * 2 ^ 56)
  crc64Bit (crc64Bit (crc64Bit (crc64Bit (crc64Bit (crc64Bit (crc64Bit (crc64Bit x)))))))

/-- The CRC-64 of a flit: unreflected, initial value all ones, no final inversion (R404). -/
def crc64 (bs : List Byte) : Nat := bs.foldl crc64Byte (2 ^ 64 - 1)

end Sys2Proof.Machine
end

