-- ==== Sys2Proof/Machine/RegMap.lean ====
section
/-! DEFINITION. The register pages: every register of every page with its fields, access codes and reset values (the
register tables of chapters 02 to 19; R6, R10, R13, R84). Reserved bits have no entry: they read as zero (R9). -/

namespace Sys2Proof.Machine

/-- The access codes of R13. -/
inductive Access
  | ro | rw | w1c | rc | wo
  deriving DecidableEq, Repr

/-- One field of a register: bits [hi:lo], its access code, its reset value, and for an RW field the least and the
largest encoding that is not reserved (R10). -/
structure RegField where
  hi : Nat
  lo : Nat
  acc : Access
  reset : Nat
  least : Nat
  most : Nat
  deriving DecidableEq, Repr

/-- A register of a page: its offset and its fields. -/
structure RegDesc where
  off : Nat
  fields : List RegField
  deriving DecidableEq, Repr

/-- When a write to a page's control register takes effect. -/
inductive Effective
  | now | boundary | sensePeriod
  deriving DecidableEq, Repr

/-- A register page: the address of its first instance, how many instances lie 64 KiB apart, the offset of the control
register whose value takes effect later, and its registers. -/
structure RegPage where
  base : Nat
  count : Nat
  effective : Effective
  ctlOff : Nat
  regs : List RegDesc
  deriving DecidableEq, Repr

/-- Registers of the CMD page (ch15): CMD_DOORBELL, CMD_STAT, CMD_RING_SEL, CMD_RING_SQ, CMD_RING_UQ, CMD_RING_CQ. -/
def cmdRegs0 : List RegDesc :=
  [ ⟨0, [⟨63, 32, .wo, 0, 0, 0xffffffff⟩, ⟨31, 30, .wo, 0, 0, 3⟩, ⟨13, 0, .wo, 0, 0, 0x3fff⟩]⟩,
      ⟨8, [⟨36, 36, .ro, 0, 0, 1⟩, ⟨35, 27, .ro, 0, 0, 0x1ff⟩, ⟨26, 18, .ro, 0, 0, 0x1ff⟩,
        ⟨17, 9, .ro, 0, 0, 0x1ff⟩, ⟨8, 0, .ro, 0, 0, 0x1ff⟩]⟩,
      ⟨0x10, [⟨13, 0, .rw, 0, 0, 0x3fff⟩]⟩,
      ⟨0x18, [⟨63, 32, .ro, 0, 0, 0xffffffff⟩, ⟨31, 0, .ro, 0, 0, 0xffffffff⟩]⟩,
      ⟨0x20, [⟨63, 32, .ro, 0, 0, 0xffffffff⟩, ⟨31, 0, .ro, 0, 0, 0xffffffff⟩]⟩,
      ⟨0x28, [⟨63, 32, .ro, 0, 0, 0xffffffff⟩, ⟨31, 0, .ro, 0, 0, 0xffffffff⟩]⟩ ]

/-- Registers of the CMD page (ch15): CMD_ACCEPTED, CMD_REFUSED, CMD_DB_IGNORED. -/
def cmdRegs1 : List RegDesc :=
  [ ⟨0x30, [⟨63, 0, .ro, 0, 0, 0xffffffffffffffff⟩]⟩,
      ⟨0x38, [⟨63, 0, .ro, 0, 0, 0xffffffffffffffff⟩]⟩,
      ⟨0x40, [⟨63, 0, .ro, 0, 0, 0xffffffffffffffff⟩]⟩ ]

/-- The CMD page (ch15). -/
def cmdPage : RegPage :=
  ⟨0xE000000000, 1, .now, 0xFFFF, cmdRegs0 ++ cmdRegs1⟩

/-- Registers of the BEAT page (R83): BEAT_COUNT, BEAT_GNUM, BEAT_CTL, BEAT_ADAPT, BEAT_GROUP, BEAT_STAT. -/
def beatRegs0 : List RegDesc :=
  [ ⟨0, [⟨63, 0, .ro, 0, 0, 0xffffffffffffffff⟩]⟩,
      ⟨8, [⟨63, 0, .ro, 0, 0, 0xffffffffffffffff⟩]⟩,
      ⟨0x10, [⟨41, 41, .rw, 1, 0, 1⟩, ⟨40, 40, .rw, 0, 0, 1⟩, ⟨35, 32, .rw, 2, 1, 8⟩, ⟨24, 16, .rw, 0x20, 4, 0x100⟩,
        ⟨8, 0, .rw, 0x10, 4, 0x100⟩]⟩,
      ⟨0x18, [⟨40, 32, .rw, 0x100, 4, 0x100⟩, ⟨24, 16, .rw, 4, 4, 0x100⟩, ⟨15, 8, .rw, 0x19, 0, 0x64⟩,
        ⟨7, 0, .rw, 0xa, 0, 0x64⟩]⟩,
      ⟨0x20, [⟨63, 56, .rw, 0x10, 1, 0xff⟩, ⟨55, 54, .rw, 0, 0, 2⟩, ⟨53, 50, .ro, 0, 0, 0xf⟩,
        ⟨49, 45, .rw, 0, 0, 0x1f⟩, ⟨29, 16, .rw, 0, 0, 0x3fff⟩, ⟨15, 0, .rw, 0, 0, 0xffff⟩]⟩,
      ⟨0x28, [⟨4, 4, .ro, 0, 0, 1⟩, ⟨3, 3, .ro, 0, 0, 1⟩, ⟨2, 2, .ro, 0, 0, 1⟩, ⟨1, 1, .ro, 0, 0, 1⟩,
        ⟨0, 0, .ro, 0, 0, 1⟩]⟩ ]

/-- Registers of the BEAT page (R83): BEAT_OFFSET, BEAT_PATH, BEAT_NEXT, BEAT_TIME, BEAT_STRETCHED, BEAT_QUANTA. -/
def beatRegs1 : List RegDesc :=
  [ ⟨0x30, [⟨63, 0, .ro, 0, 0, 0xffffffffffffffff⟩]⟩,
      ⟨0x38, [⟨31, 0, .ro, 0, 0, 0xffffffff⟩]⟩,
      ⟨0x40, [⟨63, 0, .ro, 0, 0, 0xffffffffffffffff⟩]⟩,
      ⟨0x48, [⟨63, 0, .ro, 0, 0, 0xffffffffffffffff⟩]⟩,
      ⟨0x50, [⟨63, 0, .ro, 0, 0, 0xffffffffffffffff⟩]⟩,
      ⟨0x58, [⟨63, 0, .ro, 0, 0, 0xffffffffffffffff⟩]⟩ ]

/-- Registers of the BEAT page (R83): BEAT_OVERRUNS. -/
def beatRegs2 : List RegDesc :=
  [ ⟨0x60, [⟨63, 0, .ro, 0, 0, 0xffffffffffffffff⟩]⟩ ]

/-- The BEAT page (R83). -/
def beatPage : RegPage :=
  ⟨0xE000010000, 1, .boundary, 0x10, beatRegs0 ++ beatRegs1 ++ beatRegs2⟩

/-- Registers of the BELL page (R318): BELL_CTL, BELL_SEL, BELL_STATE, BELL_LINE_SEL, BELL_LINE_STAT, BELL_POSTS. -/
def bellRegs0 : List RegDesc :=
  [ ⟨0, [⟨47, 40, .rw, 0x14, 0, 0xff⟩, ⟨19, 0, .rw, 0x3e8, 1, 0xfffff⟩]⟩,
      ⟨8, [⟨15, 0, .rw, 0, 0, 0xffff⟩]⟩,
      ⟨0x10, [⟨60, 48, .ro, 0, 0, 0x1fff⟩, ⟨47, 47, .ro, 0, 0, 1⟩, ⟨45, 32, .ro, 0, 0, 0x3fff⟩,
        ⟨31, 0, .ro, 0, 0, 0xffffffff⟩]⟩,
      ⟨0x18, [⟨4, 0, .rw, 0, 0, 0x1f⟩]⟩,
      ⟨0x20, [⟨63, 48, .ro, 0, 0, 0xffff⟩, ⟨47, 47, .ro, 0, 0, 1⟩, ⟨46, 46, .ro, 0, 0, 1⟩,
        ⟨45, 32, .ro, 0, 0, 0x3fff⟩, ⟨28, 16, .ro, 0, 0, 0x1fff⟩, ⟨12, 0, .ro, 0, 0, 0x1fff⟩]⟩,
      ⟨0x28, [⟨63, 0, .ro, 0, 0, 0xffffffffffffffff⟩]⟩ ]

/-- Registers of the BELL page (R318): BELL_TIMEOUTS, BELL_LINE_RELEASES, BELL_LENDS. -/
def bellRegs1 : List RegDesc :=
  [ ⟨0x30, [⟨63, 0, .ro, 0, 0, 0xffffffffffffffff⟩]⟩,
      ⟨0x38, [⟨63, 0, .ro, 0, 0, 0xffffffffffffffff⟩]⟩,
      ⟨0x40, [⟨63, 0, .ro, 0, 0, 0xffffffffffffffff⟩]⟩ ]

/-- The BELL page (R318). -/
def bellPage : RegPage :=
  ⟨0xE000020000, 1, .boundary, 0, bellRegs0 ++ bellRegs1⟩

/-- Registers of the PWR page (R572): PWR_CTL, PWR_STAT, PWR_SEL, PWR_REGION, PWR_SENSOR, PWR_DOMAIN. -/
def pwrRegs0 : List RegDesc :=
  [ ⟨0, [⟨11, 0, .rw, 0xe10, 0x5dc, 0xe10⟩]⟩,
      ⟨8, [⟨7, 4, .ro, 0, 0, 0xf⟩, ⟨3, 3, .ro, 0, 0, 1⟩, ⟨2, 2, .ro, 0, 0, 1⟩, ⟨1, 1, .ro, 0, 0, 1⟩,
        ⟨0, 0, .ro, 0, 0, 1⟩]⟩,
      ⟨0x10, [⟨9, 8, .rw, 0, 0, 3⟩, ⟨7, 2, .rw, 0, 0, 0x3f⟩, ⟨1, 0, .rw, 0, 0, 3⟩]⟩,
      ⟨0x18, [⟨47, 44, .ro, 0, 0, 0xf⟩, ⟨43, 32, .ro, 0, 0, 0xfff⟩, ⟨11, 0, .ro, 0, 0, 0xfff⟩]⟩,
      ⟨0x20, [⟨31, 0, .ro, 0, 0, 0xffffffff⟩]⟩,
      ⟨0x28, [⟨2, 2, .w1c, 0, 0, 1⟩, ⟨1, 1, .ro, 0, 0, 1⟩, ⟨0, 0, .ro, 0, 0, 1⟩]⟩ ]

/-- Registers of the PWR page (R572): PWR_OVER, PWR_PACED. -/
def pwrRegs1 : List RegDesc :=
  [ ⟨0x30, [⟨63, 0, .ro, 0, 0, 0xffffffffffffffff⟩]⟩,
      ⟨0x38, [⟨63, 0, .ro, 0, 0, 0xffffffffffffffff⟩]⟩ ]

/-- The PWR page (R572). -/
def pwrPage : RegPage :=
  ⟨0xE000030000, 1, .boundary, 0, pwrRegs0 ++ pwrRegs1⟩

/-- Registers of the TLY page (R530): TLY_CTL, TLY_STAT, TLY_SEL, TLY_VALUE, TLY_INFO, TLY_SKIPPED. -/
def tlyRegs0 : List RegDesc :=
  [ ⟨0, [⟨47, 40, .rw, 0x32, 0xa, 0xc8⟩, ⟨39, 32, .rw, 0x18, 1, 0xff⟩, ⟨31, 24, .rw, 0xa, 1, 0xff⟩,
        ⟨16, 16, .wo, 0, 0, 1⟩, ⟨15, 0, .rw, 0x64, 0xa, 0x2710⟩]⟩,
      ⟨8, [⟨63, 32, .ro, 0, 0, 0xffffffff⟩, ⟨7, 7, .ro, 0, 0, 1⟩, ⟨6, 6, .ro, 0, 0, 1⟩, ⟨5, 5, .ro, 0, 0, 1⟩,
        ⟨4, 4, .ro, 0, 0, 1⟩]⟩,
      ⟨0x10, [⟨31, 0, .rw, 0, 0, 0xffffffff⟩]⟩,
      ⟨0x18, [⟨63, 0, .ro, 0, 0, 0xffffffffffffffff⟩]⟩,
      ⟨0x20, [⟨4, 4, .ro, 0, 0, 1⟩, ⟨3, 3, .ro, 0, 0, 1⟩, ⟨2, 2, .ro, 0, 0, 1⟩, ⟨1, 0, .ro, 0, 0, 3⟩]⟩,
      ⟨0x28, [⟨63, 0, .ro, 0, 0, 0xffffffffffffffff⟩]⟩ ]

/-- Registers of the TLY page (R530): TLY_LOG_SEQ, TLY_LOG_DROPS, TLY_REPORTS. -/
def tlyRegs1 : List RegDesc :=
  [ ⟨0x30, [⟨63, 0, .ro, 0, 0, 0xffffffffffffffff⟩]⟩,
      ⟨0x38, [⟨63, 0, .ro, 0, 0, 0xffffffffffffffff⟩]⟩,
      ⟨0x40, [⟨63, 0, .ro, 0, 0, 0xffffffffffffffff⟩]⟩ ]

/-- The TLY page (R530). -/
def tlyPage : RegPage :=
  ⟨0xE000040000, 1, .sensePeriod, 0, tlyRegs0 ++ tlyRegs1⟩

/-- Registers of the BOOT page (R555): BOOT_STAT, BOOT_FW, BOOT_CTL, BOOT_OWN_SEL, BOOT_OWN_DATA0, BOOT_OWN_DATA1. -/
def bootRegs0 : List RegDesc :=
  [ ⟨0, [⟨23, 16, .ro, 0, 0, 0xff⟩, ⟨15, 14, .ro, 0, 0, 3⟩, ⟨13, 13, .ro, 0, 0, 1⟩, ⟨12, 12, .ro, 0, 0, 1⟩,
        ⟨11, 11, .ro, 0, 0, 1⟩, ⟨10, 10, .ro, 0, 0, 1⟩, ⟨9, 9, .ro, 0, 0, 1⟩, ⟨8, 8, .ro, 0, 0, 1⟩,
        ⟨7, 7, .ro, 0, 0, 1⟩, ⟨3, 0, .ro, 1, 0, 0xf⟩]⟩,
      ⟨8, [⟨63, 32, .ro, 0, 0, 0xffffffff⟩, ⟨31, 0, .ro, 0, 0, 0xffffffff⟩]⟩,
      ⟨0x10, [⟨1, 1, .wo, 0, 0, 1⟩, ⟨0, 0, .wo, 0, 0, 1⟩]⟩,
      ⟨0x18, [⟨3, 0, .rw, 0, 0, 0xa⟩]⟩,
      ⟨0x20, [⟨63, 0, .wo, 0, 0, 0xffffffffffffffff⟩]⟩,
      ⟨0x28, [⟨63, 0, .wo, 0, 0, 0xffffffffffffffff⟩]⟩ ]

/-- Registers of the BOOT page (R555): BOOT_OWN_DATA2, BOOT_OWN_DATA3. -/
def bootRegs1 : List RegDesc :=
  [ ⟨0x30, [⟨63, 0, .wo, 0, 0, 0xffffffffffffffff⟩]⟩,
      ⟨0x38, [⟨63, 0, .wo, 0, 0, 0xffffffffffffffff⟩]⟩ ]

/-- The BOOT page (R555). -/
def bootPage : RegPage :=
  ⟨0xE000050000, 1, .now, 0xFFFF, bootRegs0 ++ bootRegs1⟩

/-- Registers of the MGMT page (R488): MGMT_CTL, MGMT_STAT, MGMT_MAC, MGMT_ADDR_HI, MGMT_ADDR_LO, MGMT_RX. -/
def mgmtRegs0 : List RegDesc :=
  [ ⟨0, [⟨47, 32, .rw, 0x1dd8, 1, 0xffff⟩, ⟨31, 16, .rw, 0x3c, 1, 0xffff⟩, ⟨0, 0, .rw, 1, 0, 1⟩]⟩,
      ⟨8, [⟨15, 8, .ro, 0, 0, 0xff⟩, ⟨3, 2, .ro, 0, 0, 3⟩, ⟨0, 0, .ro, 0, 0, 1⟩]⟩,
      ⟨0x10, [⟨47, 0, .ro, 0, 0, 0xffffffffffff⟩]⟩,
      ⟨0x18, [⟨63, 0, .rw, 0, 0, 0xffffffffffffffff⟩]⟩,
      ⟨0x20, [⟨63, 0, .rw, 0, 0, 0xffffffffffffffff⟩]⟩,
      ⟨0x28, [⟨63, 0, .ro, 0, 0, 0xffffffffffffffff⟩]⟩ ]

/-- Registers of the MGMT page (R488): MGMT_TX, MGMT_AUTH_FAIL, MGMT_REPLAY, MGMT_DROPS. -/
def mgmtRegs1 : List RegDesc :=
  [ ⟨0x30, [⟨63, 0, .ro, 0, 0, 0xffffffffffffffff⟩]⟩,
      ⟨0x38, [⟨63, 0, .ro, 0, 0, 0xffffffffffffffff⟩]⟩,
      ⟨0x40, [⟨63, 0, .ro, 0, 0, 0xffffffffffffffff⟩]⟩,
      ⟨0x48, [⟨63, 0, .ro, 0, 0, 0xffffffffffffffff⟩]⟩ ]

/-- The MGMT page (R488). -/
def mgmtPage : RegPage :=
  ⟨0xE000060000, 1, .now, 0xFFFF, mgmtRegs0 ++ mgmtRegs1⟩

/-- Registers of the ALM page (R392): ALM_SEL, ALM_STEP, ALM_INFO, ALM_SCHED, ALM_COMMITS, ALM_ABORTS. -/
def almRegs0 : List RegDesc :=
  [ ⟨0, [⟨13, 0, .rw, 0, 0, 0x3fff⟩]⟩,
      ⟨8, [⟨63, 0, .ro, 0, 0, 0xffffffffffffffff⟩]⟩,
      ⟨0x10, [⟨11, 8, .ro, 0, 0, 0xf⟩, ⟨0, 0, .ro, 0, 0, 1⟩]⟩,
      ⟨0x18, [⟨63, 0, .ro, 0, 0, 0xffffffffffffffff⟩]⟩,
      ⟨0x20, [⟨63, 0, .ro, 0, 0, 0xffffffffffffffff⟩]⟩,
      ⟨0x28, [⟨63, 0, .ro, 0, 0, 0xffffffffffffffff⟩]⟩ ]

/-- Registers of the ALM page (R392): ALM_DOUBTS. -/
def almRegs1 : List RegDesc :=
  [ ⟨0x30, [⟨63, 0, .ro, 0, 0, 0xffffffffffffffff⟩]⟩ ]

/-- The ALM page (R392). -/
def almPage : RegPage :=
  ⟨0xE000070000, 1, .now, 0xFFFF, almRegs0 ++ almRegs1⟩

/-- Registers of the base die page (R297, R392): SQ_CTL, SQ_STAT, SQ_UNIT_SEL, SQ_UNIT, SQ_CE, SQ_UE. -/
def baseDieRegs0 : List RegDesc :=
  [ ⟨0, [⟨39, 32, .rw, 0x18, 1, 0xff⟩, ⟨27, 24, .rw, 4, 1, 0xf⟩, ⟨2, 2, .rw, 1, 0, 1⟩, ⟨1, 1, .rw, 1, 0, 1⟩,
        ⟨0, 0, .rw, 1, 0, 1⟩]⟩,
      ⟨8, [⟨47, 40, .ro, 0, 0, 0xff⟩, ⟨7, 7, .ro, 0, 0, 1⟩, ⟨6, 6, .ro, 0, 0, 1⟩, ⟨5, 4, .ro, 0, 0, 3⟩]⟩,
      ⟨0x10, [⟨3, 0, .rw, 0, 0, 0xf⟩]⟩,
      ⟨0x18, [⟨17, 16, .ro, 0, 0, 3⟩, ⟨13, 0, .ro, 0, 0, 0x3fff⟩]⟩,
      ⟨0x20, [⟨63, 0, .ro, 0, 0, 0xffffffffffffffff⟩]⟩,
      ⟨0x28, [⟨63, 0, .ro, 0, 0, 0xffffffffffffffff⟩]⟩ ]

/-- Registers of the base die page (R297, R392): SQ_ROW_FAIL, SQ_REMAP, SQ_RETIRED, SQ_DEGRADED, SQ_SRAM_CE, SQ_HITS. -/
def baseDieRegs1 : List RegDesc :=
  [ ⟨0x30, [⟨63, 0, .ro, 0, 0, 0xffffffffffffffff⟩]⟩,
      ⟨0x38, [⟨28, 16, .ro, 0, 0, 0x1fff⟩, ⟨15, 0, .ro, 0, 0, 0xffff⟩]⟩,
      ⟨0x40, [⟨31, 16, .ro, 0, 0, 0xffff⟩, ⟨15, 0, .ro, 0, 0, 0xffff⟩]⟩,
      ⟨0x48, [⟨63, 0, .ro, 0, 0, 0xffffffffffffffff⟩]⟩,
      ⟨0x50, [⟨63, 0, .ro, 0, 0, 0xffffffffffffffff⟩]⟩,
      ⟨0x58, [⟨63, 0, .ro, 0, 0, 0xffffffffffffffff⟩]⟩ ]

/-- Registers of the base die page (R297, R392): SQ_MISSES, SQ_ATOMICS, SQ_MARGIN_SEL, SQ_MARGIN, MILL_STAT, MILL_RUNS. -/
def baseDieRegs2 : List RegDesc :=
  [ ⟨0x60, [⟨63, 0, .ro, 0, 0, 0xffffffffffffffff⟩]⟩,
      ⟨0x68, [⟨63, 0, .ro, 0, 0, 0xffffffffffffffff⟩]⟩,
      ⟨0x70, [⟨9, 8, .rw, 0, 0, 3⟩, ⟨5, 0, .rw, 0, 0, 0x3f⟩]⟩,
      ⟨0x78, [⟨16, 16, .ro, 0, 0, 1⟩, ⟨15, 8, .ro, 0, 0, 0xff⟩, ⟨7, 0, .ro, 0, 0, 0xff⟩]⟩,
      ⟨0x8000, [⟨17, 16, .ro, 0, 0, 3⟩, ⟨13, 0, .ro, 0, 0, 0x3fff⟩]⟩,
      ⟨0x8008, [⟨63, 0, .ro, 0, 0, 0xffffffffffffffff⟩]⟩ ]

/-- Registers of the base die page (R297, R392): MILL_RD, MILL_WR, MILL_NONFIN. -/
def baseDieRegs3 : List RegDesc :=
  [ ⟨0x8010, [⟨63, 0, .ro, 0, 0, 0xffffffffffffffff⟩]⟩,
      ⟨0x8018, [⟨63, 0, .ro, 0, 0, 0xffffffffffffffff⟩]⟩,
      ⟨0x8020, [⟨63, 0, .ro, 0, 0, 0xffffffffffffffff⟩]⟩ ]

/-- The base die page (R297, R392). -/
def baseDiePage : RegPage :=
  ⟨0xE000100000, 8, .boundary, 0, baseDieRegs0 ++ baseDieRegs1 ++ baseDieRegs2 ++ baseDieRegs3⟩

/-- Registers of the GATE page (R457): GATE_CTL, GATE_SEL, GATE_CSTEP, GATE_CODE, GATE_RED_BYTES, GATE_CRC_RETRY. -/
def gateRegs0 : List RegDesc :=
  [ ⟨0, [⟨19, 0, .rw, 0x3e8, 1, 0xfffff⟩]⟩,
      ⟨8, [⟨13, 0, .rw, 0, 0, 0x3fff⟩]⟩,
      ⟨0x10, [⟨63, 0, .ro, 0, 0, 0xffffffffffffffff⟩]⟩,
      ⟨0x18, [⟨31, 28, .ro, 0, 0, 0xf⟩, ⟨27, 24, .ro, 0, 0, 0xf⟩, ⟨23, 16, .ro, 0, 0, 0xff⟩, ⟨3, 2, .ro, 0, 0, 3⟩,
        ⟨1, 1, .ro, 0, 0, 1⟩, ⟨0, 0, .ro, 0, 0, 1⟩]⟩,
      ⟨0x20, [⟨63, 0, .ro, 0, 0, 0xffffffffffffffff⟩]⟩,
      ⟨0x28, [⟨63, 0, .ro, 0, 0, 0xffffffffffffffff⟩]⟩ ]

/-- Registers of the GATE page (R457): GATE_CRC_FATAL, GATE_PEER_LOST, GATE_TIMEOUTS, GATE_HELD. -/
def gateRegs1 : List RegDesc :=
  [ ⟨0x30, [⟨63, 0, .ro, 0, 0, 0xffffffffffffffff⟩]⟩,
      ⟨0x38, [⟨63, 0, .ro, 0, 0, 0xffffffffffffffff⟩]⟩,
      ⟨0x40, [⟨63, 0, .ro, 0, 0, 0xffffffffffffffff⟩]⟩,
      ⟨0x48, [⟨63, 0, .ro, 0, 0, 0xffffffffffffffff⟩]⟩ ]

/-- The GATE page (R457). -/
def gatePage : RegPage :=
  ⟨0xE000200000, 4, .boundary, 0, gateRegs0 ++ gateRegs1⟩

/-- Registers of the ARR page (R155): ARR_CTL, ARR_SEL, ARR_MAP, ARR_PASSES, ARR_CHK_FAIL, ARR_CHK_SKIP. -/
def arrRegs0 : List RegDesc :=
  [ ⟨0, [⟨16, 16, .rw, 1, 0, 1⟩, ⟨7, 0, .rw, 8, 1, 0xff⟩]⟩,
      ⟨8, [⟨11, 2, .rw, 0, 0, 0x3ff⟩, ⟨1, 0, .rw, 0, 0, 3⟩]⟩,
      ⟨0x10, [⟨23, 23, .ro, 1, 0, 1⟩, ⟨22, 22, .ro, 1, 0, 1⟩, ⟨21, 21, .ro, 0, 0, 1⟩, ⟨20, 16, .ro, 0x1f, 0, 0x1f⟩,
        ⟨13, 13, .ro, 0, 0, 1⟩, ⟨12, 8, .ro, 0x1f, 0, 0x1f⟩, ⟨4, 0, .ro, 0, 0, 0x1f⟩]⟩,
      ⟨0x18, [⟨63, 0, .ro, 0, 0, 0xffffffffffffffff⟩]⟩,
      ⟨0x20, [⟨63, 0, .ro, 0, 0, 0xffffffffffffffff⟩]⟩,
      ⟨0x28, [⟨63, 0, .ro, 0, 0, 0xffffffffffffffff⟩]⟩ ]

/-- Registers of the ARR page (R155): ARR_ACC_CE, ARR_CHK_LOST. -/
def arrRegs1 : List RegDesc :=
  [ ⟨0x30, [⟨63, 0, .ro, 0, 0, 0xffffffffffffffff⟩]⟩,
      ⟨0x38, [⟨12, 0, .ro, 0, 0, 0x1fff⟩]⟩ ]

/-- The ARR page (R155). -/
def arrPage : RegPage :=
  ⟨0xE000240000, 4, .boundary, 0, arrRegs0 ++ arrRegs1⟩

/-- Registers of the CELL page (R197): CELL_CTL, CELL_SEL, CELL_STATE, CELL_PORT_STALL, CELL_RING_STALL, CELL_STORE_CE. -/
def cellRegs0 : List RegDesc :=
  [ ⟨0, [⟨16, 16, .rw, 1, 0, 1⟩, ⟨7, 0, .rw, 0x40, 1, 0xff⟩]⟩,
      ⟨8, [⟨12, 10, .rw, 0, 0, 7⟩, ⟨9, 0, .rw, 0, 0, 0x3ff⟩]⟩,
      ⟨0x10, [⟨43, 30, .ro, 0, 0, 0x3fff⟩, ⟨29, 29, .ro, 0, 0, 1⟩, ⟨28, 28, .ro, 0, 0, 1⟩, ⟨27, 27, .ro, 0, 0, 1⟩,
        ⟨26, 26, .ro, 0, 0, 1⟩, ⟨25, 21, .ro, 0, 0, 0x1f⟩, ⟨11, 0, .ro, 0, 0, 0xfff⟩]⟩,
      ⟨0x18, [⟨63, 0, .ro, 0, 0, 0xffffffffffffffff⟩]⟩,
      ⟨0x20, [⟨63, 0, .ro, 0, 0, 0xffffffffffffffff⟩]⟩,
      ⟨0x28, [⟨63, 0, .ro, 0, 0, 0xffffffffffffffff⟩]⟩ ]

/-- Registers of the CELL page (R197): CELL_IMEM_CE, CELL_RING, CELL_FAULTS, CELL_LOAD. -/
def cellRegs1 : List RegDesc :=
  [ ⟨0x30, [⟨63, 0, .ro, 0, 0, 0xffffffffffffffff⟩]⟩,
      ⟨0x38, [⟨32, 32, .ro, 0, 0, 1⟩, ⟨31, 24, .ro, 0, 0, 0xff⟩, ⟨23, 16, .ro, 0, 0, 0xff⟩,
        ⟨15, 8, .ro, 0, 0, 0xff⟩, ⟨7, 0, .ro, 0, 0, 0xff⟩]⟩,
      ⟨0x40, [⟨63, 0, .ro, 0, 0, 0xffffffffffffffff⟩]⟩,
      ⟨0x48, [⟨39, 32, .ro, 0, 0, 0xff⟩, ⟨31, 0, .ro, 0, 0, 0xffffffff⟩]⟩ ]

/-- The CELL page (R197). -/
def cellPage : RegPage :=
  ⟨0xE000280000, 4, .boundary, 0, cellRegs0 ++ cellRegs1⟩

/-- Registers of the VEC page (R232): VEC_CTL, VEC_SEL, VEC_STATE, VEC_INSNS, VEC_ELEMS, VEC_ACC_WAIT. -/
def vecRegs0 : List RegDesc :=
  [ ⟨0, [⟨7, 0, .rw, 0, 0, 0xff⟩]⟩,
      ⟨8, [⟨9, 0, .rw, 0, 0, 0x3ff⟩]⟩,
      ⟨0x10, [⟨11, 10, .ro, 0, 0, 3⟩, ⟨9, 9, .ro, 0, 0, 1⟩, ⟨8, 8, .ro, 0, 0, 1⟩, ⟨5, 0, .ro, 0, 0, 0x3f⟩]⟩,
      ⟨0x18, [⟨63, 0, .ro, 0, 0, 0xffffffffffffffff⟩]⟩,
      ⟨0x20, [⟨63, 0, .ro, 0, 0, 0xffffffffffffffff⟩]⟩,
      ⟨0x28, [⟨63, 0, .ro, 0, 0, 0xffffffffffffffff⟩]⟩ ]

/-- Registers of the VEC page (R232): VEC_BUF_CE, VEC_FLAGS. -/
def vecRegs1 : List RegDesc :=
  [ ⟨0x30, [⟨63, 0, .ro, 0, 0, 0xffffffffffffffff⟩]⟩,
      ⟨0x38, [⟨7, 0, .w1c, 0, 0, 0xff⟩]⟩ ]

/-- The VEC page (R232). -/
def vecPage : RegPage :=
  ⟨0xE0002C0000, 4, .boundary, 0, vecRegs0 ++ vecRegs1⟩

/-- Registers of the LNK page (R428): LNK_CTL, LNK_SEL, LNK_PORT_STAT, LNK_PORT_LAT, LNK_TX_BYTES, LNK_QUEUED. -/
def lnkRegs0 : List RegDesc :=
  [ ⟨0, [⟨59, 50, .rw, 0x258, 1, 0x3ff⟩, ⟨49, 40, .rw, 0x14, 0, 0x3ff⟩, ⟨39, 30, .rw, 0x64, 1, 0x3ff⟩,
        ⟨23, 21, .rw, 7, 1, 7⟩, ⟨19, 16, .rw, 8, 1, 0xf⟩, ⟨12, 8, .rw, 0xc, 1, 0x14⟩, ⟨2, 2, .rw, 1, 0, 1⟩,
        ⟨1, 1, .rw, 1, 0, 1⟩, ⟨0, 0, .rw, 1, 0, 1⟩]⟩,
      ⟨8, [⟨7, 6, .rw, 0, 0, 3⟩, ⟨5, 5, .rw, 0, 0, 1⟩, ⟨4, 0, .rw, 0, 0, 0x10⟩]⟩,
      ⟨0x10, [⟨63, 48, .ro, 0, 0, 0xffff⟩, ⟨44, 40, .ro, 0, 0, 0x1f⟩, ⟨7, 7, .ro, 0, 0, 1⟩, ⟨6, 6, .ro, 0, 0, 1⟩,
        ⟨5, 5, .ro, 0, 0, 1⟩, ⟨4, 4, .ro, 0, 0, 1⟩, ⟨3, 3, .ro, 0, 0, 1⟩, ⟨2, 0, .ro, 0, 0, 7⟩]⟩,
      ⟨0x18, [⟨63, 32, .ro, 0, 0, 0xffffffff⟩, ⟨31, 0, .ro, 0, 0, 0xffffffff⟩]⟩,
      ⟨0x20, [⟨63, 0, .ro, 0, 0, 0xffffffffffffffff⟩]⟩,
      ⟨0x28, [⟨63, 0, .ro, 0, 0, 0xffffffffffffffff⟩]⟩ ]

/-- Registers of the LNK page (R428): LNK_REPLAYS, LNK_DOWNS, LNK_DROPS, LNK_LANE, LNK_MARGIN, LNK_SPARES. -/
def lnkRegs1 : List RegDesc :=
  [ ⟨0x30, [⟨63, 0, .ro, 0, 0, 0xffffffffffffffff⟩]⟩,
      ⟨0x38, [⟨63, 0, .ro, 0, 0, 0xffffffffffffffff⟩]⟩,
      ⟨0x40, [⟨63, 0, .ro, 0, 0, 0xffffffffffffffff⟩]⟩,
      ⟨0x48, [⟨63, 48, .ro, 0, 0, 0xffff⟩, ⟨39, 35, .ro, 0, 0, 0x1f⟩, ⟨31, 0, .ro, 0, 0, 0xffffffff⟩]⟩,
      ⟨0x50, [⟨32, 32, .ro, 0, 0, 1⟩, ⟨31, 24, .ro, 0, 0, 0xff⟩, ⟨23, 16, .ro, 0, 0, 0xff⟩,
        ⟨15, 8, .ro, 0, 0, 0xff⟩, ⟨7, 0, .ro, 0, 0, 0xff⟩]⟩,
      ⟨0x58, [⟨63, 0, .ro, 0, 0, 0xffffffffffffffff⟩]⟩ ]

/-- Registers of the LNK page (R428): LNK_FEC_SWITCHES. -/
def lnkRegs2 : List RegDesc :=
  [ ⟨0x60, [⟨63, 0, .ro, 0, 0, 0xffffffffffffffff⟩]⟩ ]

/-- The LNK page (R428). -/
def lnkPage : RegPage :=
  ⟨0xE000300000, 8, .boundary, 0, lnkRegs0 ++ lnkRegs1 ++ lnkRegs2⟩

/-- Every register page. -/
def regPages : List RegPage :=
  [cmdPage, beatPage, bellPage, pwrPage, tlyPage, bootPage, mgmtPage, almPage, baseDiePage, gatePage, arrPage, cellPage,
    vecPage, lnkPage]

/-- The page an address lies in, if any, and the offset in it. -/
def regPageAt (a : Nat) : Option (RegPage × Nat) :=
  (regPages.find? (fun p => decide (p.base ≤ a ∧ a < p.base + p.count * 0x10000))).map
    (fun p => (p, (a - p.base) % 0x10000))

/-- The register at an 8-byte-aligned address, if a register table assigns one. -/
def regDescAt (a : Nat) : Option RegDesc :=
  (regPageAt a).bind (fun x => x.1.regs.find? (fun r => r.off == x.2))

/-- The reset value of a register from its fields. -/
def RegDesc.resetValue (r : RegDesc) : Word := BitVec.ofNat 64 (r.fields.foldl (fun n f => n + f.reset * 2 ^ f.lo) 0)

/-- The reset value of the register at an address; zero where no register is assigned (R612). -/
def regResetAt (a : Nat) : Word :=
  match regDescAt a with
  | some r => r.resetValue
  | none => 0#64

/-- Whether an address lies in a register page (R253, R612). -/
def isRegAddr (a : Nat) : Bool := (regPageAt a).isSome

/-! Addresses of the registers; those of a page with several instances are at instance 0. -/

def aCmdDoorbell : Nat := 0xE000000000
def aCmdStat : Nat := 0xE000000008
def aCmdRingSel : Nat := 0xE000000010
def aCmdRingSq : Nat := 0xE000000018
def aCmdRingUq : Nat := 0xE000000020
def aCmdRingCq : Nat := 0xE000000028
def aCmdAccepted : Nat := 0xE000000030
def aCmdRefused : Nat := 0xE000000038
def aCmdDbIgnored : Nat := 0xE000000040
def aBeatCount : Nat := 0xE000010000
def aBeatGnum : Nat := 0xE000010008
def aBeatCtl : Nat := 0xE000010010
def aBeatAdapt : Nat := 0xE000010018
def aBeatGroup : Nat := 0xE000010020
def aBeatStat : Nat := 0xE000010028
def aBeatOffset : Nat := 0xE000010030
def aBeatPath : Nat := 0xE000010038
def aBeatNext : Nat := 0xE000010040
def aBeatTime : Nat := 0xE000010048
def aBeatStretched : Nat := 0xE000010050
def aBeatQuanta : Nat := 0xE000010058
def aBeatOverruns : Nat := 0xE000010060
def aBellCtl : Nat := 0xE000020000
def aBellSel : Nat := 0xE000020008
def aBellState : Nat := 0xE000020010
def aBellLineSel : Nat := 0xE000020018
def aBellLineStat : Nat := 0xE000020020
def aBellPosts : Nat := 0xE000020028
def aBellTimeouts : Nat := 0xE000020030
def aBellLineReleases : Nat := 0xE000020038
def aBellLends : Nat := 0xE000020040
def aPwrCtl : Nat := 0xE000030000
def aPwrStat : Nat := 0xE000030008
def aPwrSel : Nat := 0xE000030010
def aPwrRegion : Nat := 0xE000030018
def aPwrSensor : Nat := 0xE000030020
def aPwrDomain : Nat := 0xE000030028
def aPwrOver : Nat := 0xE000030030
def aPwrPaced : Nat := 0xE000030038
def aTlyCtl : Nat := 0xE000040000
def aTlyStat : Nat := 0xE000040008
def aTlySel : Nat := 0xE000040010
def aTlyValue : Nat := 0xE000040018
def aTlyInfo : Nat := 0xE000040020
def aTlySkipped : Nat := 0xE000040028
def aTlyLogSeq : Nat := 0xE000040030
def aTlyLogDrops : Nat := 0xE000040038
def aTlyReports : Nat := 0xE000040040
def aBootStat : Nat := 0xE000050000
def aBootFw : Nat := 0xE000050008
def aBootCtl : Nat := 0xE000050010
def aBootOwnSel : Nat := 0xE000050018
def aBootOwnData0 : Nat := 0xE000050020
def aBootOwnData1 : Nat := 0xE000050028
def aBootOwnData2 : Nat := 0xE000050030
def aBootOwnData3 : Nat := 0xE000050038
def aMgmtCtl : Nat := 0xE000060000
def aMgmtStat : Nat := 0xE000060008
def aMgmtMac : Nat := 0xE000060010
def aMgmtAddrHi : Nat := 0xE000060018
def aMgmtAddrLo : Nat := 0xE000060020
def aMgmtRx : Nat := 0xE000060028
def aMgmtTx : Nat := 0xE000060030
def aMgmtAuthFail : Nat := 0xE000060038
def aMgmtReplay : Nat := 0xE000060040
def aMgmtDrops : Nat := 0xE000060048
def aAlmSel : Nat := 0xE000070000
def aAlmStep : Nat := 0xE000070008
def aAlmInfo : Nat := 0xE000070010
def aAlmSched : Nat := 0xE000070018
def aAlmCommits : Nat := 0xE000070020
def aAlmAborts : Nat := 0xE000070028
def aAlmDoubts : Nat := 0xE000070030
def aSqCtl : Nat := 0xE000100000
def aSqStat : Nat := 0xE000100008
def aSqUnitSel : Nat := 0xE000100010
def aSqUnit : Nat := 0xE000100018
def aSqCe : Nat := 0xE000100020
def aSqUe : Nat := 0xE000100028
def aSqRowFail : Nat := 0xE000100030
def aSqRemap : Nat := 0xE000100038
def aSqRetired : Nat := 0xE000100040
def aSqDegraded : Nat := 0xE000100048
def aSqSramCe : Nat := 0xE000100050
def aSqHits : Nat := 0xE000100058
def aSqMisses : Nat := 0xE000100060
def aSqAtomics : Nat := 0xE000100068
def aSqMarginSel : Nat := 0xE000100070
def aSqMargin : Nat := 0xE000100078
def aMillStat : Nat := 0xE000108000
def aMillRuns : Nat := 0xE000108008
def aMillRd : Nat := 0xE000108010
def aMillWr : Nat := 0xE000108018
def aMillNonfin : Nat := 0xE000108020
def aGateCtl : Nat := 0xE000200000
def aGateSel : Nat := 0xE000200008
def aGateCstep : Nat := 0xE000200010
def aGateCode : Nat := 0xE000200018
def aGateRedBytes : Nat := 0xE000200020
def aGateCrcRetry : Nat := 0xE000200028
def aGateCrcFatal : Nat := 0xE000200030
def aGatePeerLost : Nat := 0xE000200038
def aGateTimeouts : Nat := 0xE000200040
def aGateHeld : Nat := 0xE000200048
def aArrCtl : Nat := 0xE000240000
def aArrSel : Nat := 0xE000240008
def aArrMap : Nat := 0xE000240010
def aArrPasses : Nat := 0xE000240018
def aArrChkFail : Nat := 0xE000240020
def aArrChkSkip : Nat := 0xE000240028
def aArrAccCe : Nat := 0xE000240030
def aArrChkLost : Nat := 0xE000240038
def aCellCtl : Nat := 0xE000280000
def aCellSel : Nat := 0xE000280008
def aCellState : Nat := 0xE000280010
def aCellPortStall : Nat := 0xE000280018
def aCellRingStall : Nat := 0xE000280020
def aCellStoreCe : Nat := 0xE000280028
def aCellImemCe : Nat := 0xE000280030
def aCellRing : Nat := 0xE000280038
def aCellFaults : Nat := 0xE000280040
def aCellLoad : Nat := 0xE000280048
def aVecCtl : Nat := 0xE0002C0000
def aVecSel : Nat := 0xE0002C0008
def aVecState : Nat := 0xE0002C0010
def aVecInsns : Nat := 0xE0002C0018
def aVecElems : Nat := 0xE0002C0020
def aVecAccWait : Nat := 0xE0002C0028
def aVecBufCe : Nat := 0xE0002C0030
def aVecFlags : Nat := 0xE0002C0038
def aLnkCtl : Nat := 0xE000300000
def aLnkSel : Nat := 0xE000300008
def aLnkPortStat : Nat := 0xE000300010
def aLnkPortLat : Nat := 0xE000300018
def aLnkTxBytes : Nat := 0xE000300020
def aLnkQueued : Nat := 0xE000300028
def aLnkReplays : Nat := 0xE000300030
def aLnkDowns : Nat := 0xE000300038
def aLnkDrops : Nat := 0xE000300040
def aLnkLane : Nat := 0xE000300048
def aLnkMargin : Nat := 0xE000300050
def aLnkSpares : Nat := 0xE000300058
def aLnkFecSwitches : Nat := 0xE000300060

end Sys2Proof.Machine
end

