-- ==== Sys2Proof/Machine/State.lean ====
section
/-! DEFINITION. The state of the device: everything the spec gives it, as plain data, and the queue of commands that
wait. Tables with few entries are Sparse: keys strictly rise and no entry equals what an unlisted key reads as. -/

namespace Sys2Proof.Machine

/-! ### Cells (chapters 04, 05, 06, 09) -/

/-- An instruction in a unit queue or in flight: its word, its index, and the registers it read at issue (R615). -/
structure UnitOp where
  word : InsnWord
  pc : Nat
  x : Sparse Word
  d : Sparse (BitVec 128)
  deriving DecidableEq, Repr

/-- One level of the loop stack: the body's first and last index and the repeats left (R171). -/
structure LoopLevel where
  first : Nat
  last : Nat
  left : Nat
  deriving DecidableEq, Repr

/-- A ring of a consumer cell (R186 to R191). `returned` counts the filled, unreleased slots that an RWAIT has
returned; `nextFill` is the slot that the next push writes. -/
structure Ring where
  defined : Bool := false
  base : Nat := 0
  slots : Nat := 0
  slotSz : Nat := 0
  /-- producers (logical cell, handle) of the filled, unreleased slots, oldest first -/
  filled : List (Nat × Nat) := []
  returned : Nat := 0
  nextFill : Nat := 0
  nextFree : Nat := 0
  hwmBeat : Nat := 0
  hwmLast : Nat := 0
  hwmStep : Nat := 0
  hwmMax : Nat := 0
  deriving DecidableEq, Repr

/-- A ring handle of a producer cell (R187). -/
structure RingHandle where
  bound : Bool := false
  peer : Nat := 0
  ring : Nat := 0
  credits : Nat := 0
  deriving DecidableEq, Repr

/-- A byte that a move or a vector instruction writes: where, under which mask, and what. -/
inductive Place
  /-- byte of the store of a physical cell -/
  | store (cell off : Nat)
  /-- byte of the block store of a global block -/
  | block (blk off : Nat)
  /-- byte of stack memory: stack and stack-local address -/
  | hbm (stack la : Nat)
  /-- byte of the Square scratch windows -/
  | scratch (off : Nat)
  /-- instruction memory word of a physical cell, one byte of it -/
  | imem (cell byte : Nat)
  /-- an address that takes no data: the write is dropped -/
  | nowhere
  deriving DecidableEq, Repr

/-- A masked byte to be written. -/
structure ByteWrite where
  at_ : Place
  mask : Byte
  val : Byte
  deriving DecidableEq, Repr

/-- What a move-class operation in flight still has to do (R184 to R189, R279, R350, R432). -/
inductive FlightKind
  /-- a copy: its bytes are written at completion -/
  | copy
  /-- a ring push: the consumer cell (logical), ring and slot; filled once its last byte is written -/
  | push (peer ring slot : Nat) (filled : Bool)
  /-- RWAIT on a ring, writing x[ra] -/
  | rwait (ring ra : Nat)
  /-- RFREE of a ring; once released, its credit is on its way to the producer (logical cell and handle) -/
  | rfree (ring : Nat) (credit : Option (Nat × Nat))
  /-- RDEF -/
  | rdef
  /-- RCONN of a handle to a ring of a consumer, whose credits are on their way -/
  | rconn (handle peer ring : Nat)
  /-- IMLOAD of words from an index on -/
  | imload (start count : Nat)
  /-- an ATOM at the Squares: its operands, the compare values of a CAS, the old values of the elements or rows applied so
  far, and the flags they raised -/
  | atom (src cmp old : List Nat) (flags : Flags)
  /-- GATHER or a collective: the gate operation it waits for -/
  | gate (op : Nat)
  deriving DecidableEq, Repr

/-- A move-class operation in flight. `dest` names the destination that keeps completion order (R184). -/
structure Flight where
  op : UnitOp
  kind : FlightKind
  dest : Nat
  writes : List ByteWrite
  post : Option Nat
  deriving DecidableEq, Repr

/-- A wait that blocks a cell (R304, R305). -/
structure PendingWait where
  isLine : Bool
  isTake : Bool
  id : Nat
  target : BitVec 32
  issued : Nat
  expires : Nat
  gated : Bool
  /-- the cycle from which LEND_THRESH counts (R308) -/
  since : Nat
  pc : Nat
  word : InsnWord
  deriving DecidableEq, Repr

/-- A tile buffer of the vector engine (R205): its tag and its bytes. -/
structure TileBuf where
  valid : Bool := false
  rows : Nat := 0
  cols : Nat := 0
  bf16 : Bool := false
  data : Sparse Byte := []
  deriving DecidableEq, Repr

/-- A set of weight registers of one array (R123): the pass that loaded it (its mode, K, N, and whether it takes the
integer path), the format code of the elements (the weight's own, or the expansion target's), and for each logical column
its elements by logical row, each an encoding and a scale byte. -/
structure Weights where
  loaded : Bool := false
  mode : Nat := 0
  k : Nat := 0
  n : Nat := 0
  integer : Bool := false
  elem : Nat := 0
  cols : List (List (Nat × Nat)) := []
  deriving DecidableEq, Repr

/-- The loading pass of an array (R177): its serial number in the cell, mode, K, N and whether it takes the integer
path. -/
structure Loader where
  serial : Nat
  mode : Nat
  k : Nat
  n : Nat
  integer : Bool
  deriving DecidableEq, Repr

/-- One matrix array (R122, R123): repair map, weights and counters. -/
structure MatrixArray where
  badRow : Nat := 0x1F
  badCol : Nat := 0x1F
  /-- a repair map that Muster set and that takes effect at the next unpark (R152) -/
  nextMap : Option (Nat × Nat) := none
  active : Weights := {}
  standby : Weights := {}
  /-- none before the first load since the cell's instruction memory was loaded -/
  loader : Option Loader := none
  passes : Nat := 0
  chkFail : Nat := 0
  chkSkip : Nat := 0
  accCe : Nat := 0
  deriving DecidableEq, Repr

/-- A pass in the matrix queue, and whether its weights stand in the standby registers. -/
structure MatrixOp where
  op : UnitOp
  loaded : Bool
  deriving DecidableEq, Repr

/-- A pass that has begun feeding: its activation vectors as read, their format code, the weights of each array, the index
of the next vector to write, and whether any vector mismatched (R150). -/
structure Pass where
  op : UnitOp
  k : Nat
  n : Nat
  integer : Bool
  fmt : Nat
  acts : List (List (Nat × Nat))
  weights : List Weights
  next : Nat
  mismatched : Bool
  deriving DecidableEq, Repr

/-- The queues of a cell's units and what is in flight in them; none of it outlives a beat (R157). -/
structure Units where
  matrix : List MatrixOp := []
  passes : List Pass := []
  vector : List UnitOp := []
  move : List UnitOp := []
  flights : List Flight := []
  sync : List UnitOp := []
  /-- the finished-tile queue -/
  ftq : List Word := []
  /-- entries that FINISH passes have still to place, oldest first -/
  finishing : List Word := []
  bufs : Sparse TileBuf := []
  deriving DecidableEq, Repr

/-- Counters of a physical cell since power-up reset (R198, R233). -/
structure CellCounters where
  portStall : Nat := 0
  ringStall : Nat := 0
  storeCe : Nat := 0
  imemCe : Nat := 0
  faults : Nat := 0
  vecInsns : Nat := 0
  vecElems : Nat := 0
  vecAccWait : Nat := 0
  vecBufCe : Nat := 0
  vecFlags : Flags := 0#8
  deriving DecidableEq, Repr

/-- The sequencer of a cell in the open beat. -/
structure Sequencer where
  /-- issuing: active in the open beat, neither yielded nor stopped -/
  running : Bool := false
  /-- YIELD has issued -/
  yieldIssued : Bool := false
  /-- YIELD has retired in the open beat -/
  yielded : Bool := false
  /-- the cycle at which YIELD retired, for the beat record -/
  yieldedAt : Nat := 0
  pc : Nat := 0
  loops : List LoopLevel := []
  wait : Option PendingWait := none
  /-- passes issued so far, naming loading passes for R177 -/
  passSerial : Nat := 0
  deriving DecidableEq, Repr

/-- A physical cell (R157, R205, R208). -/
structure Cell where
  x : Sparse Word := []
  d : Sparse (BitVec 128) := []
  rings : Sparse Ring := []
  handles : Sparse RingHandle := []
  imem : Sparse InsnWord := []
  store : Sparse Byte := []
  /-- entry (array a, row r, column n) at 16384 a + 16 r + n -/
  acc : Sparse (BitVec 32) := []
  arrays : Sparse MatrixArray := []
  seq : Sequencer := {}
  units : Units := {}
  flags : Flags := 0#8
  fenced : Bool := false
  cnt : CellCounters := {}
  deriving DecidableEq, Repr

/-- The health of a block (R500 to R502). -/
inductive BlockHealth
  | healthy | committed | degraded | failed
  deriving DecidableEq, Repr

/-- A block: its store, its health, its repair map and the logical cells that await a takeover (R19, R500, R501). -/
structure Block where
  store : Sparse Byte := []
  health : BlockHealth := .healthy
  /-- physical position of logical cell c, plus one; 0 stands for position c -/
  pos : Sparse Nat := []
  /-- logical cells vacant and awaiting takeover, in the order their cells were fenced -/
  awaiting : List Nat := []
  /-- logical cell 15 is not provided (a degraded block) -/
  lost15 : Bool := false
  /-- the position that holds the spare, if one is healthy and free -/
  spare : Option Nat := some 16
  deriving DecidableEq, Repr

/-! ### Bells and bell lines (chapter 09) -/

/-- A waiter on a bell (R299, R300): the logical cell, whether it takes, and its target. -/
structure Waiter where
  cell : Nat
  isTake : Bool
  target : BitVec 32
  deriving DecidableEq, Repr

/-- A bell (R299). `bad`: its count word holds an uncorrectable error. -/
structure Bell where
  count : BitVec 32 := 0#32
  waiters : List Waiter := []
  bad : Bool := false
  deriving DecidableEq, Repr

/-- A bell line (R310 to R314). The mask, arrivals and latches are sets of bits 16 b + c of partition blocks. -/
structure Line where
  phase : BitVec 16 := 0#16
  mask : Sparse Bool := []
  arrived : Sparse Bool := []
  latch : Sparse Bool := []
  /-- the line has completed and its latches are to be set -/
  latchDue : Bool := false
  epoch : BitVec 16 := 0#16
  members : Nat := 0
  self : Nat := 0
  key : BitVec 32 := 0#32
  nodes : List Nat := []
  peers : Sparse Bool := []
  peersNext : Sparse Bool := []
  /-- messages are refused until the next epoch (R315) -/
  refused : Bool := false
  deriving DecidableEq, Repr

/-- What a bell operation does. -/
inductive BellOpKind
  | post (n : BitVec 32)
  | wait (target : BitVec 32)
  | take
  deriving DecidableEq, Repr

/-- A bell operation on its way to a bell store (R300): the issuing logical cell, if a cell issued it, and its
instruction. -/
structure BellOp where
  bell : Nat
  kind : BellOpKind
  cell : Option Nat
  ctx : Nat
  pc : Nat
  word : InsnWord
  deriving DecidableEq, Repr

/-- The sync fabric: bells, lines, and what is on its way between cells and stores. -/
structure SyncState where
  bells : Sparse Bell := []
  lines : Sparse Line := []
  ops : List BellOp := []
  /-- logical cells to which a release is on its way -/
  releases : List Nat := []
  /-- logical cells whose cancel is on its way, with the count at expiry -/
  cancels : List (Nat × Nat) := []
  deriving DecidableEq, Repr

/-! ### Memory (chapter 08) -/

/-- The state of a DRAM row (R289). -/
inductive RowState
  | healthy | remapped1 | fused | remapped2 | retired
  deriving DecidableEq, Repr

/-- A row that is not healthy, or whose repair copy runs (R289, R290). -/
structure Row where
  state : RowState := .healthy
  /-- it holds a remap slot -/
  slot : Bool := false
  /-- its repair copy has not finished -/
  copying : Bool := false
  deriving DecidableEq, Repr

/-- A way of a Square cache set (R275): the line address and whether it is dirty. -/
structure CacheWay where
  line : Nat
  dirty : Bool
  deriving DecidableEq, Repr

/-- The result of a margining run (R295). -/
structure Margin where
  valid : Bool := false
  low : Nat := 0
  high : Nat := 0
  deriving DecidableEq, Repr

/-- Per base die and stack: state and counters of the SQ registers (R297), repair and margining. -/
structure Die where
  /-- 0 training, 1 ready, 2 failed, 3 margining (SQ_STAT.STATE) -/
  state : Nat := 0
  temp : Nat := 0
  ce : Nat := 0
  ue : Nat := 0
  rowFails : Nat := 0
  slots : Nat := 0
  hppr : Nat := 0
  /-- hPPR rows used, by bank -/
  hpprUsed : Sparse Nat := []
  pending : Nat := 0
  retired : Nat := 0
  degraded : Nat := 0
  sramCe : Nat := 0
  hits : Nat := 0
  misses : Nat := 0
  atomics : Nat := 0
  /-- the row tracker: row key and corrected errors, oldest first, at most 1,024 -/
  tracker : List (Nat × Nat) := []
  /-- retirements by pseudo-channel -/
  pcRetired : Sparse Nat := []
  /-- banks that gave uncorrectable errors in the open beat, as 64 pc + bank keys -/
  ueBanks : List Nat := []
  /-- Square units being cleared -/
  clearing : List Nat := []
  margins : Sparse Margin := []
  scrubLine : Nat := 0
  deriving DecidableEq, Repr

/-- The memory of the device. Stack bytes lie at 2^37 × stack + stack-local address. -/
structure Mem where
  hbm : Sparse Byte := []
  /-- poisoned lines, at (2^37 × stack + la) / 64 -/
  poison : Sparse Bool := []
  scratch : Sparse Byte := []
  strong : Bool := false
  dies : Sparse Die := []
  /-- rows by (64 stack + pc, la row) key -/
  rows : Sparse Row := []
  /-- retired and retiring frames, by frame number -/
  retired : Sparse Bool := []
  retiring : Sparse Bool := []
  /-- carve-out frame copies marked failed, by stack and frame (R254) -/
  carveFailed : Sparse Bool := []
  /-- Square cache sets at ((die × 16384) + ctx) × 65536 + set: ways, most recently used first -/
  cache : Sparse (List CacheWay) := []
  deriving DecidableEq, Repr

/-! ### Contexts (chapter 10) -/

/-- The states of R319. -/
inductive CtxSt
  | free | stored | parked | unparked
  deriving DecidableEq, Repr

/-- The descriptor of R321, but for NUMBER, STATE and BLOCK_MASK. -/
structure Desc where
  mode : Nat := 0
  timeout : Nat := 0
  xlateRoot : Nat := 0
  /-- four words BASE and COUNT -/
  bells : List Nat := []
  lines : Nat := 0
  power : Nat := 0
  lineTable : Nat := 0
  planA : Nat := 0
  planB : Nat := 0
  shardA : Nat := 0
  shardB : Nat := 0
  gwBase : Nat := 0
  gaBase : Nat := 0
  gwCount : Nat := 0
  seed : BitVec 128 := 0#128
  almanac : Nat := 0
  groups : Nat := 0
  faultRing : Nat := 0
  faultSlots : Nat := 0
  beatSlots : Nat := 0
  beatRing : Nat := 0
  ringReport : Nat := 0
  saveArea : Nat := 0
  saveSize : Nat := 0
  deriving DecidableEq, Repr

/-- The device-kept fields of the descriptor (R321). -/
structure Kept where
  gsel : Bool := false
  /-- SETS: whether set B is active -/
  planB : Bool := false
  shardB : Bool := false
  faultCount : Nat := 0
  beatCount : Nat := 0
  energy : Nat := 0
  runBeats : Nat := 0
  gated : Nat := 0
  parkGnum : Nat := 0
  resume : Nat := 0
  acct : Nat := 0
  /-- the energy remainder below 1 mJ that R345 keeps -/
  energyRem : Nat := 0
  deriving DecidableEq, Repr

/-- A translation entry (R263): frame, KIND and W. -/
structure XEntry where
  frame : Nat
  kind : Nat
  w : Bool
  deriving DecidableEq, Repr

/-- Where a context stands in its plan and its step (R45, R46, R166, R496). -/
structure Run where
  /-- the command that owns the step in progress -/
  step : Option Nat := none
  /-- the frame the open beat runs, or the next one to run -/
  frame : Nat := 0
  /-- the open beat runs the frame -/
  inFrame : Bool := false
  /-- FLAGS of the frame of the open beat, or of the last beat that ran one -/
  flags : Nat := 0
  /-- the last closed beat ran a frame -/
  ranFrame : Bool := false
  /-- the frame the next step starts at -/
  nextStart : Nat := 0
  /-- instruction memories are to be loaded before the next frame (R166, R168) -/
  needLoad : Bool := false
  /-- load beats left, the open one included -/
  loadLeft : Nat := 0
  /-- a fault affects the context and its discard boundary is still to come (R496) -/
  discarding : Bool := false
  /-- the work of the step has been discarded: no further records in the step (R444) -/
  discarded : Bool := false
  /-- the last fault record: cycle, code and its number in the ring (R495) -/
  lastFault : Option (Nat × Nat × Nat) := none
  /-- the latest STEP's LINE_EPOCH -/
  epoch : Nat := 0
  /-- the group beat number of the step's first beat -/
  firstBeat : Nat := 0
  deriving DecidableEq, Repr

/-- The device-kept fields of a context's Almanac block (R371, R374), and the last s(t) (R392). -/
structure Almanac where
  cb : Nat := 0
  step : Nat := 0
  /-- 0 IDLE, 1 PASS_A, 2 PASS_B, 3 DONE, 4 IN_DOUBT, 5 FUSED -/
  upd : Nat := 0
  lastFlip : Nat := 0
  sched : Nat := 0
  /-- a pass A has started since the last flip (R387) -/
  passSince : Bool := true
  /-- the step of the last flip, or the one in doubt, was a refresh step (R449) -/
  refreshed : Bool := false
  /-- the placement of R373 has been checked since the last swap, unpark or MEM_MAP -/
  placed : Bool := false
  deriving DecidableEq, Repr

/-- Norms of one tensor from one member of a shard group, as FP64 bits (R384, R385). -/
structure NormEntry where
  key : Nat
  member : Nat
  tensor : Nat
  g : Nat
  d : Nat
  w : Nat
  deriving DecidableEq, Repr

/-- An update or fused pass in progress (R383 to R386, R389): the block and the group table read at acceptance, what its
passes have met, and what has come from the other members. -/
structure Update where
  t : Nat
  /-- UPD_FRAME -/
  frame : Nat
  blk : List Byte
  grp : List Byte
  fused : Bool := false
  /-- of a fused pass: APPLY rather than REFRESH -/
  apply_ : Bool := false
  /-- Mills still to finish the pass that runs -/
  mills : List Nat := []
  nonfiniteA : Bool := false
  nonfiniteB : Bool := false
  /-- NORMS of members, the own ones included, and the sums of the groups -/
  norms : List NormEntry := []
  sums : List NormEntry := []
  voted : Bool := false
  /-- member, OK and CLIP of the votes that have come to the leader -/
  votes : List (Nat × Bool × Nat) := []
  /-- GTOT and DECISION -/
  decision : Option (Nat × Bool) := none
  doneSent : Bool := false
  dones : List (Nat × Bool) := []
  commit : Bool := false
  /-- the CAUSE of an ABORT -/
  abort : Option Nat := none
  /-- the leader has sent COMMIT or ABORT -/
  settled : Bool := false
  /-- the step is a refresh step, and its parity refresh has begun (R449) -/
  refresh : Bool := false
  deriving DecidableEq, Repr

/-- A data piece, or a symbol of a stripe, as it arrives (R449, R453): what its header covers, the node that sends it, its
chunks, the number of chunks and the CRC once the last chunk has come, and whether it has been asked for again. -/
structure ParPiece where
  cstep : Nat
  stripe : Nat
  slot : Nat
  src : Nat
  parts : List (Nat × List Byte) := []
  total : Option (Nat × Nat) := none
  again : Bool := false
  deriving DecidableEq, Repr

/-- A refresh or a rebuild of coded state in progress (R449, R450, R453). Symbols are named by stripe and slot. -/
structure ParOp where
  rebuild : Bool
  /-- the command it belongs to; none within an update -/
  job : Option Nat
  /-- the buffer whose image a refresh covers -/
  buf : Nat
  /-- the area it writes -/
  area : Nat
  cstep : Nat
  /-- pieces sent and not acknowledged: stripe, slot and the member that holds the parity -/
  unacked : List (Nat × Nat × Nat) := []
  /-- pieces that the own parities have taken in -/
  applied : List (Nat × Nat) := []
  /-- symbols asked for, come, and lost -/
  want : List (Nat × Nat) := []
  got : List (Nat × Nat × List Byte) := []
  lost : List (Nat × Nat) := []
  /-- lost members -/
  gone : List Nat := []
  bytes : Nat := 0
  /-- the status it ends with, where it cannot go on -/
  fail : Option Nat := none
  /-- the cycle at which GATE_CTL.COLL_TIMEOUT expires, once a request has gone out -/
  deadline : Option Nat := none
  deriving DecidableEq, Repr

/-- A context's coded state (R445 to R454). -/
structure Coding where
  present : Bool := false
  k : Nat := 0
  n : Nat := 0
  self : Nat := 0
  key : Nat := 0
  nodes : List Nat := []
  p : Nat := 0
  area0 : Nat := 0
  area1 : Nat := 0
  ccb : Nat := 0
  cstep : Nat := 0
  valid : Bool := false
  /-- CODE_REFRESH has completed since the last flip of CCB -/
  ready : Bool := false
  /-- CSTEP and VALID before the last flip of CCB -/
  before : Nat := 0
  validBefore : Bool := false
  op : Option ParOp := none
  /-- pieces and symbols that are arriving -/
  recv : List ParPiece := []
  /-- node numbers that a rebuild has replaced, old and new, in the device's copies of the group tables (R453) -/
  renames : List (Nat × Nat) := []
  deriving DecidableEq, Repr

/-- A context. -/
structure Ctx where
  st : CtxSt := .free
  desc : Desc := {}
  kept : Kept := {}
  /-- loaded level-2 entries by context page, for both granary images (R264, R610) -/
  xlate : Sparse XEntry := []
  run : Run := {}
  /-- the commit group of the Almanac block last read: C_KEY, nodes in member order, own index -/
  cKey : Nat := 0
  cNodes : List Nat := []
  cSelf : Nat := 0
  alm : Almanac := {}
  upd : Option Update := none
  code : Coding := {}
  /-- a usable save lies in the save area (R329, R331, R335) -/
  saved : Bool := false
  /-- a RESHARD to the shadow shard map has completed with ST_OK (R365) -/
  resharded : Bool := false
  /-- bytes of the residency pool in use (R352) -/
  pool : Nat := 0
  /-- bytes of HBM traffic by base die and flits by engine in the sense interval (R344) -/
  traffic : Sparse Nat := []
  deriving DecidableEq, Repr

/-! ### Commands in progress (chapter 15) -/

/-- Where a command came from, and so where its reply goes: a ring of a context's ring set, or a session with the source
address and port of the datagram. -/
inductive Origin
  | ring (ctx : Nat) (urgent : Bool)
  | session (num addr port : Nat)
  deriving DecidableEq, Repr

/-- A command accepted and still in progress: its identity, its header fields and payload, what it has yet to do, and
numbers that its own rule keeps. -/
structure Job where
  id : Nat
  origin : Origin
  opcode : Nat
  tag : Nat
  /-- SEQ of the latest copy (R467) -/
  seq : Nat
  ctx : Nat
  payload : List Byte
  /-- the beat number it names or awaits; 0 for none -/
  at_ : Nat
  phase : Nat
  vals : List Nat
  /-- bytes of structures that the command read at acceptance -/
  data : List Byte := []
  deriving DecidableEq, Repr

/-- A reply (R459); DETAIL0 to DETAIL3 in `det`. -/
structure Reply where
  tag : Nat
  status : Nat
  opcode : Nat
  seq : Nat
  ctx : Nat
  dup : Bool
  gnum : Nat
  det : List Nat
  deriving DecidableEq, Repr

/-- A ring set (R461, R462): absent while SLOTS is 0. Heads and tails are the counts of R462; `sqSeq` and `uqSeq` are the
SEQ expected next (R465); `kept` holds the replies of completed commands and `held` those not yet written, oldest first. -/
structure RingSet where
  sqBase : Nat := 0
  uqBase : Nat := 0
  cqBase : Nat := 0
  slots : Nat := 0
  rights : Nat := 0
  sqHead : Nat := 0
  sqTail : Nat := 0
  uqHead : Nat := 0
  uqTail : Nat := 0
  cqHead : Nat := 0
  cqTail : Nat := 0
  sqSeq : Nat := 1
  uqSeq : Nat := 1
  kept : List Reply := []
  held : List Reply := []
  deriving DecidableEq, Repr

/-- A session (R471 to R473): not open until SESSION_OPEN. Times are cycles; `seen` lists the SEQs accepted among the 63
below the highest. -/
structure Session where
  isOpen : Bool := false
  key : List Byte := []
  rights : Nat := 0
  openedAt : Nat := 0
  lifetime : Nat := 0
  lastAt : Nat := 0
  highest : Nat := 0
  seen : List Nat := []
  kept : List Reply := []
  deriving DecidableEq, Repr

/-- A half-open session (R471): its number and the two nonces. -/
structure HalfOpen where
  num : Nat
  client : List Byte
  device : List Byte
  deriving DecidableEq, Repr

/-- A command that waits in the queue of its class (R460, R468): where it came from and its packet. -/
structure Queued where
  origin : Origin
  packet : List Byte
  deriving DecidableEq, Repr

/-- A transfer over the management port (R475): the command it belongs to, its destination, the KIND of its datagrams, the
reply owed at its end, the bytes, how many are sent and how many are acknowledged, and the cycle of the last progress. -/
structure Xfer where
  num : Nat
  addr : Nat
  port : Nat
  tag : Nat
  kind : Nat
  job : Nat
  status : Nat
  det : List Nat
  data : List Byte
  sent : Nat
  acked : Nat
  at_ : Nat
  deriving DecidableEq, Repr

/-- A packet that has left the management port: destination address and port, and its bytes; `echo` marks an ICMPv6
answer. -/
structure Sent where
  addr : Nat
  port : Nat
  echo : Bool
  bytes : List Byte
  deriving DecidableEq, Repr

/-- Ozmin (chapter 15). -/
structure OzminState where
  /-- CMD_STAT.RUNNING -/
  running : Bool := false
  /-- when RUNNING was set -/
  since : Nat := 0
  rings : Sparse RingSet := []
  sessions : Sparse Session := []
  half : List HalfOpen := []
  queue : List Queued := []
  xfers : List Xfer := []
  /-- packets sent from the management port, oldest first -/
  sent : List Sent := []
  deriving DecidableEq, Repr

/-! ### Boot and identity (chapter 18) -/

/-- A measurement of the chain (R545): TYPE, VERSION and DIGEST. -/
structure Measure where
  type : Nat
  version : Nat
  digest : List Byte
  deriving DecidableEq, Repr

/-- A change of the owner record being programmed (R556): the items staged when it began, or an erase. -/
inductive OwnerWrite
  | commit (items : Sparse (List Nat))
  | release
  deriving DecidableEq, Repr

/-- Boot, identity and the flash outside the Tally area (R531 to R556). -/
structure BootState where
  /-- BOOT_STAT.STAGE, and STATE: 0 booting, 1 running, 2 failed -/
  stage : Nat := 1
  status : Nat := 0
  error : Nat := 0
  /-- bytes of the flash outside the Tally area; an erased byte reads 0xFF -/
  flash : Sparse Byte := []
  /-- running slot and version -/
  slot : Nat := 0
  version : Nat := 0
  fallback : Bool := false
  osRun : Bool := false
  /-- stage 8 has ended since the release from reset -/
  booted : Bool := false
  idOk : Bool := false
  /-- the unsealed owner secret; none while unclaimed -/
  secret : Option (List Byte) := none
  /-- the owner record in use at the last Ozmin start has changed since -/
  ownerChanged : Bool := false
  writing : Option OwnerWrite := none
  /-- a restart of Ozmin is due (R551, R552), and the image that ran failed on trial (R553) -/
  restart : Bool := false
  trialFail : Bool := false
  /-- staged items of R556 by number: their four words -/
  staged : Sparse (List Nat) := []
  chain : List Measure := []
  measure : List Byte := []
  /-- sectors of the shadow slot erased since power-up or the last FW_ACTIVATE -/
  erased : List Nat := []
  deriving DecidableEq, Repr

/-! ### Power and clocks (chapter 19) -/

/-- A power policy (R564). -/
structure Policy where
  maxPace : Nat := 4
  lend : Bool := true
  budget : List Nat := [637, 637, 637, 637]
  deriving DecidableEq, Repr

/-- A clock domain (R570 to R572). -/
structure Domain where
  running : Bool := true
  locked : Bool := true
  droop : Bool := false
  /-- the cycle of the last droop event, plus one -/
  last : Nat := 0
  deriving DecidableEq, Repr

/-- An environment sensor (R561): its last sample, and how many samples in a row lay outside. -/
structure Sensor where
  value : Int := 0
  outside : Nat := 0
  deriving DecidableEq, Repr

/-- The power manager. Powers are in units of 10^-3 W. -/
structure PowerState where
  policy : Policy := {}
  /-- the active set is B -/
  setB : Bool := false
  /-- pacing levels at 4 × context + region (R567) -/
  pace : Sparse Nat := []
  /-- gated cells that lend power, with the levels that the contexts of their region had before (R569) -/
  loans : List (Nat × List (Nat × Nat)) := []
  /-- power outside the region dies in the last intervals, newest first, at most 100 -/
  other : List Nat := []
  /-- regions at or above T_LIM -/
  hot : List Nat := []
  overCap : Bool := false
  /-- per region: power measured, budget, and the highest level, of the last interval -/
  measured : List Nat := [0, 0, 0, 0]
  budget : List Nat := [0, 0, 0, 0]
  paceMax : List Nat := [0, 0, 0, 0]
  domains : Sparse Domain := []
  sensors : Sparse Sensor := []
  /-- energy of context 0 and of each account of STRUCT 0x1C below 1 mJ, in units of 10^-5 mJ -/
  rem0 : Nat := 0
  rems : Sparse Nat := []
  deriving DecidableEq, Repr

/-! ### Pins and debug ports (chapters 20 and 21) -/

/-- The signals of J1 and the debug ports. -/
structure PinState where
  /-- the rails are up: PWRGD drives high -/
  pwrgd : Bool := true
  /-- PERST_N is asserted, or the device has not yet been released from reset -/
  inReset : Bool := false
  /-- ALERT_N and THERMTRIP_N are asserted -/
  alert : Bool := false
  tripped : Bool := false
  /-- STRAP3 to STRAP0 as sampled -/
  straps : Nat := 0
  /-- the management lane: 0 no link, 1 25GBASE-KR, 2 100GBASE-KR1 -/
  mgmtSpeed : Nat := 0
  /-- debug owner: 0 none, 1 JTAG, 2 I3C -/
  owner : Nat := 0
  /-- the TAP instruction loaded, by its code, and what its data register shifts out -/
  tapInsn : Nat := 2
  tapOut : List Byte := []
  /-- the I3C target: dynamic address (0 none), register address, enabled events, the action that the next bus reset takes (0
  none, 1 the target's interface, 2 the whole target), and what the last transfer returned; none where it was not
  acknowledged -/
  i3cAddr : Nat := 0
  i3cReg : Nat := 0
  i3cEvents : Nat := 0
  i3cRst : Nat := 1
  i3cOut : Option (List Byte) := none
  deriving DecidableEq, Repr

/-! ### The beat (chapter 02) -/

/-- A change of LEN, STRETCH_MAX and NOTICE that a LEN_SET, a command or a register write has scheduled (R65, R67,
R84). -/
structure LenChange where
  len : Nat
  stretchMax : Nat
  notice : Nat
  effective : Nat
  byCommand : Bool
  deriving DecidableEq, Repr

/-- The open exchange of SYNC and DELAY messages (R70): SEQ, t1, t2, t3 in units of 2^-16 ns. -/
structure SyncExchange where
  seq : Nat
  t1 : Int
  t2 : Int
  t3 : Int
  deriving DecidableEq, Repr

/-- A follower's SLACK report (R64). -/
structure SlackReport where
  node : Nat
  slackNs : Nat
  first : Nat
  deriving DecidableEq, Repr

/-- The beat master. Times are cycles of the 3.0 GHz clock since power-up reset. -/
structure Beat where
  count : Nat := 0
  gnum : Nat := 0
  /-- T: when the open beat opened -/
  openAt : Nat := 0
  /-- D -/
  deadline : Nat := 48000
  /-- extensions made in the open beat -/
  k : Nat := 0
  /-- the window of adaptation: beats, stretched beats, smallest slack in cycles, first beat -/
  winBeats : Nat := 0
  winStretched : Nat := 0
  winSlack : Option Nat := none
  winFirst : Nat := 0
  /-- the decision of R65 has been taken in the open beat -/
  decided : Bool := false
  changes : List LenChange := []
  reports : List SlackReport := []
  /-- FLOOR last reported by each follower -/
  floors : Sparse Nat := []
  /-- the leader's node, once a follower has learnt it -/
  leader : Option Nat := none
  depth : Nat := 0
  exchange : Option SyncExchange := none
  seq : Nat := 0
  /-- consecutive exchanges with |offset| ≤ 100 ns -/
  good : Nat := 0
  /-- group beat number at which the last SYNC arrived -/
  lastSync : Nat := 0
  /-- SYNC has been lost since the last one arrived -/
  timedOut : Bool := false
  /-- correction of the timebase, units of 2^-16 ns -/
  adjust : Int := 0
  /-- the device has joined and waits for its parent's first SYNC -/
  joining : Bool := false
  locked : Bool := false
  alignWarn : Bool := false
  syncLost : Bool := false
  offset : Int := 0
  delay : Nat := 0
  stretched : Nat := 0
  quanta : Nat := 0
  overruns : Nat := 0
  deriving DecidableEq, Repr

/-! ### Device-scope sets (R75) -/

/-- The partition map (R323): owner plus one of each block, and mode and owner of each Square unit (mode × 16384 + owner
at 16 n + u). -/
structure PartMap where
  blocks : Sparse Nat := []
  units : Sparse Nat := []
  deriving DecidableEq, Repr

/-- The interleave map (R259): none stands for the default map of the ECC mode (R262). -/
structure IMap where
  entries : Option (Sparse Nat) := none
  deriving DecidableEq, Repr

/-- The device-scope double sets (R75): the active partition and interleave maps, and for each set the bytes that the active
and the shadow set hold; none stands for what the set holds at reset. A route set is its port table and its route table. -/
structure DeviceSets where
  part : PartMap := {}
  imap : IMap := {}
  partRaw : Option (List Byte) := none
  partShadow : Option (List Byte) := none
  imapRaw : Option (List Byte) := none
  imapShadow : Option (List Byte) := none
  powerRaw : Option (List Byte) := none
  powerShadow : Option (List Byte) := none
  routeRaw : Option (List Byte × List Byte) := none
  routeShadow : Option (List Byte × List Byte) := none
  deriving DecidableEq, Repr

/-! ### Faults (chapter 16) -/

/-- Fault containment outside the contexts. -/
structure FaultState where
  /-- physical cells to be fenced at the next boundary, with their logical cells (0xFFFF for none) and the code of the fault -/
  fences : List (Nat × Nat × Nat) := []
  /-- context 0's fault ring: base, slots, records written (R494) -/
  ring0 : Nat := 0
  slots0 : Nat := 0
  count0 : Nat := 0
  /-- regions that accept no new partition -/
  barred : List Nat := []
  /-- scopes out of service by QUARANTINE, as SCOPE_KIND and SCOPE_ID (R485); units to be returned to service (R583), as
  SCOPE_KIND and number, a quarantined scope as 8 + SCOPE_KIND and SCOPE_ID; and the ring links and end regions that have
  passed since the link went down, as 4 × link + region (R252) -/
  quarantined : List (Nat × Nat) := []
  restores : List (Nat × Nat) := []
  endsPassed : List Nat := []
  /-- Square units (16 n + u) that Muster found bad, and engines that stay out of service (R582) -/
  badUnits : List Nat := []
  badEngines : List Nat := []
  /-- CTX_UNPARK is refused until a Hall MUSTER_RUN passes (R491) -/
  unparkBarred : Bool := false
  safeHold : Bool := false
  /-- stops and ports with a parity error, by region and number, and failed ones (R251) -/
  parity : Sparse Nat := []
  failedStops : Sparse Bool := []
  /-- ring links and spokes that are down -/
  linksDown : List Nat := []
  /-- replay events by link and direction in the open beat, and tries of one flit (R250) -/
  replays : Sparse Nat := []
  deriving DecidableEq, Repr

/-! ### The Tally (chapter 17) -/

/-- A log record (R522): its type, FLAGS, SEQ, GNUM, the power-up it belongs to, and its body. `note` is what the action
detail of a REPAIR record stands for, whose bytes R522 does not lay out: a row key and the state it takes (R525). -/
structure LogRec where
  type : Nat
  flags : Nat
  seq : Nat
  gnum : Nat
  boots : Nat
  body : List Byte
  note : List Nat := []
  deriving DecidableEq, Repr

/-- A sector of the Tally area (R522): its number, its erases, FIRST_SEQ and its records, oldest first. -/
structure LogSector where
  num : Nat
  erases : Nat
  first : Nat
  recs : List LogRec
  deriving DecidableEq, Repr

/-- The Tally (R514 to R525). -/
structure Tally where
  /-- entries by identifier -/
  vals : Sparse Nat := []
  /-- gauges and extremes that have been read -/
  ever : Sparse Bool := []
  /-- records waiting to be programmed, oldest first -/
  queue : List LogRec := []
  /-- sectors of the flash log, oldest first -/
  sectors : List LogSector := []
  /-- SEQ of the next record -/
  seq : Nat := 0
  boots : Nat := 0
  /-- the replay of R525 has ended; UNCLEAN and TORN of this power-up's BOOT record -/
  ready : Bool := false
  unclean : Bool := false
  torn : Bool := false
  /-- number of the last checkpoint, parts of a checkpoint not yet programmed, and when the last one began -/
  ckpt : Nat := 0
  ckptLeft : Nat := 0
  ckptAt : Nat := 0
  /-- the sense period in progress: when it began and its length in ms -/
  periodAt : Nat := 0
  period : Nat := 100
  /-- last reading of each die, and the dies read in this period -/
  temps : Sparse Int := []
  tempsNew : List Nat := []
  ageAt : Nat := 0
  /-- oscillators whose reading was skipped -/
  ageLate : List Nat := []
  deriving DecidableEq, Repr

/-! ### Messages (R406) -/

/-- A message handed to the links: the node it is for, its class (0 CTL, 1 COLL, 2 BULK, 3 PAR), the context it is sent
for, and its bytes. For CTL, `sub` names the consumer. -/
structure OutMsg where
  dst : Nat
  cls : Nat
  sub : Nat
  ctx : Nat
  bytes : List Byte
  deriving DecidableEq, Repr

/-- A message received whole and not yet taken by its consumer: port, class, SUB, bytes, and when its first flit
arrived. -/
structure InMsg where
  port : Nat
  cls : Nat
  sub : Nat
  bytes : List Byte
  at_ : Nat
  deriving DecidableEq, Repr

/-! ### Gates (chapters 11 and 14) -/

/-- Chunk of an item as it arrived: member, chunk number, bytes. -/
structure Chunk where
  member : Nat
  chunk : Nat
  data : List Byte
  deriving DecidableEq, Repr

/-- Something a gate operation receives: a shard, or the tile of a member. -/
structure GateItem where
  index : Nat
  /-- 0 not begun, 1 requested, 2 done -/
  phase : Nat
  parts : List Chunk
  /-- CRC and number of chunks, by member, once the last chunk has come -/
  crcs : List (Nat × Nat × Nat)
  /-- members whose contribution has been asked for a second time -/
  retried : List Nat
  /-- STEP of the owner, of a fetched shard -/
  step : Nat
  deriving DecidableEq, Repr

/-- A gate operation of a cell (R350 to R353, R430 to R437). -/
structure GateOp where
  id : Nat
  ctx : Nat
  cell : Nat
  op : UnitOp
  /-- 0 RSCAT, 1 REDUCE, 2 ALLGATH, 3 GATHER -/
  fn : Nat
  key : Nat
  tag : Nat
  gnum : Nat
  tensor : Nat
  first : Nat
  count : Nat
  group : Nat
  nodes : List Nat
  self : Nat
  items : List GateItem
  /-- contributions that others reduce or place and have not acknowledged: item and member -/
  serves : List (Nat × Nat)
  /-- the cycle at which GATE_CTL.COLL_TIMEOUT expires, once a request has gone out -/
  deadline : Option Nat
  deriving DecidableEq, Repr

/-- Counters of a region's gate (R457). -/
structure GateCount where
  redBytes : Nat := 0
  crcRetry : Nat := 0
  crcFatal : Nat := 0
  peerLost : Nat := 0
  timeouts : Nat := 0
  held : Nat := 0
  deriving DecidableEq, Repr

/-- A bulk transfer that is arriving: its origin, its TRANSFER value, and the bytes that have come, by offset (R406). -/
structure BulkIn where
  src : Nat
  transfer : Nat
  parts : List (Nat × List Byte)
  deriving DecidableEq, Repr

/-- The gates: operations in progress, and requests held until their COLL issues, with the context that is to serve
(R437). -/
structure GateState where
  ops : List GateOp := []
  nextOp : Nat := 1
  held : List (Nat × InMsg) := []
  bulk : List BulkIn := []
  count : Sparse GateCount := []
  deriving DecidableEq, Repr

/-! ### Links (chapter 13) -/

/-- A DATA flit that waits for a credit or for its acknowledgement. `msg` numbers its message; `own` says whether this
device is the message's origin, and `src` names the origin. -/
structure TxFlit where
  seq : Nat
  dest : Nat
  cls : Nat
  sub : Nat
  hops : Nat
  body : List Byte
  msg : Nat
  own : Bool
  src : Nat
  ctx : Nat
  /-- OP, KEY and TAG of its message -/
  mop : Nat
  mkey : Nat
  mtag : Nat
  deriving DecidableEq, Repr

/-- A retry episode (R409): s0, t0 and the attempts made. -/
structure Episode where
  s0 : Nat
  t0 : Nat
  att : Nat
  deriving DecidableEq, Repr

/-- An optical port. -/
structure Port where
  /-- 0 disabled, 1 training, 2 up, 3 down, 4 wiring error, 5 round trip too long -/
  state : Nat := 0
  laser : Bool := false
  /-- the training phase and when it began -/
  phase : Nat := 0
  phaseAt : Nat := 0
  /-- receiver: expected number, whether a NAK is outstanding -/
  expect : Nat := 0
  nakOut : Bool := false
  /-- transmitter -/
  una : Nat := 0
  nxt : Nat := 0
  unacked : List TxFlit := []
  waiting : List TxFlit := []
  /-- flits sent and flits freed at the far end, by class, since the port came up -/
  sent : Sparse Nat := []
  freed : Sparse Nat := []
  /-- flits freed in the pools of this end, by class -/
  mine : Sparse Nat := []
  ackAt : Nat := 0
  episode : Option Episode := none
  episodes : Nat := 0
  /-- messages being received, by class and RES: bytes so far -/
  partial_ : Sparse (List Byte) := []
  partialAt : Sparse Nat := []
  /-- messages being forwarded or discarded, by class and RES: output port plus 2, or 1 for discard -/
  through : Sparse Nat := []
  peerNode : Nat := 0
  peerPort : Nat := 0
  /-- HELLO has come; the far end's TX_DELAY and RX_DELAY -/
  hello : Bool := false
  farTx : Nat := 0
  farRx : Nat := 0
  /-- ECHO: number sent, T1 of the open exchange, exchanges measured -/
  echoSeq : Nat := 0
  echoT1 : Nat := 0
  echoes : Nat := 0
  /-- RTT and asymmetry in units of 2^-16 ns -/
  rtt : Nat := 0
  asym : Int := 0
  reach : Bool := false
  /-- a FEC mode fixed by LNK_FEC: 0 Standard, 1 Reach -/
  fixed : Option Nat := none
  /-- the mode to take at the next boundary -/
  nextReach : Option Bool := none
  /-- beats on which every lane has stayed below REACH_OFF -/
  quiet : Nat := 0
  txBytes : Nat := 0
  replays : Nat := 0
  downs : Nat := 0
  drops : Nat := 0
  deriving DecidableEq, Repr

/-- A spare-lane exchange under way (R401): the logical lane, the action (1 switch in, 2 release, 3 borrow), the beat, and
whether SPARE_ACK has come or was sent. -/
structure SpareSwitch where
  lane : Nat
  action : Nat
  at_ : Nat
  acked : Bool
  deriving DecidableEq, Repr

/-- An optical engine: its spare lane in each direction, lanes, margins and counters. -/
structure Engine where
  /-- logical lane that the spare carries, plus one, by direction -/
  spareTx : Nat := 0
  spareRx : Nat := 0
  /-- the spare is only borrowed for margining, by direction (R425) -/
  lentTx : Bool := false
  lentRx : Bool := false
  switchTx : Option SpareSwitch := none
  switchRx : Option SpareSwitch := none
  /-- pre-FEC ratio in units of 10^-12 and eye by receiving physical lane -/
  ber : Sparse Nat := []
  eye : Sparse Nat := []
  margins : Sparse Nat := []
  spares : Nat := 0
  fecSwitches : Nat := 0
  deriving DecidableEq, Repr

/-- The Joley route and port tables (R416, R417), as one set: this device's node, port entries as FLAGS, PEER_PORT,
PEER_NODE and ASYM_ADJ in their 8 bytes, and route words by node. -/
structure LinkTables where
  node : Nat := 0
  ports : Sparse Nat := []
  nodes : Nat := 0
  routes : Sparse Nat := []
  deriving DecidableEq, Repr

/-- The links. -/
structure LinkState where
  ports : Sparse Port := []
  engines : Sparse Engine := []
  tables : LinkTables := {}
  nextMsg : Nat := 0
  /-- messages received whole, oldest first -/
  inbox : List InMsg := []
  deriving DecidableEq, Repr

/-! ### The whole -/

/-- The state of the device. -/
structure State where
  /-- the commands that wait, first in, first out -/
  pending : List Instr := []
  /-- cycles of the 3.0 GHz clock since power-up reset -/
  cycle : Nat := 0
  /-- how many free values have been taken (the model's own field) -/
  fresh : Nat := 0
  /-- registers by address: the value last written -/
  regs : Sparse Word := []
  /-- control registers whose value takes effect later: the value in effect -/
  regsEff : Sparse Word := []
  beat : Beat := {}
  cells : Sparse Cell := []
  blocks : Sparse Block := []
  sync : SyncState := {}
  mem : Mem := {}
  ctxs : Sparse Ctx := []
  jobs : List Job := []
  nextJob : Nat := 0
  oz : OzminState := {}
  boot : BootState := {}
  pwr : PowerState := {}
  pins : PinState := {}
  /-- what the last read by a Hall core or the debug owner returned (the model's own field: the reader stands outside) -/
  readOut : List Byte := []
  sets : DeviceSets := {}
  flt : FaultState := {}
  tly : Tally := {}
  gate : GateState := {}
  link : LinkState := {}
  /-- messages handed to the links and not yet queued at a port, oldest first -/
  out : List OutMsg := []
  deriving DecidableEq, Repr

/-- Right after power-up reset, as the spec states it. -/
def State.reset : State := {}

/-- A step of this model never faults: the device records its own faults in its state and goes on, and every operand is
in range by its type. Safe: there is nothing to raise. -/
inductive Fault
  deriving DecidableEq, Repr

/-- Why a command has no meaning in the model. -/
inductive Refusal
  /-- raised by an arm of exec whose command has no meaning yet; safe -/
  | notModelled (mnemonic : String)
  deriving DecidableEq, Repr

end Sys2Proof.Machine
end

