-- ==== Sys2Proof/Machine/Ops.lean ====
section
/-! DEFINITION. The shared operations: registers, names of units, the Tally's counts, device memory with its errors and
repair, and the raising of faults (chapters 00, 01, 08, 16, 17). -/

namespace Sys2Proof.Machine

/-! ### Registers -/

/-- The value last written to the register at an address, or its reset value (R13). -/
def regGet (s : State) (a : Nat) : Word := (sFind s.regs a).getD (regResetAt a)

/-- The table of registers with one written: a value equal to the reset value is not listed. -/
def regTable (m : Sparse Word) (a : Nat) (v : Word) : Sparse Word := if v = regResetAt a then sErase m a else sPut m a v

def regSet (s : State) (a : Nat) (v : Word) : State := { s with regs := regTable s.regs a v }

/-- The value in effect of a control register whose writes take effect later. -/
def regEff (s : State) (a : Nat) : Nat := ((sFind s.regsEff a).getD (regResetAt a)).toNat

def regEffSet (s : State) (a : Nat) (v : Word) : State := { s with regsEff := regTable s.regsEff a v }

/-- Field [hi:lo] of the value in effect. -/
def effField (s : State) (a hi lo : Nat) : Nat := bitsOf (regEff s a) hi lo

/-- Field [hi:lo] of the value last written. -/
def regField (s : State) (a hi lo : Nat) : Nat := bitsOf (regGet s a).toNat hi lo

/-- A counter register counts (R512). -/
def regCount (a n : Nat) (s : State) : State := regSet s a (BitVec.ofNat 64 (satAdd 64 (regGet s a).toNat n))

/-- A number with field [hi:lo] replaced. -/
def putBits (v hi lo f : Nat) : Nat := v - bitsOf v hi lo * 2 ^ lo + f % 2 ^ (hi + 1 - lo) * 2 ^ lo

/-! ### Free values -/

/-- The next value that the spec does not state (Config.freeValue). -/
def takeFree (s : State) : Nat × State := (Config.freeValue s.fresh, { s with fresh := s.fresh + 1 })

/-! ### Names of units (R17 to R20) -/

/-- The global block of a logical cell. -/
def blockOf (l : Nat) : Nat := l / 16

/-- The region of a logical cell. -/
def regionOf (l : Nat) : Nat := l / 1024

def blk (s : State) (g : Nat) : Block := sGet {} s.blocks g

def updBlk (s : State) (g : Nat) (f : Block → Block) : State := { s with blocks := sUpd {} s.blocks g f }

/-- The position of logical cell c of a block (R19). -/
def Block.posOf (b : Block) (c : Nat) : Nat :=
  let p := sGet 0 b.pos c
  if p = 0 then c else p - 1

/-- The physical cell that holds a logical number (R19). -/
def physOf (s : State) (l : Nat) : Nat := 17 * blockOf l + (blk s (blockOf l)).posOf (l % 16)

/-- A logical number is vacant (R500, R501). -/
def isVacant (s : State) (l : Nat) : Bool :=
  let b := blk s (blockOf l)
  b.awaiting.contains l || (b.lost15 && l % 16 == 15)

def cellAt (s : State) (p : Nat) : Cell := sGet {} s.cells p

def updCell (s : State) (p : Nat) (f : Cell → Cell) : State := { s with cells := sUpd {} s.cells p f }

/-- The logical number that a physical cell holds, if any. -/
def logicalOf (s : State) (p : Nat) : Option Nat :=
  (List.range 16).findSome? (fun c =>
    let l := 16 * (p / 17) + c
    if physOf s l = p ∧ isVacant s l = false then some l else none)

/-! ### Contexts and partitions -/

def ctxAt (s : State) (c : Nat) : Ctx := sGet {} s.ctxs c

def updCtx (s : State) (c : Nat) (f : Ctx → Ctx) : State := { s with ctxs := sUpd {} s.ctxs c f }

def updKept (s : State) (c : Nat) (f : Kept → Kept) : State := updCtx s c (fun x => { x with kept := f x.kept })

def updRun (s : State) (c : Nat) (f : Run → Run) : State := updCtx s c (fun x => { x with run := f x.run })

/-- Resident contexts are PARKED or UNPARKED (R319). -/
def CtxSt.resident (x : CtxSt) : Bool :=
  match x with
  | .parked | .unparked => true
  | _ => false

/-- The resident contexts, ascending. Context 0 is not among them: it belongs to firmware. -/
def residents (s : State) : List Nat := (s.ctxs.filter (fun e => e.2.st.resident)).map (fun e => e.1)

def unparked (s : State) : List Nat := (s.ctxs.filter (fun e => decide (e.2.st = .unparked))).map (fun e => e.1)

/-- The context that the active partition map gives a block to (R323). -/
def ownerOf (s : State) (g : Nat) : Option Nat :=
  let o := sGet 0 s.sets.part.blocks g
  if o = 0 then none else some (o - 1)

/-- The blocks of a context's partition, in partition block order (R164, R324). -/
def partBlocks (s : State) (c : Nat) : List Nat := (List.range 256).filter (fun g => decide (ownerOf s g = some c))

/-- The partition block index of a global block. -/
def partIndex (s : State) (c g : Nat) : Nat := (partBlocks s c).findIdx (fun h => h == g)

/-- The logical cells of a partition that are not vacant, in partition block order. -/
def partCells (s : State) (c : Nat) : List Nat :=
  (partBlocks s c).flatMap (fun g => ((List.range 16).map (fun n => 16 * g + n)).filter (fun l => !isVacant s l))

/-- A logical cell lies in a context's partition and is not vacant (R182). -/
def inPartition (s : State) (c l : Nat) : Bool := decide (ownerOf s (blockOf l) = some c) && !isVacant s l

/-- Mode of a Square unit (0 unassigned, 1 cache, 2 scratch) and its owner. -/
def unitOf (s : State) (n u : Nat) : Nat × Nat :=
  let v := sGet 0 s.sets.part.units (16 * n + u)
  (v / 16384, v % 16384)

/-- The cache units of a context on a base die, ascending. -/
def cacheUnits (s : State) (c n : Nat) : List Nat := (List.range 16).filter (fun u => decide (unitOf s n u = (1, c)))

/-- A context owns some unit of a base die. -/
def ownsUnitOn (s : State) (c n : Nat) : Bool :=
  (List.range 16).any (fun u => decide ((unitOf s n u).1 ≠ 0 ∧ (unitOf s n u).2 = c))

/-! ### The Tally's counts (R514 to R516) -/

/-- The identifier of an entry (R514). -/
def tallyId (qty strct unit : Nat) : Nat := qty * 2 ^ 24 + strct * 2 ^ 16 + unit

/-- A counter counts. -/
def tallyAdd (s : State) (qty strct unit n : Nat) : State :=
  { s with tly := { s.tly with vals := sUpd 0 s.tly.vals (tallyId qty strct unit) (fun v => satAdd 64 v n) } }

/-- A gauge takes a reading. -/
def tallyGauge (s : State) (qty strct unit v : Nat) : State :=
  { s with tly := { s.tly with vals := sSet 0 s.tly.vals (tallyId qty strct unit) v,
                               ever := sSet false s.tly.ever (tallyId qty strct unit) true } }

/-- An extreme takes a reading: it changes only towards its extreme. -/
def tallyExtreme (s : State) (qty strct unit : Nat) (better : Nat → Nat → Bool) (v : Nat) : State :=
  let id := tallyId qty strct unit
  if sGet false s.tly.ever id && !better v (sGet 0 s.tly.vals id) then s else tallyGauge s qty strct unit v

/-- The bytes that the queue of R523 holds; parts of a checkpoint keep their place among the records and are not counted
against it. -/
def logQueued (s : State) : Nat :=
  ((s.tly.queue.filter (fun r => r.type != 2)).map (fun r => 32 + r.body.length)).foldl (fun a b => a + b) 0

/-- A record joins the queue of R523; a FAULT or MARGIN record that finds its part full is dropped and counted. Its SEQ and
its BOOTS are given when it is programmed. -/
def logAppend (s : State) (type flags : Nat) (body : List Byte) : State :=
  let keeps : Bool := type == 4 || type == 5 || type == 6 || type == 7
  if keeps || decide (logQueued s + 32 + body.length ≤ 192 * 1024) then
    let r : LogRec := { type := type, flags := flags, seq := 0, gnum := s.beat.gnum, boots := 0, body := body }
    { s with tly := { s.tly with queue := s.tly.queue ++ [r] } }
  else regCount aTlyLogDrops 1 (tallyAdd s 0x42 0 0 1)

/-- What the detail of the REPAIR record appended last stands for (R525). -/
def noteLast (note : List Nat) (s : State) : State :=
  { s with tly := { s.tly with queue := s.tly.queue.mapIdx (fun i r =>
      if i + 1 = s.tly.queue.length then { r with note := note } else r) } }

/-- Sixteen bytes of action detail of a REPAIR record, which R522 does not lay out: a free value. -/
def freeDetail (s : State) : List Byte × State :=
  let f := takeFree s
  (natLe 16 f.1, f.2)

/-- A REPAIR record (R505, R522): the action of R504 counted from 1, the unit's identifier and the cause. -/
def logRepair (s : State) (action unit cause : Nat) : State :=
  let f := freeDetail s
  logAppend f.2 4 0 (natLe 2 action ++ natLe 6 0 ++ natLe 8 unit ++ natLe 2 cause ++ natLe 6 0 ++ f.1 ++ natLe 8 0)

/-! ### Stack memory (R253 to R262, R284 to R293) -/

/-- The key of a stack byte. -/
def hbmKey (stack la : Nat) : Nat := stack * 2 ^ 37 + la

def dieAt (s : State) (n : Nat) : Die := sGet {} s.mem.dies n

def updDie (s : State) (n : Nat) (f : Die → Die) : State := { s with mem := { s.mem with dies := sUpd {} s.mem.dies n f } }

/-- The bytes of job space in the ECC mode (R253). -/
def jobBytes (s : State) : Nat := if s.mem.strong then 0xB620000000 else 0xBC00000000

/-- The default interleave map entry of granule g, as MODE, TARGET and BASE (R262). -/
def defaultEntry (strong : Bool) (g : Nat) : Nat × Nat × Nat :=
  if strong then
    if g < 682 then (2, 0, 4 * g)
    else if g < 713 then (3, 1, 2728 + 8 * (g - 682))
    else if g < 1457 then (2, 1, 4 * (g - 713))
    else if g < 2139 then (2, 2, 4 * (g - 1457))
    else if g < 2170 then (3, 5, 2728 + 8 * (g - 2139))
    else if g < 2914 then (2, 3, 4 * (g - 2170))
    else (0, 0, 0)
  else
    if g < 704 then (2, 0, 4 * g)
    else if g < 736 then (3, 1, 2816 + 8 * (g - 704))
    else if g < 1504 then (2, 1, 4 * (g - 736))
    else if g < 2208 then (2, 2, 4 * (g - 1504))
    else if g < 2240 then (3, 5, 2816 + 8 * (g - 2208))
    else if g < 3008 then (2, 3, 4 * (g - 2240))
    else (0, 0, 0)

/-- An entry of an interleave map, as MODE, TARGET and BASE (R259). -/
def IMap.entry (m : IMap) (strong : Bool) (g : Nat) : Nat × Nat × Nat :=
  match m.entries with
  | none => defaultEntry strong g
  | some t =>
    let e := sGet 0 t g
    (bitsOf e 1 0, bitsOf e 4 2, bitsOf e 19 8)

/-- The active entry of granule g. -/
def imapEntry (s : State) (g : Nat) : Nat × Nat × Nat := s.sets.imap.entry s.mem.strong g

/-- Where a physical address leads (R253, R612). -/
inductive PhysAt
  /-- job space, on a stack -/
  | hbm (stack la : Nat)
  /-- the carve-out, by its offset -/
  | carve (off : Nat)
  /-- a Square scratch window, by its offset from the first -/
  | scratch (off : Nat)
  /-- a register page -/
  | reg
  | reserved
  deriving DecidableEq, Repr

/-- The physical map of R253 and the interleave of R260. -/
def physAt (s : State) (pa : Nat) : PhysAt :=
  if pa < jobBytes s then
    let e := imapEntry s (pa / 2 ^ 28)
    let off := pa % 2 ^ 28
    match e.1 with
    | 1 => .hbm (bitsOf off 14 12) (e.2.2 * 2 ^ 25 + bitsOf off 27 15 * 2 ^ 12 + off % 2 ^ 12)
    | 2 => .hbm (2 * e.2.1 + bitsOf off 12 12) (e.2.2 * 2 ^ 25 + bitsOf off 27 13 * 2 ^ 12 + off % 2 ^ 12)
    | 3 => .hbm e.2.1 (e.2.2 * 2 ^ 25 + off)
    | _ => .reserved
  else if 0xBC00000000 ≤ pa ∧ pa < 0xBE00000000 then .carve (pa - 0xBC00000000)
  else if 0xC000000000 ≤ pa ∧ pa < 0xC040000000 then .scratch (pa - 0xC000000000)
  else if isRegAddr pa then .reg
  else .reserved

/-- The stack-local address of a carve-out offset: the top 8 GiB of its stack (R254). -/
def carveLa (off : Nat) : Nat := 88 * 2 ^ 30 + off

/-- The pseudo-channel of a stack-local address (R258). -/
def pcOf (la : Nat) : Nat := Nat.xor (bitsOf la 13 8) (bitsOf la 19 14)

/-- The row of a stack-local address: a 64 KiB block of la and a pseudo-channel of a stack (R258). -/
def rowKey (stack la : Nat) : Nat := (64 * stack + pcOf la) * 2 ^ 21 + la / 65536

/-- The bank of a row within its pseudo-channel: 16 sid + 4 bank + bank group (R258). -/
def bankOfBlock (b : Nat) : Nat := 16 * (b / 16 % 3) + b % 16

/-- The base die of a row key. -/
def rowDie (k : Nat) : Nat := k / 2 ^ 27

/-- The physical address of a stack-local address in the active map, if a granule places it (the inverse of R260). -/
def paOf (s : State) (stack la : Nat) : Option Nat :=
  let u := la / 2 ^ 25
  (List.range 3008).findSome? (fun g =>
    let e := imapEntry s g
    match e.1 with
    | 1 => if e.2.2 = u then some (g * 2 ^ 28 + la / 2 ^ 12 % 2 ^ 13 * 2 ^ 15 + stack * 2 ^ 12 + la % 2 ^ 12) else none
    | 2 => if e.2.1 = stack / 2 ∧ e.2.2 ≤ u ∧ u < e.2.2 + 4 then
        some (g * 2 ^ 28 + (la - e.2.2 * 2 ^ 25) / 2 ^ 12 * 2 ^ 13 + stack % 2 * 2 ^ 12 + la % 2 ^ 12) else none
    | 3 => if e.2.1 = stack ∧ e.2.2 ≤ u ∧ u < e.2.2 + 8 then some (g * 2 ^ 28 + (la - e.2.2 * 2 ^ 25)) else none
    | _ => none)

/-- The base address of the register instance n of a page, from the address at instance 0. -/
def regInst (a n : Nat) : Nat := a + n * 0x10000

/-- Remap slots that a bank of a pseudo-channel holds. -/
def bankSlots (s : State) (pcGlobal bank : Nat) : Nat :=
  (s.mem.rows.filter (fun e => e.2.slot && decide (e.1 / 2 ^ 21 = pcGlobal) &&
    decide (bankOfBlock (e.1 % 2 ^ 21) = bank))).length

/-- A frame is retired (R292): the Tally and the log record it, and a pseudo-channel with more than 64 is degraded
(R293). -/
def retireFrame (s : State) (frame stack la : Nat) : State :=
  let pc := 64 * stack + pcOf la
  let d := dieAt s stack
  let n := sGet 0 d.pcRetired (pcOf la) + 1
  let s := { s with mem := { s.mem with retired := sSet false s.mem.retired frame true,
                                        retiring := sSet false s.mem.retiring frame false } }
  let s := updDie s stack (fun d => { d with retired := satAdd 16 d.retired 1, pcRetired := sSet 0 d.pcRetired (pcOf la) n })
  let s := tallyAdd s 0x07 0x0C pc 1
  let b := la / 65536
  let s := logAppend s 5 0 (natLe 8 (frame * 2 ^ 21) ++ natLe 1 stack ++ natLe 1 (pcOf la) ++ natLe 1 (bankOfBlock b) ++
    natLe 5 0 ++ natLe 4 (b / 16 / 3) ++ natLe 12 0)
  if n > 64 ∧ d.degraded / 2 ^ pcOf la % 2 = 0 then
    tallyGauge (updDie s stack (fun d => { d with degraded := d.degraded + 2 ^ pcOf la })) 0x08 0x0C pc 1
  else s

/-- A row in RETIRED retires its frame at once when the failure was uncorrectable, and otherwise leaves it retiring; a
row of the carve-out marks its copy failed (R254, R292). -/
def retireRow (s : State) (stack la : Nat) (uncorrectable : Bool) : State :=
  if 88 * 2 ^ 30 ≤ la ∧ stack % 4 = 0 then
    { s with mem := { s.mem with carveFailed := sSet false s.mem.carveFailed (stack * 2 ^ 16 + la / 2 ^ 21) true } }
  else match paOf s stack la with
    | none => s
    | some pa =>
      let f := pa / 2 ^ 21
      if sGet false s.mem.retired f then s
      else if uncorrectable then retireFrame s f stack la
      else if sGet false s.mem.retiring f then s
      else updDie { s with mem := { s.mem with retiring := sSet false s.mem.retiring f true } } stack
        (fun d => { d with pending := satAdd 16 d.pending 1 })

/-- A row takes a remap slot, its repair copy starting (R289, R290). -/
def remapRow (s : State) (stack la cause : Nat) (dst : RowState) (had : Bool) : State :=
  let s := { s with mem := { s.mem with rows := sSet {} s.mem.rows (rowKey stack la) ⟨dst, true, true⟩ } }
  let s := if had then s else updDie s stack (fun d => { d with slots := d.slots + 1 })
  let s := tallyAdd s 0x05 0x0C (64 * stack + pcOf la) 1
  noteLast [rowKey stack la, if dst = .remapped1 then 1 else 3] (logRepair s 6 (tallyId 0x05 0x0C (64 * stack + pcOf la)) cause)

/-- A row fails (R289): with REPAIR_EN it moves to its next state. -/
def rowFails (s : State) (stack la cause : Nat) (uncorrectable : Bool) : State :=
  let s := updDie s stack (fun d => { d with rowFails := satAdd 64 d.rowFails 1,
                                             tracker := d.tracker.filter (fun e => e.1 != rowKey stack la) })
  if effField s (regInst aSqCtl stack) 1 1 = 0 then s
  else
    let k := rowKey stack la
    let r := sGet {} s.mem.rows k
    let free : Bool := decide ((dieAt s stack).slots < 4096) &&
      decide (bankSlots s (64 * stack + pcOf la) (bankOfBlock (la / 65536)) < 8)
    let retire (s : State) : State :=
      retireRow { s with mem := { s.mem with rows := sSet {} s.mem.rows k { r with state := .retired } } } stack la
        uncorrectable
    match r.state with
    | .healthy => if free then remapRow s stack la cause .remapped1 false else retire s
    | .remapped1 | .fused => if free then remapRow s stack la cause .remapped2 r.slot else retire s
    | .remapped2 => retire s
    | .retired => s

/-- The tracker counts a corrected error of a row; a full tracker evicts a row that the spec does not name (a free
value). -/
def trackRow (s : State) (stack la : Nat) : Nat × State :=
  let k := rowKey stack la
  let t := (dieAt s stack).tracker
  match t.find? (fun e => e.1 == k) with
  | some e =>
    (e.2 + 1, updDie s stack (fun d => { d with tracker := d.tracker.map (fun x => if x.1 = k then (k, x.2 + 1) else x) }))
  | none =>
    if t.length < 1024 then (1, updDie s stack (fun d => { d with tracker := d.tracker ++ [(k, 1)] }))
    else
      let f := takeFree s
      (1, updDie f.2 stack (fun d => { d with tracker := d.tracker.eraseIdx (f.1 % 1024) ++ [(k, 1)] }))

/-- A read of a line meets a corrected error (R284, R289). -/
def correctedAt (s : State) (stack la : Nat) : State :=
  let s := updDie s stack (fun d => { d with ce := satAdd 64 d.ce 1 })
  let s := tallyAdd s 0x01 0x0C (64 * stack + pcOf la) 1
  let t := trackRow s stack la
  if t.1 ≥ effField s (regInst aSqCtl stack) 27 24 then rowFails t.2 stack la 0 false else t.2

/-- A read of a line that was not poisoned meets an uncorrectable error: it is counted, the row fails and the line is
poisoned (R287, R289). -/
def uncorrectableAt (s : State) (stack la : Nat) : State :=
  let b := pcOf la * 64 + bankOfBlock (la / 65536)
  let s := updDie s stack (fun d => { d with
    ue := satAdd 64 d.ue 1
    ueBanks := if d.ueBanks.contains b then d.ueBanks else d.ueBanks ++ [b] })
  let s := tallyAdd s 0x02 0x0C (64 * stack + pcOf la) 1
  let s := rowFails s stack la 0x0304 true
  { s with mem := { s.mem with poison := sSet false s.mem.poison (hbmKey stack la / 64) true } }

/-- A line of a stack is read: whether it is uncorrectable (met now, or poisoned before), and what the reading brings
about. -/
def readLine (s : State) (stack la : Nat) (e : Ecc) : Bool × State :=
  if sGet false s.mem.poison (hbmKey stack la / 64) then (true, s)
  else match e with
    | .clean => (false, s)
    | .corrected => (false, correctedAt s stack la)
    | .uncorrectable => (true, uncorrectableAt s stack la)

/-- The stack has failed: 8 distinct banks of one pseudo-channel gave uncorrectable errors within one beat (R293). -/
def stackFails (s : State) (stack : Nat) : Bool :=
  (List.range 64).any (fun pc => decide (((dieAt s stack).ueBanks.filter (fun b => b / 64 == pc)).length ≥ 8))

/-- The bytes of a stack. -/
def hbmBytes (s : State) (stack la n : Nat) : List Byte := sGetAll 0#8 s.mem.hbm (hbmKey stack la) n

/-- Bytes written to a stack, within one line; a full line clears its poison (R287). -/
def hbmPut (s : State) (stack la : Nat) (bs : List Byte) : State :=
  { s with mem := { s.mem with
      hbm := sSetAll 0#8 s.mem.hbm (hbmKey stack la) bs
      poison := if bs.length = 64 ∧ la % 64 = 0 then sSet false s.mem.poison (hbmKey stack la / 64) false
        else s.mem.poison } }

/-- The pieces of a run of n bytes at an address, each within one 64-byte line: offset in the run and length. -/
def linePieces (a : Nat) : Nat → Nat → List (Nat × Nat)
  | 0, _ => []
  | _, 0 => []
  | fuel + 1, n + 1 =>
    let l := min (n + 1) (64 - a % 64)
    (0, l) :: (linePieces (a + l) fuel (n + 1 - l)).map (fun x => (x.1 + l, x.2))

/-- The pieces of a run of bytes. -/
def pieces (a n : Nat) : List (Nat × Nat) := linePieces a n n

/-- What a device read of physical memory finds: the physical address of a line that is uncorrectable, if any, and the
bytes. -/
structure ReadOut where
  st : State
  bad : Option Nat
  bytes : List Byte

/-- The scope of the MUSTER_RUN in progress, if any: its SCOPE_KIND and the unit's number, of a cell the physical one. -/
def musterScope (s : State) : Option (Nat × Nat) :=
  (s.jobs.find? (fun j => j.opcode == 0x0701)).map (fun j => (leNat (j.payload.take 1), j.vals.headD 0))

/-- The carve-out copy of stack 0 or 4 is out of use: its stack is margined, or Muster runs on its region, its base die or
its spoke (R294, R577). -/
def copyOut (s : State) (n : Nat) : Bool :=
  decide ((dieAt s n).state = 3) ||
    (match musterScope s with | some k => k == (2, n / 2) || k == (3, n) || k == (5, 4 + n / 2) | none => false)

/-- One piece of a physical read, with what its line meets. -/
def readPiece (s : State) (pa n : Nat) (e : Ecc) : ReadOut :=
  match physAt s pa with
  | .hbm stack la =>
    let r := readLine s stack la e
    ⟨r.2, if r.1 then some (pa - pa % 64) else none, hbmBytes r.2 stack la n⟩
  | .carve off =>
    -- served from stack 0, or from stack 4 when stack 0's copy is uncorrectable, marked failed or under margining
    let la := carveLa off
    let out0 : Bool := copyOut s 0 || sGet false s.mem.carveFailed (la / 2 ^ 21)
    let out4 : Bool := copyOut s 4 || sGet false s.mem.carveFailed (4 * 2 ^ 16 + la / 2 ^ 21)
    if out0 then
      let r := readLine s 4 la e
      ⟨r.2, if r.1 then some (pa - pa % 64) else none, hbmBytes r.2 4 la n⟩
    else
      let r := readLine s 0 la e
      if !r.1 then ⟨r.2, none, hbmBytes r.2 0 la n⟩
      else if out4 || sGet false s.mem.poison (hbmKey 4 la / 64) then ⟨r.2, some (pa - pa % 64), hbmBytes r.2 0 la n⟩
      else
        -- the copy found uncorrectable is rewritten from the other
        let base := la - la % 64
        let s := hbmPut r.2 0 base (hbmBytes r.2 4 base 64)
        ⟨logRepair s 9 (tallyId 0x02 0x0C (pcOf la)) 0, none, hbmBytes s 4 la n⟩
  | .scratch off => ⟨s, none, sGetAll 0#8 s.mem.scratch off n⟩
  | .reg => ⟨s, none, List.replicate n 0#8⟩
  | .reserved => ⟨tallyAdd s 0x47 0 0 1, none, List.replicate n 0#8⟩

/-- The pieces of a read one after another; the piece of number `which` meets the given check. -/
def readPieces (s : State) (pa : Nat) (e : Ecc) (which : Nat) : List (Nat × Nat) → Nat → ReadOut
  | [], _ => ⟨s, none, []⟩
  | (o, l) :: t, i =>
    let r := readPiece s (pa + o) l (if i = which then e else .clean)
    let q := readPieces r.st pa e which t (i + 1)
    ⟨q.st, if r.bad.isSome then r.bad else q.bad, r.bytes ++ q.bytes⟩

/-- A device read of n bytes at a physical address. -/
def physRead (s : State) (pa n : Nat) (e : Ecc) (which : Nat) : ReadOut := readPieces s pa e which (pieces pa n) 0

/-- The bytes at a physical address as they stand. -/
def peek (s : State) (pa n : Nat) : List Byte := (physRead s pa n .clean 0).bytes

def peekNat (s : State) (pa n : Nat) : Nat := leNat (peek s pa n)

/-- One piece of a physical write: a partial write to a poisoned line must read it, and is refused (R254, R287). -/
def writePiece (s : State) (pa : Nat) (bs : List Byte) : State × Option Nat :=
  match physAt s pa with
  | .hbm stack la =>
    if sGet false s.mem.poison (hbmKey stack la / 64) && decide (bs.length < 64) then (s, some (pa - pa % 64))
    else (hbmPut s stack la bs, none)
  | .carve off =>
    let la := carveLa off
    if sGet false s.mem.poison (hbmKey 0 la / 64) && sGet false s.mem.poison (hbmKey 4 la / 64) &&
      decide (bs.length < 64) then (s, some (pa - pa % 64))
    else (hbmPut (hbmPut s 0 la bs) 4 la bs, none)
  | .scratch off => ({ s with mem := { s.mem with scratch := sSetAll 0#8 s.mem.scratch off bs } }, none)
  | .reg => (s, none)
  | .reserved => (tallyAdd s 0x47 0 0 1, none)

def writePieces (s : State) (pa : Nat) (bs : List Byte) : List (Nat × Nat) → State × Option Nat
  | [] => (s, none)
  | (o, l) :: t =>
    let r := writePiece s (pa + o) ((bs.drop o).take l)
    let q := writePieces r.1 pa bs t
    (q.1, if r.2.isSome then r.2 else q.2)

/-- A device write at a physical address; the answer names a poisoned line that a partial write met. -/
def physWrite (s : State) (pa : Nat) (bs : List Byte) : State × Option Nat := writePieces s pa bs (pieces pa bs.length)

/-- A device write that takes no notice of poison met. -/
def poke (s : State) (pa : Nat) (bs : List Byte) : State := (physWrite s pa bs).1

end Sys2Proof.Machine
end

