-- ==== Sys2Proof/Machine/Faults.lean ====
section
/-! DEFINITION. Raising a fault: its records, the discard it starts, and what escalates (R32 to R35, R195, R196, R251,
R442 to R444, R489 to R502). -/

namespace Sys2Proof.Machine

/-- The fields of a fault record that its fault sets (R492). LCELL, PCELL, PC and UNIT are all ones where they do not
apply. -/
structure FaultRec where
  code : Nat
  cause : Nat := 0
  flags : Nat := 0
  arg : Nat := 0
  lcell : Nat := 0xFFFF
  pcell : Nat := 0xFFFF
  pc : Nat := 0xFFFF
  unit : Nat := 0xFFFF
  d0 : Nat := 0
  d1 : Nat := 0
  d2 : Nat := 0
  d3 : Nat := 0
  deriving DecidableEq, Repr

/-- The 64 bytes of a record written for a context (R492). -/
def FaultRec.bytes (f : FaultRec) (ctx gnum : Nat) : List Byte :=
  natLe 2 f.code ++ natLe 2 f.cause ++ natLe 2 ctx ++ natLe 1 f.flags ++ natLe 1 (f.code / 256) ++ natLe 8 gnum ++
    natLe 8 f.arg ++ natLe 2 f.lcell ++ natLe 2 f.pcell ++ natLe 2 f.pc ++ natLe 2 f.unit ++ natLe 8 f.d0 ++
    natLe 8 f.d1 ++ natLe 8 f.d2 ++ natLe 8 f.d3

/-- Flag bits of a record (R492). -/
def recFenced : Nat := 1
def recEscalated : Nat := 2
def recRemote : Nat := 4
def recInsn : Nat := 8
def recSafeHold : Nat := 16
def recLine : Nat := 32

/-- The copy of a fault for context 0's ring, and the Tally's count and log record (R494, R516, R522). A ring of no slots
is not set. -/
def record0 (f : FaultRec) (s : State) : State :=
  let s := tallyAdd s 0x40 0x00 f.code 1
  let s := if f.code / 256 = 1 ∧ f.pcell ≠ 0xFFFF then tallyAdd s 0x40 0x05 f.pcell 1 else s
  let s := logAppend s 3 (if f.flags / 16 % 2 = 1 then 1 else 0) (f.bytes 0 s.beat.gnum)
  if s.flt.slots0 = 0 then s
  else
    let s := poke s (s.flt.ring0 + 64 * (s.flt.count0 % s.flt.slots0)) (f.bytes 0 s.beat.gnum)
    let s := tallyAdd s 0x40 0x20 0 1
    { s with flt := { s.flt with count0 := satAdd 64 s.flt.count0 1 } }

/-- A JOB_FAULT message (R443). -/
def jobFaultBytes (code key gnum epoch src : Nat) : List Byte :=
  natLe 1 1 ++ natLe 1 1 ++ natLe 2 code ++ natLe 4 key ++ natLe 8 gnum ++ natLe 2 epoch ++ natLe 2 src

/-- The other members of a context's commit group are told that its work is discarded for a local cause (R443). -/
def tellJob (c code : Nat) (s : State) : State :=
  let x := ctxAt s c
  let src := x.cNodes.getD x.cSelf 0
  let others := (List.range x.cNodes.length).filter (fun i => i != x.cSelf)
  { s with out := s.out ++ others.map (fun i =>
      ⟨x.cNodes.getD i 0, 0, 5, c, jobFaultBytes code x.cKey s.beat.gnum x.run.epoch src⟩) }

/-- The head of an update message; the body follows (R385). -/
def updateBytes (type count key member first step : Nat) (body : List Byte) : List Byte :=
  natLe 1 type ++ natLe 1 1 ++ natLe 2 count ++ natLe 4 key ++ natLe 2 member ++ natLe 2 first ++ natLe 4 0 ++
    natLe 8 step ++ body

/-- An update message goes to members of the commit group of a context. -/
def tellCommit (c : Nat) (members : List Nat) (type : Nat) (body : List Byte) (s : State) : State :=
  let x := ctxAt s c
  match x.upd with
  | none => s
  | some u =>
    { s with out := s.out ++ members.map (fun i =>
      ⟨x.cNodes.getD i 0, 0, 4, c, updateBytes type 0 x.cKey x.cSelf 0 u.t body⟩) }

def updUpdate (c : Nat) (f : Update → Update) (s : State) : State :=
  updCtx s c (fun x => { x with upd := x.upd.map f })

/-- The members of the commit group but this one. -/
def otherMembers (x : Ctx) : List Nat := (List.range x.cNodes.length).filter (fun i => i != x.cSelf)

/-- The leader gives an update up: ABORT with its CAUSE goes to every member, once (R386). -/
def sendAbort (c cause : Nat) (s : State) : State :=
  let x := ctxAt s c
  match x.upd with
  | none => s
  | some u =>
    if u.settled then s
    else
      let s := tellCommit c (otherMembers x) 7 (natLe 8 0 ++ natLe 8 cause) s
      updUpdate c (fun u => { u with settled := true, abort := some cause, mills := [] }) s

/-- The work of a context in an update is given up: the passes stop, a leader sends ABORT, and a member sends the VOTE or
DONE that it still owes with OK 0 (R384, R386, R484). A fused pass is discarded. -/
def quitUpdate (c : Nat) (s : State) : State :=
  let x := ctxAt s c
  match x.upd with
  | none => s
  | some u =>
    if u.fused then updUpdate c (fun u => { u with mills := [], abort := some 2 }) s
    else if x.alm.upd = 0 ∨ x.alm.upd = 4 then s
    else if x.cSelf = 0 then sendAbort c 2 s
    else if u.doneSent || u.abort.isSome then s
    else
      let s := tellCommit c [0] (if u.voted then 5 else 3) (natLe 8 0 ++ natLe 1 0) s
      updUpdate c (fun u => { u with voted := true, doneSent := true, mills := [], abort := some 2 }) s

/-- Cycles that a cell of a context was gated (R308, R345). -/
def addGated (c n : Nat) (s : State) : State :=
  let k := (ctxAt s c).kept
  let carry : Nat := if k.gated + n ≥ 2 ^ 64 then 4 else 0
  tallyAdd (updKept s c (fun k => { k with gated := satAdd 64 k.gated n, acct := k.acct ||| carry })) 0x46 0x20 c n

/-- A cell stops issuing, with its pending wait removed; a gated cell is gated no longer. -/
def stopCell (c l : Nat) (s : State) : State :=
  let w := (cellAt s (physOf s l)).seq.wait
  let s := updCell s (physOf s l) (fun x => { x with seq := { x.seq with running := false, wait := none } })
  match w with
  | some w => if w.gated then addGated c (s.cycle - w.since) s else s
  | none => s

/-- Every cell of a context stops issuing (R307, R496). -/
def stopCells (c : Nat) (s : State) : State := (partCells s c).foldl (fun s l => stopCell c l s) s

/-- The work of a context is discarded: its cells stop, its bell waits and outstanding requests go, and the discard
boundary is awaited (R307, R444, R496). -/
def startDiscard (c code : Nat) (remote : Bool) (s : State) : State :=
  let cells := partCells s c
  let s := stopCells c s
  let s := updRun s c (fun r => { r with discarding := true, discarded := true })
  let s := { s with sync := { s.sync with
      bells := (s.sync.bells.map (fun (e : Nat × Bell) => (e.1, { e.2 with waiters := e.2.waiters.filter (fun w => !cells.contains w.cell) }))).filter
        (fun e => decide (e.2 ≠ ({} : Bell)))
      releases := s.sync.releases.filter (fun l => !cells.contains l)
      cancels := s.sync.cancels.filter (fun e => !cells.contains e.1) } }
  let s := { s with gate := { s.gate with ops := s.gate.ops.filter (fun o => o.ctx != c) } }
  let s := if remote then s else tellJob c code s
  quitUpdate c (updCtx s c (fun x => { x with code := { x.code with op := none, recv := [] } }))

/-- One record for one affected context (R494, R495): none once its work has been discarded in the step, but that a
lower code raised in the same cycle takes the place of the record written. -/
def recordFor (f : FaultRec) (remote : Bool) (s : State) (c : Nat) : State :=
  let x := ctxAt s c
  if x.st.resident = false then s
  else if x.run.discarded then
    match x.run.lastFault with
    | some (t, code, k) =>
      if t = s.cycle ∧ f.code < code ∧ x.desc.faultSlots ≠ 0 then
        let s := poke s (x.desc.faultRing + 64 * (k % x.desc.faultSlots)) (f.bytes c s.beat.gnum)
        updRun s c (fun r => { r with lastFault := some (t, f.code, k) })
      else s
    | none => s
  else
    let k := x.kept.faultCount
    let s := if x.desc.faultSlots = 0 then s
      else poke s (x.desc.faultRing + 64 * (k % x.desc.faultSlots)) (f.bytes c s.beat.gnum)
    let s := updKept s c (fun y => { y with faultCount := satAdd 64 y.faultCount 1 })
    let s := tallyAdd s 0x40 0x20 c 1
    let s := updRun s c (fun r => { r with lastFault := some (s.cycle, f.code, k) })
    startDiscard c f.code remote s

/-- A fault is raised for the contexts it affects (R32, R494). -/
def raiseFault (f : FaultRec) (ctxs : List Nat) (s : State) : State :=
  record0 f (ctxs.foldl (recordFor f false) s)

/-- A fault that a message from another member brought: it sends no JOB_FAULT (R443). -/
def raiseRemote (f : FaultRec) (ctxs : List Nat) (s : State) : State :=
  record0 f (ctxs.foldl (recordFor f true) s)

/-- The context that holds a logical cell: it owns the block and is resident and unparked. -/
def ctxOfCell (s : State) (l : Nat) : Option Nat :=
  match ownerOf s (blockOf l) with
  | none => none
  | some c => if (ctxAt s c).st = .unparked then some c else none

/-- The cell faults that fence the cell (R196). -/
def fencesCell (code : Nat) : Bool := [0x0103, 0x0104, 0x0108, 0x0109, 0x0113, 0x0131, 0x0132].contains code

/-- Contexts that hold a block. -/
def holdersOfBlock (s : State) (g : Nat) : List Nat :=
  match ownerOf s g with
  | none => []
  | some c => if (ctxAt s c).st.resident then [c] else []

/-- A block is taken out of partitions (R251, R502). -/
def failBlock (g : Nat) (s : State) : State := tallyGauge (updBlk s g (fun b => { b with health := .failed })) 0x08 0x06 g 1

/-- A block fault takes its block out of partitions (R190, R251). -/
def raiseBlockFault (f : FaultRec) (g : Nat) (s : State) : State := raiseFault f (holdersOfBlock s g) (failBlock g s)

/-- A physical cell is fenced, or is to be. -/
def toFence (s : State) (p : Nat) : Bool := (cellAt s p).fenced || s.flt.fences.any (fun e => e.1 == p)

/-- A physical cell is to be fenced at the next boundary, for a cause (R499). -/
def queueFence (p l cause : Nat) (s : State) : State :=
  { s with flt := { s.flt with fences := s.flt.fences ++ [(p, l, cause)] } }

/-- The escalated record of R493. -/
def FaultRec.escalate (f : FaultRec) (code : Nat) : FaultRec :=
  { f with code := code, cause := f.code, flags := f.flags ||| recEscalated }

/-- A fencing fault in a cell: the first of a block commits the spare; one more degrades the block; one more fails it (R33,
R501, R502). A cell that is to be fenced already is not fenced twice. `raise` says how its records are written. -/
def fencing (raise : FaultRec → List Nat → State → State) (f : FaultRec) (own : List Nat) (g l p : Nat) (s : State) : State :=
  if toFence s p then raise f own s
  else
    let s := queueFence p l f.code s
    let f := { f with flags := f.flags ||| recFenced }
    match (blk s g).health with
    | .healthy => raise f own (updBlk s g (fun b => { b with health := .committed }))
    | .committed =>
      let s := updBlk s g (fun b => { b with health := .degraded, lost15 := true })
      let s := tallyGauge s 0x08 0x06 g 1
      tallyAdd (raise (f.escalate 0x0205) (holdersOfBlock s g) s) 0x40 0x00 f.code 1
    | .degraded =>
      let s := failBlock g s
      tallyAdd (raise (f.escalate 0x0206) (holdersOfBlock s g) s) 0x40 0x00 f.code 1
    | .failed => raise f own s

/-- A fencing fault in the cell that holds a logical number. -/
def raiseFencing (f : FaultRec) (l p : Nat) (s : State) : State :=
  fencing raiseFault f (match ctxOfCell s l with | some c => [c] | none => []) (blockOf l) l p s

/-- A physical cell is fenced: it stops, and the number that it holds, or the role of the spare, falls vacant (R499, R500). -/
def applyFence (p : Nat) (s : State) : State :=
  let l := logicalOf s p
  let s := updCell s p (fun x => { x with fenced := true, seq := {}, units := {} })
  updBlk s (p / 17) (fun b => { b with
    awaiting := match l with | some l => b.awaiting ++ [l] | none => b.awaiting
    spare := if b.spare = some (p % 17) then none else b.spare })

/-- A fence that no fault raises, as its block takes it: from Muster, and from the log at boot. -/
def commitFence (g : Nat) (s : State) : State :=
  match (blk s g).health with
  | .healthy => updBlk s g (fun b => { b with health := .committed })
  | .committed => tallyGauge (updBlk s g (fun b => { b with health := .degraded, lost15 := true })) 0x08 0x06 g 1
  | .degraded => failBlock g s
  | .failed => s

/-- A cell fault stops issue in the cell, is counted against the physical cell and affects the context that holds the
cell (R32, R195). -/
def raiseCellFault (f : FaultRec) (l : Nat) (s : State) : State :=
  let p := physOf s l
  let f := { f with lcell := l, pcell := p }
  let s := stopCell ((ownerOf s (blockOf l)).getD 0) l s
  let s := updCell s p (fun x => { x with cnt := { x.cnt with faults := satAdd 64 x.cnt.faults 1 } })
  if fencesCell f.code then raiseFencing f l p s
  else raiseFault f (match ctxOfCell s l with | some c => [c] | none => []) s

/-- The record of a cell fault raised by an instruction: INSN set, D0 and D1 its word (R493). -/
def insnFault (code pc : Nat) (w : InsnWord) : FaultRec :=
  { code := code, flags := recInsn, pc := pc, d0 := w.toNat % 2 ^ 64, d1 := w.toNat / 2 ^ 64 }

/-- Contexts with a frame on a stack or a Square unit on its base die (R293). -/
def holdersOfStack (s : State) (stack : Nat) : List Nat :=
  (residents s).filter (fun c => ownsUnitOn s c stack ||
    ((ctxAt s c).xlate.any (fun e => match physAt s (e.2.frame * 2 ^ 21) with
      | .hbm st _ => decide (st = stack) || decide ((imapEntry s (e.2.frame / 128)).1 = 1) ||
          (decide ((imapEntry s (e.2.frame / 128)).1 = 2) && decide (st / 2 = stack / 2))
      | _ => false)))

/-- A failed stack raises FLT_HBM_STACK and stays failed (R293). -/
def raiseStackFault (stack : Nat) (s : State) : State :=
  if (dieAt s stack).state = 2 then s
  else
    let s := updDie s stack (fun d => { d with state := 2 })
    raiseFault { code := 0x0305, arg := stack } (holdersOfStack s stack) s

/-- FLT_HBM_UE for the contexts that an uncorrectable line reaches, and the stack's failure if that is the eighth bank
(R287, R293, R493). -/
def raiseHbmUe (stack la pa : Nat) (ctxs : List Nat) (s : State) : State :=
  let s := raiseFault { code := 0x0304, unit := 64 * stack + pcOf la, arg := pa } ctxs s
  if stackFails s stack then raiseStackFault stack s else s

/-- A context has a message bound for a port of a region (R14, R35). -/
def boundForPorts (s : State) (c r : Nat) : Bool :=
  (List.range 8).any (fun i =>
    let t := sGet {} s.link.ports (8 * r + i)
    (t.waiting ++ t.unacked).any (fun f => f.own && f.ctx == c))

/-- A stack and its base die, an optical engine, or a ring link or spoke is out of service: by QUARANTINE of it or of its
region, by its own failure, or by Muster; an engine also while Muster runs on it or on its region (R252, R293, R485, R577, R582). -/
def stackOut (s : State) (n : Nat) : Bool :=
  (dieAt s n).state == 2 || s.flt.quarantined.any (fun q => q == (3, n) || q == (2, n / 2))

def engineOut (s : State) (k : Nat) : Bool :=
  s.flt.badEngines.contains k || s.flt.quarantined.any (fun q => q == (4, k) || q == (2, k / 2)) ||
    (match musterScope s with | some m => m == (4, k) || m == (2, k / 2) | none => false)

def linkOut (s : State) (l : Nat) : Bool := s.flt.linksDown.contains l || s.flt.quarantined.contains (5, l)

/-- Region r's contexts: those with a block, page, Square unit, port-bound message or bell in the region (R35). -/
def holdersInRegion (s : State) (r : Nat) : List Nat :=
  (residents s).filter (fun c =>
    (List.range 64).any (fun b => decide (ownerOf s (64 * r + b) = some c)) ||
    (holdersOfStack s (2 * r)).contains c || (holdersOfStack s (2 * r + 1)).contains c ||
    boundForPorts s c r || decide (((ctxAt s c).desc.bells.getD r 0) / 2 ^ 16 % 2 ^ 15 ≠ 0))

/-- A region structure's fault that affects every context with something in the region, and bars new partitions there
until MUSTER_RUN passes on it (R251, R490). -/
def raiseRegionFault (f : FaultRec) (r : Nat) (s : State) : State :=
  let s := raiseFault f (holdersInRegion s r) s
  { s with flt := { s.flt with barred := if s.flt.barred.contains r then s.flt.barred else s.flt.barred ++ [r] } }

/-- A device fault that faults every resident context (R34). -/
def raiseDeviceFault (f : FaultRec) (s : State) : State := raiseFault f (residents s) s

/-- FLT_REG_ACCESS is recorded in context 0's ring and the Tally only (R491, R493): the core, the address, the size and
whether it wrote. -/
def raiseRegAccess (core addr size : Nat) (write : Bool) (s : State) : State :=
  raiseFault { code := 0x0403, unit := core, arg := addr, d0 := size % 16 + (if write then 256 else 0) } [] s

/-- FLT_BEAT_ALIGN faults the unparked contexts of the device and clears LOCKED (R61, R491). -/
def raiseBeatAlign (s : State) : State :=
  raiseFault { code := 0x0404 } (unparked s) { s with beat := { s.beat with locked := false } }

end Sys2Proof.Machine
end

