-- ==== Sys2Proof/Machine/Operands.lean ====
section
/-! DEFINITION. Instructions of a cell: fetching a word, its fields, the checks of its encoding, reading and writing the
cell's registers, and issue into the unit queues (R157 to R163, R169 to R171, R176, R181, R193, R213, R615). -/

namespace Sys2Proof.Machine

/-- Field [hi:lo] of an instruction word. -/
def wf (w : InsnWord) (hi lo : Nat) : Nat := bitsOf w.toNat hi lo

/-- The class and the operation of a word (R169). -/
def classOp (w : InsnWord) : Nat × Nat := (wf w 127 124, wf w 123 116)

/-- Scalar register r; x0 reads as zero (R157). -/
def xGet (x : Sparse Word) (r : Nat) : Word := if r = 0 then 0#64 else sGet 0#64 x r

/-- Writing x0 is ignored (R157). -/
def xSet (x : Sparse Word) (r : Nat) (v : Word) : Sparse Word := if r = 0 then x else sSet 0#64 x r v

def dGet (d : Sparse (BitVec 128)) (r : Nat) : BitVec 128 := sGet 0#128 d r

def dSet (d : Sparse (BitVec 128)) (r : Nat) (v : BitVec 128) : Sparse (BitVec 128) := sSet 0#128 d r v

/-- All the bits of a word but those in the fields listed are zero. -/
def onlyFields (w : InsnWord) (fs : List (Nat × Nat)) : Bool :=
  decide (fs.foldl (fun v f => putBits v f.1 f.2 0) w.toNat = 0)

/-- The fields that a control operation uses (R170, R171); DQPUSH, DQPOP and BTEST as R359 and R360 give. -/
def controlFields (op : Nat) : Option (List (Nat × Nat)) :=
  let rd := (115, 112); let ra := (111, 108); let rb := (107, 104); let dd := (103, 100); let imm := (63, 0)
  match op with
  | 0x01 => some []
  | 0x02 => some []
  | 0x03 => some [rd, imm]
  | 0x04 => some [rd, ra, rb, imm]
  | 0x05 | 0x06 | 0x07 | 0x08 | 0x0B => some [rd, ra, rb]
  | 0x09 | 0x0A => some [rd, ra, (5, 0)]
  | 0x0C => some [rd, ra, imm]
  | 0x0D => some [ra, rb, imm]
  | 0x0E => some [dd, ra, imm]
  | 0x0F => some [dd, ra, imm]
  | 0x10 => some [ra, rb, (63, 60), (11, 0)]
  | 0x11 => some [ra, (11, 0)]
  | 0x12 => some [rd, (7, 0)]
  | 0x13 => some [(3, 0)]
  | 0x14 => some [(15, 0)]
  | 0x15 => some [ra, (31, 16), (11, 0)]
  | 0x16 => some [rd]
  | 0x17 => some [rd, ra, rb]
  | _ => none

/-- Reserved encodings of the fields of a control word (R169, R171). -/
def controlReserved (op : Nat) (w : InsnWord) : Bool :=
  match op with
  | 0x10 => decide (wf w 63 60 > 6)
  | 0x12 => decide (wf w 7 0 > 5)
  | _ => false

/-- The fields that a move-class operation uses (R181, R279, R350, R430); those of COLL depend on its FN. -/
def moveFields (op fn : Nat) : Option (List (Nat × Nat)) :=
  let sd := (115, 112); let dd := (111, 108); let ss := (107, 105); let ds := (104, 102); let peer := (101, 90)
  let resv := (81, 72); let post := (71, 55); let ring := (54, 52)
  match op with
  | 0x01 => some [sd, dd, ss, ds, peer, (89, 82), resv, post]
  | 0x02 => some [ring, (51, 44), (43, 40), (39, 24)]
  | 0x03 => some [peer, ring, (46, 44)]
  | 0x04 => some [sd, ring, resv, post]
  | 0x05 => some [ring, (43, 40)]
  | 0x06 => some [ring]
  | 0x07 => some [(23, 12)]
  | 0x08 => some [sd, dd, ds, post, (23, 16)]
  | 0x09 => some [dd, ds, (89, 82), post, (51, 44), (43, 40), (25, 24), (23, 12)]
  | 0x0A =>
    let both := [sd, ss, (89, 82), (80, 79), (78, 77), post, (43, 40)]
    match fn with
    | 0 => some (both ++ [(81, 81), (51, 44), (23, 12)])
    | 1 => some (both ++ [dd, ds, (81, 81), (39, 32)])
    | 2 => some (both ++ [dd, ds, (81, 81), (39, 32)])
    | _ => none
  | _ => none

/-- The table of operations has a row for the word: its class and operation are defined, and so are an ATOM's OPC and a
COLL's FN (R169). -/
def wordDefined (w : InsnWord) : Bool :=
  let co := classOp w
  match co.1 with
  | 0 => (controlFields co.2).isSome
  | 1 => decide (co.2 = 1)
  | 2 => decide (co.2 ∈ [1, 2, 3, 4, 5, 6, 7, 8, 0x10, 0x11, 0x12, 0x13, 0x14, 0x15, 0x16, 0x18, 0x19, 0x1A, 0x1B, 0x1C,
      0x1D, 0x1E, 0x20, 0x21, 0x22, 0x28, 0x30, 0x31, 0x38, 0x39])
  | 4 => (moveFields co.2 (wf w 80 79)).isSome && !(co.2 == 8 && decide (wf w 23 20 > 5))
  | 5 => decide (1 ≤ co.2 ∧ co.2 ≤ 5)
  | _ => false

/-- A cell issues: it runs, it waits for nothing and its YIELD has not issued (R47, R48, R304). -/
def issuing (s : State) (l : Nat) : Bool :=
  let q := (cellAt s (physOf s l)).seq
  q.running && !q.yieldIssued && q.wait.isNone && !isVacant s l

/-- Instruction indices that a pending IMLOAD writes: a fetch from them stalls (R185). -/
def imloadCovers (u : Units) (pc : Nat) : Bool :=
  u.flights.any (fun f => match f.kind with | .imload a n => decide (a ≤ pc ∧ pc < a + n) | _ => false)

/-- Scalar registers that a pending RWAIT is to write: an instruction that reads or writes one stalls (R161, R614). -/
def pendingRwait (u : Units) : List Nat :=
  (u.move.filterMap (fun o => if classOp o.word = (4, 5) then some (wf o.word 43 40) else none)) ++
  (u.flights.filterMap (fun f => match f.kind with | .rwait _ ra => some ra | _ => none))

/-- The registers that any instruction word may name, for the interlock: by class, the scalar register fields. -/
def scalarFields (w : InsnWord) : List Nat :=
  let co := classOp w
  match co.1 with
  | 0 => ((controlFields co.2).getD []).filterMap (fun f =>
      if f = (115, 112) ∨ f = (111, 108) ∨ f = (107, 104) then some (wf w f.1 f.2) else none)
  | 2 => [wf w 63 60, wf w 59 56, wf w 55 52]
  | 4 => [wf w 43 40]
  | 5 => if wf w 111 111 = 1 then [wf w 115 112] else []
  | _ => []

/-- Scale references that descriptors name (R172, R178) are scalar registers that matrix, vector and move instructions
read. -/
def descriptorScale (d : BitVec 128) : Nat := if d.toNat / 2 ^ 125 = 0 then 0 else 8 + d.toNat / 2 ^ 125

/-- An instruction stalls on a register that a pending RWAIT is to write. -/
def interlocked (x : Cell) (w : InsnWord) : Bool :=
  let busy := (pendingRwait x.units).filter (fun r => r != 0)
  let named := scalarFields w ++ (if classOp w = (5, 1) then [] else
    if (classOp w).1 = 1 ∨ (classOp w).1 = 2 ∨ (classOp w).1 = 4 then
      (List.range 16).map (fun r => descriptorScale (dGet x.d r)) else [])
  busy.any (fun r => named.contains r)

/-- What fetching an instruction for a row of the table comes to. -/
inductive Fetch
  /-- the row's instruction does not issue now -/
  | stall
  /-- a fault is raised in its place -/
  | fault (s : State)
  /-- it issues -/
  | go (s : State) (p : Nat) (x : Cell) (w : InsnWord)

/-- The cell fault of an instruction at the cell's program counter. -/
def faultHere (code : Nat) (l : Nat) (w : InsnWord) (s : State) : State :=
  raiseCellFault (insnFault code (cellAt s (physOf s l)).seq.pc w) l s

/-- Fetch for a row of the table: the word at the program counter is one of the row's; its check is met (R160); it is
legal (R169). -/
def fetchFor (mine legal : InsnWord → Bool) (c : LCell) (m : Meet) (s : State) : Fetch :=
  let l := c.toNat
  let p := physOf s l
  let x := cellAt s p
  let pc := x.seq.pc
  let w := sGet 0#128 x.imem pc
  if !issuing s l || decide (pc ≥ 4096) || imloadCovers x.units pc || !mine w then .stall
  else
    match m.imem with
    | .uncorrectable =>
      .fault (raiseCellFault { insnFault 0x0103 pc w with arg := 16 * pc, unit := 0 } l (tallyAdd s 0x02 0x02 p 1))
    | e =>
      let s := if e = .corrected then
          tallyAdd (updCell s p (fun x => { x with cnt := { x.cnt with imemCe := satAdd 64 x.cnt.imemCe 1 } })) 0x01 0x02 p 1
        else s
      if !legal w then .fault (faultHere 0x0101 l w s)
      else if interlocked x w then .stall
      else .go s p (cellAt s p) w

/-- A row's effect: nothing while its instruction does not issue, the fault in its place, or what the instruction does. -/
def issueWith (f : Fetch) (s : State) (go : State → Nat → Cell → InsnWord → State) : State :=
  match f with
  | .stall => s
  | .fault t => t
  | .go t p x w => go t p x w

/-- After the instruction at index i, the next index and the loop stack, innermost level first (R171). -/
def afterIndex (i : Nat) : List LoopLevel → Nat × List LoopLevel
  | [] => (i + 1, [])
  | l :: t =>
    if l.last = i then (if l.left > 1 then (l.first, { l with left := l.left - 1 } :: t) else afterIndex i t)
    else (i + 1, l :: t)

/-- The sequencer goes on after the instruction at index i. -/
def Sequencer.advance (q : Sequencer) (i : Nat) : Sequencer :=
  let n := afterIndex i q.loops
  { q with pc := n.1, loops := n.2 }

/-- A cell whose sequencer goes on after the instruction at its program counter. -/
def Cell.next (x : Cell) : Cell := { x with seq := x.seq.advance x.seq.pc }

/-- An instruction for a unit queue: its word, its index and the registers as they stand at issue (R615). -/
def Cell.capture (x : Cell) (w : InsnWord) : UnitOp := ⟨w, x.seq.pc, x.x, x.d⟩

/-! ### The cell store -/

/-- The sequencer or a unit reads the cell store: what the check shows. Corrected errors are counted (R158). -/
def storeMeets (p : Nat) (e : Ecc) (s : State) : State :=
  match e with
  | .corrected =>
    tallyAdd (updCell s p (fun x => { x with cnt := { x.cnt with storeCe := satAdd 64 x.cnt.storeCe 1 } })) 0x01 0x01 p 1
  | .uncorrectable => tallyAdd s 0x02 0x01 p 1
  | .clean => s

/-- FLT_STORE_ECC met by the cell's own instruction: bank and address (R158, R493). -/
def storeEccOwn (pc : Nat) (w : InsnWord) (addr : Nat) : FaultRec :=
  { insnFault 0x0104 pc w with unit := bitsOf addr 8 6, arg := addr }

/-- FLT_STORE_ECC met by another cell's access, or by patrol scrub (R158). -/
def storeEccForeign (addr d2 : Nat) : FaultRec := { code := 0x0104, unit := bitsOf addr 8 6, arg := addr, d2 := d2 }

def storeBytes (x : Cell) (a n : Nat) : List Byte := sGetAll 0#8 x.store a n

def Cell.putStore (x : Cell) (a : Nat) (bs : List Byte) : Cell := { x with store := sSetAll 0#8 x.store a bs }

/-! ### Idle units (R48, R171) -/

/-- No bell operation of the cell is on its way to a store. -/
def syncQuiet (s : State) (l : Nat) : Bool :=
  (cellAt s (physOf s l)).units.sync.isEmpty && !(s.sync.ops.any (fun o => decide (o.cell = some l)))

def matrixQuiet (u : Units) : Bool := u.matrix.isEmpty && u.passes.isEmpty && u.finishing.isEmpty

def moveQuiet (u : Units) : Bool := u.move.isEmpty && u.flights.isEmpty

end Sys2Proof.Machine
end

