-- ==== Sys2Proof/Machine/Bells.lean ====
section
/-! DEFINITION. The bell stores: who owns a bell, the operations of R300, and errors in count words (R298 to R302). -/

namespace Sys2Proof.Machine

def bellAt (s : State) (b : Nat) : Bell := sGet {} s.sync.bells b

def updBell (s : State) (b : Nat) (f : Bell → Bell) : State :=
  { s with sync := { s.sync with bells := sUpd {} s.sync.bells b f } }

/-- Base and count of a context's run of bells in a region (R321). -/
def bellRun (x : Ctx) (r : Nat) : Nat × Nat := (bitsOf (x.desc.bells.getD r 0) 13 0, bitsOf (x.desc.bells.getD r 0) 30 16)

/-- A bell lies in a context's run (R298). -/
def ownsBell (s : State) (c b : Nat) : Bool :=
  let r := bellRun (ctxAt s c) (b / 16384)
  decide (r.1 ≤ b % 16384) && decide (b % 16384 < r.1 + r.2)

/-- The resident context whose run holds a bell. -/
def bellOwner (s : State) (b : Nat) : Option Nat := (residents s).find? (fun c => ownsBell s c b)

/-- The serial comparison of R300. -/
def reached (c t : BitVec 32) : Bool := decide ((c - t).toNat < 2 ^ 31)

/-- FLT_BELL_ECC for the owner of the bell, or for context 0 alone (R299). -/
def raiseBellEcc (b : Nat) (s : State) : State :=
  raiseFault { code := 0x0307, unit := b } (match bellOwner s b with | some c => [c] | none => []) s

/-- An operation meets the check of a count word: whether it is uncorrectable, now or since an earlier operation, and
what meeting it brings about (R299). -/
def bellMeets (b : Nat) (e : Ecc) (s : State) : Bool × State :=
  if (bellAt s b).bad then (true, raiseBellEcc b s)
  else match e with
    | .clean => (false, s)
    | .corrected => (false, tallyAdd s 0x01 0x0B (b / 16384) 1)
    | .uncorrectable =>
      (true, raiseBellEcc b (tallyAdd (updBell s b (fun x => { x with bad := true })) 0x02 0x0B (b / 16384) 1))

/-- A release is on its way to a cell. -/
def release (l : Nat) (s : State) : State := { s with sync := { s.sync with releases := s.sync.releases ++ [l] } }

/-- The TAKE waiters that a count serves, earliest registered first: the count left, the waiters left and the cells
released (R300, R302). -/
def serveTakes (c : BitVec 32) : List Waiter → BitVec 32 × List Waiter × List Nat
  | [] => (c, [], [])
  | w :: t =>
    if w.isTake && reached c 1#32 then
      let r := serveTakes (c - 1#32) t
      (r.1, r.2.1, w.cell :: r.2.2)
    else
      let r := serveTakes c t
      (r.1, w :: r.2.1, r.2.2)

/-- post(b, n) of R300. -/
def bellPost (b : Nat) (n : BitVec 32) (s : State) : State :=
  let x := bellAt s b
  let c := x.count + n
  let served : Waiter → Bool := fun w => !w.isTake && reached c w.target
  let waits := (x.waiters.filter served).map (fun w => w.cell)
  let r := serveTakes c (x.waiters.filter (fun w => !served w))
  let s := updBell s b (fun x => { x with count := r.1, waiters := r.2.1 })
  (waits ++ r.2.2).foldl (fun s l => release l s) s

/-- A bell operation of a context on its way to the store. -/
def sendBellOp (o : BellOp) (s : State) : State := { s with sync := { s.sync with ops := s.sync.ops ++ [o] } }

/-- POST(1) of a move-class instruction after its completion (R184). -/
def postAfter (bell : Option Nat) (l ctx : Nat) (op : UnitOp) (s : State) : State :=
  match bell with
  | none => s
  | some b => sendBellOp ⟨b, .post 1#32, some l, ctx, op.pc, op.word⟩ s

end Sys2Proof.Machine
end

