-- ==== Sys2Proof/Machine/Flags.lean ====
section
/-! DEFINITION. The sticky status flags of a cell (R113) and how operations combine them. -/

namespace Sys2Proof

namespace Machine

/-- No flag. -/
def noFlags : Flags := 0#8
/-- R113 bit 0: a NaN operand of an array group, an accumulate or vector arithmetic. -/
def flagNanIn : Flags := 0x01#8
/-- R113 bit 1: an invalid operation (R101 case 2, R107). -/
def flagInvalid : Flags := 0x02#8
/-- R113 bit 2: overflow, integer clamp, overflow-mode conversion. -/
def flagOvf : Flags := 0x04#8
/-- R113 bit 3: inexact subnormal or zero result of a non-zero value. -/
def flagUnf : Flags := 0x08#8
/-- R113 bit 4: a finite non-zero number divided by zero. -/
def flagDivZero : Flags := 0x10#8
/-- R113 bit 5: a NaN, infinity or NaN scale converted or expanded to a target that cannot hold it. -/
def flagCvtSpecial : Flags := 0x20#8
/-- R113 bit 6: saturation in a conversion or an expansion. -/
def flagCvtSat : Flags := 0x40#8
/-- R113 bit 7: a subnormal flushed under FTZ. -/
def flagFlushed : Flags := 0x80#8

/-- The flag if the condition holds. -/
def flagIf (b : Bool) (f : Flags) : Flags := if b then f else noFlags

/-- The flags of several operations together: R49 gathers them by OR. -/
def flagsOr (fs : List Flags) : Flags := fs.foldl (· ||| ·) noFlags

end Machine
end Sys2Proof
end

