-- ==== Sys2Proof/Machine/Float.lean ====
section
/-! DEFINITION. Number formats and rounding: the element formats of R85 and R86, exact values, one rounding
(R109), the results of overflow and underflow (R100, R107, R110), and the operations of the vector engine on
single elements (R105 to R108, R214 to R217). -/

namespace Sys2Proof.Machine

/-- The element formats of R85 and R86, and FP64, in which the Almanac computes (R376). -/
inductive ElemFmt
  | fp32 | bf16 | fp16 | e4m3 | e5m2 | e3m2 | e2m3 | e2m1 | int8 | int4 | uint8 | uint4 | fp64
  deriving DecidableEq, Repr

/-- How a floating-point format treats its all-ones exponent (R85). -/
inductive Specials
  /-- infinities and NaNs, as IEEE 754 -/
  | ieee
  /-- no infinity; NaN only where the trailing field is all ones too (E4M3) -/
  | nanOnly
  /-- every encoding is a finite number -/
  | none
  deriving DecidableEq, Repr

/-- The fields of a floating-point format (R85): exponent bits, trailing bits, bias. -/
structure FloatShape where
  expBits : Nat
  manBits : Nat
  bias : Nat
  specials : Specials
  deriving DecidableEq, Repr

/-- The table Floating-point formats of R85; integers have no such shape. -/
def ElemFmt.shape : ElemFmt → Option FloatShape
  | .fp32 => some ⟨8, 23, 127, .ieee⟩
  | .bf16 => some ⟨8, 7, 127, .ieee⟩
  | .fp16 => some ⟨5, 10, 15, .ieee⟩
  | .e4m3 => some ⟨4, 3, 7, .nanOnly⟩
  | .e5m2 => some ⟨5, 2, 15, .ieee⟩
  | .e3m2 => some ⟨3, 2, 3, .none⟩
  | .e2m3 => some ⟨2, 3, 1, .none⟩
  | .e2m1 => some ⟨2, 1, 1, .none⟩
  | .fp64 => some ⟨11, 52, 1023, .ieee⟩
  | .int8 | .int4 | .uint8 | .uint4 => none

/-- The bits of one element. -/
def ElemFmt.bits : ElemFmt → Nat
  | .fp32 => 32
  | .bf16 | .fp16 => 16
  | .e4m3 | .e5m2 | .int8 | .uint8 => 8
  | .e3m2 | .e2m3 => 6
  | .e2m1 | .int4 | .uint4 => 4
  | .fp64 => 64

/-- A format code of R91: the element format and whether it is block-scaled. -/
structure Fmt where
  elem : ElemFmt
  scaled : Bool
  deriving DecidableEq, Repr

/-- R91: the valid format codes; the others are reserved. -/
def Fmt.ofCode (c : Nat) : Option Fmt :=
  match c with
  | 0x00 => some ⟨.fp32, false⟩
  | 0x01 => some ⟨.bf16, false⟩
  | 0x02 => some ⟨.fp16, false⟩
  | 0x03 => some ⟨.e4m3, false⟩
  | 0x04 => some ⟨.e5m2, false⟩
  | 0x05 => some ⟨.e3m2, false⟩
  | 0x06 => some ⟨.e2m3, false⟩
  | 0x07 => some ⟨.e2m1, false⟩
  | 0x08 => some ⟨.int8, false⟩
  | 0x09 => some ⟨.int4, false⟩
  | 0x0A => some ⟨.uint8, false⟩
  | 0x0B => some ⟨.uint4, false⟩
  | 0x13 => some ⟨.e4m3, true⟩
  | 0x14 => some ⟨.e5m2, true⟩
  | 0x15 => some ⟨.e3m2, true⟩
  | 0x16 => some ⟨.e2m3, true⟩
  | 0x17 => some ⟨.e2m1, true⟩
  | _ => none

/-- An integer format (R86). -/
def ElemFmt.isInt (f : ElemFmt) : Bool :=
  match f with
  | .int8 | .int4 | .uint8 | .uint4 => true
  | _ => false

/-- What an encoding stands for: a NaN with its sign, an infinity, or a finite number ±m × 2^e. -/
inductive Val
  | nan (sign : Bool)
  | inf (sign : Bool)
  | fin (sign : Bool) (m : Nat) (e : Int)
  deriving DecidableEq, Repr

def Val.isNan : Val → Bool
  | .nan _ => true
  | _ => false

def Val.isInf : Val → Bool
  | .inf _ => true
  | _ => false

def Val.isZero : Val → Bool
  | .fin _ 0 _ => true
  | _ => false

def Val.sign : Val → Bool
  | .nan s => s
  | .inf s => s
  | .fin s _ _ => s

/-- R85: the value of a floating-point encoding. -/
def FloatShape.decode (sh : FloatShape) (bits : Nat) : Val :=
  let man := bits % 2 ^ sh.manBits
  let ex := bits / 2 ^ sh.manBits % 2 ^ sh.expBits
  let sign := bits / 2 ^ (sh.manBits + sh.expBits) % 2 == 1
  let top := 2 ^ sh.expBits - 1
  let finite : Val :=
    if ex = 0 then .fin sign man (1 - (sh.bias : Int) - (sh.manBits : Int))
    else .fin sign (2 ^ sh.manBits + man) ((ex : Int) - (sh.bias : Int) - (sh.manBits : Int))
  match sh.specials with
  | .ieee => if ex = top then (if man = 0 then .inf sign else .nan sign) else finite
  | .nanOnly => if ex = top ∧ man = 2 ^ sh.manBits - 1 then .nan sign else finite
  | .none => finite

/-- A two's complement reading of the low n bits. -/
def signedOf (n bits : Nat) : Int :=
  let b := bits % 2 ^ n
  if b ≥ 2 ^ (n - 1) then (b : Int) - (2 ^ n : Nat) else b

/-- R86: the integer an integer element stands for. -/
def ElemFmt.toInt (f : ElemFmt) (bits : Nat) : Int :=
  match f with
  | .int8 => signedOf 8 bits
  | .int4 => signedOf 4 bits
  | .uint8 => (bits % 256 : Nat)
  | .uint4 => (bits % 16 : Nat)
  | _ => 0

/-- The finite value of an integer. -/
def Val.ofInt (i : Int) : Val := .fin (decide (i < 0)) i.natAbs 0

/-- The value of an element of any format. -/
def ElemFmt.decode (f : ElemFmt) (bits : Nat) : Val :=
  match f.shape with
  | some sh => sh.decode bits
  | none => Val.ofInt (f.toInt bits)

/-- R93: the value of a block scale (E8M0): 2^(e − 127), and 0xFF is NaN. -/
def scaleVal (b : Nat) : Val := if b % 256 = 255 then .nan false else .fin false 1 ((b % 256 : Nat) - 127)

/-- A number with an exact product: signs multiply, NaN wins, infinity times zero is invalid (answered none). -/
def Val.mul (x y : Val) : Option Val :=
  match x, y with
  | .nan _, _ => some (.nan false)
  | _, .nan _ => some (.nan false)
  | .inf s, .fin t m _ => if m = 0 then none else some (.inf (s != t))
  | .fin t m _, .inf s => if m = 0 then none else some (.inf (s != t))
  | .inf s, .inf t => some (.inf (s != t))
  | .fin s m e, .fin t n f => some (.fin (s != t) (m * n) (e + f))

/-! ### Exact positive numbers and one rounding -/

/-- A positive rational num / den × 2^e. -/
structure Pos where
  num : Nat
  den : Nat
  e : Int
  deriving DecidableEq, Repr

/-- The floor of log2 of a positive number. -/
def Pos.floorLog2 (x : Pos) : Int :=
  let k : Int := (Nat.log2 x.num : Int) - (Nat.log2 x.den : Int)
  let ge : Bool :=
    if k ≥ 0 then decide (x.num ≥ x.den * 2 ^ k.toNat) else decide (x.num * 2 ^ (-k).toNat ≥ x.den)
  (if ge then k else k - 1) + x.e

/-- The rounding modes of R109; SR carries its 16-bit draw (R111). -/
inductive Rounding
  | rne | rtz | rup | rdn
  | sr (draw : Nat)
  deriving DecidableEq, Repr

/-- A rounded magnitude m × 2^e and whether the rounding changed the value. -/
structure Rounded where
  m : Nat
  e : Int
  inexact : Bool
  deriving DecidableEq, Repr

/-- Whether a magnitude with quotient q and remainder r of d at the last place rounds up (R109, R111). -/
def roundsUp (rm : Rounding) (sign : Bool) (q r d : Nat) : Bool :=
  match rm with
  | .rne => decide (2 * r > d) || (decide (2 * r = d) && q % 2 == 1)
  | .rtz => false
  | .rup => decide (r ≠ 0) && !sign
  | .rdn => decide (r ≠ 0) && sign
  | .sr draw => decide (r ≠ 0) && decide (r * 65536 / d + draw % 65536 ≥ 65536)

/-- One rounding of ±x to p significant bits, never finer than the last place 2^emin. -/
def Pos.round (x : Pos) (rm : Rounding) (sign : Bool) (p : Nat) (emin : Int) : Rounded :=
  let u : Int := max (x.floorLog2 - ((p : Int) - 1)) emin
  let up : Nat := (x.e - u).toNat
  let dn : Nat := (u - x.e).toNat
  let n := x.num * 2 ^ up
  let d := x.den * 2 ^ dn
  let q := n / d
  let r := n % d
  ⟨if roundsUp rm sign q r d then q + 1 else q, u, decide (r ≠ 0)⟩

/-- The exponent of the last place of a format's subnormal numbers. -/
def FloatShape.emin (sh : FloatShape) : Int := 1 - (sh.bias : Int) - (sh.manBits : Int)

/-- Round ±x to the format's precision with an unbounded exponent (R110; subnormals at their own last place). -/
def FloatShape.round (sh : FloatShape) (rm : Rounding) (sign : Bool) (x : Pos) : Rounded :=
  x.round rm sign (sh.manBits + 1) sh.emin

/-- The encoding of the largest finite magnitude (R85). -/
def FloatShape.maxBits (sh : FloatShape) : Nat :=
  match sh.specials with
  | .ieee => (2 ^ sh.expBits - 1) * 2 ^ sh.manBits - 1
  | .nanOnly => 2 ^ (sh.expBits + sh.manBits) - 2
  | .none => 2 ^ (sh.expBits + sh.manBits) - 1

/-- The sign bit in its place. -/
def FloatShape.signBit (sh : FloatShape) (sign : Bool) : Nat :=
  if sign then 2 ^ (sh.expBits + sh.manBits) else 0

/-- The encoding of an infinity, for the formats that have one. -/
def FloatShape.infBits (sh : FloatShape) (sign : Bool) : Nat :=
  sh.signBit sign + (2 ^ sh.expBits - 1) * 2 ^ sh.manBits

/-- R88: the canonical quiet NaN of a format. -/
def FloatShape.qnan (sh : FloatShape) : Nat :=
  match sh.specials with
  | .ieee => (2 ^ sh.expBits - 1) * 2 ^ sh.manBits + 2 ^ (sh.manBits - 1)
  | .nanOnly => 2 ^ (sh.expBits + sh.manBits) - 1
  | .none => 0

/-- The magnitude bits of a rounded magnitude: those of the number itself where the format holds it, and above the
largest finite encoding where it does not. -/
def FloatShape.magBits (sh : FloatShape) (r : Rounded) : Nat :=
  if r.m = 0 then 0
  else
    let top : Int := (Nat.log2 r.m : Int) + r.e
    if top < 1 - (sh.bias : Int) then r.m * 2 ^ (r.e - sh.emin).toNat
    else
      let ex : Nat := (top + (sh.bias : Int)).toNat
      let l := Nat.log2 r.m
      let man := if l ≤ sh.manBits then r.m * 2 ^ (sh.manBits - l) else r.m / 2 ^ (l - sh.manBits)
      ex * 2 ^ sh.manBits + (man - 2 ^ sh.manBits)

/-- R100, R107: the result of one RNE rounding of ±x in a format with infinities: subnormals are kept, overflow
gives the infinity with OVF (or the largest finite magnitude where `sat`), and an inexact subnormal or zero sets UNF. -/
def FloatShape.finishSat (sh : FloatShape) (sat : Bool) (sign : Bool) (x : Pos) : Nat × Flags :=
  let r := sh.round .rne sign x
  let mag := sh.magBits r
  if mag > sh.maxBits then
    (if sat then sh.signBit sign + sh.maxBits else sh.infBits sign, flagOvf)
  else
    (sh.signBit sign + mag, flagIf (r.inexact && decide (mag < 2 ^ sh.manBits)) flagUnf)

def FloatShape.finish (sh : FloatShape) (sign : Bool) (x : Pos) : Nat × Flags := sh.finishSat false sign x

/-! ### Exact sums -/

/-- An exact dyadic number n × 2^e. -/
structure Dyadic where
  n : Int
  e : Int
  deriving DecidableEq, Repr

def Dyadic.zero : Dyadic := ⟨0, 0⟩

def Dyadic.add (x y : Dyadic) : Dyadic :=
  if x.n = 0 then y
  else if y.n = 0 then x
  else if x.e ≤ y.e then ⟨x.n + y.n * ((2 ^ (y.e - x.e).toNat : Nat) : Int), x.e⟩
  else ⟨x.n * ((2 ^ (x.e - y.e).toNat : Nat) : Int) + y.n, y.e⟩

def Dyadic.neg (x : Dyadic) : Dyadic := ⟨-x.n, x.e⟩

def Dyadic.mul (x y : Dyadic) : Dyadic := ⟨x.n * y.n, x.e + y.e⟩

def Dyadic.abs (x : Dyadic) : Dyadic := ⟨x.n.natAbs, x.e⟩

/-- x < y, exactly. -/
def Dyadic.lt (x y : Dyadic) : Bool := decide ((Dyadic.add x (Dyadic.neg y)).n < 0)

def Val.toDyadic : Val → Dyadic
  | .fin s m e => ⟨if s then -(m : Int) else m, e⟩
  | _ => Dyadic.zero

/-- The magnitude of a non-zero dyadic number. -/
def Dyadic.pos (x : Dyadic) : Pos := ⟨x.n.natAbs, 1, x.e⟩

/-- A dyadic number rounded once, RNE, to a format; an exact zero takes the sign given. -/
def FloatShape.finishDyadic (sh : FloatShape) (zeroSign : Bool) (x : Dyadic) : Nat × Flags :=
  if x.n = 0 then (sh.signBit zeroSign, noFlags) else sh.finish (decide (x.n < 0)) x.pos

/-! ### Arithmetic of single elements (R105 to R107, R214) -/

/-- Any NaN among the operands: the canonical NaN with NAN_IN (R107). -/
def nanResult (sh : FloatShape) : Nat × Flags := (sh.qnan, flagNanIn)

def invalidResult (sh : FloatShape) : Nat × Flags := (sh.qnan, flagInvalid)

/-- IEEE 754 sum of two values rounded once (R107): ∞ − ∞ is invalid, zeros follow R102. -/
def addVals (sh : FloatShape) (x y : Val) : Nat × Flags :=
  match x, y with
  | .nan _, _ => nanResult sh
  | _, .nan _ => nanResult sh
  | .inf s, .inf t => if s == t then (sh.infBits s, noFlags) else invalidResult sh
  | .inf s, .fin _ _ _ => (sh.infBits s, noFlags)
  | .fin _ _ _, .inf t => (sh.infBits t, noFlags)
  | .fin s m e, .fin t n f =>
    sh.finishDyadic (s && t && m == 0 && n == 0) (Dyadic.add (Val.toDyadic (.fin s m e)) (Val.toDyadic (.fin t n f)))

def Val.negate : Val → Val
  | .nan s => .nan (!s)
  | .inf s => .inf (!s)
  | .fin s m e => .fin (!s) m e

/-- A product rounded once (R107). -/
def mulVals (sh : FloatShape) (x y : Val) : Nat × Flags :=
  if x.isNan || y.isNan then nanResult sh
  else match x.mul y with
    | none => invalidResult sh
    | some (.nan _) => nanResult sh
    | some (.inf s) => (sh.infBits s, noFlags)
    | some (.fin s m e) => if m = 0 then (sh.signBit s, noFlags) else sh.finish s ⟨m, 1, e⟩

/-- A × B + C formed exactly and rounded once (R214). -/
def fmaVals (sh : FloatShape) (x y z : Val) : Nat × Flags :=
  if x.isNan || y.isNan || z.isNan then nanResult sh
  else match x.mul y with
    | none => invalidResult sh
    | some p => addVals sh p z

/-- A / B, correctly rounded (R107, R214). -/
def divVals (sh : FloatShape) (x y : Val) : Nat × Flags :=
  match x, y with
  | .nan _, _ => nanResult sh
  | _, .nan _ => nanResult sh
  | .inf _, .inf _ => invalidResult sh
  | .inf s, .fin t _ _ => (sh.infBits (s != t), noFlags)
  | .fin s _ _, .inf t => (sh.signBit (s != t), noFlags)
  | .fin s m e, .fin t n f =>
    if n = 0 then
      if m = 0 then invalidResult sh else (sh.infBits (s != t), flagDivZero)
    else if m = 0 then (sh.signBit (s != t), noFlags)
    else sh.finish (s != t) ⟨m, n, e - f⟩

/-- One bit of an integer square root: r grows by 2^k where the square still fits. -/
def isqrtFrom (n : Nat) : Nat → Nat → Nat
  | 0, r => if (r + 1) * (r + 1) ≤ n then r + 1 else r
  | k + 1, r => isqrtFrom n k (if (r + 2 ^ (k + 1)) * (r + 2 ^ (k + 1)) ≤ n then r + 2 ^ (k + 1) else r)

/-- The integer square root, bit by bit. -/
def isqrt (n : Nat) : Nat := isqrtFrom n (Nat.log2 n / 2 + 1) 0

/-- The square root of a positive number to at least k significant bits, with a half unit added where it is
inexact, so that one rounding to fewer than k − 1 bits gives the correctly rounded root. -/
def sqrtPos (k : Nat) (m : Nat) (e : Int) : Pos :=
  let pad : Nat := 2 * k
  let m1 := if e % 2 = 0 then m else 2 * m
  let e1 := if e % 2 = 0 then e else e - 1
  let big := m1 * 2 ^ (2 * pad)
  let r := isqrt big
  ⟨if r * r = big then 2 * r else 2 * r + 1, 1, e1 / 2 - (pad : Int) - 1⟩

/-- √A, correctly rounded (R107, R217). -/
def sqrtVals (sh : FloatShape) (x : Val) : Nat × Flags :=
  match x with
  | .nan _ => nanResult sh
  | .inf s => if s then invalidResult sh else (sh.infBits false, noFlags)
  | .fin s m e =>
    if m = 0 then (sh.signBit s, noFlags)
    else if s then invalidResult sh
    else sh.finish false (sqrtPos (sh.manBits + 8) m e)

/-- 1 / √A, correctly rounded (R217): the root of 1 / A. -/
def rsqrtVals (sh : FloatShape) (x : Val) : Nat × Flags :=
  match x with
  | .nan _ => nanResult sh
  | .inf s => if s then invalidResult sh else (sh.signBit false, noFlags)
  | .fin s m e =>
    if m = 0 then (sh.infBits s, flagDivZero)
    else if s then invalidResult sh
    else
      -- 1/√(m·2^e): the root of 2^k / m to many bits, with a sticky half where it is inexact
      let k := 2 * (Nat.log2 m + 2 * sh.manBits + 16)
      let e1 := if e % 2 = 0 then e else e - 1
      let m1 := if e % 2 = 0 then m else 2 * m
      let q := 2 ^ k / m1
      let r := isqrt q
      let exact : Bool := decide (r * r * m1 = 2 ^ k)
      sh.finish false ⟨if exact then 2 * r else 2 * r + 1, 1, -(e1 / 2) - ((k / 2 : Nat) : Int) - 1⟩

/-- The order of two numbers that are not NaN: x < y, with −0 = +0 (R106). -/
def Val.lt (x y : Val) : Bool :=
  match x, y with
  | .nan _, _ => false
  | _, .nan _ => false
  | .inf s, .inf t => s && !t
  | .inf s, .fin _ _ _ => s
  | .fin _ _ _, .inf t => !t
  | .fin s m e, .fin t n f => Dyadic.lt (Val.toDyadic (.fin s m e)) (Val.toDyadic (.fin t n f))

/-- x = y as numbers: false for a NaN, −0 = +0 (R106). -/
def Val.numEq (x y : Val) : Bool := !x.isNan && !y.isNan && !x.lt y && !y.lt x

/-- R105: MAX of two encodings; +0 is larger than −0. -/
def maxBitsOf (sh : FloatShape) (a b : Nat) : Nat × Flags :=
  let x := sh.decode a
  let y := sh.decode b
  if x.isNan || y.isNan then nanResult sh
  else if x.lt y then (b, noFlags)
  else if y.lt x then (a, noFlags)
  else (if x.sign then b else a, noFlags)

/-- R105: MIN of two encodings; −0 is smaller than +0. -/
def minBitsOf (sh : FloatShape) (a b : Nat) : Nat × Flags :=
  let x := sh.decode a
  let y := sh.decode b
  if x.isNan || y.isNan then nanResult sh
  else if x.lt y then (a, noFlags)
  else if y.lt x then (b, noFlags)
  else (if x.sign then a else b, noFlags)

/-- R108: under FTZ a subnormal encoding reads as, or becomes, zero of its sign, and FLUSHED is set. -/
def flushBits (sh : FloatShape) (ftz : Bool) (bits : Nat) : Nat × Flags :=
  let mag := bits % 2 ^ (sh.expBits + sh.manBits)
  if ftz && decide (0 < mag) && decide (mag < 2 ^ sh.manBits) then (bits - mag, flagFlushed) else (bits, noFlags)

end Sys2Proof.Machine
end

