-- ==== Sys2Proof/Machine/Convert.lean ====
section
/-! DEFINITION. Conversions between element formats (R109 to R112) and the counter-based generator (R114 to R117). -/

namespace Sys2Proof.Machine

/-- The least and the largest integer of an integer format (R86). -/
def ElemFmt.intRange (f : ElemFmt) : Int × Int :=
  match f with
  | .int8 => (-128, 127)
  | .int4 => (-8, 7)
  | .uint8 => (0, 255)
  | .uint4 => (0, 15)
  | _ => (0, 0)

/-- An integer as an element's bits. -/
def ElemFmt.intBits (f : ElemFmt) (i : Int) : Nat := (i % ((2 ^ f.bits : Nat) : Int)).toNat

/-- Whether R110 gives a format infinities in overflow mode. -/
def ElemFmt.hasInf (f : ElemFmt) : Bool :=
  match f with
  | .fp32 | .bf16 | .fp16 | .e5m2 | .fp64 => true
  | _ => false

/-- R110: the result of finite overflow of a floating-point target. Under SR in overflow mode the spec names no result:
Config.srOverflow. -/
def convertOverflow (f : ElemFmt) (sh : FloatShape) (rm : Rounding) (ovm sign : Bool) : Nat × Flags :=
  let top := sh.signBit sign + sh.maxBits
  if !ovm then (top, flagCvtSat)
  else if f.hasInf then
    match rm with
    | .rne => (sh.infBits sign, flagOvf)
    | .rtz => (top, flagOvf)
    | .rup => (if sign then top else sh.infBits sign, flagOvf)
    | .rdn => (if sign then sh.infBits sign else top, flagOvf)
    | .sr _ => (Config.srOverflow f.bits sign % 2 ^ f.bits, flagOvf)
  else if f = .e4m3 then (0x7F, flagOvf)
  else (top, flagCvtSat)

/-- R110: the conversion of an infinity, or of a NaN taken as an infinity of its sign, to a target with neither. -/
def convertSpecial (f : ElemFmt) (sh : Option FloatShape) (sign : Bool) : Nat × Flags :=
  match sh with
  | some t => (t.signBit sign + t.maxBits, flagCvtSpecial)
  | none => (f.intBits (if sign then f.intRange.1 else f.intRange.2), flagCvtSpecial)

/-- R110: one value converted to an element format. -/
def convertVal (f : ElemFmt) (rm : Rounding) (ovm : Bool) (x : Val) : Nat × Flags :=
  match f.shape with
  | some sh =>
    match x with
    | .nan s => if sh.specials = .none then convertSpecial f (some sh) s else (sh.qnan, noFlags)
    | .inf s =>
      if f.hasInf then (sh.infBits s, noFlags)
      else if f = .e4m3 ∧ ovm = true then (0x7F, flagCvtSpecial)
      else convertSpecial f (some sh) s
    | .fin s m e =>
      if m = 0 then (sh.signBit s, noFlags)
      else
        let mag := sh.magBits (sh.round rm s ⟨m, 1, e⟩)
        if mag > sh.maxBits then convertOverflow f sh rm ovm s else (sh.signBit s + mag, noFlags)
  | none =>
    match x with
    | .nan s => convertSpecial f none s
    | .inf s => convertSpecial f none s
    | .fin s m e =>
      if m = 0 then (0, noFlags)
      else
        -- an integer target rounds at its own last place, 1
        let r := Pos.round ⟨m, 1, e⟩ rm s (Nat.log2 m + e.toNat + 64) 0
        let i : Int := if s then -(r.m : Int) else r.m
        let c := max f.intRange.1 (min i f.intRange.2)
        (f.intBits c, flagIf (decide (c ≠ i)) flagCvtSat)

/-- R112: emax of a block-scaled target. -/
def ElemFmt.emax (f : ElemFmt) : Int :=
  match f with
  | .e4m3 => 8
  | .e5m2 => 15
  | .e3m2 => 4
  | .e2m3 => 2
  | .e2m1 => 2
  | _ => 0

/-- A value divided by 2^e. -/
def Val.shiftDown (x : Val) (e : Int) : Val :=
  match x with
  | .fin s m f => .fin s m (f - e)
  | v => v

/-- The exponent floor(log2 m) of the largest magnitude of a block: an infinity takes part as 2^128; none where m is
zero. -/
def blockTop (xs : List Val) : Option Int :=
  xs.foldl (fun acc x =>
    let t : Option Int := match x with
      | .inf _ => some 128
      | .fin _ m e => if m = 0 then none else some ((Nat.log2 m : Int) + e)
      | .nan _ => none
    match acc, t with
    | none, t => t
    | a, none => a
    | some a, some b => some (max a b)) none

/-- R112: one block converted to a block-scaled target: its scale byte, its elements, its flags. Each element comes with
its rounding (under SR, its own draw). -/
def convertBlock (f : ElemFmt) (ovm : Bool) (xs : List (Val × Rounding)) : Nat × List Nat × Flags :=
  if xs.any (fun x => x.1.isNan) then (0xFF, xs.map (fun _ => 0), flagCvtSpecial)
  else
    match blockTop (xs.map (fun x => x.1)) with
    | none =>
      let rs := xs.map (fun x => convertVal f x.2 ovm x.1)
      (0x7F, rs.map (fun r => r.1), flagsOr (rs.map (fun r => r.2)))
    | some top =>
      let e := max (-127) (min (top - f.emax) 127)
      let rs := xs.map (fun x => convertVal f x.2 ovm (x.1.shiftDown e))
      ((e + 127).toNat, rs.map (fun r => r.1), flagsOr (rs.map (fun r => r.2)))

/-- The rounding mode of an RM code (R109), with the draw an SR conversion uses. -/
def Rounding.ofCode (c draw : Nat) : Option Rounding :=
  match c with
  | 0 => some .rne
  | 1 => some .rtz
  | 2 => some .rup
  | 3 => some .rdn
  | 4 => some (.sr draw)
  | _ => none

/-! ### The generator -/

/-- The eight words of the generator's state (R114). -/
structure GenState where
  s0 : BitVec 32
  s1 : BitVec 32
  s2 : BitVec 32
  s3 : BitVec 32
  s4 : BitVec 32
  s5 : BitVec 32
  s6 : BitVec 32
  s7 : BitVec 32
  deriving DecidableEq, Repr

/-- R114: the load from the context seed, the tensor id, the step and the element index. -/
def genLoad (seed : BitVec 128) (tensor : BitVec 32) (step : BitVec 64) (index : BitVec 32) : GenState :=
  ⟨seed.extractLsb' 0 32, seed.extractLsb' 32 32, seed.extractLsb' 64 32, seed.extractLsb' 96 32, tensor,
    step.extractLsb' 0 32, step.extractLsb' 32 32, index >>> 4⟩

/-- One round of R115 with the round constant and rotations of R116. -/
def genRound (j : Nat) (g : GenState) : GenState :=
  let c : BitVec 32 := BitVec.ofNat 32 ((j + 1) * 0x9E3779B9)
  let r : Nat × Nat × Nat × Nat := if j % 2 = 0 then (5, 11, 19, 26) else (3, 14, 21, 29)
  let a0 := (g.s0 ^^^ c) + g.s4
  let a1 := g.s1 + g.s5
  let a2 := g.s2 + g.s6
  let a3 := g.s3 + g.s7
  let b0 := g.s4.rotateLeft r.1 ^^^ a0
  let b1 := g.s5.rotateLeft r.2.1 ^^^ a1
  let b2 := g.s6.rotateLeft r.2.2.1 ^^^ a2
  let b3 := g.s7.rotateLeft r.2.2.2 ^^^ a3
  ⟨a0, a1, a2, a3, b1, b2, b3, b0⟩

/-- The ten rounds. -/
def genRounds (g : GenState) : GenState := (List.range 10).foldl (fun x j => genRound j x) g

/-- R115: output word i, with the feed-forward. -/
def genOut (x : GenState) (i : Nat) : BitVec 32 :=
  let s := genRounds x
  match i with
  | 0 => s.s0 + x.s0
  | 1 => s.s1 + x.s1
  | 2 => s.s2 + x.s2
  | 3 => s.s3 + x.s3
  | 4 => s.s4 + x.s4
  | 5 => s.s5 + x.s5
  | 6 => s.s6 + x.s6
  | _ => s.s7 + x.s7

/-- R117: the 16-bit draw of element index e. -/
def genDraw (seed : BitVec 128) (tensor : BitVec 32) (step : BitVec 64) (e : Nat) : Nat :=
  let o := (genOut (genLoad seed tensor step (BitVec.ofNat 32 e)) (e % 16 / 2)).toNat
  if e % 2 = 0 then o % 65536 else o / 65536

end Sys2Proof.Machine
end

