-- ==== Sys2Proof/Machine/Tile.lean ====
section
/-! DEFINITION. Tile descriptors: their fields, the checks of R173 to R175, the bytes of a tile, and reading and writing
its elements (R87, R172 to R175). -/

namespace Sys2Proof.Machine

/-- A tile descriptor, with the scale reference that its SCALE register holds (R172, R175). -/
structure TileDesc where
  base : Nat
  rows : Nat
  cols : Nat
  rstride : Int
  cstride : Int
  code : Nat
  /-- SCALE -/
  scale : Nat
  /-- x[8 + SCALE], where SCALE is not 0 -/
  ref : Nat
  deriving DecidableEq, Repr

/-- The fields of a descriptor; x holds the scalar registers. -/
def tileDesc (x : Sparse Word) (d : BitVec 128) : TileDesc :=
  let v := d.toNat
  let sc := v / 2 ^ 125
  { base := bitsOf v 39 0, rows := bitsOf v 55 40, cols := bitsOf v 71 56, rstride := signedOf 24 (bitsOf v 95 72),
    cstride := signedOf 24 (bitsOf v 119 96), code := bitsOf v 124 120, scale := sc,
    ref := if sc = 0 then 0 else (xGet x (8 + sc)).toNat }

/-- The descriptor in register r as an instruction captured it. -/
def UnitOp.tile (o : UnitOp) (r : Nat) : TileDesc := tileDesc o.x (dGet o.d r)

def TileDesc.fmt (t : TileDesc) : Fmt := (Fmt.ofCode t.code).getD ⟨.fp32, false⟩

/-- Bits of an element. -/
def TileDesc.bits (t : TileDesc) : Nat := t.fmt.elem.bits

def TileDesc.phase (t : TileDesc) : Nat := bitsOf t.ref 47 40

/-- Address of the scale array. -/
def TileDesc.scaleBase (t : TileDesc) : Nat := bitsOf t.ref 39 0

/-- Scales of one row (R175). -/
def TileDesc.scalesPerRow (t : TileDesc) : Nat := (t.cols + t.phase + 31) / 32

/-- The bit address of element (i, j) (R87, R173). -/
def TileDesc.bitAddr (t : TileDesc) (i j : Nat) : Int :=
  8 * (t.base : Int) + ((i : Int) * t.rstride + (j : Int) * t.cstride) * (t.bits : Int)

/-- The address of the scale of element (i, j) (R175). -/
def TileDesc.scaleAddr (t : TileDesc) (i j : Nat) : Nat := t.scaleBase + i * t.scalesPerRow + (j + t.phase) / 32

/-- Bit addresses of the four corner elements, between which every element lies. -/
def TileDesc.corners (t : TileDesc) : List Int :=
  [t.bitAddr 0 0, t.bitAddr 0 (t.cols - 1), t.bitAddr (t.rows - 1) 0, t.bitAddr (t.rows - 1) (t.cols - 1)]

/-- The lowest byte of the elements, and the byte past the highest. -/
def TileDesc.lo (t : TileDesc) : Int := (t.corners.foldl min (t.bitAddr 0 0)) / 8

def TileDesc.hi (t : TileDesc) : Int := (t.corners.foldl max (t.bitAddr 0 0) + t.bits + 7) / 8

/-- The scales of a block-scaled tile: their PHASE, and where they lie in a space of lim bytes (R175). -/
def TileDesc.scaleOk (t : TileDesc) (lim : Nat) : Bool :=
  decide (t.ref / 2 ^ 48 = 0) && decide (t.phase ≤ 31) && decide (t.scaleBase + t.rows * t.scalesPerRow ≤ lim)

/-- R173 to R175 for a tile in a space of lim bytes: a valid format, counts of at least 1, the strides of narrow formats,
the alignment of BASE, every element in the space, and SCALE as the format wants it. -/
def TileDesc.ok (t : TileDesc) (lim : Nat) : Bool :=
  match Fmt.ofCode t.code with
  | none => false
  | some f =>
    decide (1 ≤ t.rows) && decide (1 ≤ t.cols) &&
    (f.elem.bits ≥ 8 || (decide (t.rstride % (if f.elem.bits = 4 then 2 else 4) = 0) &&
      decide (t.cstride = 0 ∨ t.cstride = 1))) &&
    decide (t.base % (f.elem.bits / 8 + (if f.elem.bits < 8 then 1 else 0)) = 0) &&
    decide (0 ≤ t.lo) && decide (t.hi ≤ (lim : Int)) && decide (t.base < lim) &&
    (if f.scaled then t.scale != 0 && t.scaleOk lim else t.scale == 0)

/-- A destination broadcasts nothing (R174). -/
def TileDesc.destOk (t : TileDesc) (lim : Nat) : Bool :=
  t.ok lim && !(decide (t.rstride = 0) && decide (t.rows > 1)) && !(decide (t.cstride = 0) && decide (t.cols > 1))

/-- The n bits at a bit address of a byte-addressed memory. -/
def bitsAt (rd : Nat → Byte) (bit n : Nat) : Nat :=
  let b := bit / 8
  leNat ((List.range ((bit % 8 + n + 7) / 8)).map (fun i => rd (b + i))) / 2 ^ (bit % 8) % 2 ^ n

/-- The encoding of element (i, j). -/
def TileDesc.elem (t : TileDesc) (rd : Nat → Byte) (i j : Nat) : Nat := bitsAt rd (t.bitAddr i j).toNat t.bits

/-- The scale byte of element (i, j): 127, the scale 1.0, where the format has none (R92). -/
def TileDesc.scaleOf (t : TileDesc) (rd : Nat → Byte) (i j : Nat) : Nat :=
  if t.fmt.scaled then (rd (t.scaleAddr i j)).toNat else 127

/-- Element (i, j) as an encoding and a scale byte. -/
def TileDesc.scaledElem (t : TileDesc) (rd : Nat → Byte) (i j : Nat) : Nat × Nat := (t.elem rd i j, t.scaleOf rd i j)

/-- The bytes that a tile's elements and scales lie in. -/
def TileDesc.bytes (t : TileDesc) : List Nat :=
  (List.range t.rows).flatMap (fun i =>
    (List.range t.cols).flatMap (fun j =>
      let b := (t.bitAddr i j).toNat
      List.range' (b / 8) ((b + t.bits + 7) / 8 - b / 8)) ++
    (if t.fmt.scaled then List.range' (t.scaleBase + i * t.scalesPerRow) t.scalesPerRow else []))

/-- Byte ranges of two tiles in one space meet (R183, R204): some byte lies in both (DEDUCED, log entry 12). -/
def TileDesc.overlaps (t u : TileDesc) : Bool :=
  let a := t.bytes
  u.bytes.any (fun b => a.contains b)

/-- A write of the n bits of an element at a bit address, as masked bytes in the space that `at_` names. -/
def elemWrites (at_ : Nat → Place) (bit n v : Nat) : List ByteWrite :=
  let b := bit / 8
  let k := (bit % 8 + n + 7) / 8
  let mask := (2 ^ n - 1) * 2 ^ (bit % 8)
  let val := v % 2 ^ n * 2 ^ (bit % 8)
  (List.range k).map (fun i =>
    ⟨at_ (b + i), BitVec.ofNat 8 (mask / 256 ^ i), BitVec.ofNat 8 (val / 256 ^ i)⟩)

/-- A whole byte written. -/
def byteWrite (at_ : Nat → Place) (a v : Nat) : ByteWrite := ⟨at_ a, 0xFF#8, BitVec.ofNat 8 v⟩

/-- The zero bits that pad a written row of 6-bit elements to a whole group (R87). -/
def TileDesc.padWrites (t : TileDesc) (at_ : Nat → Place) (i : Nat) : List ByteWrite :=
  if t.bits = 6 ∧ t.cstride = 1 ∧ t.cols % 4 ≠ 0 then
    elemWrites at_ (t.bitAddr i t.cols).toNat (6 * (4 - t.cols % 4)) 0
  else []

/-- The writes of a tile, elements in row-major order: v gives the encodings. -/
def TileDesc.writes (t : TileDesc) (at_ : Nat → Place) (v : Nat → Nat → Nat) : List ByteWrite :=
  (List.range t.rows).flatMap (fun i =>
    (List.range t.cols).flatMap (fun j => elemWrites at_ (t.bitAddr i j).toNat t.bits (v i j)) ++ t.padWrites at_ i)

/-- The writes of a tile's scale bytes: v gives the byte of block b of row i. -/
def TileDesc.scaleWrites (t : TileDesc) (at_ : Nat → Place) (v : Nat → Nat → Nat) : List ByteWrite :=
  if t.fmt.scaled then
    (List.range t.rows).flatMap (fun i => (List.range t.scalesPerRow).map (fun b =>
      byteWrite at_ (t.scaleBase + i * t.scalesPerRow + b) (v i b)))
  else []

/-- The value of a scaled element (R92, R93): a NaN that a scale makes of it has a sign that the spec does not state. -/
def scaledVal (f : ElemFmt) (e : Nat × Nat) : Val :=
  if e.2 % 256 = 255 then .nan (Config.nanScaleSign e.1)
  else match f.decode e.1 with
    | .fin s m x => .fin s m (x + ((e.2 % 256 : Nat) - 127))
    | v => v

/-- A masked byte of a table of bytes. -/
def putMasked (m : Sparse Byte) (a : Nat) (mask val : Byte) : Sparse Byte :=
  sUpd 0#8 m a (fun old => (old &&& ~~~mask) ||| (val &&& mask))

/-- One masked byte written where its place says. Stack bytes lose no poison here. -/
def ByteWrite.apply (w : ByteWrite) (s : State) : State :=
  match w.at_ with
  | .store p a => updCell s p (fun x => { x with store := putMasked x.store a w.mask w.val })
  | .block g a => updBlk s g (fun b => { b with store := putMasked b.store a w.mask w.val })
  | .hbm st la => { s with mem := { s.mem with hbm := putMasked s.mem.hbm (hbmKey st la) w.mask w.val } }
  | .scratch a => { s with mem := { s.mem with scratch := putMasked s.mem.scratch a w.mask w.val } }
  | .imem p b => updCell s p (fun x => { x with imem := sUpd 0#128 x.imem (b / 16) (fun v =>
      BitVec.ofNat 128 (putBits v.toNat (b % 16 * 8 + 7) (b % 16 * 8) w.val.toNat)) })
  | .nowhere => s

/-- The bytes of the store of a physical cell. -/
def readStore (x : Cell) : Nat → Byte := fun a => sGet 0#8 x.store a

/-- Bytes of a cell store. -/
def storeSize : Nat := 0x80000

/-- What a unit's reads of the cell's own store meet: the state after the check, and the fault of an uncorrectable word at
an address that the unit reads. -/
def hitStore (l : Nat) (op : UnitOp) (reads : Nat → Bool) (h : Hit) (s : State) : State × Option FaultRec :=
  if h.mem = .store ∧ reads h.loc = true then
    let s := storeMeets (physOf s l) h.ecc s
    (s, if h.ecc = .uncorrectable then some (storeEccOwn op.pc op.word h.loc) else none)
  else (s, none)

/-- A unit's own fault: its instruction's PC and word (R493, R615). -/
def opFault (code : Nat) (op : UnitOp) : FaultRec := insnFault code op.pc op.word

end Sys2Proof.Machine
end

