-- ==== Sys2Proof/Machine/Plan.lean ====
section
/-! DEFINITION. The configuration sets that a context runs by, read where they lie: plan header, frames, program image and
slot tables (R40 to R42, R164, R244). -/

namespace Sys2Proof.Machine

/-- The address of a context's active plan. -/
def planOf (x : Ctx) : Nat := if x.kept.planB then x.desc.planB else x.desc.planA

/-- Fields of a plan header (R40). -/
def planLenMin (s : State) (plan : Nat) : Nat := peekNat s (plan + 0x06) 2
def planFrames (s : State) (plan : Nat) : Nat := peekNat s (plan + 0x08) 2 + 1
def planBlocks (s : State) (plan : Nat) : Nat := peekNat s (plan + 0x0A) 2
def planFrameBase (s : State) (plan : Nat) : Nat := peekNat s (plan + 0x10) 8
def planProg (s : State) (plan : Nat) : Nat := peekNat s (plan + 0x18) 8
def planSlots (s : State) (plan : Nat) : Nat := peekNat s (plan + 0x20) 8
def planLinks (s : State) (plan : Nat) : Nat := peekNat s (plan + 0x28) 8

/-- The address of frame f (R41). -/
def frameAddr (s : State) (plan f : Nat) : Nat := planFrameBase s plan + f * (32 + 32 * planBlocks s plan)

def frameFlags (s : State) (plan f : Nat) : Nat := peekNat s (frameAddr s plan f + 2) 2

def frameSlotTable (s : State) (plan f : Nat) : Nat := peekNat s (frameAddr s plan f + 4) 2

/-- The cell entry of partition block b and logical cell c in frame f: active, and the entry point (R42). -/
def cellEntry (s : State) (plan f b c : Nat) : Bool × Nat :=
  let v := peekNat s (frameAddr s plan f + 32 + 32 * b + 2 * c) 2
  (v / 2 ^ 15 == 1, v % 4096)

/-- The frame that ends a step begun at a frame: marked STEP_END or LAST, or the last of the plan. -/
def stepEndFrom (s : State) (plan : Nat) : Nat → Nat → Nat
  | 0, f => f
  | n + 1, f =>
    let g := frameFlags s plan f
    if g % 2 = 1 ∨ g / 4 % 2 = 1 ∨ planFrames s plan ≤ f + 1 then f else stepEndFrom s plan n (f + 1)

def stepEnd (s : State) (plan f : Nat) : Nat := stepEndFrom s plan 65536 f

/-- The frame after one that ended a step. -/
def frameAfter (s : State) (plan f : Nat) : Nat :=
  if frameFlags s plan f / 4 % 2 = 1 ∨ planFrames s plan ≤ f + 1 then 0 else f + 1

/-- A segment of a program image (R164): offset, first index, words, first and last block, cells. -/
structure Segment where
  offset : Nat
  start : Nat
  count : Nat
  first : Nat
  last : Nat
  cells : Nat

def segmentCount (s : State) (prog : Nat) : Nat := peekNat s (prog + 6) 2

def segmentAt (s : State) (prog i : Nat) : Segment :=
  let a := prog + 0x20 + 32 * i
  ⟨peekNat s a 4, peekNat s (a + 4) 2, peekNat s (a + 6) 2, peekNat s (a + 8) 2, peekNat s (a + 10) 2, peekNat s (a + 12) 2⟩

/-- The words of a segment. -/
def segmentWords (s : State) (prog : Nat) (g : Segment) : List InsnWord :=
  (List.range g.count).map (fun i => BitVec.ofNat 128 (peekNat s (prog + g.offset + 16 * i) 16))

/-- A stream entry of a slot table (R244). -/
structure Stream where
  num : Nat
  blk : Nat
  cell : Nat
  kind : Nat
  dest : Nat
  dir : Nat
  lane : Nat
  wheel : Nat
  ring : Nat

/-- The address of slot table t of a directory. -/
def slotTableAddr (s : State) (dir t : Nat) : Nat := peekNat s (dir + 0x10 + 8 * t) 8

/-- The streams of the slot table at an address. -/
def slotStreams (s : State) (tab : Nat) : List Stream :=
  (List.range (peekNat s (tab + 2) 2)).map (fun i =>
    let a := tab + 0x20 + 32 * i
    ⟨peekNat s a 2, peekNat s (a + 2) 2, peekNat s (a + 4) 1, peekNat s (a + 5) 1, peekNat s (a + 6) 2, peekNat s (a + 8) 1,
      peekNat s (a + 9) 1, peekNat s (a + 16) 8, peekNat s (a + 24) 8⟩)

/-- The stream that a logical cell holds under a number in the open beat's slot table (R182). -/
def heldStream (s : State) (c l num : Nat) : Option Stream :=
  let x := ctxAt s c
  let plan := planOf x
  if x.run.inFrame then
    (slotStreams s (slotTableAddr s (planSlots s plan) (frameSlotTable s plan x.run.frame))).find? (fun t =>
      t.num == num && t.blk == partIndex s c (blockOf l) && t.cell == l % 16)
  else none

end Sys2Proof.Machine
end

