-- ==== Sys2Proof/Machine/Access.lean ====
section
/-! DEFINITION. Accesses of a context to its address space: translation, the granary, Square caches, ECC of lines, and the
writes of moves (R263 to R278, R287, R338). -/

namespace Sys2Proof.Machine

/-! ### Translation (R263 to R267, R338) -/

/-- The level-1 entry whose table serves level-1 index i: the granary exchanges window and alias (R338). -/
def granaryIndex (x : Ctx) (i : Nat) : Nat :=
  let d := x.desc
  if x.kept.gsel && d.gwCount != 0 then
    if d.gwBase ≤ i ∧ i < d.gwBase + d.gwCount then d.gaBase + (i - d.gwBase)
    else if d.gaBase ≤ i ∧ i < d.gaBase + d.gwCount then d.gwBase + (i - d.gaBase)
    else i
  else i

/-- The loaded entry of a context page, as seen through the granary. -/
def xlateAt (x : Ctx) (page : Nat) : Option XEntry := sFind x.xlate (512 * granaryIndex x (page / 512) + page % 512)

/-- A context address to a physical one, or the fault code of R267. -/
def ctxPa (s : State) (c a : Nat) (write : Bool) : Nat ⊕ Nat :=
  match xlateAt (ctxAt s c) (a / 2 ^ 21) with
  | none => .inl 0x0118
  | some e =>
    if write && !e.w then .inl 0x0119
    else if sGet false s.mem.retired e.frame then .inl 0x011A
    else .inr (e.frame * 2 ^ 21 + a % 2 ^ 21)

/-! ### Square caches (R275, R276) -/

/-- The key of a set of a context's cache on base die n. -/
def cacheKey (n c set : Nat) : Nat := (n * 16384 + c) * 65536 + set

/-- The set of a stack-local line address. -/
def cacheSet (units la : Nat) : Nat := la / 128 % (4096 * units)

/-- A lookup: whether it hits, whether the line was dirty, and the cache after it. A write makes the line dirty; only an
access that allocates fills a missing line, most recently used first. -/
def cacheLookup (c stack la : Nat) (write alloc : Bool) (s : State) : (Bool × Bool) × State :=
  let u := (cacheUnits s c stack).length
  if c = 0 ∨ u = 0 then ((false, false), s)
  else
    let key := cacheKey stack c (cacheSet u la)
    let ways := sGet [] s.mem.cache key
    let line := la / 128
    let put := fun (s : State) w => { s with mem := { s.mem with cache := sSet [] s.mem.cache key w } }
    match ways.find? (fun w => w.line == line) with
    | some w =>
      ((true, w.dirty), put (updDie s stack (fun d => { d with hits := satAdd 64 d.hits 1 }))
        (⟨line, w.dirty || write⟩ :: ways.filter (fun v => v.line != line)))
    | none =>
      let s := updDie s stack (fun d => { d with misses := satAdd 64 d.misses 1 })
      ((false, false), if alloc then put s ((⟨line, write⟩ :: ways).take 16) else s)

/-- A line leaves a cache. -/
def cacheDrop (c stack la : Nat) (s : State) : State :=
  let key := cacheKey stack c (cacheSet (cacheUnits s c stack).length la)
  { s with mem := { s.mem with cache := sUpd [] s.mem.cache key (fun ws => ws.filter (fun w => w.line != la / 128)) } }

/-- Bytes of a context's traffic to a base die in the sense interval (R344). -/
def addTraffic (c die n : Nat) (s : State) : State :=
  if c = 0 then s else updCtx s c (fun x => { x with traffic := sUpd 0 x.traffic die (fun v => v + n) })

/-- FLT_SQ_ECC for the owner of a unit (R278). -/
def raiseSqEcc (ctxs : List Nat) (die : Nat) (s : State) : State :=
  raiseFault { code := 0x0306 } ctxs (tallyAdd s 0x02 0x0A die 1)

/-- A corrected error in a Square. -/
def sramCorrected (die : Nat) (s : State) : State :=
  tallyAdd (updDie s die (fun d => { d with sramCe := satAdd 64 d.sramCe 1 })) 0x01 0x0A die 1

/-- What the line of an access meets: true where the access must fail, its fault raised. `whole`: a write of all 64
bytes, which reads nothing. -/
def lineAccess (c pa : Nat) (write whole alloc : Bool) (e : Ecc) (s : State) : Bool × State :=
  match physAt s pa with
  | .hbm stack la =>
    let s := addTraffic c stack 64 s
    let r := cacheLookup c stack la write alloc s
    let s := r.2
    if r.1.1 then
      match e with
      | .clean => (false, s)
      | .corrected => (false, sramCorrected stack s)
      | .uncorrectable => if r.1.2 then (true, raiseSqEcc [c] stack s) else (false, sramCorrected stack s)
    else if write && whole then (false, s)
    else if write && !decide (alloc = true ∧ (cacheUnits s c stack).length ≠ 0 ∧ c ≠ 0) &&
        !sGet false s.mem.poison (hbmKey stack la / 64) then (false, s)
    else
      let q := readLine s stack la e
      if q.1 then (true, raiseHbmUe stack la (pa - pa % 64) [c] (cacheDrop c stack la q.2)) else (false, q.2)
  | .scratch off =>
    match e with
    | .clean => (false, s)
    | .corrected => (false, sramCorrected (off / 2 ^ 27) s)
    | .uncorrectable => if write && whole then (false, s) else (true, raiseSqEcc [c] (off / 2 ^ 27) s)
  | _ => (false, s)

/-- Lines accessed one after another; the line of number `h.which` meets h.ecc. The answer says whether any failed. -/
def linesAccess (c : Nat) (write alloc : Bool) (whole : Nat → Bool) (h : LineHit) : List Nat → Nat → State → Bool × State
  | [], _, s => (false, s)
  | pa :: t, i, s =>
    let r := lineAccess c pa write (whole pa) alloc (if h.which = i then h.ecc else .clean) s
    if r.1 then r else linesAccess c write alloc whole h t (i + 1) r.2

/-- A byte of physical memory as it stands. -/
def physByte (s : State) (pa : Nat) : Byte :=
  match physAt s pa with
  | .hbm st la => sGet 0#8 s.mem.hbm (hbmKey st la)
  | .carve off => sGet 0#8 s.mem.hbm (hbmKey 0 (carveLa off))
  | .scratch off => sGet 0#8 s.mem.scratch off
  | _ => 0#8

/-- The place of a byte of physical memory that a move may write. -/
def physPlace (s : State) (pa : Nat) : Place :=
  match physAt s pa with
  | .hbm st la => .hbm st la
  | .scratch off => .scratch off
  | _ => .nowhere

/-- The distinct elements of a list, first occurrences in order. -/
def distinct : List Nat → List Nat
  | [] => []
  | a :: t => a :: (distinct t).filter (fun b => b != a)

/-- The 64-byte lines that a list of byte addresses touches. -/
def linesOf (bytes : List Nat) : List Nat := distinct (bytes.map (fun a => a - a % 64))

/-- All of a list of context addresses translated line by line, or the first fault. -/
def ctxLines (s : State) (c : Nat) (write : Bool) : List Nat → Nat ⊕ List Nat
  | [] => .inr []
  | a :: t =>
    match ctxPa s c a write, ctxLines s c write t with
    | .inl f, _ => .inl f
    | _, .inl f => .inl f
    | .inr p, .inr ps => .inr (p :: ps)

/-! ### Writing -/

/-- The place is a stack line: stack and line key. -/
def Place.stackLine : Place → Option Nat
  | .hbm st la => some (hbmKey st la / 64)
  | _ => none

/-- A whole line is among the writes. -/
def wholeLine (ws : List ByteWrite) (line : Nat) : Bool :=
  decide ((distinct (ws.filterMap (fun w => match w.at_ with
    | .hbm st la => if hbmKey st la / 64 = line ∧ w.mask = 0xFF#8 then some (hbmKey st la % 64) else none
    | _ => none))).length = 64)

/-- Writes applied in order; a stack line written whole loses its poison (R287). -/
def applyWrites (ws : List ByteWrite) (s : State) : State :=
  let s := ws.foldl (fun s w => w.apply s) s
  let lines := distinct (ws.filterMap (fun w => w.at_.stackLine))
  lines.foldl (fun s k => if sGet false s.mem.poison k && wholeLine ws k then
    { s with mem := { s.mem with poison := sErase s.mem.poison k } } else s) s

/-! ### Ring road (R25, R236, R251) -/

/-- The ring links on the way from one region to another (R236). -/
def ringRoute (a b : Nat) : List Nat :=
  match a, b with
  | 0, 1 => [0] | 1, 0 => [0]
  | 1, 3 => [1] | 3, 1 => [1]
  | 3, 2 => [2] | 2, 3 => [2]
  | 2, 0 => [3] | 0, 2 => [3]
  | 0, 3 => [0, 1] | 3, 0 => [1, 0]
  | 1, 2 => [0, 3] | 2, 1 => [3, 0]
  | _, _ => []

/-- The two regions that a ring link joins. -/
def linkEnds (k : Nat) : List Nat :=
  match k with
  | 0 => [0, 1]
  | 1 => [1, 3]
  | 2 => [3, 2]
  | _ => [2, 0]

/-- A way from region to region crosses a link that is down. -/
def routeDown (s : State) (a b : Nat) : Bool := (ringRoute a b).any (fun k => linkOut s k)

end Sys2Proof.Machine
end

