-- ==== Sys2Proof/Machine/Control.lean ====
section
/-! DEFINITION. The control class (R170, R171), YIELD and its retirement (R48), and the deferred lanes (R358 to R361). -/

namespace Sys2Proof.Machine

/-- The legal words of a control operation: unused fields zero, no reserved encoding (R169). -/
def controlLegal (w : InsnWord) : Bool :=
  let op := (classOp w).2
  match controlFields op with
  | some fs => onlyFields w ((127, 116) :: fs) && !controlReserved op w
  | none => false

/-- A control instruction of operation op issues. -/
def control (op : Nat) (c : LCell) (m : Meet) (s : State) (go : State → Nat → Cell → InsnWord → State) : State :=
  issueWith (fetchFor (fun w => decide (classOp w = (0, op))) controlLegal c m s) s go

/-- The cell writes x[RD] and goes on. -/
def writeRd (s : State) (p : Nat) (w : InsnWord) (v : Word) : State :=
  updCell s p (fun x => { x with x := xSet x.x (wf w 115 112) v }.next)

def immOf (w : InsnWord) : Word := w.extractLsb' 0 64

def raOf (x : Cell) (w : InsnWord) : Word := xGet x.x (wf w 111 108)

def rbOf (x : Cell) (w : InsnWord) : Word := xGet x.x (wf w 107 104)

/-- An operation that writes x[RD] from x[RA], x[RB] and IMM (R171). -/
def scalarOp (op : Nat) (f : Word → Word → Word → Word) (c : LCell) (m : Meet) (s : State) : State :=
  control op c m s (fun s p x w => writeRd s p w (f (raOf x w) (rbOf x w) (immOf w)))

def execLi (c : LCell) (m : Meet) (s : State) : Host.Outcome State Fault Refusal :=
  .next (scalarOp 0x03 (fun _ _ i => i) c m s)

def execAdd (c : LCell) (m : Meet) (s : State) : Host.Outcome State Fault Refusal :=
  .next (scalarOp 0x04 (fun a b i => a + b + i) c m s)

def execSub (c : LCell) (m : Meet) (s : State) : Host.Outcome State Fault Refusal :=
  .next (scalarOp 0x05 (fun a b _ => a - b) c m s)

def execAnd (c : LCell) (m : Meet) (s : State) : Host.Outcome State Fault Refusal :=
  .next (scalarOp 0x06 (fun a b _ => a &&& b) c m s)

def execOr (c : LCell) (m : Meet) (s : State) : Host.Outcome State Fault Refusal :=
  .next (scalarOp 0x07 (fun a b _ => a ||| b) c m s)

def execXor (c : LCell) (m : Meet) (s : State) : Host.Outcome State Fault Refusal :=
  .next (scalarOp 0x08 (fun a b _ => a ^^^ b) c m s)

def execShl (c : LCell) (m : Meet) (s : State) : Host.Outcome State Fault Refusal :=
  .next (scalarOp 0x09 (fun a _ i => a <<< (i.toNat % 64)) c m s)

def execShr (c : LCell) (m : Meet) (s : State) : Host.Outcome State Fault Refusal :=
  .next (scalarOp 0x0A (fun a _ i => a >>> (i.toNat % 64)) c m s)

def execMul (c : LCell) (m : Meet) (s : State) : Host.Outcome State Fault Refusal :=
  .next (scalarOp 0x0B (fun a b _ => a * b) c m s)

/-- A load or store of the sequencer: x[RA] + IMM, in the store and aligned to its size, or FLT_DESC (R171). -/
def seqAddress (n : Nat) (x : Cell) (w : InsnWord) : Option Nat :=
  let a := (raOf x w + immOf w).toNat
  if a % n = 0 ∧ a + n ≤ 0x80000 then some a else none

/-- A load of n bytes by the sequencer, with the store's check (R158). -/
def seqLoad (n : Nat) (c : LCell) (m : Meet) (s : State) (p : Nat) (x : Cell) (w : InsnWord)
    (go : State → List Byte → State) : State :=
  match seqAddress n x w with
  | none => faultHere 0x0105 c.toNat w s
  | some a =>
    let s := storeMeets p m.data s
    if m.data = .uncorrectable then raiseCellFault (storeEccOwn x.seq.pc w a) c.toNat s
    else go s (storeBytes x a n)

def execLdx (c : LCell) (m : Meet) (s : State) : Host.Outcome State Fault Refusal :=
  .next (control 0x0C c m s (fun s p x w =>
    seqLoad 8 c m s p x w (fun s bs => writeRd s p w (BitVec.ofNat 64 (leNat bs)))))

def execStx (c : LCell) (m : Meet) (s : State) : Host.Outcome State Fault Refusal :=
  .next (control 0x0D c m s (fun s p x w =>
    match seqAddress 8 x w with
    | none => faultHere 0x0105 c.toNat w s
    | some a => updCell s p (fun y => (y.putStore a (natLe 8 (rbOf x w).toNat)).next)))

/-- The cell writes d[DD] and goes on. -/
def writeDd (s : State) (p : Nat) (w : InsnWord) (v : BitVec 128) : State :=
  updCell s p (fun x => { x with d := dSet x.d (wf w 103 100) v }.next)

def execLdd (c : LCell) (m : Meet) (s : State) : Host.Outcome State Fault Refusal :=
  .next (control 0x0E c m s (fun s p x w =>
    seqLoad 16 c m s p x w (fun s bs => writeDd s p w (BitVec.ofNat 128 (leNat bs)))))

def execDadd (c : LCell) (m : Meet) (s : State) : Host.Outcome State Fault Refusal :=
  .next (control 0x0F c m s (fun s p x w =>
    let d := (dGet x.d (wf w 103 100)).toNat
    let base := (bitsOf d 39 0 + (raOf x w).toNat + (immOf w).toNat) % 2 ^ 40
    writeDd s p w (BitVec.ofNat 128 (putBits d 39 0 base))))

/-- The branch conditions of R171. -/
def branchHolds (cond : Nat) (a b : Word) : Bool :=
  match cond with
  | 0 => true
  | 1 => a == b
  | 2 => a != b
  | 3 => decide (a.toInt < b.toInt)
  | 4 => decide (a.toInt ≥ b.toInt)
  | 5 => decide (a.toNat < b.toNat)
  | 6 => decide (a.toNat ≥ b.toNat)
  | _ => false

/-- A branch taken leaves the loop stack as it is (DEDUCED, log entry 8). -/
def execBr (c : LCell) (m : Meet) (s : State) : Host.Outcome State Fault Refusal :=
  .next (control 0x10 c m s (fun s p x w =>
    if branchHolds (wf w 63 60) (raOf x w) (rbOf x w) then
      updCell s p (fun y => { y with seq := { y.seq with pc := wf w 11 0 } })
    else updCell s p Cell.next))

def execLoop (c : LCell) (m : Meet) (s : State) : Host.Outcome State Fault Refusal :=
  .next (control 0x11 c m s (fun s p x w =>
    let last := wf w 11 0
    let n := (raOf x w).toNat
    if last < x.seq.pc + 1 ∨ (n ≥ 1 ∧ x.seq.loops.length ≥ 4) then faultHere 0x0101 c.toNat w s
    else if n = 0 then updCell s p (fun y => { y with seq := y.seq.advance last })
    else updCell s p (fun y => { y with seq := { y.seq with
      pc := y.seq.pc + 1
      loops := ⟨y.seq.pc + 1, last, n⟩ :: y.seq.loops } })))

/-- The RDINFO items of R171. -/
def rdinfoItem (s : State) (l item : Nat) : Nat :=
  let c := (ownerOf s (blockOf l)).getD 0
  match item with
  | 0 => l
  | 1 => s.beat.gnum
  | 2 => (ctxAt s c).run.frame
  | 3 => s.cycle - s.beat.openAt
  | 4 => c
  | _ => partIndex s c (blockOf l)

def execRdinfo (c : LCell) (m : Meet) (s : State) : Host.Outcome State Fault Refusal :=
  .next (control 0x12 c m s (fun s p _ w =>
    writeRd s p w (BitVec.ofNat 64 (rdinfoItem s c.toNat (wf w 7 0)))))

/-- The units that a FENCE names have completed every issued operation (R171). -/
def fenceOpen (s : State) (l mask : Nat) : Bool :=
  let u := (cellAt s (physOf s l)).units
  (mask % 2 == 0 || matrixQuiet u) && (mask / 2 % 2 == 0 || u.vector.isEmpty) && (mask / 4 % 2 == 0 || moveQuiet u) &&
    (mask / 8 % 2 == 0 || syncQuiet s l)

/-- FENCE: the row is its completion, once the units named are done. -/
def execFence (c : LCell) (m : Meet) (s : State) : Host.Outcome State Fault Refusal :=
  .next (control 0x13 c m s (fun t p _ w => if fenceOpen t c.toNat (wf w 3 0) then updCell t p Cell.next else t))

def execTrap (c : LCell) (m : Meet) (s : State) : Host.Outcome State Fault Refusal :=
  .next (control 0x14 c m s (fun s _ x w =>
    raiseCellFault { insnFault 0x010C x.seq.pc w with arg := wf w 15 0 } c.toNat s))

/-- NOP does nothing. A word that no row of the table takes, the all-zero word among them, raises FLT_INSN_ILLEGAL
(R167, R169), and an index past 4,095 raises FLT_PC_RANGE (R163): both are raised in this row. -/
def execNop (c : LCell) (m : Meet) (s : State) : Host.Outcome State Fault Refusal :=
  .next (if issuing s c.toNat && decide ((cellAt s (physOf s c.toNat)).seq.pc ≥ 4096) then
      raiseCellFault { code := 0x0102, pc := (cellAt s (physOf s c.toNat)).seq.pc % 65536 } c.toNat s
    else
      issueWith (fetchFor (fun w => decide (classOp w = (0, 1)) || !wordDefined w)
        (fun w => wordDefined w && controlLegal w) c m s) s (fun s p _ _ => updCell s p Cell.next))

/-- YIELD issues: the cell issues nothing further in the beat (R48). -/
def execYield (c : LCell) (m : Meet) (s : State) : Host.Outcome State Fault Refusal :=
  .next (control 0x02 c m s (fun s p _ _ => updCell s p (fun x => { x with seq := { x.seq with yieldIssued := true } })))

/-! ### Deferred lanes (R358 to R361) -/

/-- The active shard map of a context; 0 where it has none (R346). -/
def shardMapOf (x : Ctx) : Nat := if x.kept.shardB then x.desc.shardB else x.desc.shardA

/-- Entries per deferred lane, and the address of the lane of a logical cell (R349, R358). A context with no shard map
has lanes of no entries (DEDUCED, log entry 9). -/
def laneOf (s : State) (c l : Nat) : Nat × Nat :=
  let map := shardMapOf (ctxAt s c)
  if map = 0 then (0, 0)
  else
    let depth := peekNat s (map + 0x0A) 2
    (depth, peekNat s (map + 0x28) 8 + (16 * partIndex s c (blockOf l) + l % 16) * (64 + 16 * depth))

/-- Entries in a lane: TAIL − HEAD mod 2^32. -/
def laneCount (s : State) (lane : Nat) : Nat := (peekNat s (lane + 4) 4 + 2 ^ 32 - peekNat s lane 4) % 2 ^ 32

def execDqpush (c : LCell) (m : Meet) (s : State) : Host.Outcome State Fault Refusal :=
  .next (control 0x15 c m s (fun s p x w =>
    let l := c.toNat
    let ctx := (ownerOf s (blockOf l)).getD 0
    let lane := laneOf s ctx l
    let n := if lane.1 = 0 then 0 else laneCount s lane.2
    if n ≥ lane.1 then faultHere 0x0129 l w s
    else
      let tail := peekNat s (lane.2 + 4) 4
      let s := poke s (lane.2 + 64 + 16 * (tail % lane.1))
        (natLe 2 (wf w 11 0) ++ natLe 2 (wf w 31 16) ++ natLe 4 0 ++ natLe 8 (raOf x w).toNat)
      let s := poke s (lane.2 + 4) (natLe 4 (tail + 1))
      let s := if n + 1 > peekNat s (lane.2 + 8) 2 then poke s (lane.2 + 8) (natLe 2 (n + 1)) else s
      updCell s p Cell.next))

/-- The fill limit of R360: 3,000 × (L − 1) − 4 cycles, L as at the beat's open. -/
def fillLimit (s : State) : Nat := 3000 * (regField s aBeatCtl 8 0 - 1) - 4

def execDqpop (c : LCell) (m : Meet) (s : State) : Host.Outcome State Fault Refusal :=
  .next (control 0x16 c m s (fun s p x w =>
    let l := c.toNat
    let ctx := (ownerOf s (blockOf l)).getD 0
    let lane := laneOf s ctx l
    if (ctxAt s ctx).run.flags / 2 % 2 = 0 ∨ lane.1 = 0 ∨ laneCount s lane.2 = 0 then updCell s p Cell.next
    else
      let head := peekNat s lane.2 4
      let r := physRead s (lane.2 + 64 + 16 * (head % lane.1)) 16 m.data 0
      match r.bad with
      | some pa =>
        match physAt s pa with
        | .hbm st la => raiseHbmUe st la pa [ctx] r.st
        | _ => r.st
      | none =>
        let s := r.st
        let cost := leNat ((r.bytes.drop 2).take 2)
        if s.cycle - s.beat.openAt + 16 * cost > fillLimit s then updCell s p Cell.next
        else
          let s := poke s lane.2 (natLe 4 (head + 1))
          updCell s p (fun _ => { x with
            x := xSet x.x (wf w 115 112) (BitVec.ofNat 64 (leNat (r.bytes.drop 8)))
            seq := { x.seq with pc := leNat (r.bytes.take 2) % 4096 } })))

/-- BTEST samples the count of a bell and leaves it unchanged (R359, R298, R299). -/
def execBtest (c : LCell) (m : Meet) (s : State) : Host.Outcome State Fault Refusal :=
  .next (control 0x17 c m s (fun s p x w =>
    let l := c.toNat
    let ctx := (ownerOf s (blockOf l)).getD 0
    let b := (raOf x w).toNat % 65536
    if !ownsBell s ctx b then faultHere 0x0122 l w s
    else
      let r := bellMeets b m.data s
      if r.1 then r.2
      else writeRd r.2 p w (if reached (bellAt r.2 b).count ((rbOf x w).setWidth 32) then 1#64 else 0#64)))

/-- YIELD retires once every earlier operation of the cell has completed (R48); a lane that still holds entries in a
frame marked STEP_END raises FLT_DEFER_LEFT (R361). -/
def execYieldRetire (c : LCell) (s : State) : Host.Outcome State Fault Refusal :=
  .next (
    let l := c.toNat
    let p := physOf s l
    let x := cellAt s p
    if x.seq.running && x.seq.yieldIssued && !x.seq.yielded && matrixQuiet x.units && x.units.vector.isEmpty &&
        moveQuiet x.units && syncQuiet s l then
      let ctx := (ownerOf s (blockOf l)).getD 0
      let lane := laneOf s ctx l
      if (ctxAt s ctx).run.flags % 2 = 1 ∧ lane.1 ≠ 0 ∧ laneCount s lane.2 ≠ 0 then
        faultHere 0x012A l (sGet 0#128 x.imem x.seq.pc) s
      else
        updCell s p (fun x => { x with seq := { x.seq with running := false, yielded := true, yieldedAt := s.cycle } })
    else s)

end Sys2Proof.Machine
end

