-- ==== Sys2Proof/Machine/Shard.lean ====
section
/-! DEFINITION. The shard map as the device reads it, reads and writes of a context's memory by the device itself, and the
spaces of move-class operands (R172 to R182, R346 to R349). -/

namespace Sys2Proof.Machine

/-! ### Device accesses to context memory -/

/-- The context addresses of a run of bytes, by line: the first byte of each piece. -/
def runLines (a n : Nat) : List Nat := (pieces a n).map (fun p => a + p.1)

/-- The device reads n bytes at a context address: none where a page is missing or a line fails. -/
def ctxRead (c a n : Nat) (h : LineHit) (s : State) : Option (List Byte) × State :=
  match ctxLines s c false (runLines a n) with
  | .inl _ => (none, s)
  | .inr ps =>
    let r := linesAccess c false true (fun _ => false) h ps 0 s
    if r.1 then (none, r.2)
    else
      (some ((ps.zip (pieces a n)).flatMap (fun e => (List.range e.2.2).map (fun i => physByte r.2 (e.1 + i)))), r.2)

/-- The device writes bytes at a context address: false where a page is missing. -/
def ctxWrite (c a : Nat) (bs : List Byte) (s : State) : Bool × State :=
  match ctxLines s c true (runLines a bs.length) with
  | .inl _ => (false, s)
  | .inr ps =>
    let ws := ((ps.zip (pieces a bs.length)).flatMap (fun e => (List.range e.2.2).map (fun i =>
      byteWrite (physPlace s) (e.1 + i) (bs.getD (e.2.1 + i) 0#8).toNat)))
    (true, applyWrites ws s)

/-- What a context's memory holds, read without meeting an error. -/
def ctxPeek (s : State) (c a n : Nat) : List Byte := ((ctxRead c a n ⟨0, .clean⟩ s).1).getD []

/-! ### Spaces of operands (R182) -/

/-- Bytes of a space: 0 CELL and 1 PEER, 2 BLOCK, 3 CTX. -/
def spaceSize (sp : Nat) : Nat := if sp ≤ 1 then storeSize else if sp = 2 then 0x800000 else 2 ^ 40

/-- A space of an operand, resolved: the physical cell of a store, a global block, or a context. -/
structure Space where
  kind : Nat
  unit : Nat
  deriving DecidableEq, Repr

/-- A byte of a space. -/
def Space.byte (s : State) (sp : Space) : Nat → Byte :=
  match sp.kind with
  | 2 => fun a => sGet 0#8 (blk s sp.unit).store a
  | 3 => fun a => match ctxPa s sp.unit a false with | .inr pa => physByte s pa | .inl _ => 0#8
  | _ => readStore (cellAt s sp.unit)

/-- The place of a byte of a space. -/
def Space.place (s : State) (sp : Space) : Nat → Place :=
  match sp.kind with
  | 2 => .block sp.unit
  | 3 => fun a => match ctxPa s sp.unit a true with | .inr pa => physPlace s pa | .inl _ => .nowhere
  | _ => .store sp.unit

/-! ### The shard map (R346 to R349) -/

/-- A group entry: members, own index, key, and node numbers in member order. -/
structure Group where
  members : Nat
  self : Nat
  key : Nat
  nodes : List Nat
  deriving DecidableEq, Repr

def smTensors (s : State) (map : Nat) : Nat := peekNat s (map + 0x06) 2
def smGroups (s : State) (map : Nat) : Nat := peekNat s (map + 0x08) 2
def smResBase (s : State) (map : Nat) : Nat := peekNat s (map + 0x20) 8
def smRecords (s : State) (map : Nat) : Nat := peekNat s (map + 0x0C) 4
def smPoolBase (s : State) (map : Nat) : Nat := peekNat s (map + 0x30) 8
def smPoolPages (s : State) (map : Nat) : Nat := peekNat s (map + 0x38) 4
def smReserve (s : State) (map : Nat) : Nat := peekNat s (map + 0x3C) 4

def smGroup (s : State) (map g : Nat) : Group :=
  let a := peekNat s (map + 0x10) 8 + 16 * g
  let m := peekNat s a 2
  let n := peekNat s (a + 8) 8
  ⟨m, peekNat s (a + 2) 2, peekNat s (a + 4) 4, (List.range m).map (fun j => peekNat s (n + 4 * j) 4 % 65536)⟩

/-- A group of a context, with the node numbers that a rebuild has put into the device's copy of the table (R453). -/
def ctxGroup (s : State) (c map g : Nat) : Group :=
  let e := smGroup s map g
  let r := (ctxAt s c).code.renames
  { e with nodes := e.nodes.map (fun n => match r.find? (fun p => p.1 == n) with | some p => p.2 | none => n) }

/-- A tensor entry. -/
structure Tensor where
  group : Nat
  gfmt : Nat
  rows : Nat
  cols : Nat
  shards : Nat
  stateFmt : Nat
  resIndex : Nat
  image0 : Nat
  image1 : Nat
  grad : Nat
  arrays : List Nat
  deriving DecidableEq, Repr

def smTensor (s : State) (map t : Nat) : Tensor :=
  let a := peekNat s (map + 0x18) 8 + 96 * t
  ⟨peekNat s a 2, peekNat s (a + 2) 1, peekNat s (a + 4) 4, peekNat s (a + 8) 4, peekNat s (a + 12) 2, peekNat s (a + 14) 2,
    peekNat s (a + 0x10) 4, peekNat s (a + 0x18) 8, peekNat s (a + 0x20) 8, peekNat s (a + 0x28) 8,
    (List.range 6).map (fun j => peekNat s (a + 0x30 + 8 * j) 8)⟩

/-- Rows of one shard: R of R347. -/
def Tensor.shardRows (t : Tensor) : Nat := t.rows / t.shards

/-- Bytes of a gather element: GFMT is FP32, BF16 or FP16. -/
def Tensor.gsize (t : Tensor) : Nat := if t.gfmt = 0 then 4 else 2

def Tensor.image (t : Tensor) (buf : Nat) : Nat := if buf = 0 then t.image0 else t.image1

/-- Bytes of an element of state array j: 0 where it is absent. -/
def Tensor.stateSize (t : Tensor) (j : Nat) : Nat :=
  match t.stateFmt / 4 ^ j % 4 with
  | 1 => 2
  | 2 => 4
  | _ => 0

/-- The offset of slot k of an array of elements of z bytes, and the bytes of a shard (R347). -/
def Tensor.slotOff (t : Tensor) (k z : Nat) : Nat := k * t.shardRows * t.cols * z

def Tensor.shardBytes (t : Tensor) (z : Nat) : Nat := t.shardRows * t.cols * z

/-- The group of the active shard map that holds a key, with a valid SELF (R353, R437). -/
def groupByKey (s : State) (c key : Nat) : Option (Nat × Group) :=
  let map := shardMapOf (ctxAt s c)
  if map = 0 then none
  else (List.range (smGroups s map)).findSome? (fun g =>
    let e := ctxGroup s c map g
    if e.key = key ∧ e.self < e.members then some (g, e) else none)

/-- The unparked context that serves requests of a key. -/
def servingCtx (s : State) (key : Nat) : Option Nat := (unparked s).find? (fun c => (groupByKey s c key).isSome)

end Sys2Proof.Machine
end

