-- ==== Sys2Proof/Machine/Dot.lean ====
section
/-! DEFINITION. Dot products in the arrays (R98 to R103), the check of a group (R147 to R149) and integer weight
expansion (R96, R97). -/

namespace Sys2Proof.Machine

/-- The FP32 shape. -/
def fp32Shape : FloatShape := ⟨8, 23, 127, .ieee⟩

/-- What the products of one group come to (R98, R99). -/
inductive GroupSum
  /-- an operand or a scale is NaN -/
  | nan
  /-- infinity × zero, or infinite products of both signs -/
  | invalid
  /-- infinite products of one sign -/
  | inf (sign : Bool)
  /-- the exact sum, and whether every product is −0 -/
  | fin (sum : Dyadic) (allNegZero : Bool)
  deriving DecidableEq, Repr

/-- The sum of the exact products of a group. -/
def groupSum : List (Val × Val) → GroupSum
  | [] => .fin Dyadic.zero true
  | (x, y) :: t =>
    match groupSum t with
    | .nan => .nan
    | r =>
      if x.isNan || y.isNan then .nan
      else match x.mul y, r with
        | none, _ => .invalid
        | _, .invalid => .invalid
        | some (.inf s), .inf u => if s == u then .inf s else .invalid
        | some (.inf s), _ => .inf s
        | _, .inf u => .inf u
        | some p, .fin d z => .fin (Dyadic.add p.toDyadic d) (z && p.isZero && p.sign)
        | some _, .nan => .nan

/-- The array-sum format of R99: a 25-bit significand, RNE; its range holds every sum. -/
def arraySum (d : Dyadic) : Dyadic :=
  if d.n = 0 then Dyadic.zero
  else
    let r := d.pos.round .rne (decide (d.n < 0)) 25 (-534)
    ⟨if d.n < 0 then -(r.m : Int) else r.m, r.e⟩

/-- One accumulate of a floating-point group into the FP32 accumulator a (R100 to R102). -/
def accumulate (sat : Bool) (a : Nat) (g : GroupSum) : Nat × Flags :=
  let sh := fp32Shape
  let av := sh.decode a
  match g, av with
  | .nan, _ => nanResult sh
  | _, .nan _ => nanResult sh
  | .invalid, _ => invalidResult sh
  | .inf s, .inf u => if s == u then (sh.infBits s, noFlags) else invalidResult sh
  | .inf s, .fin _ _ _ => (sh.infBits s, noFlags)
  | .fin _ _, .inf _ => (a, noFlags)
  | .fin d z, .fin u m e =>
    let total := Dyadic.add (arraySum d) (Val.toDyadic (.fin u m e))
    -- S is −0 only if every product is −0; an exact zero sum of any other pair is +0
    if total.n = 0 then (sh.signBit (z && u && decide (m = 0)), noFlags)
    else sh.finishSat sat (decide (total.n < 0)) total.pos

/-- One accumulate on the integer path (R103): clamped to 32 bits, signed. -/
def accumulateInt (a : Nat) (sum : Int) : Nat × Flags :=
  let v := signedOf 32 a + sum
  let c := max (-(2 ^ 31 : Int)) (min v (2 ^ 31 - 1))
  ((c % (2 ^ 32 : Int)).toNat, flagIf (decide (c ≠ v)) flagOvf)

/-- How the check of a vector comes out on one array (R148, R149). -/
inductive CheckResult
  | skip | agree | mismatch
  deriving DecidableEq, Repr

/-- The check of one vector on one array (R147, R148): the exact sums of the unmasked columns, which the check column
adds up to C, and the sums that left the columns. -/
def checkGroups (ulp : Nat) (exact left : List GroupSum) : CheckResult :=
  if exact.any (fun g => match g with | .fin _ _ => false | _ => true) then .skip
  else
    let dyadic : GroupSum → Dyadic := fun g => match g with | .fin d _ => d | _ => Dyadic.zero
    let sums := left.map (fun g => arraySum (dyadic g))
    let c := (exact.map dyadic).foldl Dyadic.add Dyadic.zero
    let d := (Dyadic.add (sums.foldl Dyadic.add Dyadic.zero) c.neg).abs
    let big := sums.foldl (fun (m : Dyadic) x => if m.lt x.abs then x.abs else m) Dyadic.zero
    if big.n = 0 then (if c.n ≠ 0 then .mismatch else .agree)
    else
      let e := big.pos.floorLog2
      if Dyadic.lt ⟨(ulp : Int), e - 24⟩ d then .mismatch else .agree

/-- R96, R97: v = (q − z) × s rounded once to the target; a v beyond the largest finite value is that value. Subnormals are
kept. R96 gives an exact zero no sign: where the signs of q − z and s make a negative one, Config.expandZeroSign. -/
def expandScaled (t : FloatShape) (q z : Int) (s : Val) : Nat × Flags :=
  match s with
  | .nan _ => (t.qnan, flagCvtSpecial)
  | .inf _ => (t.qnan, flagCvtSpecial)
  | .fin sg m e =>
    let n := q - z
    let sign := (decide (n < 0)) != sg
    if n = 0 ∨ m = 0 then (t.signBit (sign && Config.expandZeroSign t.manBits), noFlags)
    else if Dyadic.lt (t.decode t.maxBits).toDyadic ⟨((n.natAbs * m : Nat) : Int), e⟩ then (t.signBit sign + t.maxBits, flagCvtSat)
    else (t.signBit sign + t.magBits (t.round .rne sign ⟨n.natAbs * m, 1, e⟩), noFlags)

end Sys2Proof.Machine
end

