-- ==== Sys2Proof/Machine/Enclose.lean ====
section
/-! DEFINITION. Correctly rounded 2^x, log2 x and tanh x (R217): an enclosure in exact fixed-point arithmetic, made
finer until both of its ends round to the same encoding. -/

namespace Sys2Proof.Machine

/-- A closed interval of fixed-point numbers: both ends count units of 2^-p. -/
structure Encl where
  lo : Nat
  hi : Nat
  deriving DecidableEq, Repr

/-- n / d rounded up. -/
def ceilDiv (n d : Nat) : Nat := (n + d - 1) / d

/-- A rational number in fixed point. -/
def Encl.ofRat (p n d : Nat) : Encl := ⟨n * 2 ^ p / d, ceilDiv (n * 2 ^ p) d⟩

def Encl.add (x y : Encl) : Encl := ⟨x.lo + y.lo, x.hi + y.hi⟩

def Encl.mul (p : Nat) (x y : Encl) : Encl := ⟨x.lo * y.lo / 2 ^ p, ceilDiv (x.hi * y.hi) (2 ^ p)⟩

def Encl.divNat (x : Encl) (n : Nat) : Encl := ⟨x.lo / n, ceilDiv x.hi n⟩

def Encl.div (p : Nat) (x y : Encl) : Encl := ⟨x.lo * 2 ^ p / y.hi, ceilDiv (x.hi * 2 ^ p) y.lo⟩

/-- The terms t^k / k! from a given one on, for t below 1. -/
def expTerms (p : Nat) (t : Encl) : Nat → Nat → Encl → Encl
  | 0, _, term => ⟨0, 2 * term.hi + 1⟩
  | n + 1, k, term => term.add (expTerms p t n (k + 1) ((Encl.mul p term t).divNat (k + 1)))

/-- e^t for t below 1. -/
def exp01 (p : Nat) (t : Encl) : Encl := expTerms p t (p + 8) 0 ⟨2 ^ p, 2 ^ p⟩

/-- The terms z^(2k+1) / (2k+1) from a given one on, for z at most 1/2. -/
def atanhTerms (p : Nat) (z2 : Encl) : Nat → Nat → Encl → Encl
  | 0, _, pw => ⟨0, 2 * pw.hi + 1⟩
  | n + 1, k, pw => (pw.divNat (2 * k + 1)).add (atanhTerms p z2 n (k + 1) (Encl.mul p pw z2))

/-- atanh of a rational number at most 1/2. -/
def atanhRat (p n d : Nat) : Encl :=
  let z := Encl.ofRat p n d
  atanhTerms p (Encl.mul p z z) (p + 8) 0 z

/-- ln 2 = 2 atanh (1/3). -/
def ln2 (p : Nat) : Encl := let a := atanhRat p 1 3; a.add a

/-- Both ends rounded to one encoding: that encoding, and UNF where it is subnormal or zero (the value itself is never
exact); none where the ends round apart. -/
def roundEnclosed (sh : FloatShape) (sign : Bool) (lo hi : Pos) : Option (Nat × Flags) :=
  if lo.num = 0 then none
  else
    let a := sh.magBits (sh.round .rne sign lo)
    let b := sh.magBits (sh.round .rne sign hi)
    if a ≠ b then none
    else if a > sh.maxBits then some (sh.infBits sign, flagOvf)
    else some (sh.signBit sign + a, flagIf (decide (a < 2 ^ sh.manBits)) flagUnf)

/-- Finer enclosures, each of twice the precision, until one rounds. -/
def refine (f : Nat → Option (Nat × Flags)) : Nat → Nat → Nat × Flags
  | 0, _ => (0, noFlags)
  | n + 1, p => match f p with
    | some r => r
    | none => refine f n (2 * p)

/-- The floor of a dyadic number. -/
def Dyadic.floor (x : Dyadic) : Int := if x.e ≥ 0 then x.n * ((2 ^ x.e.toNat : Nat) : Int) else x.n / ((2 ^ (-x.e).toNat : Nat) : Int)

/-- 2^x of a finite x that is not an integer. -/
def exp2At (sh : FloatShape) (x : Dyadic) (p : Nat) : Option (Nat × Flags) :=
  let n := x.floor
  let f := Dyadic.add x ⟨-n, 0⟩
  let t := Encl.mul p (Encl.ofRat p f.n.toNat (2 ^ (-f.e).toNat)) (ln2 p)
  let r := exp01 p t
  roundEnclosed sh false ⟨r.lo, 1, n - (p : Int)⟩ ⟨r.hi, 1, n - (p : Int)⟩

/-- 2^A (R217): below 2^-149 after rounding it is +0 with UNF, and above the largest finite value +∞ with OVF. -/
def exp2Vals (sh : FloatShape) (x : Val) : Nat × Flags :=
  match x with
  | .nan _ => nanResult sh
  | .inf s => if s then (0, noFlags) else (sh.infBits false, noFlags)
  | .fin s m e =>
    let d := Val.toDyadic (.fin s m e)
    let n := d.floor
    if m = 0 then sh.finish false ⟨1, 1, 0⟩
    else if n ≥ 2 ^ (sh.expBits - 1) then (sh.infBits false, flagOvf)
    else if n < sh.emin - 2 then (0, flagUnf)
    else if (Dyadic.add d ⟨-n, 0⟩).n = 0 then sh.finish false ⟨1, 1, n⟩
    else refine (exp2At sh d) 12 64

/-- log2 of m × 2^e, not a power of two. -/
def log2At (sh : FloatShape) (m : Nat) (e : Int) (p : Nat) : Option (Nat × Flags) :=
  let l := Nat.log2 m
  -- y = m / 2^l lies in (1, 2); above 3/2 it is halved and the exponent raised
  let up : Bool := decide (2 * m ≥ 3 * 2 ^ l)
  let k : Int := e + l + (if up then 1 else 0)
  let d := if up then 2 ^ (l + 1) else 2 ^ l
  -- ln y = ± 2 atanh (|m - d| / (m + d))
  let a := atanhRat p (if up then d - m else m - d) (m + d)
  let q := Encl.div p (a.add a) (ln2 p)
  let kk : Int := k * ((2 ^ p : Nat) : Int)
  let lo : Int := if up then kk - q.hi else kk + q.lo
  let hi : Int := if up then kk - q.lo else kk + q.hi
  if lo > 0 then roundEnclosed sh false ⟨lo.toNat, 1, -(p : Int)⟩ ⟨hi.toNat, 1, -(p : Int)⟩
  else if hi < 0 then roundEnclosed sh true ⟨(-hi).toNat, 1, -(p : Int)⟩ ⟨(-lo).toNat, 1, -(p : Int)⟩
  else none

/-- log2 A (R217). -/
def log2Vals (sh : FloatShape) (x : Val) : Nat × Flags :=
  match x with
  | .nan _ => nanResult sh
  | .inf s => if s then invalidResult sh else (sh.infBits false, noFlags)
  | .fin s m e =>
    if m = 0 then (sh.infBits true, flagDivZero)
    else if s then invalidResult sh
    else if m = 2 ^ Nat.log2 m then sh.finishDyadic false ⟨e + Nat.log2 m, 0⟩
    else refine (log2At sh m e) 12 64

/-- An enclosure squared n times. -/
def Encl.squares (p : Nat) : Nat → Encl → Encl
  | 0, x => x
  | n + 1, x => Encl.squares p n (Encl.mul p x x)

/-- tanh of n / d, at least 2^-12 and below 16. -/
def tanhAt (sh : FloatShape) (sign : Bool) (n d p : Nat) : Option (Nat × Flags) :=
  -- e^(2x) = (e^(x / 32))^64, and tanh x = (e^(2x) - 1) / (e^(2x) + 1)
  let t := Encl.squares p 6 (exp01 p (Encl.ofRat p n (d * 32)))
  roundEnclosed sh sign ⟨t.lo - 2 ^ p, t.lo + 2 ^ p, 0⟩ ⟨t.hi - 2 ^ p, t.hi + 2 ^ p, 0⟩

/-- tanh A (R217). Below 2^-12 it lies between x − x³/3 and x; from 16 on it rounds to 1. -/
def tanhVals (sh : FloatShape) (x : Val) : Nat × Flags :=
  match x with
  | .nan _ => nanResult sh
  | .inf s => (sh.signBit s + sh.bias * 2 ^ sh.manBits, noFlags)
  | .fin s m e =>
    let top : Int := (Nat.log2 m : Int) + e
    if m = 0 then (sh.signBit s, noFlags)
    else if top ≥ 4 then (sh.signBit s + sh.bias * 2 ^ sh.manBits, noFlags)
    else if top < -12 then
      -- m·2^e (1 − m²·2^(2e) / 3)
      let k := (-e).toNat * 2
      (roundEnclosed sh s ⟨m * (3 * 2 ^ k - m * m), 3 * 2 ^ k, e⟩ ⟨m, 1, e⟩).getD (0, noFlags)
    else refine (tanhAt sh s (m * 2 ^ e.toNat) (2 ^ (-e).toNat)) 12 64

end Sys2Proof.Machine
end

