-- ==== Sys2Proof/Machine/Matrix.lean ====
section
/-! DEFINITION. The matrix arrays: MPASS, weight loads, feeding, accumulation with check mode, and finished tiles
(chapter 04; R176 to R180, R208). -/

namespace Sys2Proof.Machine

/-! ### The fields of MPASS (R176) -/

def mpWd (w : InsnWord) : Nat := wf w 115 112
def mpAd (w : InsnWord) : Nat := wf w 111 108
def mpBase (w : InsnWord) : Nat := wf w 107 98
def mpMode (w : InsnWord) : Nat := wf w 97 95
def mpArray (w : InsnWord) : Nat := wf w 94 93
def mpKeep (w : InsnWord) : Bool := wf w 92 92 == 1
def mpSet (w : InsnWord) : Bool := wf w 91 91 == 1
def mpSat (w : InsnWord) : Bool := wf w 90 90 == 1
def mpFinish (w : InsnWord) : Bool := wf w 89 89 == 1
def mpMeth (w : InsnWord) : Nat := wf w 88 87
def mpGroup (w : InsnWord) : Nat := if wf w 86 86 = 0 then 32 else 128
def mpTarget (w : InsnWord) : Nat := wf w 85 84
def mpXrow (w : InsnWord) : Nat := wf w 83 68

/-- The legal MPASS words: no reserved encoding, no unused field in use (R169, R176). -/
def mpassLegal (w : InsnWord) : Bool :=
  decide (wf w 67 0 = 0) && decide (mpMode w ≤ 4) && decide (mpMeth w ≠ 3) && decide (mpTarget w ≠ 3) &&
    (!mpKeep w || decide (mpWd w = 0 ∧ wf w 88 68 = 0)) && (mpMeth w != 0 || decide (wf w 86 68 = 0))

/-- The reduction length and the output width of a mode (R132, R136). -/
def modeShape (mode : Nat) : Nat × Nat :=
  match mode with
  | 1 => (16, 64)
  | 2 => (32, 32)
  | 3 => (64, 16)
  | _ => (16, 16)

/-- The arrays that a pass holds (R132, R135). -/
def arraysHeld (w : InsnWord) : List Nat := if mpMode w = 0 then [mpArray w] else [0, 1, 2, 3]

/-- First logical column and first logical row of the pass that array a holds (R132). -/
def arrayOffset (mode a : Nat) : Nat × Nat :=
  match mode with
  | 1 => (16 * a, 0)
  | 2 => (16 * (a % 2), 16 * (a / 2))
  | 3 => (0, 16 * a)
  | _ => (0, 0)

/-- Vectors of a quarter in shared-weight mode (R134), and all of them otherwise. -/
def vectorRows (mode m : Nat) : Nat := if mode = 4 then (m + 3) / 4 else m

/-- The accumulators of a tile of m rows and n columns: array, first row, rows and columns (R132, R134, R209). -/
def tileRects (mode array base m n : Nat) : List (Nat × Nat × Nat × Nat) :=
  match mode with
  | 0 => [(array, base, m, n)]
  | 1 => ((List.range 4).filter (fun j => decide (16 * j < n))).map (fun j => (j, base, m, min 16 (n - 16 * j)))
  | 2 => ((List.range 2).filter (fun j => decide (16 * j < n))).map (fun j => (j, base, m, min 16 (n - 16 * j)))
  | 3 => [(0, base, m, n)]
  | _ =>
    let q := (m + 3) / 4
    ((List.range 4).filter (fun i => decide (i * q < m))).map (fun i => (i, base, min q (m - i * q), n))

/-- Two sets of accumulators meet: every rectangle begins at column 0. -/
def rectsMeet (a b : List (Nat × Nat × Nat × Nat)) : Bool :=
  a.any (fun x => b.any (fun y =>
    decide (x.1 = y.1 ∧ x.2.1 < y.2.1 + y.2.2.1 ∧ y.2.1 < x.2.1 + x.2.2.1)))

/-- The accumulators that a finished-tile entry names (R208, R209). -/
def entryRects (e : Word) : List (Nat × Nat × Nat × Nat) :=
  let v := e.toNat
  tileRects (bitsOf v 30 28) (bitsOf v 32 31) (bitsOf v 9 0) (bitsOf v 20 10) (bitsOf v 27 21)

/-- The entry that a FINISH pass places (R208). -/
def passEntry (w : InsnWord) (m n : Nat) (integer : Bool) : Word :=
  BitVec.ofNat 64 ((if integer then 2 ^ 33 else 0) + mpArray w * 2 ^ 31 + mpMode w * 2 ^ 28 + n * 2 ^ 21 + m * 2 ^ 10 +
    mpBase w)

/-! ### Issue (R177 to R180) -/

/-- A format that an array takes as a floating-point operand (R91). -/
def arrayFloat (f : Fmt) : Bool :=
  match f.elem with
  | .bf16 | .fp16 | .e4m3 | .e5m2 | .e3m2 | .e2m3 | .e2m1 => true
  | _ => false

/-- An 8-bit integer format. -/
def int8Fmt (f : Fmt) : Bool := decide (f.elem = .int8) || decide (f.elem = .uint8)

/-- The weights of a pass take the integer path: 8-bit integers, not expanded (R103). -/
def integerPath (w : InsnWord) (weights : Fmt) : Bool := mpMeth w == 0 && int8Fmt weights

/-- R180: the formats of weights and activations go together; for a KEEP pass only the path of the loaded weights
counts. -/
def formatsOk (w : InsnWord) (weights : Fmt) (integer : Bool) (act : Fmt) : Bool :=
  (mpKeep w || (if mpMeth w = 0 then arrayFloat weights || int8Fmt weights else weights.elem.isInt)) &&
    (if integer then int8Fmt act else arrayFloat act)

/-- The format code of expanded weights. -/
def expandCode (w : InsnWord) : Nat :=
  match mpTarget w with
  | 0 => 0x03
  | 1 => 0x04
  | _ => 0x01

/-- Bytes of an element of the expansion target, and of the data of one expansion group (R178). -/
def expandSizes (w : InsnWord) (weights : Fmt) : Nat × Nat :=
  let t := if mpTarget w = 2 then 2 else 1
  (t, if mpMeth w = 1 then (if weights.elem.bits = 4 then 16 else 256) * t else 4)

/-- R178: the expansion data is named, aligned and in the cell store. -/
def expandOk (w : InsnWord) (t : TileDesc) : Bool :=
  let z := expandSizes w t.fmt
  t.scale != 0 && decide (t.ref / 2 ^ 40 = 0) && decide (t.ref % (if mpMeth w = 1 then z.1 else 4) = 0) &&
    decide (t.ref + 4 * mpXrow w * (t.rows - 1) + z.2 * ((t.cols + mpGroup w - 1) / mpGroup w) ≤ storeSize)

/-- R94, R173 to R175 for an operand of a pass. -/
def matrixTileOk (t : TileDesc) : Bool := t.ok storeSize && (!t.fmt.scaled || decide (t.phase = 0 ∨ t.phase = 16))

def weightTileOk (w : InsnWord) (t : TileDesc) : Bool :=
  if mpMeth w ≠ 0 ∧ t.fmt.elem.isInt = true ∧ t.fmt.scaled = false then
    TileDesc.ok { t with scale := 0 } storeSize && expandOk w t
  else matrixTileOk t

def arrayAt (x : Cell) (a : Nat) : MatrixArray := sGet {} x.arrays a

def Cell.updArray (x : Cell) (a : Nat) (f : MatrixArray → MatrixArray) : Cell := { x with arrays := sUpd {} x.arrays a f }

/-- The loading pass that a KEEP pass uses, where R177 allows the pass. -/
def keptLoader (x : Cell) (w : InsnWord) : Option Loader :=
  let l := fun a => (arrayAt x a).loader
  match mpMode w with
  | 0 => (l (mpArray w)).bind (fun d => if d.mode = 0 ∨ d.mode = 4 then some d else none)
  | m => (l 0).bind (fun d => if d.mode = m ∧ l 1 = some d ∧ l 2 = some d ∧ l 3 = some d then some d else none)

/-- The fault of an MPASS at issue (R180), if any, and otherwise K, N and whether it takes the integer path. Where several
apply, a shape fault comes before a descriptor fault, and that before a format fault (DESIGN CHOICE, log entry 13). -/
def mpassCheck (x : Cell) (w : InsnWord) : Nat ⊕ (Nat × Nat × Bool) :=
  let o := x.capture w
  let wt := o.tile (mpWd w)
  let at_ := o.tile (mpAd w)
  let mode := mpMode w
  let from_ : Option (Nat × Nat × Bool) :=
    if mpKeep w then (keptLoader x w).map (fun d => (d.k, d.n, d.integer))
    else some (wt.cols, wt.rows, integerPath w wt.fmt)
  match from_ with
  | none => .inl 0x0106
  | some (k, n, integer) =>
    let lim := modeShape mode
    if (mode ≠ 0 ∧ mpArray w ≠ 0) ∨ k = 0 ∨ k > lim.1 ∨ n = 0 ∨ n > lim.2 ∨ at_.cols ≠ k ∨ at_.rows = 0 ∨
        mpBase w + vectorRows mode at_.rows > 1024 ∨ (mpFinish w = true ∧ at_.rows > 1024) then .inl 0x0106
    else if !matrixTileOk at_ || (!mpKeep w && !weightTileOk w wt) then .inl 0x0105
    else if !formatsOk w wt.fmt integer at_.fmt then .inl 0x0107
    else .inr (k, n, integer)

def execMpass (c : LCell) (m : Meet) (s : State) : Host.Outcome State Fault Refusal :=
  .next (issueWith (fetchFor (fun w => decide (classOp w = (1, 1))) mpassLegal c m s) s (fun s p x w =>
    match mpassCheck x w with
    | .inl code => faultHere code c.toNat w s
    | .inr (k, n, integer) =>
      if x.units.matrix.length ≥ 4 then s
      else
        let serial := x.seq.passSerial + 1
        updCell s p (fun x =>
          let x := if mpKeep w then x
            else (arraysHeld w).foldl (fun x a => x.updArray a (fun r =>
              { r with loader := some ⟨serial, mpMode w, k, n, integer⟩ })) x
          Cell.next { x with
            seq := { x.seq with passSerial := serial }
            units := { x.units with matrix := x.units.matrix ++ [⟨x.capture w, false⟩] } })))

/-! ### Weight loads (R96, R97, R123, R129, R178) -/

/-- One weight expanded: the encoding in the target format, and the flags it sets. -/
def expandElem (w : InsnWord) (t : TileDesc) (rd : Nat → Byte) (n k : Nat) : Nat × Flags :=
  let z := expandSizes w t.fmt
  let raw := t.elem rd n k
  let at_ := t.ref + 4 * mpXrow w * n + z.2 * (k / mpGroup w)
  if mpMeth w = 1 then (bitsAt rd (8 * (at_ + z.1 * raw)) (8 * z.1), noFlags)
  else
    let target := ((Fmt.ofCode (expandCode w)).getD ⟨.bf16, false⟩).elem
    expandScaled (target.shape.getD fp32Shape) (t.fmt.elem.toInt raw) (signedOf 16 (bitsAt rd (8 * (at_ + 2)) 16))
      (ElemFmt.decode .bf16 (bitsAt rd (8 * at_) 16))

/-- The weights of element (n, k) as the array holds them. -/
def loadedElem (w : InsnWord) (t : TileDesc) (rd : Nat → Byte) (n k : Nat) : (Nat × Nat) × Flags :=
  if mpMeth w = 0 then (t.scaledElem rd n k, noFlags)
  else
    let e := expandElem w t rd n k
    ((e.1, 127), e.2)

/-- The standby weights of array a under a load. -/
def loadWeights (w : InsnWord) (t : TileDesc) (rd : Nat → Byte) (a : Nat) : Weights :=
  let off := arrayOffset (mpMode w) a
  { loaded := true, mode := mpMode w, k := t.cols, n := t.rows, integer := integerPath w t.fmt
    elem := if mpMeth w = 0 then t.code else expandCode w
    cols := (List.range (min 16 (t.rows - off.1))).map (fun n => (List.range (min 16 (t.cols - off.2))).map (fun k =>
      (loadedElem w t rd (off.1 + n) (off.2 + k)).1)) }

/-- The flags of a load. -/
def loadFlags (w : InsnWord) (t : TileDesc) (rd : Nat → Byte) : Flags :=
  flagsOr ((List.range t.rows).flatMap (fun n => (List.range t.cols).map (fun k => (loadedElem w t rd n k).2)))

/-- The addresses that a weight load reads: the tile and its scales, or the expansion data. -/
def loadReads (w : InsnWord) (t : TileDesc) (a : Nat) : Bool :=
  (decide (t.lo ≤ (a : Int)) && decide ((a : Int) < t.hi)) ||
    (t.scale != 0 && decide (bitsOf t.ref 39 0 ≤ a) &&
      decide (a < bitsOf t.ref 39 0 + (if mpMeth w = 0 then t.rows * t.scalesPerRow
        else 4 * mpXrow w * (t.rows - 1) + (expandSizes w t.fmt).2 * ((t.cols + mpGroup w - 1) / mpGroup w))))

/-- Two passes hold an array in common. -/
def shareArray (v w : InsnWord) : Bool := (arraysHeld v).any (fun a => (arraysHeld w).contains a)

/-- The flags that a unit sets in its cell (R49, R113). -/
def Cell.raiseFlags (x : Cell) (f : Flags) : Cell := { x with flags := x.flags ||| f }

/-- A pass in the queue of a cell begins its weight load: no earlier pass in the queue is still to load into an array of
its own (R129). -/
def execWeightLoadStart (c : LCell) (i : BitVec 2) (h : Hit) (s : State) : Host.Outcome State Fault Refusal :=
  .next (
    let l := c.toNat
    let p := physOf s l
    let q := (cellAt s p).units.matrix
    match q[i.toNat]? with
    | none => s
    | some o =>
      let w := o.op.word
      if mpKeep w || o.loaded || (q.take i.toNat).any (fun e => !mpKeep e.op.word && shareArray e.op.word w) then s
      else
        let t := o.op.tile (mpWd w)
        let r := hitStore l o.op (loadReads w t) h s
        match r.2 with
        | some f => raiseCellFault f l r.1
        | none =>
          updCell r.1 p (fun x =>
            let rd := readStore x
            let x := (arraysHeld w).foldl (fun x a => x.updArray a (fun m => { m with standby := loadWeights w t rd a })) x
            Cell.raiseFlags { x with
              units := { x.units with matrix := updAt x.units.matrix i.toNat (fun o => { o with loaded := true }) } }
              (loadFlags w t rd)))

/-! ### Feeding (R130, R143) -/

/-- Finished-tile entries in the queue, and due from FINISH passes that feed or have fed. -/
def entriesDue (u : Units) : Nat :=
  u.ftq.length + u.finishing.length + (u.passes.filter (fun q => mpFinish q.op.word && !q.mismatched)).length

/-- The accumulators that a pass writes. -/
def Pass.rects (q : Pass) : List (Nat × Nat × Nat × Nat) :=
  tileRects (mpMode q.op.word) (mpArray q.op.word) (mpBase q.op.word) q.acts.length q.n

/-- A pass begins feeding: its weights stand ready, no earlier pass in the queue holds an array of its own, and the
finished-tile queue allows it. Its activation vectors are read as they then stand (DESIGN CHOICE, log entry 14). -/
def execPassFeedStart (c : LCell) (i : BitVec 2) (h : Hit) (s : State) : Host.Outcome State Fault Refusal :=
  .next (
    let l := c.toNat
    let p := physOf s l
    let x := cellAt s p
    match x.units.matrix[i.toNat]? with
    | none => s
    | some o =>
      let w := o.op.word
      let t := o.op.tile (mpAd w)
      let held := arraysHeld w
      let weights := fun a => if mpKeep w then (arrayAt x a).active else (arrayAt x a).standby
      let main := weights (mpArray w)
      let q : Pass :=
        { op := o.op, k := main.k, n := main.n, integer := main.integer, fmt := t.code
          acts := (List.range t.rows).map (fun m => (List.range t.cols).map (fun k => t.scaledElem (readStore x) m k))
          weights := (List.range 4).map weights, next := 0, mismatched := false }
      if (!mpKeep w && !o.loaded) || (x.units.matrix.take i.toNat).any (fun e => shareArray e.op.word w) ||
          (mpFinish w && decide (entriesDue x.units ≥ 2)) || x.units.ftq.any (fun e => rectsMeet (entryRects e) q.rects) then s
      else
        let r := hitStore l o.op (fun a => (decide (t.lo ≤ (a : Int)) && decide ((a : Int) < t.hi)) || (t.fmt.scaled &&
          decide (t.scaleBase ≤ a) && decide (a < t.scaleBase + t.rows * t.scalesPerRow))) h s
        match r.2 with
        | some f =>
          raiseCellFault f l (updCell r.1 p (fun x => { x with units := { x.units with
            matrix := x.units.matrix.eraseIdx i.toNat } }))
        | none =>
          let fed := if mpMode w = 4 then held.filter (fun a => decide (a * ((t.rows + 3) / 4) < t.rows)) else held
          updCell r.1 p (fun x =>
            let x := held.foldl (fun x a => x.updArray a (fun m => { m with
              active := if mpKeep w then m.active else m.standby
              standby := if mpKeep w then m.standby else {} })) x
            let x := fed.foldl (fun x a => x.updArray a (fun m => { m with passes := satAdd 64 m.passes 1 })) x
            { x with units := { x.units with
              matrix := x.units.matrix.eraseIdx i.toNat
              passes := x.units.passes ++ [q] } }))

/-! ### Accumulation and check mode (R125, R131 to R134, R137, R142, R146 to R151) -/

/-- Operands of one column of an array for one vector, masked rows left out. -/
def columnPairs (q : Pass) (a : Nat) (vec : List (Nat × Nat)) (col : List (Nat × Nat)) : List (Val × Val) :=
  let w := q.weights.getD a {}
  let fa := ((Fmt.ofCode q.fmt).getD ⟨.fp32, false⟩).elem
  let fw := ((Fmt.ofCode w.elem).getD ⟨.fp32, false⟩).elem
  ((vec.drop (arrayOffset (mpMode q.op.word) a).2).zip col).map (fun e => (scaledVal fa e.1, scaledVal fw e.2))

/-- Exact integer sum of one column (R103). -/
def columnInt (q : Pass) (a : Nat) (vec : List (Nat × Nat)) (col : List (Nat × Nat)) : Int :=
  let w := q.weights.getD a {}
  let fa := ((Fmt.ofCode q.fmt).getD ⟨.int8, false⟩).elem
  let fw := ((Fmt.ofCode w.elem).getD ⟨.int8, false⟩).elem
  ((vec.zip col).map (fun e => fa.toInt e.1.1 * fw.toInt e.2.1)).foldl (· + ·) 0

/-- The sums of one array for one vector, by column. -/
def arraySums (q : Pass) (a : Nat) (vec : List (Nat × Nat)) : List GroupSum :=
  (q.weights.getD a {}).cols.map (fun col =>
    if q.integer then .fin ⟨columnInt q a vec col, 0⟩ false else groupSum (columnPairs q a vec col))

/-- The sums as they leave the columns: the silicon may get one wrong. -/
def leftSums (u : Option Upset) (a : Nat) (gs : List GroupSum) : List GroupSum :=
  match u with
  | some e => if e.array.toNat = a then updAt gs e.col.toNat (fun _ => .fin ⟨e.num, e.exp⟩ false) else gs
  | none => gs

/-- One entry accumulates one group (R100 to R103). -/
def accumulateGroup (q : Pass) (v : Nat × Flags) (g : GroupSum) : Nat × Flags :=
  let r := if q.integer then
      accumulateInt v.1 (match g with | .fin d _ => d.floor | _ => 0)
    else accumulate (mpSat q.op.word) v.1 g
  (r.1, v.2 ||| r.2)

/-- The arrays whose groups reach the accumulators of array a, in the order they are added (R132, R133). -/
def groupArrays (mode a : Nat) : List Nat :=
  match mode with
  | 2 => [a, a + 2]
  | 3 => [0, 1, 2, 3]
  | _ => [a]

/-- The writing arrays of a pass for its vector of index j: array, vector and accumulator row. -/
def Pass.targets (q : Pass) (j : Nat) : List (Nat × List (Nat × Nat) × Nat) :=
  let w := q.op.word
  (q.rects.filter (fun r => decide (j < r.2.2.1))).map (fun r =>
    (r.1, q.acts.getD (if mpMode w = 4 then r.1 * vectorRows 4 q.acts.length + j else j) [], mpBase w + j))

/-- A group whose rows are all masked is not accumulated (R137). -/
def Pass.hasRows (q : Pass) (a : Nat) : Bool := decide ((arrayOffset (mpMode q.op.word) a).2 < q.k)

/-- One accumulator entry after a vector, with the flags set. -/
def entryAfter (q : Pass) (x : Cell) (u : Option Upset) (a : Nat) (vec : List (Nat × Nat)) (row n : Nat) : Nat × Flags :=
  let start := if mpSet q.op.word then 0 else (sGet 0#32 x.acc (16384 * a + 16 * row + n)).toNat
  ((groupArrays (mpMode q.op.word) a).filter q.hasRows).foldl (fun v g =>
    accumulateGroup q v ((leftSums u g (arraySums q g vec)).getD n (.fin Dyadic.zero false))) (start, noFlags)

/-- The columns of array a that a pass writes. -/
def Pass.width (q : Pass) (a : Nat) : Nat := ((q.rects.find? (fun r => r.1 == a)).map (fun r => r.2.2.2)).getD 0

/-- The accumulators of one array after one vector. -/
def accumulateVector (q : Pass) (u : Option Upset) (x : Cell) (t : Nat × List (Nat × Nat) × Nat) : Cell :=
  (List.range (q.width t.1)).foldl (fun x n =>
    let v := entryAfter q x u t.1 t.2.1 t.2.2 n
    Cell.raiseFlags { x with acc := sSet 0#32 x.acc (16384 * t.1 + 16 * t.2.2 + n) (BitVec.ofNat 32 v.1) } v.2) x

/-- Check mode is active on an array (R146). -/
def checkActive (s : State) (l p a : Nat) : Bool :=
  effField s (regInst aArrCtl (regionOf l)) 16 16 == 1 && (arrayAt (cellAt s p) a).badCol == 0x1F

/-- The check of one vector on one array. -/
def checkVector (ulp : Nat) (q : Pass) (u : Option Upset) (a : Nat) (vec : List (Nat × Nat)) : CheckResult :=
  let gs := arraySums q a vec
  let left := leftSums u a gs
  if q.integer then
    let total : List GroupSum → Int := fun l => (l.map (fun g => match g with | .fin d _ => d.floor | _ => 0)).foldl (· + ·) 0
    if total left = total gs then .agree else .mismatch
  else checkGroups ulp gs left

/-- The arrays that form a group of a vector, with the accumulator row it goes to. -/
def Pass.checks (q : Pass) (j : Nat) : List (Nat × List (Nat × Nat) × Nat) :=
  (q.targets j).flatMap (fun t =>
    (((groupArrays (mpMode q.op.word) t.1).filter q.hasRows)).map (fun g => (g, t.2.1, t.2.2)))

/-- The checks of a vector, lowest array first: counters, and the first mismatch as array and row. -/
def checkAll (l p : Nat) (q : Pass) (u : Option Upset) (s : State) : State × Option (Nat × Nat) :=
  let ulp := effField s (regInst aArrCtl (regionOf l)) 7 0
  let arrays := (List.range 4).flatMap (fun a => (q.checks q.next).filter (fun t => t.1 == a))
  arrays.foldl (fun r t =>
    if !checkActive s l p t.1 then r
    else match checkVector ulp q u t.1 t.2.1 with
      | .agree => r
      | .skip => (updCell r.1 p (fun x => x.updArray t.1 (fun m => { m with chkSkip := satAdd 64 m.chkSkip 1 })), r.2)
      | .mismatch =>
        (updCell r.1 p (fun x => x.updArray t.1 (fun m => { m with chkFail := satAdd 64 m.chkFail 1 })),
          if r.2.isSome then r.2 else some (t.1, t.2.2))) (s, none)

/-- What reading the accumulators of array a meets (R144). -/
def accMeets (p a : Nat) (e : Ecc) (s : State) : State :=
  match e with
  | .clean => s
  | .corrected =>
    tallyAdd (updCell s p (fun x => x.updArray a (fun m => { m with accCe := satAdd 64 m.accCe 1 }))) 0x01 0x03 (4 * p + a) 1
  | .uncorrectable => tallyAdd s 0x02 0x03 (4 * p + a) 1

/-- An accumulate that reads an uncorrectable word: the entries that its vector writes are free values, for the spec
states no result. -/
def freeVector (p : Nat) (q : Pass) (s : State) (t : Nat × List (Nat × Nat) × Nat) : State :=
  (List.range (q.width t.1)).foldl (fun s n =>
    let f := takeFree s
    updCell f.2 p (fun x => { x with acc := sSet 0#32 x.acc (16384 * t.1 + 16 * t.2.2 + n) (BitVec.ofNat 32 f.1) })) s

/-- The last vector of a pass has been written: a FINISH pass with no mismatch has an entry to place. -/
def passWritten (i : Nat) (u : Units) : Units :=
  match u.passes[i]? with
  | none => u
  | some q =>
    if q.next < vectorRows (mpMode q.op.word) q.acts.length then u
    else { u with
      passes := u.passes.eraseIdx i
      finishing := if mpFinish q.op.word && !q.mismatched then
          u.finishing ++ [passEntry q.op.word q.acts.length q.n q.integer] else u.finishing }

/-- Accumulator rows that a pass has still to write. -/
def Pass.restRects (q : Pass) : List (Nat × Nat × Nat × Nat) :=
  q.rects.map (fun r => (r.1, r.2.1 + q.next, r.2.2.1 - q.next, r.2.2.2))

/-- The next vector of a pass is accumulated and written, in every array that it reaches; passes into one accumulator row
keep their order (R131). -/
def execAccumulatorWrite (c : LCell) (i : BitVec 8) (h : Hit) (u : Option Upset) (s : State) :
    Host.Outcome State Fault Refusal :=
  .next (
    let l := c.toNat
    let p := physOf s l
    let ps := (cellAt s p).units.passes
    match ps[i.toNat]? with
    | none => s
    | some q =>
      let ts := q.targets q.next
      if (ps.take i.toNat).any (fun e => rectsMeet e.restRects (ts.map (fun t => (t.1, t.2.2, 1, 16)))) then s
      else
        let hits : Bool := decide (h.mem = .acc) && !mpSet q.op.word && ts.any (fun t => t.1 == h.unit)
        let s := if hits then accMeets p h.unit h.ecc s else s
        let bad : Bool := hits && decide (h.ecc = .uncorrectable)
        let s := ts.foldl (fun s t =>
          if bad && t.1 == h.unit then freeVector p q s t else updCell s p (fun x => accumulateVector q u x t)) s
        let s := if bad then
            raiseCellFault { opFault 0x0108 q.op with unit := h.unit, arg := h.loc } l s
          else s
        let r := checkAll l p q u s
        let s := updCell r.1 p (fun x => { x with units := passWritten i.toNat { x.units with
          passes := updAt x.units.passes i.toNat (fun q => { q with
            next := q.next + 1
            mismatched := q.mismatched || r.2.isSome || bad }) } })
        match r.2 with
        | some (a, row) => if q.mismatched then s else raiseCellFault { opFault 0x0109 q.op with unit := a, arg := row } l s
        | none => s)

/-- A FINISH pass places its entry in the finished-tile queue (R143). -/
def execFinishedTileEntry (c : LCell) (s : State) : Host.Outcome State Fault Refusal :=
  .next (
    let p := physOf s c.toNat
    match (cellAt s p).units.finishing with
    | [] => s
    | e :: t => updCell s p (fun x => { x with units := { x.units with finishing := t, ftq := x.units.ftq ++ [e] } }))

/-! ### Patrol scrub of a cell (R158 to R160) -/

/-- A cell scrubs a line of its store or of its instruction memory, while SCRUB_EN is set. -/
def execCellScrub (p : BitVec 13) (h : Hit) (s : State) : Host.Outcome State Fault Refusal :=
  .next (
    let n := p.toNat
    if n ≥ 4352 ∨ effField s (regInst aCellCtl (n / 17 / 64)) 16 16 = 0 then s
    else match h.mem with
      | .store =>
        let s := storeMeets n h.ecc s
        if h.ecc = .uncorrectable then
          match logicalOf s n with
          | some l => raiseCellFault (storeEccForeign h.loc (2 ^ 64 - 1)) l s
          | none => fencing raiseFault { storeEccForeign h.loc (2 ^ 64 - 1) with pcell := n } [] (n / 17) 0xFFFF n s
        else s
      | .imem =>
        match h.ecc with
        | .clean => s
        | .corrected =>
          tallyAdd (updCell s n (fun x => { x with cnt := { x.cnt with imemCe := satAdd 64 x.cnt.imemCe 1 } })) 0x01 0x02 n 1
        | .uncorrectable => tallyAdd s 0x02 0x02 n 1
      | _ => s)

end Sys2Proof.Machine
end

