-- ==== Sys2Proof/Machine/Vector.lean ====
section
/-! DEFINITION. The vector engine: the legal words of its operations, their issue, and VEC_START, which runs one whole
(chapter 06; R105 to R119, R194). -/

namespace Sys2Proof.Machine

/-! ### Instruction words (R201, R213, R214) -/

/-- How many sources an operation names, and whether it accepts CT 1 (R214). VENQ and ADROP name no operand at all. -/
def vecShape (op : Nat) : Option (Nat × Bool) :=
  match op with
  | 0x01 | 0x02 | 0x03 => some (1, true)
  | 0x04 | 0x05 | 0x06 | 0x07 => some (2, true)
  | 0x08 => some (3, true)
  | 0x10 | 0x11 | 0x12 => some (2, true)
  | 0x13 => some (3, true)
  | 0x14 | 0x15 | 0x16 => some (2, true)
  | 0x18 => some (2, false)
  | 0x19 | 0x1A | 0x1B | 0x1C | 0x1D | 0x1E => some (1, false)
  | 0x20 | 0x21 | 0x22 | 0x28 => some (1, false)
  | 0x30 => some (0, false)
  | 0x31 => some (2, false)
  | 0x38 | 0x39 => some (0, false)
  | _ => none

def vOp (w : InsnWord) : Nat := (classOp w).2
def vDst (w : InsnWord) : Nat := wf w 115 110
def vCt (w : InsnWord) : Nat := wf w 91 90
def vRm (w : InsnWord) : Nat := wf w 89 87
def vOvm (w : InsnWord) : Bool := wf w 86 86 == 1
def vPop (w : InsnWord) : Bool := wf w 85 85 == 1
def vFn (w : InsnWord) : Nat := wf w 84 80
def vThresh (w : InsnWord) : Nat := wf w 79 64

/-- An operation that names no operand: VENQ or ADROP. -/
def vQueueOp (op : Nat) : Bool := op == 0x38 || op == 0x39

/-- The source specifiers of an operation. -/
def vSources (w : InsnWord) : List Nat :=
  [wf w 109 104, wf w 103 98, wf w 97 92].take (((vecShape (vOp w)).map (fun p => p.1)).getD 0)

/-- A specifier with no reserved IDX (R201). -/
def specLegal (sp : Nat) : Bool :=
  match sp / 16 with
  | 0 => sp % 16 == 0
  | 1 => true
  | 2 => decide (sp % 16 ≤ 5)
  | _ => sp % 16 == 0

/-- Largest FN of an operation (R214). -/
def fnMost (op : Nat) : Nat := if op = 0x16 then 5 else if op = 0x20 ∨ op = 0x21 then 2 else 0

/-- RG and RS are used (R213). -/
def usesDraw (w : InsnWord) : Bool := vOp w == 0x30 || vOp w == 0x31 || (vOp w == 0x28 && vRm w == 4)

/-- The legal vector words: no reserved encoding and no unused field in use (R169, R201, R213). -/
def vecLegal (w : InsnWord) : Bool :=
  let op := vOp w
  match vecShape op with
  | none => false
  | some (n, _) =>
    decide (wf w 51 0 = 0) && (vSources w).all specLegal && specLegal (vDst w) &&
      (!vQueueOp op || decide (wf w 115 92 = 0)) && (n != 0 || decide (wf w 109 92 = 0)) &&
      (n != 1 || decide (wf w 103 92 = 0)) && (n != 2 || decide (wf w 97 92 = 0)) &&
      decide (vCt w ≤ (if vQueueOp op then 0 else 1)) && (if op = 0x28 then decide (vRm w ≤ 4) else decide (wf w 89 86 = 0)) &&
      (!vPop w || (vSources w).any (fun sp => sp / 16 == 3)) && decide (vFn w ≤ fnMost op) &&
      (op == 0x31 || vThresh w == 0) && (usesDraw w || decide (wf w 63 56 = 0)) && (op == 0x38 || decide (wf w 55 52 = 0))

/-- A vector instruction of operation op issues into the vector queue, which holds 8. -/
def vecIssue (op : Nat) (c : LCell) (m : Meet) (s : State) : State :=
  issueWith (fetchFor (fun w => decide (classOp w = (2, op))) vecLegal c m s) s (fun s p x w =>
    if x.units.vector.length ≥ 8 then s
    else updCell s p (fun x => Cell.next { x with units := { x.units with vector := x.units.vector ++ [x.capture w] } }))

def execVmov (c : LCell) (m : Meet) (s : State) : Host.Outcome State Fault Refusal := .next (vecIssue 0x01 c m s)
def execNeg (c : LCell) (m : Meet) (s : State) : Host.Outcome State Fault Refusal := .next (vecIssue 0x02 c m s)
def execAbs (c : LCell) (m : Meet) (s : State) : Host.Outcome State Fault Refusal := .next (vecIssue 0x03 c m s)
def execCsgn (c : LCell) (m : Meet) (s : State) : Host.Outcome State Fault Refusal := .next (vecIssue 0x04 c m s)
def execVecAnd (c : LCell) (m : Meet) (s : State) : Host.Outcome State Fault Refusal := .next (vecIssue 0x05 c m s)
def execVecOr (c : LCell) (m : Meet) (s : State) : Host.Outcome State Fault Refusal := .next (vecIssue 0x06 c m s)
def execVecXor (c : LCell) (m : Meet) (s : State) : Host.Outcome State Fault Refusal := .next (vecIssue 0x07 c m s)
def execSel (c : LCell) (m : Meet) (s : State) : Host.Outcome State Fault Refusal := .next (vecIssue 0x08 c m s)
def execVecAdd (c : LCell) (m : Meet) (s : State) : Host.Outcome State Fault Refusal := .next (vecIssue 0x10 c m s)
def execVecSub (c : LCell) (m : Meet) (s : State) : Host.Outcome State Fault Refusal := .next (vecIssue 0x11 c m s)
def execVecMul (c : LCell) (m : Meet) (s : State) : Host.Outcome State Fault Refusal := .next (vecIssue 0x12 c m s)
def execFma (c : LCell) (m : Meet) (s : State) : Host.Outcome State Fault Refusal := .next (vecIssue 0x13 c m s)
def execVecMax (c : LCell) (m : Meet) (s : State) : Host.Outcome State Fault Refusal := .next (vecIssue 0x14 c m s)
def execVecMin (c : LCell) (m : Meet) (s : State) : Host.Outcome State Fault Refusal := .next (vecIssue 0x15 c m s)
def execCmp (c : LCell) (m : Meet) (s : State) : Host.Outcome State Fault Refusal := .next (vecIssue 0x16 c m s)
def execDiv (c : LCell) (m : Meet) (s : State) : Host.Outcome State Fault Refusal := .next (vecIssue 0x18 c m s)
def execSqrt (c : LCell) (m : Meet) (s : State) : Host.Outcome State Fault Refusal := .next (vecIssue 0x19 c m s)
def execRsqrt (c : LCell) (m : Meet) (s : State) : Host.Outcome State Fault Refusal := .next (vecIssue 0x1A c m s)
def execRcp (c : LCell) (m : Meet) (s : State) : Host.Outcome State Fault Refusal := .next (vecIssue 0x1B c m s)
def execExp2 (c : LCell) (m : Meet) (s : State) : Host.Outcome State Fault Refusal := .next (vecIssue 0x1C c m s)
def execLog2 (c : LCell) (m : Meet) (s : State) : Host.Outcome State Fault Refusal := .next (vecIssue 0x1D c m s)
def execTanh (c : LCell) (m : Meet) (s : State) : Host.Outcome State Fault Refusal := .next (vecIssue 0x1E c m s)
def execRred (c : LCell) (m : Meet) (s : State) : Host.Outcome State Fault Refusal := .next (vecIssue 0x20 c m s)
def execCred (c : LCell) (m : Meet) (s : State) : Host.Outcome State Fault Refusal := .next (vecIssue 0x21 c m s)
def execTrans (c : LCell) (m : Meet) (s : State) : Host.Outcome State Fault Refusal := .next (vecIssue 0x22 c m s)
def execCvt (c : LCell) (m : Meet) (s : State) : Host.Outcome State Fault Refusal := .next (vecIssue 0x28 c m s)
def execRand (c : LCell) (m : Meet) (s : State) : Host.Outcome State Fault Refusal := .next (vecIssue 0x30 c m s)
def execDrop (c : LCell) (m : Meet) (s : State) : Host.Outcome State Fault Refusal := .next (vecIssue 0x31 c m s)
def execVenq (c : LCell) (m : Meet) (s : State) : Host.Outcome State Fault Refusal := .next (vecIssue 0x38 c m s)
def execAdrop (c : LCell) (m : Meet) (s : State) : Host.Outcome State Fault Refusal := .next (vecIssue 0x39 c m s)

/-! ### Operands (R201 to R211) -/

/-- A source as the engine reads it. -/
structure VSrc where
  kind : Nat
  rows : Nat
  cols : Nat
  fmt : Fmt
  elem : Nat → Nat → Nat × Nat
  tile : Option (TileDesc × BitVec 128) := none
  buf : Option Nat := none

/-- The destination. -/
structure VDst where
  rows : Nat
  cols : Nat
  fmt : Fmt
  tile : Option (TileDesc × BitVec 128) := none
  buf : Option Nat := none

/-- Bytes of an element of a buffer. -/
def bufSize (bf16 : Bool) : Nat := if bf16 then 2 else 4

def bufAt (x : Cell) (b : Nat) : TileBuf := sGet {} x.units.bufs b

/-- The accumulator entry of element (m, n) of a finished tile: array, row and column (R209). -/
def accPlace (e : Word) (m n : Nat) : Nat × Nat × Nat :=
  let v := e.toNat
  let base := bitsOf v 9 0
  match bitsOf v 30 28 with
  | 0 => (bitsOf v 32 31, base + m, n)
  | 1 => (n / 16, base + m, n % 16)
  | 2 => (n / 16, base + m, n % 16)
  | 3 => (0, base + m, n)
  | _ =>
    let q := (bitsOf v 20 10 + 3) / 4
    (m / q, base + m - q * (m / q), n)

/-- The FP32 encoding of an element of a finished tile (R209). -/
def accElem (x : Cell) (e : Word) (m n : Nat) : Nat :=
  let a := accPlace e m n
  let v := (sGet 0#32 x.acc (16384 * a.1 + 16 * a.2.1 + a.2.2)).toNat
  if bitsOf e.toNat 33 33 = 1 then (convertVal .fp32 .rne false (Val.ofInt (signedOf 32 v))).1 else v

/-- A source, or the fault that it raises (R201, R203, R206). -/
def vecSource (x : Cell) (o : UnitOp) (sp : Nat) : Nat ⊕ VSrc :=
  match sp / 16 with
  | 0 => .inl 0x0112
  | 1 =>
    let t := o.tile (sp % 16)
    if !t.ok storeSize || (t.fmt.scaled && (vOp o.word != 0x28 || t.phase != 0)) then .inl 0x0105
    else .inr { kind := 1, rows := t.rows, cols := t.cols, fmt := t.fmt, elem := t.scaledElem (readStore x)
                tile := some (t, dGet o.d (sp % 16)) }
  | 2 =>
    let b := bufAt x (sp % 16)
    if !b.valid then .inl 0x0112
    else
      let n := bufSize b.bf16
      .inr { kind := 2, rows := b.rows, cols := b.cols, fmt := ⟨if b.bf16 then .bf16 else .fp32, false⟩, buf := some (sp % 16)
             elem := fun i j => (leNat (sGetAll 0#8 b.data ((i * b.cols + j) * n) n), 127) }
  | _ =>
    if vCt o.word = 1 then .inl 0x0112
    else
      let e := x.units.ftq.headD 0#64
      .inr { kind := 3, rows := bitsOf e.toNat 20 10, cols := bitsOf e.toNat 27 21, fmt := ⟨.fp32, false⟩
             elem := fun m n => (accElem x e m n, 127) }

/-- All the sources, or the first fault. -/
def vecSourceList (x : Cell) (o : UnitOp) : List Nat → Nat ⊕ List VSrc
  | [] => .inr []
  | sp :: t =>
    match vecSource x o sp, vecSourceList x o t with
    | .inl f, _ => .inl f
    | _, .inl f => .inl f
    | .inr v, .inr vs => .inr (v :: vs)

/-- Families of operations that share rules. -/
def vBitOp (op : Nat) : Bool := decide (0x01 ≤ op ∧ op ≤ 0x08)
def vArith (op : Nat) : Bool := decide (0x10 ≤ op ∧ op ≤ 0x21)

/-- A source's format suits its operation (R216). -/
def sourceFormatOk (op ct : Nat) (v : VSrc) : Bool :=
  if vBitOp op then
    (if ct = 0 then decide (v.fmt.elem = .fp32) else decide (v.fmt.elem = .bf16 ∨ v.fmt.elem = .fp16))
  else if vArith op || op == 0x31 then
    (if ct = 0 then decide (v.fmt.elem = .fp32 ∨ v.fmt.elem = .bf16 ∨ v.fmt.elem = .fp16) else decide (v.fmt.elem = .bf16))
  else if op = 0x22 then decide (v.fmt.elem = .fp32 ∨ v.fmt.elem = .bf16 ∨ v.fmt.elem = .fp16)
  else true

/-- The format of the result: for a buffer destination R613, and for a descriptor what R200 and R216 ask; none where a
descriptor's own format stands. -/
def resultFormat (op ct : Nat) (vs : List VSrc) : Option Fmt :=
  if op = 0x08 then (vs[1]?).map (fun v => v.fmt)
  else if vBitOp op || op == 0x22 then (vs[0]?).map (fun v => v.fmt)
  else if vArith op then some ⟨if ct = 0 then .fp32 else .bf16, false⟩
  else some ⟨.fp32, false⟩

/-- The shape of the result (R202, R219, R221); none where the sources differ. RAND takes its destination's. -/
def resultShape (op : Nat) (vs : List VSrc) : Option (Nat × Nat) :=
  match vs with
  | [] => some (0, 0)
  | v :: t =>
    if op = 0x20 then some (v.rows, 1)
    else if op = 0x21 then some (1, v.cols)
    else if op = 0x22 then some (v.cols, v.rows)
    else if t.all (fun u => decide (u.rows = v.rows ∧ u.cols = v.cols)) then some (v.rows, v.cols)
    else none

/-- A descriptor destination's format suits its operation (R200, R216, R224). -/
def destFormatOk (op ct : Nat) (res : Option Fmt) (f : Fmt) : Bool :=
  if op = 0x28 then true
  else if vBitOp op then (if ct = 0 then decide (f.elem = .fp32) else decide (f.elem = .bf16 ∨ f.elem = .fp16))
  else decide (some f = res)

/-- The destination, or the fault that it raises. -/
def vecDest (x : Cell) (o : UnitOp) (vs : List VSrc) : Nat ⊕ VDst :=
  let op := vOp o.word
  let ct := vCt o.word
  let sp := vDst o.word
  match sp / 16, resultShape op vs with
  | 0, _ => .inl 0x0112
  | 3, _ => .inl 0x0112
  | _, none => .inl 0x0111
  | 1, some (r, k) =>
    let t := o.tile (sp % 16)
    let bits := dGet o.d (sp % 16)
    let meets := vs.any (fun v => match v.tile with
      | some u => t.overlaps u.1 && (op == 0x22 || u.2 != bits)
      | none => false)
    if !t.destOk storeSize || (t.fmt.scaled && (op != 0x28 || t.phase != 0)) then .inl 0x0105
    else if !destFormatOk op ct (resultFormat op ct vs) t.fmt then .inl 0x0110
    else if op != 0x30 && !(decide (t.rows = r) && decide (t.cols = k)) then .inl 0x0111
    else if meets then .inl (if op = 0x22 then 0x0112 else 0x0105)
    else .inr { rows := t.rows, cols := t.cols, fmt := t.fmt, tile := some (t, bits) }
  | _, some (r, k) =>
    let b := bufAt x (sp % 16)
    if op = 0x30 then
      if !b.valid then .inl 0x0112
      else if b.bf16 then .inl 0x0110
      else .inr { rows := b.rows, cols := b.cols, fmt := ⟨.fp32, false⟩, buf := some (sp % 16) }
    else
      let f := (resultFormat op ct vs).getD ⟨.fp32, false⟩
      if f.scaled || !(decide (f.elem = .fp32) || decide (f.elem = .bf16)) then .inl 0x0110
      else if r * k * bufSize (decide (f.elem = .bf16)) > 16384 then .inl 0x0111
      else if op = 0x22 ∧ vs.any (fun v => v.buf == some (sp % 16)) = true then .inl 0x0112
      else .inr { rows := r, cols := k, fmt := f, buf := some (sp % 16) }

/-! ### Elements (R105 to R108, R199, R214 to R220) -/

/-- The shape that CT computes in. -/
def ctShape (ct : Nat) : FloatShape := if ct = 0 then fp32Shape else ⟨8, 7, 127, .ieee⟩

/-- A source element in the compute type: widened exactly under CT 0 (R199). -/
def widen (ct : Nat) (f : Fmt) (bits : Nat) : Nat :=
  if ct = 1 ∨ f.elem = .fp32 then bits else (convertVal .fp32 .rne false (f.elem.decode bits)).1

/-- A source element as an arithmetic operation reads it: under FTZ a subnormal number of the source's own format is zero of
its sign (R108, R218; DEDUCED, log entry 15), and what it holds is widened exactly under CT 0. -/
def readSource (ftz : Bool) (ct : Nat) (f : Fmt) (bits : Nat) : Nat × Flags :=
  let q := match f.elem.shape with | some sh => flushBits sh ftz bits | none => (bits, noFlags)
  (widen ct f q.1, q.2)

/-- The CMP conditions (R106, R215). -/
def cmpHolds (fn : Nat) (x y : Val) : Bool :=
  match fn with
  | 0 => x.numEq y
  | 1 => !x.numEq y
  | 2 => x.lt y
  | 3 => x.lt y || x.numEq y
  | 4 => y.lt x
  | _ => y.lt x || y.numEq x

/-- An arithmetic or function operation on encodings of one shape (R214, R217). -/
def arithBits (op fn : Nat) (sh : FloatShape) (a b c : Nat) : Nat × Flags :=
  let x := sh.decode a
  let y := sh.decode b
  let one : Val := .fin false 1 0
  match op with
  | 0x10 => addVals sh x y
  | 0x11 => addVals sh x y.negate
  | 0x12 => mulVals sh x y
  | 0x13 => fmaVals sh x y (sh.decode c)
  | 0x14 => maxBitsOf sh a b
  | 0x15 => minBitsOf sh a b
  | 0x16 => (if cmpHolds fn x y then (sh.finish false ⟨1, 1, 0⟩).1 else 0, noFlags)
  | 0x18 => divVals sh x y
  | 0x19 => sqrtVals sh x
  | 0x1A => rsqrtVals sh x
  | 0x1B => divVals sh one x
  | 0x1C => exp2Vals sh x
  | 0x1D => log2Vals sh x
  | _ => tanhVals sh x

/-- The same under FTZ: subnormal sources and results become zeros of their sign (R108, R218). -/
def arithFtz (op fn : Nat) (sh : FloatShape) (ftz : Bool) (a b c : Nat) : Nat × Flags :=
  let fa := flushBits sh ftz a
  let fb := flushBits sh ftz b
  let fc := flushBits sh ftz c
  let r := arithBits op fn sh fa.1 fb.1 fc.1
  let q := flushBits sh ftz r.1
  (q.1, fa.2 ||| fb.2 ||| fc.2 ||| r.2 ||| q.2)

/-- The same on source elements with the flags of their reading. -/
def arithRead (op fn : Nat) (sh : FloatShape) (ftz : Bool) (a b c : Nat × Flags) : Nat × Flags :=
  let r := arithFtz op fn sh ftz a.1 b.1 c.1
  (r.1, a.2 ||| b.2 ||| c.2 ||| r.2)

/-- A bit operation (R90, R214) on elements of n bits. -/
def bitBits (op n a b c : Nat) : Nat :=
  let top := 2 ^ (n - 1)
  match op with
  | 0x01 => a
  | 0x02 => Nat.xor a top
  | 0x03 => a % top
  | 0x04 => a % top + b / top * top
  | 0x05 => Nat.land a b
  | 0x06 => Nat.lor a b
  | 0x07 => Nat.xor a b
  | _ => if a % top = 0 then c else b

/-- One combining step of a reduction: sum, max or min by FN (R219). -/
def reduceBits (fn : Nat) (sh : FloatShape) (a b : Nat) : Nat × Flags :=
  match fn with
  | 0 => addVals sh (sh.decode a) (sh.decode b)
  | 1 => maxBitsOf sh a b
  | _ => minBitsOf sh a b

/-- Combining with an absent lane. -/
def combineLanes (fn : Nat) (sh : FloatShape) (a b : Option Nat) (fl : Flags) : Option Nat × Flags :=
  match a, b with
  | some x, some y =>
    let r := reduceBits fn sh x y
    (some r.1, fl ||| r.2)
  | some x, none => (some x, fl)
  | none, y => (y, fl)

/-- One level of the tree: lane l takes lane l + w. -/
def treeLevel (fn : Nat) (sh : FloatShape) (p : List (Option Nat)) (w : Nat) (fl : Flags) : List (Option Nat) × Flags :=
  (List.range w).foldl (fun r l =>
    let v := combineLanes fn sh ((r.1.getD l none)) (p.getD (l + w) none) r.2
    (updAt r.1 l (fun _ => v.1), v.2)) (p, fl)

/-- The result of a reduction: an element that no combine produced is taken as it is, a NaN made canonical (R220). -/
def reduceFinish (sh : FloatShape) (combined : Bool) (v : Nat) (fl : Flags) : Nat × Flags :=
  if !combined && (sh.decode v).isNan then (sh.qnan, fl ||| flagNanIn) else (v, fl)

/-- RRED of one row (R219). -/
def rowReduce (fn : Nat) (sh : FloatShape) (xs : List Nat) : Nat × Flags :=
  let lanes := (xs.zipIdx).foldl (fun (r : List (Option Nat) × Flags) e =>
    let v := combineLanes fn sh (r.1.getD (e.2 % 64) none) (some e.1) r.2
    (updAt r.1 (e.2 % 64) (fun _ => v.1), v.2)) (List.replicate 64 none, noFlags)
  let r := [32, 16, 8, 4, 2, 1].foldl (fun r w => treeLevel fn sh r.1 w r.2) lanes
  reduceFinish sh (decide (xs.length > 1)) ((r.1.getD 0 none).getD 0) r.2

/-- CRED of one column (R219). -/
def colReduce (fn : Nat) (sh : FloatShape) (xs : List Nat) : Nat × Flags :=
  match xs with
  | [] => (0, noFlags)
  | x :: t =>
    let r := t.foldl (fun r y =>
      let v := reduceBits fn sh r.1 y
      (v.1, r.2 ||| v.2)) (x, noFlags)
    reduceFinish sh (decide (t.length ≥ 1)) r.1 r.2

/-- A reduction under FTZ: sources and results (R218; DEDUCED, log entry 15). -/
def reduceFtz (row : Bool) (fn : Nat) (sh : FloatShape) (ftz : Bool) (xs : List Nat) : Nat × Flags :=
  let fs := xs.map (flushBits sh ftz)
  let vs := fs.map (fun e => e.1)
  let r := if row then rowReduce fn sh vs else colReduce fn sh vs
  let q := flushBits sh ftz r.1
  (q.1, flagsOr (fs.map (fun e => e.2)) ||| r.2 ||| q.2)

/-- The same on source elements with the flags of their reading. -/
def reduceRead (row : Bool) (fn : Nat) (sh : FloatShape) (ftz : Bool) (xs : List (Nat × Flags)) : Nat × Flags :=
  let r := reduceFtz row fn sh ftz (xs.map (fun x => x.1))
  (r.1, flagsOr (xs.map (fun x => x.2)) ||| r.2)

/-- What an instruction's draws come from: seed, tensor id, step, first index (R114, R118, R222). -/
structure DrawKey where
  seed : BitVec 128
  tensor : BitVec 32
  step : BitVec 64
  first : Nat

def drawKey (seed : BitVec 128) (o : UnitOp) : DrawKey :=
  let g := xGet o.x (wf o.word 63 60)
  ⟨seed, g.setWidth 32, xGet o.x (wf o.word 59 56), g.toNat / 2 ^ 32⟩

/-- The draw of element (i, j) of a tile of c columns (R222). -/
def DrawKey.at (k : DrawKey) (c i j : Nat) : Nat := genDraw k.seed k.tensor k.step ((k.first + i * c + j) % 2 ^ 32)

/-- The results of an instruction: encodings and flags by element, scale bytes by row and block. -/
structure VResult where
  elems : List (List (Nat × Flags))
  scales : List (List Nat) := []
  flags : Flags := 0#8

/-- The value of a source element, for a conversion. -/
def vecVal (v : VSrc) (i j : Nat) : Val := if v.fmt.scaled then scaledVal v.fmt.elem (v.elem i j) else v.fmt.elem.decode (v.elem i j).1

/-- CVT of one row (R109 to R112, R222). -/
def convertRow (o : UnitOp) (k : DrawKey) (v : VSrc) (f : Fmt) (i : Nat) : List (Nat × Flags) × List Nat × Flags :=
  let rm := fun j => (Rounding.ofCode (vRm o.word) (if vRm o.word = 4 then k.at v.cols i j else 0)).getD .rne
  if f.scaled then
    let bs := (List.range ((v.cols + 31) / 32)).map (fun b =>
      convertBlock f.elem (vOvm o.word) ((List.range (min 32 (v.cols - 32 * b))).map (fun j =>
        (vecVal v i (32 * b + j), rm (32 * b + j)))))
    (bs.flatMap (fun b => b.2.1.map (fun e => (e, noFlags))), bs.map (fun b => b.1), flagsOr (bs.map (fun b => b.2.2)))
  else ((List.range v.cols).map (fun j => convertVal f.elem (rm j) (vOvm o.word) (vecVal v i j)), [], noFlags)

/-- What an instruction computes, by its operation. -/
def vecCompute (ftz : Bool) (seed : BitVec 128) (o : UnitOp) (vs : List VSrc) (d : VDst) : VResult :=
  let op := vOp o.word
  let ct := vCt o.word
  let sh := ctShape ct
  let k := drawKey seed o
  let raw := fun (n i j : Nat) => match vs[n]? with | some v => (v.elem i j).1 | none => 0
  let wide := fun (n i j : Nat) => match vs[n]? with | some v => readSource ftz ct v.fmt (v.elem i j).1 | none => (0, noFlags)
  let grid := fun (f : Nat → Nat → Nat × Flags) => (List.range d.rows).map (fun i => (List.range d.cols).map (f i))
  let srcRows := match vs[0]? with | some v => v.rows | none => 0
  let srcCols := match vs[0]? with | some v => v.cols | none => 0
  if vBitOp op then
    { elems := grid (fun i j => (bitBits op (if ct = 0 then 32 else 16) (raw 0 i j) (raw 1 i j) (raw 2 i j), noFlags)) }
  else if op = 0x20 then
    { elems := grid (fun i _ => reduceRead true (vFn o.word) sh ftz ((List.range srcCols).map (wide 0 i))) }
  else if op = 0x21 then
    { elems := grid (fun _ j => reduceRead false (vFn o.word) sh ftz ((List.range srcRows).map (fun i => wide 0 i j))) }
  else if op = 0x22 then { elems := grid (fun i j => (raw 0 j i, noFlags)) }
  else if op = 0x28 then
    match vs[0]? with
    | some v =>
      let rs := (List.range d.rows).map (convertRow o k v d.fmt)
      { elems := rs.map (fun r => r.1), scales := rs.map (fun r => r.2.1), flags := flagsOr (rs.map (fun r => r.2.2)) }
    | none => { elems := [] }
  else if op = 0x30 then
    { elems := grid (fun i j => convertVal .fp32 .rne false (.fin false (k.at d.cols i j) (-16))) }
  else if op = 0x31 then
    { elems := grid (fun i j => if k.at d.cols i j ≥ vThresh o.word then arithRead 0x12 0 sh ftz (wide 0 i j) (wide 1 i j) (0, noFlags)
        else (0, noFlags)) }
  else { elems := grid (fun i j => arithRead op (vFn o.word) sh ftz (wide 0 i j) (wide 1 i j) (wide 2 i j)) }

/-- All the flags of a result. -/
def VResult.allFlags (r : VResult) : Flags := flagsOr (r.elems.map (fun l => flagsOr (l.map (fun e => e.2)))) ||| r.flags

def VResult.bits (r : VResult) (i j : Nat) : Nat := ((r.elems.getD i []).getD j (0, noFlags)).1

/-- The result written to its destination (R174, R205). -/
def vecWrite (p : Nat) (d : VDst) (r : VResult) (s : State) : State :=
  match d.tile, d.buf with
  | some t, _ =>
    (t.1.writes (.store p) r.bits ++ t.1.scaleWrites (.store p) (fun i b => (r.scales.getD i []).getD b 0)).foldl
      (fun s w => w.apply s) s
  | none, some b =>
    let bf16 := decide (d.fmt.elem = .bf16)
    let bytes := (List.range d.rows).flatMap (fun i => (List.range d.cols).flatMap (fun j => natLe (bufSize bf16) (r.bits i j)))
    updCell s p (fun x => { x with units := { x.units with
      bufs := sSet {} x.units.bufs b ⟨true, d.rows, d.cols, bf16, sSetAll 0#8 [] 0 bytes⟩ } })
  | none, none => s

/-! ### Starting an instruction (R210, R226 to R233) -/

/-- The head of the vector queue leaves it. -/
def popVector (p : Nat) (s : State) : State :=
  updCell s p (fun x => { x with units := { x.units with vector := x.units.vector.tail } })

/-- An instruction has completed. -/
def vecDone (p elems : Nat) (s : State) : State :=
  updCell s p (fun x => { x with cnt := { x.cnt with
    vecInsns := satAdd 64 x.cnt.vecInsns 1
    vecElems := satAdd 64 x.cnt.vecElems elems } })

/-- The entry of VENQ is well formed (R226). -/
def venqOk (e : Word) : Bool :=
  let v := e.toNat
  let mode := bitsOf v 30 28
  let n := bitsOf v 27 21
  let m := bitsOf v 20 10
  decide (v / 2 ^ 34 = 0) && decide (mode ≤ 4) && (mode == 0 || bitsOf v 32 31 == 0) && decide (1 ≤ n) &&
    decide (n ≤ (modeShape mode).2) && decide (1 ≤ m) && decide (m ≤ 1024) &&
    decide (bitsOf v 9 0 + vectorRows mode m ≤ 1024)

/-- What an instruction's reads meet: its sources in the store, in tile buffers and in the accumulators. -/
def vecMeets (l p : Nat) (o : UnitOp) (vs : List VSrc) (h : Hit) (s : State) : State × Option FaultRec :=
  match h.mem with
  | .store =>
    hitStore l o (fun a => vs.any (fun v => match v.tile with
      | some t => (decide (t.1.lo ≤ (a : Int)) && decide ((a : Int) < t.1.hi)) || (t.1.fmt.scaled &&
          decide (t.1.scaleBase ≤ a) && decide (a < t.1.scaleBase + t.1.rows * t.1.scalesPerRow))
      | none => false)) h s
  | .buf =>
    if vs.any (fun v => v.buf == some h.unit) then
      match h.ecc with
      | .clean => (s, none)
      | .corrected =>
        (tallyAdd (updCell s p (fun x => { x with cnt := { x.cnt with vecBufCe := satAdd 64 x.cnt.vecBufCe 1 } })) 0x01 0x04 p 1,
          none)
      | .uncorrectable => (tallyAdd s 0x02 0x04 p 1, some { opFault 0x0113 o with unit := h.unit, arg := h.loc })
    else (s, none)
  | .acc =>
    if vs.any (fun v => v.kind == 3) then
      (accMeets p h.unit h.ecc s, if h.ecc = .uncorrectable then some { opFault 0x0108 o with unit := h.unit, arg := h.loc } else none)
    else (s, none)
  | .imem => (s, none)

/-- The head entry of the finished-tile queue is removed. -/
def popEntry (p : Nat) (s : State) : State :=
  updCell s p (fun x => { x with units := { x.units with ftq := x.units.ftq.tail } })

/-- An instruction with operands runs: its faults, or its result. -/
def vecRun (l p : Nat) (o : UnitOp) (h : Hit) (s : State) : State :=
  let x := cellAt s p
  let fail := fun (s : State) (f : FaultRec) => raiseCellFault f l s
  match vecShape (vOp o.word), vecSourceList x o (vSources o.word) with
  | none, _ => s
  | _, .inl code => fail s (opFault code o)
  | some (_, ct1), .inr vs =>
    if (vCt o.word = 1 ∧ ct1 = false) ∨ vs.all (sourceFormatOk (vOp o.word) (vCt o.word)) = false then
      fail s (opFault 0x0110 o)
    else match vecDest x o vs with
    | .inl code => fail s (opFault code o)
    | .inr d =>
      let m := vecMeets l p o vs h s
      match m.2 with
      | some f => fail m.1 f
      | none =>
        let ctx := ctxAt m.1 ((ownerOf m.1 (blockOf l)).getD 0)
        let r := vecCompute (ctx.desc.mode / 4 % 2 == 1) ctx.desc.seed o vs d
        let fl := r.allFlags
        let s := vecWrite p d r m.1
        let s := vecDone p (d.rows * d.cols) s
        let s := updCell s p (fun x => Cell.raiseFlags { x with cnt := { x.cnt with vecFlags := x.cnt.vecFlags ||| fl } } fl)
        let s := if vPop o.word then popEntry p s else s
        if Nat.land fl.toNat (effField s (regInst aVecCtl (regionOf l)) 7 0) ≠ 0 then fail s (opFault 0x0114 o) else s

/-- The vector engine starts the instruction at the head of its queue. It waits while an accumulator source or ADROP finds
no entry, or VENQ no room. -/
def execVecStart (c : LCell) (h : Hit) (s : State) : Host.Outcome State Fault Refusal :=
  .next (
    let l := c.toNat
    let p := physOf s l
    let u := (cellAt s p).units
    match u.vector with
    | [] => s
    | o :: _ =>
      match vOp o.word with
      | 0x38 =>
        let e := xGet o.x (wf o.word 55 52)
        if !venqOk e then raiseCellFault (opFault 0x0111 o) l (popVector p s)
        else if entriesDue u ≥ 2 then s
        else vecDone p 0 (updCell (popVector p s) p (fun x => { x with units := { x.units with ftq := x.units.ftq ++ [e] } }))
      | 0x39 => if u.ftq.isEmpty then s else vecDone p 0 (popEntry p (popVector p s))
      | _ =>
        if (vSources o.word).any (fun sp => sp / 16 == 3) && u.ftq.isEmpty then s
        else vecRun l p o h (popVector p s))

end Sys2Proof.Machine
end

