-- ==== Sys2Proof/Machine/Gate.lean ====
section
/-! DEFINITION. The gates: messages, gathers and the residency table, collectives, shard checks, refusals, timeouts and
lost peers (R350 to R357, R430 to R444). -/

namespace Sys2Proof.Machine

/-! ### Messages (R406, R438) -/

/-- The collective header's fields. -/
structure CollHead where
  op : Nat
  key : Nat
  tag : Nat
  gnum : Nat := 0
  tensor : Nat := 0
  shard : Nat := 0
  chunk : Nat := 0
  chunks : Nat := 0
  member : Nat := 0
  status : Nat := 0
  crc : Nat := 0
  arg : Nat := 0
  src : Nat := 0
  deriving DecidableEq, Repr

/-- Flits of a message of n bytes (R403, R406). -/
def flitsOf (n : Nat) : Nat := (n + 239) / 240

/-- The bytes of a COLL or PAR message. -/
def CollHead.bytes (h : CollHead) (data : List Byte) : List Byte :=
  natLe 2 h.src ++ natLe 2 (flitsOf (0x30 + data.length)) ++ natLe 2 h.op ++ natLe 2 0 ++ natLe 4 h.key ++ natLe 4 h.tag ++
    natLe 8 h.gnum ++ natLe 2 h.tensor ++ natLe 2 h.shard ++ natLe 2 h.chunk ++ natLe 2 h.chunks ++ natLe 2 h.member ++
    natLe 2 h.status ++ natLe 4 h.crc ++ natLe 8 h.arg ++ data

/-- A number of n bytes at an offset of a list of bytes. -/
def fieldAt (bs : List Byte) (off n : Nat) : Nat := leNat ((bs.drop off).take n)

def CollHead.ofBytes (bs : List Byte) : CollHead :=
  { src := fieldAt bs 0 2, op := fieldAt bs 4 2, key := fieldAt bs 8 4, tag := fieldAt bs 0xC 4, gnum := fieldAt bs 0x10 8
    tensor := fieldAt bs 0x18 2, shard := fieldAt bs 0x1A 2, chunk := fieldAt bs 0x1C 2, chunks := fieldAt bs 0x1E 2
    member := fieldAt bs 0x20 2, status := fieldAt bs 0x22 2, crc := fieldAt bs 0x24 4, arg := fieldAt bs 0x28 8 }

/-- The data of a COLL or PAR message. Padding of its last flit is cut to the size that the sender's chunk has. -/
def collData (bs : List Byte) (n : Nat) : List Byte := (bs.drop 0x30).take n

/-- This device's node. -/
def ownNode (s : State) : Nat := s.link.tables.node

/-- A COLL or PAR message is handed to the links. -/
def sendColl (cls dst ctx : Nat) (h : CollHead) (data : List Byte) (s : State) : State :=
  { s with out := s.out ++ [⟨dst, cls, 0, ctx, CollHead.bytes { h with src := ownNode s } data⟩] }

/-- A CTL message is handed to the links. -/
def sendCtl (dst ctx sub : Nat) (bs : List Byte) (s : State) : State := { s with out := s.out ++ [⟨dst, 0, sub, ctx, bs⟩] }

/-- Bytes of one chunk of an item of n bytes (R434, R438). -/
def chunkSize : Nat := 32768

def chunkCount (n : Nat) : Nat := (n + chunkSize - 1) / chunkSize

def chunkOf (bs : List Byte) (c : Nat) : List Byte := (bs.drop (chunkSize * c)).take chunkSize

/-- Length of chunk c of an item of n bytes. -/
def chunkLen (n c : Nat) : Nat := min chunkSize (n - chunkSize * c)

/-! ### Operations in progress -/

def updGateOp (id : Nat) (f : GateOp → GateOp) (s : State) : State :=
  { s with gate := { s.gate with ops := s.gate.ops.map (fun o => if o.id = id then f o else o) } }

def gateOp (s : State) (id : Nat) : Option GateOp := s.gate.ops.find? (fun o => o.id == id)

def GateOp.updItem (o : GateOp) (index : Nat) (f : GateItem → GateItem) : GateOp :=
  { o with items := o.items.map (fun i => if i.index = index then f i else i) }

def GateOp.item (o : GateOp) (index : Nat) : Option GateItem := o.items.find? (fun i => i.index == index)

/-- The gate of a cell's region counts. -/
def gateCount (r : Nat) (f : GateCount → GateCount) (s : State) : State :=
  { s with gate := { s.gate with count := sUpd {} s.gate.count r f } }

/-- Every item is in place, and every contribution acknowledged (R352, R433). -/
def GateOp.complete (o : GateOp) : Bool := o.items.all (fun i => i.phase == 2) && o.serves.isEmpty

/-- The deadline of R440 begins with an operation's first request. -/
def startDeadline (id : Nat) (s : State) : State :=
  updGateOp id (fun o => match o.deadline with
    | some _ => o
    | none => { o with deadline := some (s.cycle + 3000 * effField s (regInst aGateCtl (regionOf o.cell)) 19 0) }) s

/-- The fault of a gate operation's cell. -/
def opCellFault (code : Nat) (o : GateOp) (s : State) : State := raiseCellFault (opFault code o.op) o.cell s

/-! ### The residency table (R352, R354 to R357) -/

/-- The physical address of the residency record of shard n of a tensor. -/
def recordAddr (s : State) (c : Nat) (t : Tensor) (n : Nat) : Nat := smResBase s (shardMapOf (ctxAt s c)) + 32 * (t.resIndex + n)

/-- A residency record is written: state, FLAGS, GATHERS, tag and pool offset. -/
def writeRecord (a tensor shard st flags gathers : Nat) (tag : List Byte) (pool : Nat) (s : State) : State :=
  poke s a (natLe 2 tensor ++ natLe 2 shard ++ natLe 1 st ++ natLe 1 flags ++ natLe 2 gathers ++ tag ++ natLe 4 pool ++ natLe 4 0)

/-- The residency table of a context is reset and its pool reclaimed (R357). -/
def resetResidency (c : Nat) (s : State) : State :=
  let map := shardMapOf (ctxAt s c)
  let s := updCtx s c (fun x => { x with pool := 0 })
  if map = 0 then s else poke s (smResBase s map) (List.replicate (32 * smRecords s map) 0#8)

/-- Every KEPT record becomes DROPPED and the pool is reclaimed, at a park (R357). -/
def dropKept (c : Nat) (s : State) : State :=
  let map := shardMapOf (ctxAt s c)
  let s := updCtx s c (fun x => { x with pool := 0 })
  if map = 0 then s
  else (List.range (smRecords s map)).foldl (fun s n =>
    let a := smResBase s map + 32 * n + 4
    if peekNat s a 1 = 2 then poke s a (natLe 1 3) else s) s

/-- The deferred lanes of a context are cleared (R357). -/
def clearLanes (c : Nat) (s : State) : State :=
  (partCells s c).foldl (fun s l =>
    let lane := laneOf s c l
    if lane.1 = 0 then s else poke s lane.2 (List.replicate 64 0#8)) s

/-- The keep decision of R352 for n bytes. -/
def keeps (s : State) (c hint n : Nat) : Bool :=
  let map := shardMapOf (ctxAt s c)
  let used := (ctxAt s c).pool
  match hint with
  | 1 => decide (used + n ≤ (smPoolPages s map - smReserve s map) * 2 ^ 21)
  | 2 => decide (used + n ≤ smPoolPages s map * 2 ^ 21)
  | _ => false

/-- The fields of GATHER that its steps use. -/
def gatherHint (w : InsnWord) : Nat := wf w 25 24

/-- The destination space of a gather or collective; SD side where `src`. -/
def gateSpace (s : State) (o : GateOp) (src : Bool) : Space :=
  let w := o.op.word
  match if src then wf w 107 105 else wf w 104 102 with
  | 2 => ⟨2, (partBlocks s o.ctx).getD (wf w 89 82) 0⟩
  | 3 => ⟨3, o.ctx⟩
  | _ => ⟨0, physOf s o.cell⟩

/-- Rows of a destination tile from row r0 on receive packed bytes of elements of z bytes. -/
def writeRows (sp : Space) (t : TileDesc) (r0 rows z : Nat) (bs : List Byte) (s : State) : State :=
  applyWrites ((List.range rows).flatMap (fun i => (List.range t.cols).flatMap (fun j =>
    elemWrites (sp.place s) (t.bitAddr (r0 + i) j).toNat t.bits (fieldAt bs ((i * t.cols + j) * z) z)))) s

/-- The destination descriptor of a gate operation. -/
def GateOp.dest (o : GateOp) : TileDesc := o.op.tile (wf o.op.word 111 108)

def GateOp.source (o : GateOp) : TileDesc := o.op.tile (wf o.op.word 115 112)

/-- A shard of a gather has come whole: its record, the pool and the destination (R352). -/
def placeShard (o : GateOp) (shard owner step : Nat) (data : List Byte) (s : State) : State :=
  let t := smTensor s (shardMapOf (ctxAt s o.ctx)) o.tensor
  let a := recordAddr s o.ctx t shard
  let tag := natLe 8 step ++ natLe 4 owner ++ natLe 4 (crc32c data)
  let flags := peekNat s (a + 5) 1
  let gathers := peekNat s (a + 6) 2
  let size := (data.length + 4095) / 4096 * 4096
  let old := peek s (a + 8) 16
  let s :=
    if peekNat s (a + 4) 1 = 1 then
      if keeps s o.ctx (gatherHint o.op.word) size then
        let used := (ctxAt s o.ctx).pool
        let s := updCtx s o.ctx (fun x => { x with pool := used + size })
        let s := (ctxWrite o.ctx (smPoolBase s (shardMapOf (ctxAt s o.ctx)) + used) data s).2
        writeRecord a o.tensor shard 2 flags gathers tag (used / 4096) s
      else writeRecord a o.tensor shard 3 flags gathers tag 0 s
    else
      let s := poke s (a + 5) (natLe 1 (flags ||| 4))
      if old = tag then s
      else raiseFault { code := 0x0308, unit := o.tensor, arg := shard, d0 := fieldAt old 0 8, d1 := fieldAt old 8 8,
                        d2 := fieldAt tag 0 8, d3 := fieldAt tag 8 8 } [o.ctx] s
  let s := writeRows (gateSpace s o false) o.dest ((shard - o.first) * t.shardRows) t.shardRows t.gsize data s
  updGateOp o.id (fun o => o.updItem shard (fun i => { i with phase := 2, parts := [] })) s

/-- A gather's fetch of one shard: read here where this device owns it, and asked of the owner otherwise (R353). -/
def fetchShard (o : GateOp) (t : Tensor) (shard : Nat) (h : LineHit) (s : State) : State :=
  let owner := o.nodes.getD (shard % o.nodes.length) 0
  let x := ctxAt s o.ctx
  if owner = ownNode s ∧ shard % o.nodes.length = o.self then
    let n := t.shardBytes t.gsize
    let r := ctxRead o.ctx (t.image x.alm.cb + t.slotOff (shard / o.nodes.length) t.gsize) n h s
    match r.1 with
    | some bs => placeShard o shard owner x.alm.step bs r.2
    | none => raiseFault { code := 0x0309 } [o.ctx] r.2
  else
    let s := updGateOp o.id (fun o => o.updItem shard (fun i => { i with phase := 1, parts := [], crcs := [] })) s
    startDeadline o.id (sendColl 1 owner o.ctx { op := 1, key := o.key, tag := o.tag, gnum := o.gnum, tensor := o.tensor
                                                 shard := shard, member := o.self, arg := x.alm.step } [] s)

/-- One shard of a gather meets the residency table: it waits while another gather fetches it (R352). -/
def gatherShard (id shard : Nat) (h : LineHit) (s : State) : State :=
  match gateOp s id with
  | none => s
  | some o =>
    let t := smTensor s (shardMapOf (ctxAt s o.ctx)) o.tensor
    let a := recordAddr s o.ctx t shard
    let gathers := satAdd 16 (peekNat s (a + 6) 2) 1
    match (o.item shard).map (fun i => i.phase), peekNat s (a + 4) 1 with
    | some 0, 1 => s
    | some 0, 0 =>
      fetchShard o t shard h (writeRecord a o.tensor shard 1 (gatherHint o.op.word) gathers (List.replicate 16 0#8) 0 s)
    | some 0, 2 =>
      let s := poke s (a + 6) (natLe 2 gathers)
      let r := ctxRead o.ctx (smPoolBase s (shardMapOf (ctxAt s o.ctx)) + 4096 * peekNat s (a + 0x18) 4) (t.shardBytes t.gsize) h s
      match r.1 with
      | some bs =>
        let s := writeRows (gateSpace r.2 o false) o.dest ((shard - o.first) * t.shardRows) t.shardRows t.gsize bs r.2
        updGateOp id (fun o => o.updItem shard (fun i => { i with phase := 2 })) s
      | none => r.2
    | some 0, _ => fetchShard o t shard h (poke s (a + 6) (natLe 2 gathers))
    | _, _ => s

/-! ### Collectives (R430 to R437) -/

/-- The fields of COLL. -/
def collFn (w : InsnWord) : Nat := wf w 80 79
def collType (w : InsnWord) : Nat := wf w 78 77
def collAcc (w : InsnWord) : Bool := wf w 81 81 == 1

/-- Bytes of an element of a collective's source, for copies of any format. -/
def tileBytes (t : TileDesc) (rows : Nat) : Nat := rows * ((t.cols * t.bits + 7) / 8)

/-- The packed bytes of rows of a tile, each row in whole bytes (log entry 16). -/
def packRows (rd : Nat → Byte) (t : TileDesc) (r0 rows : Nat) : List Byte :=
  (List.range rows).flatMap (fun i =>
    natLe ((t.cols * t.bits + 7) / 8) ((List.range t.cols).foldl (fun v j =>
      v + t.elem rd (r0 + i) j * 2 ^ (j * t.bits)) 0))

/-- The bytes of a member's own contribution to an item: the rows of a shard, or the whole tile. -/
def contribution (s : State) (o : GateOp) (item : Nat) : List Byte :=
  let t := o.source
  let rd := (gateSpace s o true).byte s
  if o.fn = 0 then
    let r := t.rows / o.count
    packRows rd t ((item - o.first) * r) r
  else packRows rd t 0 t.rows

/-- Bytes of an item of a collective. -/
def itemBytes (o : GateOp) : Nat := tileBytes o.source (if o.fn = 0 then o.source.rows / o.count else o.source.rows)

/-- ARG of a PULL (R438). -/
def pullArg (o : GateOp) : Nat :=
  o.fn + collType o.op.word * 4 + (if o.fn = 0 then o.count else 0) * 256 + o.first * 65536 + o.group * 2 ^ 32

/-- Every chunk of a member's contribution to an item is asked for. -/
def pullMember (o : GateOp) (item m : Nat) (s : State) : State :=
  (List.range (chunkCount (itemBytes o))).foldl (fun s c =>
    sendColl 1 (o.nodes.getD m 0) o.ctx { op := 3, key := o.key, tag := o.tag, gnum := o.gnum, tensor := o.tensor
                                          shard := if o.fn = 0 then item else 0, chunk := c
                                          chunks := chunkCount (itemBytes o), member := o.self, arg := pullArg o } [] s) s

/-- The members whose contributions form an item: all of them, or for ALLGATH the one named. -/
def itemMembers (o : GateOp) (item : Nat) : List Nat := if o.fn = 2 then [item] else List.range o.nodes.length

/-- The own contribution as chunks. -/
def ownChunks (s : State) (o : GateOp) (item : Nat) : List Chunk :=
  let bs := contribution s o item
  (List.range (chunkCount bs.length)).map (fun c => ⟨o.self, c, chunkOf bs c⟩)

/-- An item begins: the own contribution is read here and the others are pulled. -/
def beginItem (id item : Nat) (s : State) : State :=
  match gateOp s id with
  | none => s
  | some o =>
    let ms := itemMembers o item
    let own := if ms.contains o.self then ownChunks s o item else []
    let s := updGateOp id (fun o => o.updItem item (fun i => { i with phase := 1, parts := own, crcs := [] })) s
    let s := (ms.filter (fun m => m != o.self)).foldl (fun s m => pullMember o item m s) s
    if ms.any (fun m => m != o.self) then startDeadline id s else s

/-- The elements of a contribution combine (R434): encodings of z bytes. -/
def addElem (ty : Nat) (a b : Nat) : Nat × Flags :=
  match ty with
  | 0 => ((a + b) % 2 ^ 32, noFlags)
  | 1 => addVals fp32Shape (fp32Shape.decode a) (fp32Shape.decode b)
  | _ => addVals (ctShape 1) ((ctShape 1).decode a) ((ctShape 1).decode b)

/-- The sum of contributions, in the order given. -/
def sumElems (ty : Nat) : List Nat → Nat × Flags
  | [] => (0, noFlags)
  | x :: t => t.foldl (fun r y =>
      let v := addElem ty r.1 y
      (v.1, r.2 ||| v.2)) (x, noFlags)

/-- The chunks of one chunk number in the order of reduction: member order under DETERMINISTIC, else as they arrived. -/
def chunkOrder (det : Bool) (members : Nat) (parts : List Chunk) (c : Nat) : List (List Byte) :=
  let cs := parts.filter (fun p => p.chunk == c)
  if det then (List.range members).filterMap (fun m => (cs.find? (fun p => p.member == m)).map (fun p => p.data))
  else cs.map (fun p => p.data)

/-- The reduced elements of an item, and the flags. -/
def reduceItem (det : Bool) (ty z members n : Nat) (parts : List Chunk) : List (Nat × Flags) :=
  (List.range (chunkCount n)).flatMap (fun c =>
    let cs := chunkOrder det members parts c
    (List.range (chunkLen n c / z)).map (fun e => sumElems ty (cs.map (fun bs => fieldAt bs (e * z) z))))

/-- The bytes of one member's contribution to an item. -/
def memberBytes (i : GateItem) (m n : Nat) : List Byte :=
  (List.range (chunkCount n)).flatMap (fun c =>
    ((i.parts.find? (fun p => p.member == m && p.chunk == c)).map (fun p => p.data)).getD [])

/-- All the chunks of a member have come. -/
def memberWhole (i : GateItem) (m n : Nat) : Bool :=
  (List.range (chunkCount n)).all (fun c => i.parts.any (fun p => p.member == m && p.chunk == c))

/-- An element is added at the Square (R436): the atomic unit's ADD of a type. -/
def squareAdd (ty z c a v : Nat) (s : State) : State × Flags :=
  match ctxPa s c a true with
  | .inl _ => (s, noFlags)
  | .inr pa =>
    match physAt s pa with
    | .scratch off =>
      let r := addElem ty (leNat (sGetAll 0#8 s.mem.scratch off z)) v
      (updDie { s with mem := { s.mem with scratch := sSetAll 0#8 s.mem.scratch off (natLe z r.1) } } (off / 2 ^ 27)
        (fun d => { d with atomics := satAdd 64 d.atomics 1 }), r.2)
    | _ => (s, noFlags)

/-- The result of a reduction is written: a shard to its GRAD slot, a tile to the root's destination (R432, R436). -/
def writeReduced (o : GateOp) (item : Nat) (rs : List (Nat × Flags)) (s : State) : State × Flags :=
  let fl := flagsOr (rs.map (fun r => r.2))
  let z := if collType o.op.word = 2 then 2 else 4
  let bs := rs.flatMap (fun r => natLe z r.1)
  if o.fn = 0 then
    let t := smTensor s (shardMapOf (ctxAt s o.ctx)) o.tensor
    ((ctxWrite o.ctx (t.grad + t.slotOff (item / o.nodes.length) 4) bs s).2, fl)
  else if collAcc o.op.word then
    let d := o.dest
    (rs.zipIdx).foldl (fun r e =>
      let v := squareAdd (collType o.op.word) z o.ctx ((d.bitAddr (e.2 / d.cols) (e.2 % d.cols)).toNat / 8) e.1.1 r.1
      (v.1, r.2 ||| v.2)) (s, fl)
  else (writeRows (gateSpace s o false) o.dest 0 o.dest.rows z bs s, fl)

/-- DONE_ACK to every member whose contribution the item used. -/
def ackMembers (o : GateOp) (item : Nat) (s : State) : State :=
  ((itemMembers o item).filter (fun m => m != o.self)).foldl (fun s m =>
    sendColl 1 (o.nodes.getD m 0) o.ctx { op := 5, key := o.key, tag := o.tag, gnum := o.gnum, tensor := o.tensor
                                          shard := if o.fn = 0 then item else 0, member := o.self } [] s) s

/-- Every contribution to an item has come whole and passed its check: it is reduced or placed. -/
def finishItem (id item : Nat) (s : State) : State :=
  match gateOp s id with
  | none => s
  | some o =>
    match o.item item with
    | none => s
    | some i =>
      let n := itemBytes o
      if i.phase ≠ 1 ∨ ((itemMembers o item).all (fun m => memberWhole i m n)) = false then s
      else
        let det := (ctxAt s o.ctx).desc.mode / 2 % 2 == 1
        let total := if o.fn = 2 then 0 else n * o.nodes.length
        let s := gateCount (regionOf o.cell) (fun g => { g with redBytes := satAdd 64 g.redBytes total }) s
        let r :=
          if o.fn = 2 then
            (writeRows' o item i n s, noFlags)
          else
            let z := if collType o.op.word = 2 then 2 else 4
            writeReduced o item (reduceItem det (collType o.op.word) z o.nodes.length n i.parts) s
        let s := updCell r.1 (physOf r.1 o.cell) (fun x => { x with flags := x.flags ||| r.2 })
        let s := updGateOp id (fun o => o.updItem item (fun i => { i with phase := 2, parts := [] })) s
        ackMembers o item s
where
  /-- The tile of a member goes to its rows of the destination, bit for bit (R432). -/
  writeRows' (o : GateOp) (m : Nat) (i : GateItem) (n : Nat) (s : State) : State :=
    let d := o.dest
    let src := o.source
    let rowBytes := (src.cols * src.bits + 7) / 8
    let bs := memberBytes i m n
    applyWrites ((List.range src.rows).flatMap (fun r => (List.range src.cols).flatMap (fun j =>
      elemWrites ((gateSpace s o false).place s) (d.bitAddr (m * src.rows + r) j).toNat d.bits
        (fieldAt bs (r * rowBytes) rowBytes / 2 ^ (j * src.bits) % 2 ^ src.bits)))) s

/-- A request for a contribution is served from the operation that its TAG names (R431, R437). -/
def servePull (o : GateOp) (h : CollHead) (s : State) : State :=
  let reply : CollHead := { h with op := 4, member := o.self, arg := 0, crc := 0, status := 0 }
  let dst := h.src
  let mine : Bool := decide (h.arg = pullArg o) && decide (h.tensor = o.tensor) && decide (h.chunks = chunkCount (itemBytes o))
  if !mine then sendColl 1 dst o.ctx { reply with op := 6, status := 3 } [] s
  else
    let bs := contribution s o h.shard
    sendColl 1 dst o.ctx { reply with crc := if h.chunk + 1 = h.chunks then crc32c bs else 0 } (chunkOf bs h.chunk) s

/-- FLT_SHARD_CRC (R439). -/
def raiseShardCrc (o : GateOp) (s : State) : State :=
  let r := regionOf o.cell
  raiseFault { code := 0x030E } [o.ctx] (tallyAdd (gateCount r (fun g => { g with crcFatal := satAdd 64 g.crcFatal 1 }) s) 0x02 0x12 r 1)

/-- A first CRC mismatch: the item is asked for once more (R439). -/
def retryItem (o : GateOp) (item m : Nat) (s : State) : State :=
  let r := regionOf o.cell
  let s := tallyAdd (gateCount r (fun g => { g with crcRetry := satAdd 64 g.crcRetry 1 }) s) 0x03 0x12 r 1
  let s := updGateOp o.id (fun o => o.updItem item (fun i => { i with retried := i.retried ++ [m] })) s
  if o.fn = 3 then
    let t := smTensor s (shardMapOf (ctxAt s o.ctx)) o.tensor
    match gateOp s o.id with
    | some o => fetchShard o t item ⟨0, .clean⟩ s
    | none => s
  else beginItem o.id item s

/-- A chunk of a shard or contribution arrives; the last one to come brings the check of the whole (R439). -/
def takeChunk (id item : Nat) (h : CollHead) (data : List Byte) (s : State) : State :=
  match gateOp s id with
  | none => s
  | some o =>
    match o.item item with
    | none => s
    | some i =>
      if i.phase ≠ 1 then s
      else
        let m := if o.fn = 3 then 0 else h.member
        let i := { i with
          parts := (i.parts.filter (fun p => !(p.member == m && p.chunk == h.chunk))) ++ [⟨m, h.chunk, data⟩]
          crcs := if h.chunk + 1 = h.chunks then i.crcs.filter (fun e => e.1 != m) ++ [(m, h.crc, h.chunks)] else i.crcs
          step := if o.fn = 3 then h.arg else i.step }
        let s := updGateOp id (fun o => o.updItem item (fun _ => i)) s
        let t := smTensor s (shardMapOf (ctxAt s o.ctx)) o.tensor
        let n := if o.fn = 3 then t.shardBytes t.gsize else itemBytes o
        match i.crcs.find? (fun e => e.1 == m) with
        | none => s
        | some e =>
          if !memberWhole i m n then s
          else
            let bs := memberBytes i m n
            if crc32c bs ≠ e.2.1 then
              if i.retried.contains m then raiseShardCrc o s else retryItem o item m s
            else if o.fn = 3 then placeShard o item (o.nodes.getD (item % o.nodes.length) 0) i.step bs s
            else finishItem id item s

/-- FLT_PEER_LOST for a context (R441, R442): port, lost node, the port's cause code or 5 for UNREACH, message OP, KEY and
TAG. -/
def raisePeerLost (r ctx port node cause op key tag : Nat) (s : State) : State :=
  let s := gateCount r (fun g => { g with peerLost := satAdd 64 g.peerLost 1 }) s
  raiseFault { code := 0x030D, cause := if cause = 5 then 0 else 0x030C, unit := port, arg := node, d0 := cause, d1 := op
               d2 := key + tag * 2 ^ 32 } [ctx] s

/-! ### Starting a gate operation (R351, R432) -/

/-- The operation that a GATHER or COLL of a cell becomes. -/
def newGateOp (s : State) (c l : Nat) (op : UnitOp) (g : Group) (fn key tag tensor first count group : Nat) (items : List Nat)
    (serves : List (Nat × Nat)) : GateOp :=
  { id := s.gate.nextOp, ctx := c, cell := l, op := op, fn := fn, key := key, tag := tag, gnum := s.beat.gnum, tensor := tensor
    first := first, count := count, group := group, nodes := g.nodes, self := g.self
    items := items.map (fun i => ⟨i, 0, [], [], [], 0⟩), serves := serves, deadline := none }

def addGateOp (o : GateOp) (s : State) : State :=
  { s with gate := { s.gate with ops := s.gate.ops ++ [o], nextOp := s.gate.nextOp + 1 } }

/-- The space of a gate operand, or FLT_MOVE for a block outside the partition (R182). -/
def gateSpaceOf (s : State) (c l code blkIndex : Nat) : Option Space :=
  match code with
  | 0 => some ⟨0, physOf s l⟩
  | 2 => ((partBlocks s c)[blkIndex]?).map (fun g => ⟨2, g⟩)
  | _ => some ⟨3, c⟩

/-- The lines of a tile in a space are there: the fault of R267 otherwise. -/
def spaceLines (s : State) (sp : Space) (write : Bool) (t : TileDesc) : Nat ⊕ List Nat :=
  if sp.kind = 3 then ctxLines s sp.unit write (linesOf t.bytes) else .inr []

/-- Every page of a tile is Square scratch (R280, R351, R436). -/
def allScratch (s : State) (c : Nat) (t : TileDesc) : Bool :=
  (linesOf t.bytes).all (fun a => match xlateAt (ctxAt s c) (a / 2 ^ 21) with | some e => e.kind == 2 | none => false)

/-- What starting a gate operation comes to: a fault code, or the operation. -/
def gatherStart (s : State) (c l : Nat) (op : UnitOp) : Nat ⊕ GateOp :=
  let w := op.word
  let d := op.tile (wf w 111 108)
  let map := shardMapOf (ctxAt s c)
  let tn := wf w 23 12
  let first := (xGet op.x (wf w 43 40)).toNat % 65536
  let count := wf w 51 44
  match gateSpaceOf s c l (wf w 104 102) (wf w 89 82) with
  | none => .inl 0x010A
  | some sp =>
    if !d.destOk (spaceSize sp.kind) then .inl 0x0105
    else if map = 0 ∨ tn ≥ smTensors s map then .inl 0x0128
    else
      let t := smTensor s map tn
      let g := ctxGroup s c map t.group
      if first + count > t.shards ∨ d.code ≠ t.gfmt ∨ d.scale ≠ 0 ∨ d.cols ≠ t.cols ∨ d.cstride ≠ 1 ∨
          d.rows ≠ count * t.shardRows ∨ (sp.kind = 3 ∧ allScratch s c d = false) then .inl 0x0128
      else match spaceLines s sp true d with
        | .inl f => .inl f
        | .inr _ => .inr (newGateOp s c l op g 3 g.key s.gate.nextOp tn first count t.group (List.range' first count) [])

/-- The source format that a TYPE takes (R432). -/
def collFormat (ty code : Nat) : Bool := if ty = 2 then code == 1 else code == 0

def collStart (s : State) (c l : Nat) (op : UnitOp) : Nat ⊕ GateOp :=
  let w := op.word
  let fn := collFn w
  let a := op.tile (wf w 115 112)
  let d := op.tile (wf w 111 108)
  let map := shardMapOf (ctxAt s c)
  let v := (xGet op.x (wf w 43 40)).toNat
  let first := v % 65536
  let tag := v / 2 ^ 32
  let tn := wf w 23 12
  match gateSpaceOf s c l (wf w 107 105) (wf w 89 82), gateSpaceOf s c l (wf w 104 102) (wf w 89 82) with
  | none, _ => .inl 0x010A
  | _, none => .inl 0x010A
  | some ss, some ds =>
    if !a.ok (spaceSize ss.kind) then .inl 0x0105
    else if map = 0 ∨ bitsOf v 31 16 ≠ 0 ∨ (collAcc w = true ∧ fn ≠ 1) then .inl 0x012B
    else if fn = 0 then
      let t := smTensor s map tn
      let g := ctxGroup s c map t.group
      let count := wf w 51 44
      if tn ≥ smTensors s map ∨ collType w ≠ 1 ∨ first + count > t.shards ∨ a.code ≠ 0 ∨ a.cols ≠ t.cols ∨
          a.rows ≠ count * t.shardRows ∨ g.self ≥ g.members then .inl 0x012B
      else match spaceLines s ss false a with
        | .inl f => .inl f
        | .inr _ =>
          let shards := List.range' first count
          .inr (newGateOp s c l op g 0 g.key tag tn first count t.group (shards.filter (fun i => i % g.members == g.self))
            ((shards.filter (fun i => i % g.members != g.self)).map (fun i => (i, i % g.members))))
    else
      let gi := wf w 39 32
      let g := ctxGroup s c map gi
      let receives : Bool := fn == 2 || first == g.self
      if gi ≥ smGroups s map ∨ g.self ≥ g.members ∨ (fn = 1 ∧ (first ≥ g.members ∨ collFormat (collType w) a.code = false)) ∨
          a.scale ≠ 0 then .inl 0x012B
      else if receives && !d.destOk (spaceSize ds.kind) then .inl 0x0105
      else if receives && (d.code != a.code || d.cols != a.cols || d.scale != 0 ||
          d.rows != a.rows * (if fn = 2 then g.members else 1) || (collAcc w && (ds.kind != 3 || !allScratch s c d))) then .inl 0x012B
      else match spaceLines s ss false a, (if receives then spaceLines s ds true d else .inr []) with
        | .inl f, _ => .inl f
        | _, .inl f => .inl f
        | .inr _, .inr _ =>
          let others := (List.range g.members).filter (fun m => m != g.self)
          let items := if fn = 2 then List.range g.members else if receives then [first] else []
          let serves := if fn = 2 then others.map (fun m => (m, m)) else if receives then [] else [(first, first)]
          .inr (newGateOp s c l op g fn g.key tag 0 first 0 gi items serves)

/-- A collective begins: its items are pulled, and requests held for its TAG are served (R437). -/
def collBegin (id : Nat) (s : State) : State :=
  match gateOp s id with
  | none => s
  | some o =>
    let s := (o.items.map (fun i => i.index)).foldl (fun s i => finishItem id i (beginItem id i s)) s
    let mine := s.gate.held.filter (fun e => e.1 == o.ctx && (CollHead.ofBytes e.2.bytes).tag == o.tag)
    let s := { s with gate := { s.gate with held := s.gate.held.filter (fun e =>
      !(e.1 == o.ctx && (CollHead.ofBytes e.2.bytes).tag == o.tag)) } }
    mine.foldl (fun s e => servePull o (CollHead.ofBytes e.2.bytes) s) s

end Sys2Proof.Machine
end

