-- ==== Sys2Proof/Machine/Parity.lean ====
section
/-! DEFINITION. The parity coder: images and stripes, arithmetic in GF(2^8), coded areas, and the exchange of pieces and
symbols (R439, R445 to R449, R453). -/

namespace Sys2Proof.Machine

/-- A list of bytes padded with zeros to a length. -/
def padTo (n : Nat) (bs : List Byte) : List Byte := (bs ++ List.replicate n 0#8).take n

/-! ### GF(2^8) (R447) -/

/-- A product by x, reduced by 0x11D. -/
def gfDouble (a : Nat) : Nat := if a ≥ 128 then Nat.xor (2 * a) 0x11D else 2 * a

/-- The product of a by the n low bits of b. -/
def gfMulBits (a b : Nat) : Nat → Nat
  | 0 => 0
  | n + 1 => Nat.xor (if b / 2 ^ n % 2 = 1 then Nat.repeat gfDouble n a else 0) (gfMulBits a b n)

def gfMul (a b : Nat) : Nat := gfMulBits a b 8

/-- α^j. -/
def gfAlpha (j : Nat) : Nat := Nat.repeat gfDouble (j % 255) 1

/-- The inverse of a: a^254. -/
def gfInv (a : Nat) : Nat := Nat.repeat (fun r => gfMul r a) 253 a

def gfByte (k : Nat) (b : Byte) : Byte := BitVec.ofNat 8 (gfMul k b.toNat)

/-- A piece times an element. -/
def gfScale (k : Nat) (bs : List Byte) : List Byte := bs.map (gfByte k)

/-- The sum of two pieces. -/
def gfAdd (a b : List Byte) : List Byte := List.zipWith (fun x y => x ^^^ y) a b

/-- Σ α^j d_j over the data slots given, of pieces of n bytes; with w = 0 the plain sum. -/
def gfSum (w n : Nat) (ds : List (Nat × List Byte)) : List Byte :=
  ds.foldl (fun a d => gfAdd a (gfScale (gfAlpha (w * d.1)) d.2)) (List.replicate n 0#8)

/-- The data slots of a stripe from K of its symbols: slots below k are data, k and k + 1 parity 0 and 1. -/
def decodeData (k n : Nat) (got : List (Nat × List Byte)) : List (Nat × List Byte) :=
  let data := got.filter (fun e => decide (e.1 < k))
  let par (q : Nat) : Option (List Byte) := (got.find? (fun e => e.1 == k + q)).map (fun e => e.2)
  let lost := (List.range k).filter (fun j => !data.any (fun e => e.1 == j))
  match lost, par 0, par 1 with
  | [x], some p, _ => data ++ [(x, gfAdd p (gfSum 0 n data))]
  | [x], none, some q => data ++ [(x, gfScale (gfInv (gfAlpha x)) (gfAdd q (gfSum 1 n data)))]
  | [x, y], some p, some q =>
    let p' := gfAdd p (gfSum 0 n data)
    let q' := gfAdd q (gfSum 1 n data)
    let dx := gfScale (gfInv (Nat.xor (gfAlpha x) (gfAlpha y))) (gfAdd q' (gfScale (gfAlpha y) p'))
    data ++ [(x, dx), (y, gfAdd p' dx)]
  | _, _, _ => data

/-! ### Images and stripes (R446, R448) -/

/-- The slots of a tensor that a member of its group owns, and their elements. -/
def ownSlots (t : Tensor) (g : Group) : Nat := if g.self < g.members then t.shards / g.members else 0

def ownElems (t : Tensor) (g : Group) : Nat := ownSlots t g * t.shardRows * t.cols

/-- The runs of a context's own image of a buffer: by tensor, then pair. -/
def imageRuns (s : State) (c map buf : Nat) : List (Nat × Nat) :=
  if map = 0 then []
  else (List.range (smTensors s map)).flatMap (fun ti =>
    let t := smTensor s map ti
    let n := ownElems t (ctxGroup s c map t.group)
    ((List.range 3).map (fun p => (t.arrays.getD (2 * p + buf) 0, n * t.stateSize (2 * p + buf)))).filter (fun r => r.2 != 0))

def Coding.members (d : Coding) : Nat := d.k + 2

/-- Bytes of a piece. -/
def Coding.piece (d : Coding) : Nat := d.p / d.k

/-- The stripe that holds piece j of a member, and the member that holds a symbol of a stripe. -/
def Coding.stripe (d : Coding) (m j : Nat) : Nat := (m + 2 * d.members - 2 - j) % d.members

def Coding.holder (d : Coding) (stripe slot : Nat) : Nat :=
  if slot < d.k then (stripe + 2 + slot) % d.members else (stripe + slot - d.k) % d.members

/-- The stripe whose parity q the device holds. -/
def Coding.ownStripe (d : Coding) (q : Nat) : Nat := (d.self + d.members - q) % d.members

def Coding.areaAt (d : Coding) (i : Nat) : Nat := if i = 0 then d.area0 else d.area1

/-- Context addresses of a parity and of the base copy in an area. -/
def Coding.parityAt (d : Coding) (i q : Nat) : Nat := d.areaAt i + 0x1000 + q * d.piece

def Coding.baseAt (d : Coding) (i : Nat) : Nat := d.areaAt i + 0x1000 + 2 * d.piece

/-- The header of an area. -/
def areaHeader (d : Coding) (valid : Bool) (cstep crc0 crc1 : Nat) : List Byte :=
  let h := padTo 0xFFC (natLe 4 0x41444F43 ++ natLe 4 (if valid then 1 else 0) ++ natLe 8 cstep ++ natLe 1 d.k ++ natLe 1 d.n ++
    natLe 2 d.self ++ natLe 4 0 ++ natLe 8 d.p ++ natLe 4 crc0 ++ natLe 4 crc1)
  h ++ natLe 4 (crc32c h)

/-- The header of an area is written over the parities that stand in it. -/
def writeHeader (c i : Nat) (valid : Bool) (cstep : Nat) (s : State) : State :=
  let d := (ctxAt s c).code
  let crc (q : Nat) : Nat := crc32c (ctxPeek s c (d.parityAt i q) d.piece)
  (ctxWrite c (d.areaAt i) (areaHeader d valid cstep (crc 0) (crc 1)) s).2

def updCode (c : Nat) (f : Coding → Coding) (s : State) : State := updCtx s c (fun x => { x with code := f x.code })

def updOp (c : Nat) (f : ParOp → ParOp) (s : State) : State := updCode c (fun d => { d with op := d.op.map f }) s

/-- VALID is cleared, in the device and in the header of the committed area (R451). -/
def clearValid (c : Nat) (s : State) : State :=
  let d := (ctxAt s c).code
  if d.valid then writeHeader c d.ccb false d.cstep (updCode c (fun d => { d with valid := false }) s) else s

/-- The gate that a coded-state exchange counts at: that of the region of the context's first block (DESIGN CHOICE). -/
def parRegion (s : State) (c : Nat) : Nat := (partBlocks s c).headD 0 / 64

/-! ### Messages -/

/-- The chunks of a piece that are sent: at least one, without the zeros past the image's end. -/
def pieceChunks (bs : List Byte) : Nat := max 1 (chunkCount bs.length)

/-- A piece or symbol goes to a node. `whole`: bytes of a piece; the CRC covers the whole of it, zeros included. -/
def sendPiece (op c dst cstep stripe slot whole : Nat) (bs : List Byte) (s : State) : State :=
  let d := (ctxAt s c).code
  let n := pieceChunks bs
  (List.range n).foldl (fun s i =>
    sendColl 3 dst c { op := op, key := d.key, tag := 0, gnum := cstep, tensor := stripe, shard := slot, chunk := i, chunks := n
                       member := d.self, crc := if i + 1 = n then crc32c (padTo whole bs) else 0 } (chunkOf bs i) s) s

/-- A request for a symbol. -/
def askSymbol (c cstep stripe slot : Nat) (s : State) : State :=
  let d := (ctxAt s c).code
  sendColl 3 (d.nodes.getD (d.holder stripe slot) 0) c
    { op := 3, key := d.key, tag := 0, gnum := cstep, tensor := stripe, shard := slot, member := d.self } [] s

/-- The deadline of R440 begins. -/
def startParDeadline (c : Nat) (s : State) : State :=
  updOp c (fun o => match o.deadline with
    | some _ => o
    | none => { o with deadline := some (s.cycle + 3000 * effField s (regInst aGateCtl (parRegion s c)) 19 0) }) s

/-! ### Refresh (R449) -/

/-- A whole data piece is taken into the own parity of its stripe, and acknowledged. -/
def applyPiece (c src stripe slot : Nat) (bs : List Byte) (s : State) : State :=
  let d := (ctxAt s c).code
  match d.op with
  | none => s
  | some o =>
    let q := if stripe = d.ownStripe 0 then 0 else 1
    let a := d.parityAt o.area q
    let new := gfAdd (ctxPeek s c a d.piece) (gfScale (gfAlpha (q * slot)) bs)
    let s := (ctxWrite c a new s).2
    let s := updOp c (fun o => { o with applied := o.applied ++ [(stripe, slot)] }) s
    sendColl 3 src c { op := 2, key := d.key, tag := 0, gnum := o.cstep, tensor := stripe, shard := slot, member := d.self } [] s

/-- The bytes of a piece that has come whole: its chunks in order, zeros where none came. -/
def ParPiece.bytes (p : ParPiece) (whole : Nat) : List Byte :=
  padTo whole ((List.range (chunkCount whole)).flatMap (fun i =>
    padTo (chunkLen whole i) (((p.parts.find? (fun e => e.1 == i)).map (fun e => e.2)).getD [])))

/-- Every chunk announced has come. -/
def ParPiece.whole (p : ParPiece) : Bool :=
  match p.total with
  | none => false
  | some t => (List.range t.1).all (fun i => p.parts.any (fun e => e.1 == i))

def dropRecv (c stripe slot : Nat) (s : State) : State :=
  updCode c (fun d => { d with recv := d.recv.filter (fun p => !(p.stripe == stripe && p.slot == slot)) }) s

/-- FLT_SHARD_CRC of a piece (R439). -/
def raiseParCrc (c : Nat) (s : State) : State :=
  let r := parRegion s c
  raiseFault { code := 0x030E } [c] (tallyAdd (gateCount r (fun g => { g with crcFatal := satAdd 64 g.crcFatal 1 }) s) 0x02 0x12 r 1)

/-- A first mismatch of a piece or symbol: it is asked for again, and what has come is overwritten (R439). -/
def retryPiece (c : Nat) (p : ParPiece) (s : State) : State :=
  let r := parRegion s c
  let s := tallyAdd (gateCount r (fun g => { g with crcRetry := satAdd 64 g.crcRetry 1 }) s) 0x03 0x12 r 1
  let s := updCode c (fun d => { d with recv := d.recv.map (fun e =>
    if e.stripe = p.stripe ∧ e.slot = p.slot then { e with parts := [], total := none, again := true } else e) }) s
  askSymbol c p.cstep p.stripe p.slot s

/-- A piece that has come whole, of the refresh in progress, is checked and taken in. -/
def settlePiece (c : Nat) (p : ParPiece) (s : State) : State :=
  let d := (ctxAt s c).code
  match d.op with
  | none => s
  | some o =>
    if o.rebuild ∨ o.cstep ≠ p.cstep ∨ p.whole = false then s
    else
      let bs := p.bytes d.piece
      if (p.total.map (fun t => t.2)) = some (crc32c bs) then
        applyPiece c p.src p.stripe p.slot bs (dropRecv c p.stripe p.slot s)
      else if p.again then raiseParCrc c s
      else retryPiece c p s

/-- A refresh begins: the parities of the area are cleared, the base copy and the own pieces go out, and pieces that came
before are taken in. -/
def startRefresh (c : Nat) (job : Option Nat) (buf cstep : Nat) (image : List Byte) (s : State) : State :=
  let d := (ctxAt s c).code
  let area := 1 - d.ccb
  let sends := (List.range d.k).flatMap (fun j => [0, 1].map (fun q =>
    (d.stripe d.self j, j, d.holder (d.stripe d.self j) (d.k + q))))
  let s := (ctxWrite c (d.areaAt area) (areaHeader d false cstep 0 0) s).2
  let s := (ctxWrite c (d.parityAt area 0) (List.replicate (2 * d.piece) 0#8) s).2
  let s := if d.n ≥ 2 then (ctxWrite c (d.baseAt area) (padTo d.p image) s).2 else s
  let op : ParOp := { rebuild := false, job := job, buf := buf, area := area, cstep := cstep, unacked := sends }
  let s := updCode c (fun d => { d with op := some op }) s
  let s := sends.foldl (fun s e =>
    sendPiece 1 c (d.nodes.getD e.2.2 0) cstep e.1 e.2.1 d.piece ((image.drop (e.2.1 * d.piece)).take d.piece) s) s
  d.recv.foldl (fun s p => settlePiece c p s) (startParDeadline c s)

/-- Both parities are written and every piece sent has been acknowledged. -/
def Coding.refreshed (d : Coding) : Bool :=
  match d.op with
  | some o => !o.rebuild && decide (o.applied.length = 2 * d.k) && o.unacked.isEmpty
  | none => false

/-- The area of a finished refresh takes its header. -/
def finishRefresh (c : Nat) (s : State) : State :=
  match (ctxAt s c).code.op with
  | some o => updCode c (fun d => { d with op := none }) (writeHeader c o.area true o.cstep s)
  | none => s

/-! ### Rebuild (R453) -/

/-- One more symbol of a stripe is asked for: data slots in ascending order, then parity 0, then parity 1. With none left
the rebuild cannot go on. -/
def pullSymbol (c stripe : Nat) (s : State) : State :=
  let d := (ctxAt s c).code
  match d.op with
  | none => s
  | some o =>
    let free := (List.range (d.k + 2)).filter (fun j => !o.gone.contains (d.holder stripe j) && !o.want.contains (stripe, j) &&
      !o.lost.contains (stripe, j) && !o.got.any (fun e => e.1 == stripe && e.2.1 == j))
    match free with
    | [] => updOp c (fun o => { o with fail := some 0x0702 }) s
    | j :: _ => askSymbol c o.cstep stripe j (updOp c (fun o => { o with want := o.want ++ [(stripe, j)] }) s)

/-- A symbol is lost; another takes its place. -/
def loseSymbol (c stripe slot : Nat) (s : State) : State :=
  let s := updOp c (fun o => { o with want := o.want.filter (fun w => w != (stripe, slot)), lost := o.lost ++ [(stripe, slot)] }) s
  pullSymbol c stripe (dropRecv c stripe slot s)

/-- A target's rebuild begins: K surviving symbols of each stripe are asked for. -/
def startRebuild (c job cstep : Nat) (gone : List Nat) (s : State) : State :=
  let d := (ctxAt s c).code
  let op : ParOp := { rebuild := true, job := some job, buf := 0, area := d.ccb, cstep := cstep, gone := gone }
  let s := updCode c (fun d => { d with recv := [], op := some op }) s
  let s := (List.range d.members).foldl (fun s st => (List.range d.k).foldl (fun s _ => pullSymbol c st s) s) s
  startParDeadline c s

/-- A symbol that has come whole is checked and kept. -/
def settleSymbol (c : Nat) (p : ParPiece) (s : State) : State :=
  let d := (ctxAt s c).code
  if !p.whole then s
  else
    let bs := p.bytes d.piece
    if (p.total.map (fun t => t.2)) = some (crc32c bs) then
      dropRecv c p.stripe p.slot (updOp c (fun o => { o with
        want := o.want.filter (fun w => w != (p.stripe, p.slot)), got := o.got ++ [(p.stripe, p.slot, bs)] }) s)
    else if p.again then loseSymbol c p.stripe p.slot s
    else retryPiece c p s

/-- Every stripe has K symbols. -/
def Coding.rebuilt (d : Coding) : Bool :=
  match d.op with
  | some o => o.rebuild && o.fail.isNone &&
      (List.range d.members).all (fun st => decide ((o.got.filter (fun e => e.1 == st)).length ≥ d.k))
  | none => false

/-- A list of bytes is written to runs of context memory, one after another. -/
def writeRuns (c : Nat) : List (Nat × Nat) → List Byte → State → State
  | [], _, s => s
  | (a, n) :: t, bs, s => writeRuns c t (bs.drop n) (ctxWrite c a (padTo n bs) s).2

/-- A target has decoded every stripe: its image goes to buffer CB, its parities to area CCB, with the base copy where N is
2 or more; CSTEP and VALID are set. -/
def finishRebuild (c map cb : Nat) (s : State) : State :=
  let d := (ctxAt s c).code
  match d.op with
  | none => s
  | some o =>
    let data (st : Nat) : List (Nat × List Byte) :=
      decodeData d.k d.piece ((o.got.filter (fun e => e.1 == st)).map (fun e => e.2))
    let slot (st j : Nat) : List Byte := (((data st).find? (fun e => e.1 == j)).map (fun e => e.2)).getD []
    let image := (List.range d.k).flatMap (fun j => slot (d.stripe d.self j) j)
    let s := writeRuns c (imageRuns s c map cb) image s
    let s := [0, 1].foldl (fun s q => (ctxWrite c (d.parityAt d.ccb q) (gfSum q d.piece (data (d.ownStripe q))) s).2) s
    let s := if d.n ≥ 2 then (ctxWrite c (d.baseAt d.ccb) (padTo d.p image) s).2 else s
    let s := writeHeader c d.ccb true o.cstep s
    updCode c (fun d => { d with cstep := o.cstep, valid := true, op := none, recv := [] }) s

/-! ### Lost peers (R441, R453) -/

/-- A message of a coded-state exchange to or from a node is lost: a rebuild loses the symbols due from the node, and any
other exchange raises FLT_PEER_LOST. -/
def parPeerLost (c port node cause op key tag : Nat) (s : State) : State :=
  let d := (ctxAt s c).code
  match d.op with
  | some o =>
    if o.rebuild then
      (o.want.filter (fun w => d.nodes.getD (d.holder w.1 w.2) 0 == node)).foldl (fun s w => loseSymbol c w.1 w.2 s) s
    else raisePeerLost (parRegion s c) c port node cause op key tag s
  | none => s

/-- The contexts whose coded-state exchange awaits a node. -/
def parAwaiting (s : State) (node : Nat) : List Nat :=
  (residents s).filter (fun c =>
    let d := (ctxAt s c).code
    match d.op with
    | some o => o.unacked.any (fun e => d.nodes.getD e.2.2 0 == node) ||
        o.want.any (fun w => d.nodes.getD (d.holder w.1 w.2) 0 == node)
    | none => false)

end Sys2Proof.Machine
end

