-- ==== Sys2Proof/Machine/Issue.lean ====
section
/-! DEFINITION. The issue of move-class and sync instructions into the queues of their units (R161, R169, R181, R182, R185
to R189, R193, R279, R350, R430, R615). -/

namespace Sys2Proof.Machine

/-! ### The move class -/

/-- The fields of ATOM: OPC and TYPE (R279). -/
def atomOpc (w : InsnWord) : Nat := wf w 23 20
def atomType (w : InsnWord) : Nat := wf w 19 17

/-- The types that an ATOM operation accepts (R279). -/
def atomAccepts (opc ty : Nat) : Bool :=
  match opc with
  | 3 | 4 => ty == 0 || ty == 1
  | 5 => ty == 0 || ty == 2 || ty == 3
  | _ => decide (ty ≤ 3)

/-- Reserved encodings of a move-class word (R169, R182, R186, R279, R350, R430). -/
def moveReserved (op : Nat) (w : InsnWord) : Bool :=
  match op with
  | 0x01 => decide (wf w 107 105 > 3 ∨ wf w 104 102 > 3)
  | 0x02 => if wf w 51 44 = 0 then decide (wf w 43 40 ≠ 0 ∨ wf w 39 24 ≠ 0) else decide (wf w 39 24 = 0)
  | 0x08 => decide (wf w 104 102 ≠ 3) || !atomAccepts (atomOpc w) (atomType w)
  | 0x09 => decide (wf w 104 102 ≠ 2 ∧ wf w 104 102 ≠ 3) || decide (wf w 51 44 = 0) || decide (wf w 25 24 = 3)
  | 0x0A =>
    let bad : Nat → Bool := fun v => decide (v = 1 ∨ v > 3)
    bad (wf w 107 105) || decide (wf w 78 77 = 3) || (if wf w 80 79 = 0 then decide (wf w 51 44 = 0) else bad (wf w 104 102))
  | _ => false

/-- The legal words of a move-class operation. -/
def moveLegal (w : InsnWord) : Bool :=
  let op := (classOp w).2
  match moveFields op (wf w 80 79) with
  | some fs => onlyFields w ((127, 116) :: fs) && !moveReserved op w
  | none => false

/-- A move-class instruction issues into the move queue, which holds 8 entries (R161). -/
def moveIssue (mine : InsnWord → Bool) (c : LCell) (m : Meet) (s : State) : State :=
  issueWith (fetchFor mine moveLegal c m s) s (fun s p x w =>
    if x.units.move.length ≥ 8 then s
    else updCell s p (fun x => Cell.next { x with units := { x.units with move := x.units.move ++ [x.capture w] } }))

/-- The words of a move-class operation. -/
def moveOp (op : Nat) (w : InsnWord) : Bool := decide (classOp w = (4, op))

def execMove (c : LCell) (m : Meet) (s : State) : Host.Outcome State Fault Refusal := .next (moveIssue (moveOp 0x01) c m s)
def execRdef (c : LCell) (m : Meet) (s : State) : Host.Outcome State Fault Refusal := .next (moveIssue (moveOp 0x02) c m s)
def execRconn (c : LCell) (m : Meet) (s : State) : Host.Outcome State Fault Refusal := .next (moveIssue (moveOp 0x03) c m s)
def execRpush (c : LCell) (m : Meet) (s : State) : Host.Outcome State Fault Refusal := .next (moveIssue (moveOp 0x04) c m s)
def execRwait (c : LCell) (m : Meet) (s : State) : Host.Outcome State Fault Refusal := .next (moveIssue (moveOp 0x05) c m s)
def execRfree (c : LCell) (m : Meet) (s : State) : Host.Outcome State Fault Refusal := .next (moveIssue (moveOp 0x06) c m s)
def execImload (c : LCell) (m : Meet) (s : State) : Host.Outcome State Fault Refusal := .next (moveIssue (moveOp 0x07) c m s)

/-- The words of an ATOM operation (R279). -/
def atomOp (opc : Nat) (w : InsnWord) : Bool := moveOp 0x08 w && atomOpc w == opc

def execAtomAdd (c : LCell) (m : Meet) (s : State) : Host.Outcome State Fault Refusal := .next (moveIssue (atomOp 0) c m s)
def execAtomMin (c : LCell) (m : Meet) (s : State) : Host.Outcome State Fault Refusal := .next (moveIssue (atomOp 1) c m s)
def execAtomMax (c : LCell) (m : Meet) (s : State) : Host.Outcome State Fault Refusal := .next (moveIssue (atomOp 2) c m s)
def execAtomSwap (c : LCell) (m : Meet) (s : State) : Host.Outcome State Fault Refusal := .next (moveIssue (atomOp 3) c m s)
def execAtomCas (c : LCell) (m : Meet) (s : State) : Host.Outcome State Fault Refusal := .next (moveIssue (atomOp 4) c m s)
def execAtomVadd (c : LCell) (m : Meet) (s : State) : Host.Outcome State Fault Refusal := .next (moveIssue (atomOp 5) c m s)

def execGather (c : LCell) (m : Meet) (s : State) : Host.Outcome State Fault Refusal := .next (moveIssue (moveOp 0x09) c m s)

/-- The words of a collective (R430). -/
def collOp (fn : Nat) (w : InsnWord) : Bool := moveOp 0x0A w && wf w 80 79 == fn

def execRscat (c : LCell) (m : Meet) (s : State) : Host.Outcome State Fault Refusal := .next (moveIssue (collOp 0) c m s)
def execReduce (c : LCell) (m : Meet) (s : State) : Host.Outcome State Fault Refusal := .next (moveIssue (collOp 1) c m s)
def execAllgath (c : LCell) (m : Meet) (s : State) : Host.Outcome State Fault Refusal := .next (moveIssue (collOp 2) c m s)

/-! ### The sync class (R193) -/

/-- The fields of a sync operation. BELL is unused where IND is set, and RA where it is clear; the operations of lines use
neither. -/
def syncFields (w : InsnWord) : List (Nat × Nat) :=
  let bell := [(111, 111), if wf w 111 111 = 1 then (115, 112) else (110, 95)]
  match (classOp w).2 with
  | 1 => bell ++ [(89, 58)]
  | 2 => bell ++ [(89, 58), (57, 38)]
  | 3 => bell ++ [(57, 38)]
  | 4 => [(94, 90)]
  | _ => [(94, 90), (57, 38)]

/-- The legal words of a sync operation (R169, R193, R299). -/
def syncLegal (w : InsnWord) : Bool := onlyFields w ((127, 116) :: syncFields w)

/-- A sync instruction issues into the sync queue, which holds 4 entries (R161); WAIT, TAKE and LWAIT block the sequencer
from then on (R304), with the timeout of R305. -/
def syncIssue (op : Nat) (c : LCell) (m : Meet) (s : State) : State :=
  issueWith (fetchFor (fun w => decide (classOp w = (5, op))) syncLegal c m s) s (fun s p x w =>
    if x.units.sync.length ≥ 4 then s
    else
      let us := if wf w 57 38 ≠ 0 then wf w 57 38
        else
          let d := (ctxAt s ((ownerOf s (blockOf c.toNat)).getD 0)).desc.timeout
          if d ≠ 0 then d else effField s aBellCtl 19 0
      let wait : PendingWait :=
        { isLine := op == 5, isTake := op == 3
          id := if op = 5 then wf w 94 90 else if wf w 111 111 = 1 then (xGet x.x (wf w 115 112)).toNat % 65536 else wf w 110 95
          target := BitVec.ofNat 32 (wf w 89 58), issued := s.cycle, expires := s.cycle + 3000 * us, gated := false
          since := s.cycle, pc := x.seq.pc, word := w }
      updCell s p (fun x =>
        let y := Cell.next { x with units := { x.units with sync := x.units.sync ++ [x.capture w] } }
        if op = 1 ∨ op = 4 then y else { y with seq := { y.seq with wait := some wait } }))

def execPost (c : LCell) (m : Meet) (s : State) : Host.Outcome State Fault Refusal := .next (syncIssue 1 c m s)
def execWait (c : LCell) (m : Meet) (s : State) : Host.Outcome State Fault Refusal := .next (syncIssue 2 c m s)
def execTake (c : LCell) (m : Meet) (s : State) : Host.Outcome State Fault Refusal := .next (syncIssue 3 c m s)
def execArrive (c : LCell) (m : Meet) (s : State) : Host.Outcome State Fault Refusal := .next (syncIssue 4 c m s)
def execLwait (c : LCell) (m : Meet) (s : State) : Host.Outcome State Fault Refusal := .next (syncIssue 5 c m s)

end Sys2Proof.Machine
end

