-- ==== Sys2Proof/Machine/Atomic.lean ====
section
/-! DEFINITION. ATOM at its start and at the Squares (R279 to R283, R105, R107). -/

namespace Sys2Proof.Machine

/-- Bytes of an element of an ATOM's type. -/
def atomBytes (ty : Nat) : Nat :=
  match ty with
  | 1 => 8
  | 3 => 2
  | _ => 4

/-- Bits of the address of element (i, j) of an operand: an INT64 lies in columns 2j and 2j + 1 (R280). -/
def atomAddr (t : TileDesc) (ty i j : Nat) : Nat := (t.bitAddr i (if ty = 1 then 2 * j else j)).toNat / 8

/-- Elements in a row of an operand. -/
def atomCols (t : TileDesc) (ty : Nat) : Nat := if ty = 1 then t.cols / 2 else t.cols

/-- The shape of an operand of an ATOM (R280): format, no scale, and the columns of an INT64. -/
def atomShape (t : TileDesc) (ty : Nat) : Bool :=
  t.code == (if ty = 3 then 1 else 0) && t.scale == 0 && (ty != 1 || (decide (t.cols % 2 = 0) && t.cstride == 1)) &&
    (List.range t.rows).all (fun i => (List.range (atomCols t ty)).all (fun j => decide (atomAddr t ty i j % atomBytes ty = 0)))

/-- The elements of an operand in row-major order. -/
def atomElems (t : TileDesc) (ty : Nat) (rd : Nat → Byte) : List Nat :=
  (List.range t.rows).flatMap (fun i => (List.range (atomCols t ty)).map (fun j =>
    leNat ((List.range (atomBytes ty)).map (fun k => rd (atomAddr t ty i j + k)))))

/-- RET, and CAS always, return the old values (R279, R280). -/
def atomReturns (w : InsnWord) : Bool := wf w 16 16 == 1 || atomOpc w == 4

/-- The operand tiles that an ATOM reads in its cell store. -/
def atomSources (o : UnitOp) : List TileDesc :=
  o.tile (wf o.word 115 112) :: (if atomOpc o.word = 4 then [o.tile ((wf o.word 115 112 + 1) % 16)] else [])

/-- The start of an ATOM (R280): a fault code, or what it captures. -/
def atomStart (s : State) (c l : Nat) (o : UnitOp) : Nat ⊕ FlightKind :=
  let w := o.word
  let ty := atomType w
  let d := o.tile (wf w 111 108)
  let srcs := atomSources o
  let a := o.tile (wf w 115 112)
  let vadd := atomOpc w == 5
  if !d.destOk (2 ^ 40) || !srcs.all (fun t => t.ok storeSize && t.rows == d.rows && t.cols == d.cols && atomShape t ty) ||
      !atomShape d ty || (atomReturns w && !a.destOk storeSize) || (vadd && wf w 16 16 == 1) ||
      (vadd && !(d.cstride == 1 && d.cols * d.bits == 1024 && (List.range d.rows).all (fun i =>
        decide (atomAddr d ty i 0 % 128 = 0)))) then .inl 0x0105
  else if !allScratch s c d then .inl 0x011B
  else match ctxLines s c true (linesOf d.bytes) with
    | .inl f => .inl f
    | .inr _ =>
      let rd := readStore (cellAt s (physOf s l))
      let first := atomElems a ty rd
      let second := match srcs with | [_, n] => atomElems n ty rd | _ => []
      .inr (if atomOpc w = 4 then .atom second first [] noFlags else .atom first [] [] noFlags)

/-- FP minimum or maximum (R105) and integer ones, signed, of encodings of a type. -/
def atomExtreme (max : Bool) (ty : Nat) (a b : Nat) : Nat × Flags :=
  if ty ≤ 1 then
    let n := 8 * atomBytes ty
    let less := decide (signedOf n a < signedOf n b)
    (if less = max then b else a, noFlags)
  else
    let sh := if ty = 3 then ctShape 1 else fp32Shape
    if max then maxBitsOf sh a b else minBitsOf sh a b

/-- R282: the new value of an element from its old value, the operand and the compare value. -/
def atomNew (opc ty old v cmp : Nat) : Nat × Flags :=
  match opc with
  | 1 => atomExtreme false ty old v
  | 2 => atomExtreme true ty old v
  | 3 => (v, noFlags)
  | 4 => (if old = cmp then v else old, noFlags)
  | _ =>
    match ty with
    | 0 => ((old + v) % 2 ^ 32, noFlags)
    | 1 => ((old + v) % 2 ^ 64, noFlags)
    | 2 => addElem 1 old v
    | _ => addElem 2 old v

/-- Elements, or VADD rows, of an ATOM. -/
def atomUnits (o : UnitOp) : Nat :=
  let d := o.tile (wf o.word 111 108)
  if atomOpc o.word = 5 then d.rows else d.rows * atomCols d (atomType o.word)

/-- The elements that unit k of an ATOM takes in: index and context address. -/
def atomUnit (o : UnitOp) (k : Nat) : List (Nat × Nat) :=
  let d := o.tile (wf o.word 111 108)
  let ty := atomType o.word
  let n := atomCols d ty
  if atomOpc o.word = 5 then (List.range n).map (fun j => (k * n + j, atomAddr d ty k j))
  else [(k, atomAddr d ty (k / n) (k % n))]

/-- The base die of unit k. -/
def atomDie (s : State) (c : Nat) (o : UnitOp) (k : Nat) : Nat :=
  match ctxPa s c (((atomUnit o k).head?.map (fun e => e.2)).getD 0) true with
  | .inr pa => (pa - 0xC000000000) / 2 ^ 27
  | .inl _ => 8

/-- One element is applied at the Square: the old value, the flags, and the state. -/
def atomElement (c : Nat) (o : UnitOp) (src cmp : List Nat) (e : Nat × Nat) (s : State) : Nat × Flags × State :=
  let z := atomBytes (atomType o.word)
  match ctxPa s c e.2 true with
  | .inl _ => (0, noFlags, s)
  | .inr pa =>
    let off := pa - 0xC000000000
    let old := leNat (sGetAll 0#8 s.mem.scratch off z)
    let r := atomNew (atomOpc o.word) (atomType o.word) old (src.getD e.1 0) (cmp.getD e.1 0)
    (old, r.2, { s with mem := { s.mem with scratch := sSetAll 0#8 s.mem.scratch off (natLe z r.1) } })

/-- A unit of an ATOM is applied whole: the old values, the flags, and the state. -/
def atomApplyUnit (c : Nat) (o : UnitOp) (src cmp : List Nat) (k : Nat) (s : State) : List Nat × Flags × State :=
  (atomUnit o k).foldl (fun r e =>
    let q := atomElement c o src cmp e r.2.2
    (r.1 ++ [q.1], r.2.1 ||| q.2.1, q.2.2)) ([], noFlags, s)

/-- The writes that return the old values to the tile of SD. -/
def atomReturnWrites (p : Nat) (o : UnitOp) (old : List Nat) : List ByteWrite :=
  if atomReturns o.word then
    let a := o.tile (wf o.word 115 112)
    let ty := atomType o.word
    let n := atomCols a ty
    (old.zipIdx).flatMap (fun e => (natLe (atomBytes ty) e.1).zipIdx.map (fun b =>
      byteWrite (.store p) (atomAddr a ty (e.2 / n) (e.2 % n) + b.2) b.1.toNat))
  else []

end Sys2Proof.Machine
end

