-- ==== Sys2Proof/Machine/Move.lean ====
section
/-! DEFINITION. The move engine: starting and completing move-class operations, rings, credits, gathers at the residency
table, and errors of the networks (R181 to R192, R247 to R251, R281, R298, R352, R614). -/

namespace Sys2Proof.Machine

/-! ### Errors of the networks (R249 to R251) -/

/-- A parity error counts against a stop or port (R251): whether it is the second or later one there. -/
def parityAt (key : Nat) (s : State) : Bool × State :=
  let n := sGet 0 s.flt.parity key + 1
  (decide (n ≥ 2), { s with flt := { s.flt with parity := sSet 0 s.flt.parity key n
                                                failedStops := if n ≥ 2 then sSet false s.flt.failedStops key true
                                                  else s.flt.failedStops } })

/-- What a parity error brings about (R251). A stop is known by its block, and a port of a region by 256 + 32 r + port. -/
def netError (e : NetErr) (s : State) : State :=
  match e with
  | .none => s
  | .street g => raiseBlockFault { code := 0x0202 } g.toNat (tallyAdd s 0x02 0x08 g.toNat 1)
  | .avenue g =>
    let r := parityAt g.toNat (tallyAdd s 0x02 0x08 g.toNat 1)
    if r.1 then raiseRegionFault { code := 0x0302 } (g.toNat / 64) (failBlock g.toNat r.2)
    else raiseBlockFault { code := 0x0203 } g.toNat r.2
  | .edge q p =>
    let r := parityAt (256 + 32 * q.toNat + p.toNat) s
    if r.1 then raiseRegionFault { code := 0x0302 } q.toNat r.2
    else raiseFault { code := 0x0301 } (holdersInRegion r.2 q.toNat) r.2

/-- FLT_RINGROAD_DOWN for a context whose traffic would cross a link that is down (R251). -/
def raiseRouteDown (c : Nat) (s : State) : State := raiseFault { code := 0x0303 } [c] s

/-! ### Bells named by move-class instructions (R298) -/

/-- The bell that POST(1) goes to. -/
def postBell (w : InsnWord) : Option Nat :=
  if [1, 4, 8, 9, 10].contains (classOp w).2 ∧ wf w 71 71 = 1 then some (wf w 70 55) else none

/-! ### Spaces -/

/-- The region that holds a space, where it lies in one. -/
def Space.region (sp : Space) : Nat := if sp.kind = 2 then sp.unit / 64 else sp.unit / 17 / 64

/-- The space of a MOVE's operand (R182): none where the cell or block is outside the partition. -/
def moveSpace (s : State) (c l code : Nat) (w : InsnWord) : Option Space :=
  match code with
  | 0 => some ⟨0, physOf s l⟩
  | 1 => if inPartition s c (wf w 101 90) then some ⟨0, physOf s (wf w 101 90)⟩ else none
  | 2 => ((partBlocks s c)[wf w 89 82]?).map (fun g => ⟨2, g⟩)
  | _ => some ⟨3, c⟩

/-- The key of a destination whose moves complete in issue order (R184). -/
def Space.order (sp : Space) : Nat :=
  match sp.kind with
  | 2 => 0x10000 + sp.unit
  | 3 => 0x20000
  | _ => 1 + sp.unit

/-- The stacks that lines at physical addresses lie on. -/
def stacksOf (s : State) (pas : List Nat) : List Nat :=
  pas.filterMap (fun pa => match physAt s pa with | .hbm st _ => some st | .scratch off => some (off / 2 ^ 27) | _ => none)

/-- The traffic of a cell to a space crosses a ring link that is down. -/
def spaceCut (s : State) (l : Nat) (sp : Space) (pas : List Nat) : Bool :=
  if sp.kind = 3 then (stacksOf s pas).any (fun st => routeDown s (regionOf l) (st / 2))
  else routeDown s (regionOf l) sp.region

/-- Lines of a tile in a space, with the fault of R267 or of a RESV stream whose DEST they miss. -/
def tileLines (s : State) (sp : Space) (write : Bool) (resv : Option Stream) (t : TileDesc) : Nat ⊕ List Nat :=
  match spaceLines s sp write t with
  | .inl f => .inl f
  | .inr pas =>
    match resv with
    | some r => if sp.kind = 3 && (stacksOf s pas).any (fun st => st != r.dest) then .inl 0x010A else .inr pas
    | none => .inr pas

/-- The logical cell that a physical cell's fault names. -/
def cellOf (s : State) (p : Nat) : Nat := (logicalOf s p).getD (16 * (p / 17) + min (p % 17) 15)

/-- Reading a source meets an error where `h` or `lh` shows one: true where the read must fail, its fault raised. -/
def sourceMeets (c l : Nat) (o : UnitOp) (sp : Space) (t : TileDesc) (resv : Bool) (pas : List Nat) (h : Hit) (lh : LineHit)
    (s : State) : Bool × State :=
  match sp.kind with
  | 3 => linesAccess c false (!resv) (fun _ => false) lh pas 0 s
  | 2 =>
    if h.mem = .store ∧ t.bytes.contains h.loc = true then
      match h.ecc with
      | .clean => (false, s)
      | .corrected => (false, tallyAdd s 0x01 0x07 sp.unit 1)
      | .uncorrectable => (true, raiseBlockFault { code := 0x0204 } sp.unit (tallyAdd s 0x02 0x07 sp.unit 1))
    else (false, s)
  | _ =>
    if h.mem = .store ∧ t.bytes.contains h.loc = true then
      let s := storeMeets sp.unit h.ecc s
      if h.ecc = .uncorrectable then
        (true, if sp.unit = physOf s l then raiseCellFault (storeEccOwn o.pc o.word h.loc) l s
          else raiseCellFault (storeEccForeign h.loc l) (cellOf s sp.unit) s)
      else (false, s)
    else (false, s)

/-! ### Flights -/

/-- The operation at the head of the move queue leaves it. -/
def popMove (p : Nat) (s : State) : State :=
  updCell s p (fun x => { x with units := { x.units with move := x.units.move.drop 1 } })

/-- The head of the move queue is in flight. -/
def fly (p : Nat) (f : Flight) (s : State) : State :=
  updCell (popMove p s) p (fun x => { x with units := { x.units with flights := x.units.flights ++ [f] } })

def updFlight (p i : Nat) (f : Flight → Flight) (s : State) : State :=
  updCell s p (fun x => { x with units := { x.units with flights := updAt x.units.flights i f } })

def dropFlight (p i : Nat) (s : State) : State :=
  updCell s p (fun x => { x with units := { x.units with flights := x.units.flights.eraseIdx i } })

def ringAt (x : Cell) (r : Nat) : Ring := sGet {} x.rings r

def updRing (p r : Nat) (f : Ring → Ring) (s : State) : State := updCell s p (fun x => { x with rings := sUpd {} x.rings r f })

def handleAt (x : Cell) (h : Nat) : RingHandle := sGet {} x.handles h

def updHandle (p h : Nat) (f : RingHandle → RingHandle) (s : State) : State :=
  updCell s p (fun x => { x with handles := sUpd {} x.handles h f })

/-- The fault of the operation at the head of the move queue, which leaves it. -/
def moveFault (code l p : Nat) (o : UnitOp) (s : State) : State := raiseCellFault (opFault code o) l (popMove p s)

/-! ### MOVE (R182, R183) -/

/-- The writes of a copy. -/
def copyWrites (s : State) (src dst : TileDesc) (a b : Space) : List ByteWrite :=
  let rd := a.byte s
  dst.writes (b.place s) (fun i j => src.elem rd i j) ++
    dst.scaleWrites (b.place s) (fun i k => (rd (src.scaleBase + i * src.scalesPerRow + k)).toNat)

def startCopy (c l p : Nat) (o : UnitOp) (h : Hit) (lh : LineHit) (s : State) : State :=
  let w := o.word
  let src := o.tile (wf w 115 112)
  let dst := o.tile (wf w 111 108)
  let fail := fun code => moveFault code l p o s
  let resv := wf w 81 81 == 1
  let stream := if resv then heldStream s c l (wf w 80 72) else none
  match moveSpace s c l (wf w 107 105) w, moveSpace s c l (wf w 104 102) w with
  | some a, some b =>
    if (wf w 107 105 ≠ 0 ∧ wf w 104 102 ≠ 0) ∨ (resv = true ∧ stream.isNone = true) then fail 0x010A
    else if !src.ok (spaceSize a.kind) || !dst.destOk (spaceSize b.kind) || src.rows != dst.rows || src.cols != dst.cols ||
        src.code != dst.code || (src.scale == 0) != (dst.scale == 0) || (src.fmt.scaled && src.phase != dst.phase) ||
        (decide (a = b) && src.overlaps dst) then fail 0x0105
    else match tileLines s a false stream src, tileLines s b true stream dst with
      | .inl f, _ => fail f
      | _, .inl f => fail f
      | .inr pa, .inr pb =>
        if spaceCut s l a pa || spaceCut s l b pb then raiseRouteDown c (popMove p s)
        else
          let r := sourceMeets c l o a src resv pa h lh s
          if r.1 then popMove p r.2
          else fly p ⟨o, .copy, b.order, copyWrites r.2 src dst a b, postBell w⟩ r.2
  | _, _ => fail 0x010A

/-! ### Rings (R186 to R189) -/

/-- Some cell of the partition holds a handle bound to a ring. -/
def ringConnected (s : State) (c l r : Nat) : Bool :=
  (partCells s c).any (fun k => (cellAt s (physOf s k)).handles.any (fun e =>
    e.2.bound && e.2.peer == l && e.2.ring == r))

def startRdef (c l p : Nat) (o : UnitOp) (s : State) : State :=
  let w := o.word
  let r := wf w 54 52
  let g := ringAt (cellAt s p) r
  let slots := wf w 51 44
  if (g.defined = true ∧ ¬ (slots = 0 ∧ g.filled.isEmpty = true ∧ ringConnected s c l r = false)) ∨
      (slots ≠ 0 ∧ (xGet o.x (wf w 43 40)).toNat + slots * wf w 39 24 * 64 > storeSize) then moveFault 0x010B l p o s
  else fly p ⟨o, .rdef, 0x30000 + r, [], none⟩ s

def startRconn (c l p : Nat) (o : UnitOp) (s : State) : State :=
  let w := o.word
  let peer := wf w 101 90
  if !inPartition s c peer || (handleAt (cellAt s p) (wf w 54 52)).bound then moveFault 0x010B l p o s
  else if routeDown s (regionOf l) (regionOf peer) then raiseRouteDown c (popMove p s)
  else fly p ⟨o, .rconn (wf w 54 52) peer (wf w 46 44), 0, [], none⟩ s

/-- Bytes of a tile packed for a slot: the rows of elements in whole groups, then the scales (R87, R188). -/
def packedBytes (t : TileDesc) (rd : Nat → Byte) : List Byte :=
  let n := if t.bits = 6 then (t.cols + 3) / 4 * 4 else t.cols
  (List.range t.rows).flatMap (fun i => natLe ((n * t.bits + 7) / 8)
    ((List.range t.cols).foldl (fun v j => v + t.elem rd i j * 2 ^ (j * t.bits)) 0)) ++
  (if t.fmt.scaled then (List.range (t.rows * t.scalesPerRow)).map (fun k => rd (t.scaleBase + k)) else [])

def startRpush (c l p : Nat) (o : UnitOp) (h : Hit) (s : State) : State :=
  let w := o.word
  let x := cellAt s p
  let hd := handleAt x (wf w 54 52)
  let t := o.tile (wf w 115 112)
  let resv := wf w 81 81 == 1
  let q := physOf s hd.peer
  let g := ringAt (cellAt s q) hd.ring
  let bs := packedBytes t (readStore x)
  if !hd.bound then moveFault 0x010B l p o s
  else if resv && (heldStream s c l (wf w 80 72)).isNone then moveFault 0x010A l p o s
  else if !t.ok storeSize then moveFault 0x0105 l p o s
  else if bs.length > 64 * g.slotSz then moveFault 0x010B l p o s
  else if hd.credits = 0 then s
  else if routeDown s (regionOf l) (regionOf hd.peer) then raiseRouteDown c (popMove p s)
  else
    let r := sourceMeets c l o ⟨0, p⟩ t false [] h ⟨0, .clean⟩ s
    if r.1 then popMove p r.2
    else
      let slot := g.nextFill
      let base := g.base + 64 * g.slotSz * slot
      let s := updHandle p (wf w 54 52) (fun d => { d with credits := d.credits - 1 }) r.2
      let s := updRing q hd.ring (fun g => { g with nextFill := (g.nextFill + 1) % g.slots }) s
      fly p ⟨o, .push hd.peer hd.ring slot false, 1 + q,
        (bs.zipIdx).map (fun e => byteWrite (.store q) (base + e.2) e.1.toNat), postBell w⟩ s

def startRwait (l p : Nat) (o : UnitOp) (s : State) : State :=
  let r := wf o.word 54 52
  if !(ringAt (cellAt s p) r).defined then moveFault 0x010B l p o s
  else fly p ⟨o, .rwait r (wf o.word 43 40), 0x30000 + r, [], none⟩ s

/-- RFREE operations in flight that have yet to release their slot. -/
def freesDue (x : Cell) (r : Nat) : Nat :=
  (x.units.flights.filter (fun f => match f.kind with | .rfree k none => k == r | _ => false)).length

def startRfree (l p : Nat) (o : UnitOp) (s : State) : State :=
  let r := wf o.word 54 52
  let x := cellAt s p
  if (ringAt x r).returned ≤ freesDue x r then moveFault 0x010B l p o s
  else fly p ⟨o, .rfree r none, 0x30000 + r, [], none⟩ s

/-! ### IMLOAD (R185) -/

def startImload (c l p : Nat) (o : UnitOp) (lh : LineHit) (s : State) : State :=
  let prog := planProg s (planOf (ctxAt s c))
  let seg := wf o.word 23 12
  if seg ≥ segmentCount s prog then moveFault 0x010A l p o s
  else
    let g := segmentAt s prog seg
    let r := linesAccess c false true (fun _ => false) lh (runLines (prog + g.offset) (16 * g.count)) 0 s
    if r.1 then popMove p r.2
    else fly p ⟨o, .imload g.start g.count, 0,
      ((segmentWords r.2 prog g).flatMap (fun v => natLe 16 v.toNat)).zipIdx.map (fun e =>
        byteWrite (.imem p) (16 * g.start + e.2) e.1.toNat), none⟩ r.2

/-! ### ATOM, GATHER and COLL -/

/-- The check of the cell store as a unit reads tiles there: true where the read must fail. -/
def storeReads (l : Nat) (o : UnitOp) (ts : List TileDesc) (h : Hit) (s : State) : Bool × State :=
  let r := hitStore l o (fun a => ts.any (fun t => t.bytes.contains a)) h s
  match r.2 with
  | some f => (true, raiseCellFault f l r.1)
  | none => (false, r.1)

def startAtom (c l p : Nat) (o : UnitOp) (h : Hit) (s : State) : State :=
  match atomStart s c l o with
  | .inl code => moveFault code l p o s
  | .inr k =>
    let r := storeReads l o (atomSources o) h s
    if r.1 then popMove p r.2 else fly p ⟨o, k, 0, [], postBell o.word⟩ r.2

/-- The key of a gate operation's destination for the order of R184. -/
def gateOrder (s : State) (o : GateOp) : Nat := if o.fn = 0 then 0 else (gateSpace s o false).order

def startGather (c l p : Nat) (o : UnitOp) (s : State) : State :=
  match gatherStart s c l o with
  | .inl code => moveFault code l p o s
  | .inr g => addGateOp g (fly p ⟨o, .gate g.id, gateOrder s g, [], postBell o.word⟩ s)

def startColl (c l p : Nat) (o : UnitOp) (h : Hit) (s : State) : State :=
  match collStart s c l o with
  | .inl code => moveFault code l p o s
  | .inr g =>
    let r := if wf o.word 107 105 = 0 then storeReads l o [g.source] h s else (false, s)
    if r.1 then popMove p r.2
    else collBegin g.id (addGateOp g (fly p ⟨o, .gate g.id, gateOrder s g, [], postBell o.word⟩ r.2))

/-! ### Starting (R184, R615) -/

/-- The operation at the head of the move queue starts. The bell is checked first (R298). -/
def startMove (c l p : Nat) (o : UnitOp) (h : Hit) (lh : LineHit) (s : State) : State :=
  match postBell o.word with
  | some b =>
    if !ownsBell s c b then moveFault 0x0122 l p o s else go
  | none => go
where
  go : State :=
    match (classOp o.word).2 with
    | 0x01 => startCopy c l p o h lh s
    | 0x02 => startRdef c l p o s
    | 0x03 => startRconn c l p o s
    | 0x04 => startRpush c l p o h s
    | 0x05 => startRwait l p o s
    | 0x06 => startRfree l p o s
    | 0x07 => startImload c l p o lh s
    | 0x08 => startAtom c l p o h s
    | 0x09 => startGather c l p o s
    | _ => startColl c l p o h s

def execMoveStart (c : LCell) (h : Hit) (lh : LineHit) (e : NetErr) (s : State) : Host.Outcome State Fault Refusal :=
  .next (
    let l := c.toNat
    let p := physOf s l
    let u := (cellAt s p).units
    match u.move, ownerOf s (blockOf l) with
    | o :: _, some ctx => if u.flights.length ≥ 4 then s else netError e (startMove ctx l p o h lh s)
    | _, _ => s)

/-! ### Completing (R183 to R189, R247, R248) -/

/-- An earlier operation in flight keeps this one from completing (R184). -/
def heldBack (fs : List Flight) (i : Nat) : Bool :=
  match fs[i]? with
  | none => true
  | some f => f.dest != 0 && (fs.take i).any (fun g => g.dest == f.dest && !released g)
where
  /-- An RFREE whose slot is released holds nothing back. -/
  released (g : Flight) : Bool := match g.kind with | .rfree _ (some _) => true | _ => false

/-- The lines of context memory that a copy writes, accessed at completion (R275, R276, R287). -/
def copyLands (c l : Nat) (f : Flight) (lh : LineHit) (s : State) : Bool × State :=
  if f.dest ≠ 0x20000 then (false, s)
  else
    let lines := linesOf (f.op.tile (wf f.op.word 111 108)).bytes
    match ctxLines s c true lines with
    | .inl code => (true, raiseCellFault (opFault code f.op) l s)
    | .inr pas => linesAccess c true (wf f.op.word 81 81 == 0)
        (fun pa => match physAt s pa with | .hbm st la => wholeLine f.writes (hbmKey st la / 64) | _ => false) lh pas 0 s

/-- A move-class operation in flight completes: what it still does, its flight gone, and its bell posted. -/
def finishFlight (c l p i : Nat) (f : Flight) (lh : LineHit) (s : State) : State :=
  let done := fun (s : State) => postAfter f.post l c f.op (dropFlight p i s)
  let x := cellAt s p
  match f.kind with
  | .copy =>
    let r := copyLands c l f lh s
    if r.1 then dropFlight p i r.2 else done (applyWrites f.writes r.2)
  | .push _ _ _ filled => if filled then done s else s
  | .rwait r ra =>
    let g := ringAt x r
    if g.returned < g.filled.length then
      let slot := (g.nextFree + g.returned) % g.slots
      done (updRing p r (fun g => { g with returned := g.returned + 1 })
        (updCell s p (fun x => { x with x := xSet x.x ra (BitVec.ofNat 64 (g.base + 64 * g.slotSz * slot)) })))
    else s
  | .rfree r none =>
    let g := ringAt x r
    updFlight p i (fun f => { f with kind := .rfree r g.filled.head? })
      (updRing p r (fun g => { g with filled := g.filled.drop 1, returned := g.returned - 1
                                      nextFree := (g.nextFree + 1) % g.slots }) s)
  | .rfree _ (some _) => s
  | .rdef =>
    let w := f.op.word
    let slots := wf w 51 44
    let new : Ring := if slots = 0 then {}
      else { defined := true, base := (xGet f.op.x (wf w 43 40)).toNat, slots := slots, slotSz := wf w 39 24 }
    done (updRing p (wf w 54 52) (fun _ => new) s)
  | .rconn _ _ _ => s
  | .imload _ _ => done (applyWrites f.writes s)
  | .atom _ _ old flags =>
    if old.length < atomUnits f.op then s
    else done (updCell (applyWrites (atomReturnWrites p f.op old) s) p (fun x => x.raiseFlags flags))
  | .gate id =>
    match gateOp s id with
    | some o =>
      if o.complete then done { s with gate := { s.gate with ops := s.gate.ops.filter (fun g => g.id != id) } } else s
    | none => s

def execMoveComplete (c : LCell) (i : BitVec 2) (lh : LineHit) (e : NetErr) (s : State) : Host.Outcome State Fault Refusal :=
  .next (
    let l := c.toNat
    let p := physOf s l
    let fs := (cellAt s p).units.flights
    match fs[i.toNat]?, ownerOf s (blockOf l) with
    | some f, some ctx => if heldBack fs i.toNat then s else netError e (finishFlight ctx l p i.toNat f lh s)
    | _, _ => s)

/-- The last byte of a push is written (R188, R190). -/
def execRingSlotFill (c : LCell) (i : BitVec 2) (s : State) : Host.Outcome State Fault Refusal :=
  .next (
    let l := c.toNat
    let p := physOf s l
    match (cellAt s p).units.flights[i.toNat]? with
    | some f =>
      match f.kind with
      | .push peer r slot false =>
        let q := physOf s peer
        let g := ringAt (cellAt s q) r
        let s := updFlight p i.toNat (fun f => { f with kind := .push peer r slot true }) s
        if g.filled.length ≥ g.slots then raiseBlockFault { code := 0x0201 } (blockOf peer) s
        else
          let n := g.filled.length + 1
          updRing q r (fun g => { g with filled := g.filled ++ [(l, wf f.op.word 54 52)], hwmBeat := max g.hwmBeat n
                                         hwmStep := max g.hwmStep n, hwmMax := max g.hwmMax n }) (applyWrites f.writes s)
      | _ => s
    | none => s)

/-- A credit reaches the producer's handle, or RCONN's credits do (R187, R189, R614). -/
def execCreditReturn (c : LCell) (i : BitVec 2) (s : State) : Host.Outcome State Fault Refusal :=
  .next (
    let l := c.toNat
    let p := physOf s l
    match (cellAt s p).units.flights[i.toNat]? with
    | some f =>
      match f.kind with
      | .rfree _ (some dst) =>
        updHandle (physOf s dst.1) dst.2 (fun h => { h with credits := h.credits + 1 }) (dropFlight p i.toNat s)
      | .rconn h peer r =>
        let g := ringAt (cellAt s (physOf s peer)) r
        let s := dropFlight p i.toNat s
        if !g.defined || (handleAt (cellAt s p) h).bound then raiseCellFault (opFault 0x010B f.op) l s
        else updHandle p h (fun _ => ⟨true, peer, r, g.slots⟩) s
      | _ => s
    | none => s)

/-! ### Atomics and gathers where they arrive (R281, R352) -/

/-- An earlier ATOM of the cell has units for the same Square still to apply (R281). -/
def atomWaits (s : State) (c : Nat) (fs : List Flight) (die : Nat) : Bool :=
  fs.any (fun f => match f.kind with
    | .atom _ _ old _ => (List.range' old.length (atomUnits f.op - old.length)).any (fun k => atomDie s c f.op k == die)
    | _ => false)

/-- The next element or row of an ATOM is applied. -/
def execAtomicApply (c : LCell) (i : BitVec 2) (e : Ecc) (s : State) : Host.Outcome State Fault Refusal :=
  .next (
    let l := c.toNat
    let p := physOf s l
    let fs := (cellAt s p).units.flights
    match fs[i.toNat]?, ownerOf s (blockOf l) with
    | some f, some ctx =>
      match f.kind with
      | .atom src cmp old flags =>
        let die := atomDie s ctx f.op old.length
        if old.length ≥ atomUnits f.op || atomWaits s ctx (fs.take i.toNat) die then s
        else if e = .uncorrectable then raiseSqEcc [ctx] die (dropFlight p i.toNat s)
        else
          let s := if e = .corrected then sramCorrected die s else s
          let r := atomApplyUnit ctx f.op src cmp old.length s
          let olds := if atomOpc f.op.word = 5 then [0] else r.1
          updFlight p i.toNat (fun f => { f with kind := .atom src cmp (old ++ olds) (flags ||| r.2.1) })
            (updDie r.2.2 die (fun d => { d with atomics := satAdd 64 d.atomics 1 }))
      | _ => s
    | _, _ => s)

/-- A GATHER in flight is applied at the residency table: every shard not yet begun is treated in turn. -/
def execGatherApply (c : LCell) (i : BitVec 2) (lh : LineHit) (s : State) : Host.Outcome State Fault Refusal :=
  .next (
    let p := physOf s c.toNat
    match (cellAt s p).units.flights[i.toNat]? with
    | some f =>
      match f.kind with
      | .gate id =>
        match gateOp s id with
        | some o => if o.fn = 3 then (o.items.map (fun t => t.index)).foldl (fun s n => gatherShard id n lh s) s else s
        | none => s
      | _ => s
    | none => s)

end Sys2Proof.Machine
end

