-- ==== Sys2Proof/Machine/Sync.lean ====
section
/-! DEFINITION. The sync units, bell operations in flight, waits and their timeouts, and bell lines (R298 to R314). -/

namespace Sys2Proof.Machine

/-! ### Lines (R310 to R314) -/

def lineAt (s : State) (l : Nat) : Line := sGet {} s.sync.lines l

def updLine (l : Nat) (f : Line → Line) (s : State) : State :=
  { s with sync := { s.sync with lines := sUpd {} s.sync.lines l f } }

/-- A context's run of lines. -/
def lineRun (x : Ctx) : Nat × Nat := (bitsOf x.desc.lines 4 0, bitsOf x.desc.lines 10 5)

def ownsLine (s : State) (c l : Nat) : Bool :=
  let r := lineRun (ctxAt s c)
  decide (r.1 ≤ l) && decide (l < r.1 + r.2)

/-- The resident context that owns a line. -/
def lineOwner (s : State) (l : Nat) : Option Nat := (residents s).find? (fun c => ownsLine s c l)

/-- The bit of a logical cell in the masks of its context's lines. -/
def lineBit (s : State) (c l : Nat) : Nat := 16 * partIndex s c (blockOf l) + l % 16

/-- The participants in the mask of a line, as logical cells. -/
def lineCells (s : State) (c : Nat) (n : Line) : List Nat :=
  n.mask.filterMap (fun e => ((partBlocks s c)[e.1 / 16]?).map (fun g => 16 * g + e.1 % 16))

/-- The own arrival mask is full. -/
def Line.filled (n : Line) : Bool := n.mask.all (fun e => sGet false n.arrived e.1)

/-- Every other member has arrived. -/
def Line.peersIn (n : Line) : Bool := (List.range n.members).all (fun m => m == n.self || sGet false n.peers m)

/-- complete(l) of R311, once the mask is full and every peer has arrived. -/
def completeLine (l : Nat) (s : State) : State :=
  let n := lineAt s l
  if n.filled && n.peersIn then
    regCount aBellLineReleases 1 (updLine l (fun n => { n with phase := n.phase + 1#16, arrived := [], latchDue := true
                                                               peers := n.peersNext, peersNext := [] }) s)
  else s

/-- An ARRIVED message (R313). -/
def arrivedBytes (n : Line) (gnum : Nat) : List Byte :=
  natLe 1 1 ++ natLe 1 1 ++ natLe 2 n.self ++ natLe 4 n.key.toNat ++ natLe 2 n.epoch.toNat ++ natLe 2 n.phase.toNat ++
    natLe 4 0 ++ natLe 8 gnum

/-- ARRIVED goes to every other member when the own mask fills. -/
def tellPeers (c l : Nat) (s : State) : State :=
  let n := lineAt s l
  if n.filled then
    ((List.range n.members).filter (fun m => m != n.self)).foldl (fun s m =>
      sendCtl (n.nodes.getD m 0) c 3 (arrivedBytes n s.beat.gnum) s) s
  else s

/-- arrive(l, c) of R311. -/
def arrive (c l : Nat) (cell : Nat) (fault : Nat → State → State) (s : State) : State :=
  let n := lineAt s l
  let b := lineBit s c cell
  if !ownsLine s c l || !sGet false n.mask b then fault 0x0123 s
  else if sGet false n.arrived b || sGet false n.latch b || n.latchDue then fault 0x0124 s
  else completeLine l (tellPeers c l (updLine l (fun n => { n with arrived := sSet false n.arrived b true }) s))

/-- A cell that gates its clocks lends power to its region; the levels of the region's contexts are kept (R569). -/
def lendPower (l : Nat) (s : State) : State :=
  if s.pwr.policy.lend then
    let r := regionOf l
    let levels := ((s.pwr.pace.filter (fun e => e.1 % 4 == r)).map (fun e => (e.1 / 4, e.2)))
    { s with pwr := { s.pwr with loans := s.pwr.loans ++ [(l, levels)] } }
  else s

/-- A loan is withdrawn: every receiving context's level is restored to at least what it was (R569). -/
def reclaimPower (l : Nat) (s : State) : State :=
  match s.pwr.loans.find? (fun e => e.1 == l) with
  | none => s
  | some e =>
    let pace := e.2.foldl (fun m v => sUpd 0 m (4 * v.1 + regionOf l) (fun p => max p v.2)) s.pwr.pace
    { s with pwr := { s.pwr with pace := pace, loans := s.pwr.loans.filter (fun x => x.1 != l) } }

/-- The cell resumes issue, and is gated no longer. -/
def resumeCell (l : Nat) (s : State) : State :=
  let s := reclaimPower l s
  let w := (cellAt s (physOf s l)).seq.wait
  let s := updCell s (physOf s l) (fun x => { x with seq := { x.seq with wait := none } })
  match w, ownerOf s (blockOf l) with
  | some w, some c => if w.gated then addGated c (s.cycle - w.since) s else s
  | _, _ => s

/-- lwait(l, c) of R311: the cell goes on, waits, or faults. -/
def lwait (c l : Nat) (cell : Nat) (fault : Nat → State → State) (s : State) : State :=
  let n := lineAt s l
  let b := lineBit s c cell
  if !ownsLine s c l || !sGet false n.mask b then fault 0x0123 s
  else if sGet false n.latch b then resumeCell cell (updLine l (fun n => { n with latch := sSet false n.latch b false }) s)
  else if sGet false n.arrived b || n.latchDue then s
  else fault 0x0124 s

/-! ### The sync unit (R303) -/

def popSync (p : Nat) (s : State) : State :=
  updCell s p (fun x => { x with units := { x.units with sync := x.units.sync.drop 1 } })

/-- The bell that a sync operation names (R193). -/
def syncBell (o : UnitOp) : Nat :=
  if wf o.word 111 111 = 1 then (xGet o.x (wf o.word 115 112)).toNat % 65536 else wf o.word 110 95

def startSync (c l : Nat) (o : UnitOp) (s : State) : State :=
  let fault := fun code s => raiseCellFault (opFault code o) l s
  let v := BitVec.ofNat 32 (wf o.word 89 58)
  let send := fun k =>
    if !ownsBell s c (syncBell o) then fault 0x0122 s
    else if routeDown s (regionOf l) (syncBell o / 16384) then raiseRouteDown c s
    else sendBellOp ⟨syncBell o, k, some l, c, o.pc, o.word⟩ s
  match (classOp o.word).2 with
  | 1 => send (.post v)
  | 2 => send (.wait v)
  | 3 => send .take
  | 4 => arrive c (wf o.word 94 90) l fault s
  | _ => lwait c (wf o.word 94 90) l fault s

def execSyncStart (c : LCell) (s : State) : Host.Outcome State Fault Refusal :=
  .next (
    let l := c.toNat
    let p := physOf s l
    match (cellAt s p).units.sync, ownerOf s (blockOf l) with
    | o :: _, some ctx => startSync ctx l o (popSync p s)
    | _, _ => s)

/-! ### Bell operations at the store (R299 to R302) -/

/-- A waiter joins the list. -/
def registerWaiter (b : Nat) (w : Waiter) (s : State) : State := updBell s b (fun x => { x with waiters := x.waiters ++ [w] })

/-- FLT_BELL_RANGE in the cell that issued the operation (R301). -/
def raiseBellRange (o : BellOp) (s : State) : State :=
  match o.cell with
  | some l => raiseCellFault (insnFault 0x0120 o.pc o.word) l s
  | none => s

/-- The store applies an operation whole. -/
def applyBellOp (o : BellOp) (e : Ecc) (s : State) : State :=
  let r := bellMeets o.bell e s
  let s := r.2
  let b := o.bell
  if r.1 then s
  else match o.kind, o.cell with
    | .post n, _ => if n.toNat ≥ 2 ^ 31 then raiseBellRange o s else regCount aBellPosts 1 (bellPost b n s)
    | .wait t, some l =>
      let x := (bellAt s b).count
      if reached x t then release l s
      else if (t - x).toNat = 2 ^ 31 then raiseBellRange o s
      else registerWaiter b ⟨l, false, t⟩ s
    | .take, some l =>
      if reached (bellAt s b).count 1#32 then release l (updBell s b (fun x => { x with count := x.count - 1#32 }))
      else registerWaiter b ⟨l, true, 0#32⟩ s
    | _, none => s

/-- An operation arrives at its store: no earlier one of its cell to the same bell is still on its way (R304). -/
def execBellOpApply (i : BitVec 16) (e : Ecc) (s : State) : Host.Outcome State Fault Refusal :=
  .next (match s.sync.ops[i.toNat]? with
    | none => s
    | some o =>
      if (s.sync.ops.take i.toNat).any (fun q => q.cell == o.cell && q.bell == o.bell) then s
      else applyBellOp o e { s with sync := { s.sync with ops := s.sync.ops.eraseIdx i.toNat } })

/-- A release reaches its cell, which resumes; a gated cell takes its power share back (R303, R309). -/
def execBellRelease (i : BitVec 16) (s : State) : Host.Outcome State Fault Refusal :=
  .next (match s.sync.releases[i.toNat]? with
    | none => s
    | some l => resumeCell l { s with sync := { s.sync with releases := s.sync.releases.eraseIdx i.toNat } })

/-! ### Timeouts (R305 to R307) -/

/-- The count of a bell that a wait names; 0 for a line. -/
def waitCount (s : State) (w : PendingWait) : Nat := if w.isLine then 0 else (bellAt s w.id).count.toNat

/-- A wait expires and its cancel leaves the cell; the clock stands no earlier than the expiry. -/
def execWaitTimeout (c : LCell) (s : State) : Host.Outcome State Fault Refusal :=
  .next (
    let l := c.toNat
    match (cellAt s (physOf s l)).seq.wait with
    | none => s
    | some w =>
      if s.sync.cancels.any (fun e => e.1 == l) then s
      else { s with cycle := max s.cycle w.expires
                    sync := { s.sync with cancels := s.sync.cancels ++ [(l, waitCount s w)] } })

/-- The record of FLT_BELL_TIMEOUT (R306, R493). -/
def bellTimeout (w : PendingWait) (count : Nat) : FaultRec :=
  let f := insnFault 0x0121 w.pc w.word
  { f with unit := w.id, arg := w.target.toNat + count * 2 ^ 32, d2 := w.expires - w.issued
           flags := if w.isLine then f.flags ||| recLine else f.flags }

/-- A cancel is applied: it fails the wait that is still registered, and is ignored otherwise. -/
def applyCancel (l count : Nat) (s : State) : State :=
  match (cellAt s (physOf s l)).seq.wait, ownerOf s (blockOf l) with
  | some w, some c =>
    if w.isLine then
      let n := lineAt s w.id
      if n.latchDue || sGet false n.latch (lineBit s c l) then s
      else raiseCellFault (bellTimeout w count) l (regCount aBellTimeouts 1 s)
    else if (bellAt s w.id).waiters.any (fun v => v.cell == l) then
      let s := updBell s w.id (fun b => { b with waiters := b.waiters.filter (fun v => v.cell != l) })
      raiseCellFault (bellTimeout w count) l (regCount aBellTimeouts 1 s)
    else s
  | _, _ => s

def execCancelApply (i : BitVec 16) (s : State) : Host.Outcome State Fault Refusal :=
  .next (match s.sync.cancels[i.toNat]? with
    | none => s
    | some e =>
      if !syncQuiet s e.1 then s
      else applyCancel e.1 e.2 { s with sync := { s.sync with cancels := s.sync.cancels.eraseIdx i.toNat } })

/-! ### Lines: latches and messages (R312, R313) -/

/-- The latches of a completed line are set, and waiting participants take theirs and resume. -/
def execLineLatch (l : BitVec 5) (s : State) : Host.Outcome State Fault Refusal :=
  .next (
    let n := lineAt s l.toNat
    match lineOwner s l.toNat with
    | some c =>
      if !n.latchDue then s
      else
        let waits : Nat → Bool := fun k =>
          let x := cellAt s (physOf s k)
          match x.seq.wait with
          | some w => w.isLine && w.id == l.toNat && x.units.sync.isEmpty
          | none => false
        let cells := lineCells s c n
        let s := updLine l.toNat (fun n => { n with
          latchDue := false
          latch := (cells.filter (fun k => !waits k)).foldl (fun m k => sSet false m (lineBit s c k) true) [] }) s
        (cells.filter waits).foldl (fun s k => resumeCell k s) s
    | none => s)

/-- A line message is placed, or discarded (R313, R314). -/
def placeArrived (bs : List Byte) (s : State) : State :=
  let key := fieldAt bs 4 4
  match (List.range 32).find? (fun l =>
      let n := lineAt s l
      decide (n.members ≥ 2 ∧ n.key.toNat = key) && (match lineOwner s l with
        | some c => decide ((ctxAt s c).st = .unparked)
        | none => false)) with
  | none => s
  | some l =>
    let n := lineAt s l
    let m := fieldAt bs 2 2
    let phase := BitVec.ofNat 16 (fieldAt bs 0xA 2)
    if n.refused || fieldAt bs 8 2 != n.epoch.toNat then s
    else if phase = n.phase then completeLine l (updLine l (fun n => { n with peers := sSet false n.peers m true }) s)
    else if phase = n.phase + 1#16 then updLine l (fun n => { n with peersNext := sSet false n.peersNext m true }) s
    else s

/-! ### Waiting without power (R308) -/

def execCellLend (c : LCell) (s : State) : Host.Outcome State Fault Refusal :=
  .next (
    let l := c.toNat
    let p := physOf s l
    let x := cellAt s p
    let thresh := effField s aBellCtl 47 40
    let posts : Bool := s.sync.ops.any (fun o => o.cell == some l && (match o.kind with | .post _ => true | _ => false))
    match x.seq.wait with
    | some w =>
      if w.gated || thresh == 0 || !x.units.sync.isEmpty || posts || !matrixQuiet x.units || !x.units.vector.isEmpty ||
          !moveQuiet x.units then s
      else
        let s := { s with cycle := max s.cycle (w.since + 300 * thresh) }
        let s := updCell s p (fun x => { x with seq := { x.seq with wait := some { w with gated := true, since := s.cycle } } })
        regCount aBellLends 1 (lendPower l s)
    | none => s)

end Sys2Proof.Machine
end

