-- ==== Sys2Proof/Machine/Link.lean ====
section
/-! DEFINITION. The links: flits and their CRC, routes, credits, link-level retry, messages received and forwarded, lanes
and spares, FEC modes, training, and ports that go down (R363, R393 to R426, R441, R442). -/

namespace Sys2Proof.Machine

/-! ### Ports and routes (R363, R416, R417) -/

def portAt (s : State) (p : Nat) : Port := sGet {} s.link.ports p

def updPort (p : Nat) (f : Port → Port) (s : State) : State :=
  { s with link := { s.link with ports := sUpd {} s.link.ports p f } }

def engineAt (s : State) (k : Nat) : Engine := sGet {} s.link.engines k

def updEngine (k : Nat) (f : Engine → Engine) (s : State) : State :=
  { s with link := { s.link with engines := sUpd {} s.link.engines k f } }

/-- Field [hi:lo] of LNK_CTL in effect for a port's engine. -/
def lnkCtl (s : State) (p hi lo : Nat) : Nat := effField s (regInst aLnkCtl (p / 4)) hi lo

/-- The port entry of the active table: FLAGS, PEER_PORT, PEER_NODE, ASYM_ADJ (R416). -/
def portEntry (s : State) (p : Nat) : Nat := sGet 0 s.link.tables.ports p

def portEnabled (s : State) (p : Nat) : Bool := portEntry s p % 2 == 1

def portIsPartner (s : State) (p : Nat) : Bool := portEntry s p / 2 % 2 == 1

def expectedPort (s : State) (p : Nat) : Nat := bitsOf (portEntry s p) 15 8

def expectedNode (s : State) (p : Nat) : Nat := bitsOf (portEntry s p) 31 16

def asymAdj (s : State) (p : Nat) : Int := signedOf 32 (bitsOf (portEntry s p) 63 32)

/-- The routes listed for a node: class and port (R417). -/
def routesTo (s : State) (node : Nat) : List (Nat × Nat) :=
  let w := sGet 0 s.link.tables.routes node
  (List.range 4).filterMap (fun i =>
    let b := w / 256 ^ i % 256
    if b / 128 = 1 then some (b / 32 % 4, b % 32) else none)

/-- Payload bytes queued for a port. -/
def queuedBytes (s : State) (p : Nat) : Nat := 240 * (portAt s p).waiting.length

/-- The better of two routes: class, then bytes queued, then number (R363). -/
def betterRoute (s : State) (a b : Nat × Nat) : Nat × Nat :=
  let k := fun (r : Nat × Nat) => (r.1 * 2 ^ 40 + queuedBytes s r.2) * 32 + r.2
  if k b < k a then b else a

/-- The port on which a message for a node goes out: of those listed that are up. -/
def portFor (s : State) (node : Nat) : Option Nat :=
  match (routesTo s node).filter (fun r => (portAt s r.2).state == 2) with
  | [] => none
  | r :: t => some (t.foldl (betterRoute s) r).2

/-! ### Sending (R403, R406, R411, R412) -/

/-- Flits of the receive pool of a class. -/
def poolSize (cls : Nat) : Nat :=
  match cls with
  | 0 => 32
  | 1 => 1024
  | _ => 512

/-- A flit of the class may be sent for the first time: a credit is left and the retry buffer has room. -/
def Port.room (t : Port) (cls : Nat) : Bool :=
  decide (sGet 0 t.sent cls < sGet 0 t.freed cls + poolSize cls) && decide (t.unacked.length < 1024)

/-- A flit is sent for the first time. -/
def Port.send (t : Port) (f : TxFlit) (now : Nat) : Port :=
  { t with
    unacked := t.unacked ++ [{ f with seq := t.nxt }]
    nxt := (t.nxt + 1) % 65536
    sent := sUpd 0 t.sent f.cls (fun n => n + 1)
    txBytes := satAdd 64 t.txBytes 240
    ackAt := if t.unacked.isEmpty then now else t.ackAt }

/-- The flits of one class go out while they may, in order. -/
def Port.pumpClass (now cls : Nat) (t : Port) : Port :=
  let r := t.waiting.foldl (fun (a : Port × List TxFlit) f =>
    if f.cls = cls ∧ a.1.room cls = true then (a.1.send f now, a.2) else (a.1, a.2 ++ [f])) (t, [])
  { r.1 with waiting := r.2 }

/-- Coded flits flow on the port. -/
def Port.coded (t : Port) : Bool := t.state == 2 || (t.state == 1 && decide (t.phase ≥ 5))

/-- The flits that wait at a port go out, the classes in their order; those of a context's messages count for it (R344). -/
def pump (p : Nat) (s : State) : State :=
  let t := portAt s p
  if t.coded then
    let u := [0, 1, 2, 3].foldl (fun t c => t.pumpClass s.cycle c) t
    (u.unacked.drop t.unacked.length).foldl (fun s f =>
      if f.own && f.ctx != 0 then updCtx s f.ctx (fun x => { x with traffic := sUpd 0 x.traffic (8 + p / 4) (fun n => n + 1) })
      else s) (updPort p (fun _ => u) s)
  else s

/-- A message cut into flits: SUB carries FIRST, LAST and RES for the classes but CTL. RES is clear: no message names a link
stream (log entry 20). -/
def flitsFor (m : OutMsg) (hops id node : Nat) : List TxFlit :=
  let n := if m.cls = 0 then 1 else flitsOf m.bytes.length
  (List.range n).map (fun i =>
    { seq := 0, dest := m.dst, cls := m.cls
      sub := if m.cls = 0 then m.sub else (if i = 0 then 8 else 0) + (if i + 1 = n then 4 else 0)
      hops := hops, body := padTo 240 (m.bytes.drop (240 * i)), msg := id, own := true, src := node, ctx := m.ctx
      mop := fieldAt m.bytes 4 2, mkey := fieldAt m.bytes 8 4, mtag := fieldAt m.bytes 0xC 4 })

/-- A message is queued at a port. -/
def queueAt (p : Nat) (m : OutMsg) (s : State) : State :=
  let fs := flitsFor m (lnkCtl s p 23 21) s.link.nextMsg (ownNode s)
  pump p (updPort p (fun t => { t with waiting := t.waiting ++ fs })
    { s with link := { s.link with nextMsg := s.link.nextMsg + 1 } })

/-! ### Lost messages (R420, R441, R442) -/

/-- A message of COLL belongs to a gate operation. -/
def ownsMessage (o : GateOp) (ctx mop key tag : Nat) : Bool :=
  decide (o.ctx = ctx) && decide (o.key = key) && decide (o.tag = tag) &&
    (if mop = 1 then decide (o.fn = 3) else decide (mop ≥ 3 ∧ o.fn ≠ 3))

/-- A message of the device's own is lost: its gate operation, or the coded-state exchange of its context, raises
FLT_PEER_LOST. -/
def loseOwn (port cause : Nat) (f : TxFlit) (s : State) : State :=
  if f.cls = 1 then
    (s.gate.ops.filter (fun o => ownsMessage o f.ctx f.mop f.mkey f.mtag)).foldl (fun s o =>
      raisePeerLost (regionOf o.cell) o.ctx port f.dest cause f.mop f.mkey f.mtag s) s
  else if f.cls = 3 then parPeerLost f.ctx port f.dest cause f.mop f.mkey f.mtag s
  else s

/-- The body of a link-control message (R424). -/
def linkMsg (s : State) (type port : Nat) (body : List Byte) : List Byte :=
  natLe 1 type ++ natLe 1 1 ++ natLe 2 (ownNode s) ++ natLe 1 port ++ natLe 3 0 ++ natLe 8 s.beat.gnum ++ body

/-- UNREACH goes to the origin of a message, where the message names one (R420). -/
def sendUnreach (src : Option Nat) (dest : Nat) (s : State) : State :=
  match src with
  | some n => if n = ownNode s then s else sendCtl n 0 1 (linkMsg s 6 0 (natLe 2 dest)) s
  | none => s

/-- The origin that the first flit of a message names: CTL messages of lines and of the update name none. -/
def originOf (cls sub : Nat) (body : List Byte) : Option Nat :=
  if cls ≠ 0 then some (fieldAt body 0 2)
  else match sub with
    | 1 => some (fieldAt body 2 2)
    | 2 => some (fieldAt body 4 2)
    | 5 => some (fieldAt body 0x12 2)
    | _ => none

/-- A flit's message is lost with its port: once for each message. -/
def loseMessages (port cause : Nat) : List TxFlit → List Nat → State → State
  | [], _, s => s
  | f :: t, seen, s =>
    if seen.contains f.msg then loseMessages port cause t seen s
    else loseMessages port cause t (f.msg :: seen)
      (if f.own then loseOwn port cause f s else sendUnreach (some f.src) f.dest s)

/-- The messages handed to the links go to their ports; one that finds no port is lost at once. A message for this device
itself arrives without a link. -/
def flushOut (s : State) : State :=
  s.out.foldl (fun s m =>
    if m.dst = ownNode s then
      { s with link := { s.link with inbox := s.link.inbox ++ [⟨32, m.cls, m.sub, m.bytes, s.cycle⟩] } }
    else match portFor s m.dst with
      | some p => queueAt p m s
      | none => match flitsFor m 0 0 (ownNode s) with
        | f :: _ => loseOwn 0xFFFF 0 f s
        | [] => s) { s with out := [] }

/-- A link-control message of one hop goes out on a port (R424). -/
def sendOn (p type : Nat) (body : List Byte) (s : State) : State :=
  queueAt p ⟨(portAt s p).peerNode, 0, 1, 0, linkMsg s type p body⟩ s

/-! ### Ports that go down (R402, R410, R427) -/

/-- A port with nothing sent, received or measured, in a phase of training. -/
def Port.fresh (t : Port) (phase now : Nat) : Port :=
  { state := 1, laser := true, phase := phase, phaseAt := now, fixed := t.fixed, txBytes := t.txBytes, replays := t.replays
    downs := t.downs, drops := t.drops }

/-- The gate operations that await a reply due over a port from its far node. -/
def awaitingPeer (s : State) (p : Nat) : List GateOp :=
  let n := (portAt s p).peerNode
  s.gate.ops.filter (fun o => o.deadline.isSome && o.items.any (fun i => i.phase == 1 &&
    (if o.fn = 3 then decide (o.nodes.getD (i.index % o.nodes.length) 0 = n)
      else (itemMembers o i.index).any (fun m => m != o.self && decide (o.nodes.getD m 0 = n) &&
        !memberWhole i m (itemBytes o)))))

/-- A port is declared down. -/
def portDown (p cause : Nat) (s : State) : State :=
  let t := portAt s p
  let awaiting := awaitingPeer s p
  let again : Bool := lnkCtl s p 2 2 == 1 && !engineOut s (p / 4)
  let s := updPort p (fun t =>
    if again then { t.fresh 1 s.cycle with downs := satAdd 64 t.downs 1 }
    else { t.fresh 0 s.cycle with state := 3, laser := false, downs := satAdd 64 t.downs 1 }) s
  let s := tallyAdd s 0x19 0x11 p 1
  let s := raiseFault { code := 0x030C, unit := p, arg := t.peerNode, d0 := cause } [] s
  let s := if again then logRepair s 5 (tallyId 0x19 0x11 p) 0x030C else s
  let s := loseMessages p cause (t.unacked ++ t.waiting) [] s
  let s := awaiting.foldl (fun s o =>
    if (gateOp s o.id).isSome then
      raisePeerLost (regionOf o.cell) o.ctx p t.peerNode cause (if o.fn = 3 then 1 else 3) o.key o.tag s
    else s) s
  flushOut ((parAwaiting s t.peerNode).foldl (fun s c =>
    parPeerLost c p t.peerNode cause (if rebuilds s c then 3 else 1) (ctxAt s c).code.key 0 s) s)
where
  /-- The exchange is a rebuild. -/
  rebuilds (s : State) (c : Nat) : Bool := match (ctxAt s c).code.op with | some o => o.rebuild | none => false

/-! ### Retry (R407 to R409) -/

/-- RTT plus 1 µs, in cycles. -/
def ackWait (t : Port) : Nat := (t.rtt + 65536 * 1000) * 3 / 65536

/-- A demand for a replay: an episode opens, or goes one attempt further; too many take the port down. -/
def demandReplay (p : Nat) (s : State) : State :=
  let t := portAt s p
  let count : State → State := fun s =>
    tallyAdd (updPort p (fun t => { t with replays := satAdd 64 t.replays 1, ackAt := s.cycle }) s) 0x03 0x11 p 1
  match t.episode with
  | none =>
    if t.episodes + 1 > lnkCtl s p 19 16 then portDown p 1 s
    else count (updPort p (fun t => { t with episode := some ⟨t.una, s.cycle, 1⟩, episodes := t.episodes + 1 }) s)
  | some e =>
    if e.att + 1 > 3 then portDown p 1 s
    else count (updPort p (fun t => { t with episode := some { e with att := e.att + 1 } }) s)

/-- How far b lies serially ahead of a, mod 2^16. -/
def seqAhead (a b : Nat) : Nat := (b + 65536 - a) % 65536

/-- ACK moves the oldest unacknowledged number; passing s0 closes the episode (R407, R409). -/
def Port.acked (t : Port) (ack now : Nat) : Port :=
  let base := (t.una + 65535) % 65536
  let n := (ack + 2048 - base % 2048) % 2048
  if n = 0 ∨ n > t.unacked.length then t
  else
    let una := (base + n + 1) % 65536
    { t with
      una := una, unacked := t.unacked.drop n, ackAt := now
      episode := match t.episode with
        | some e => if seqAhead e.s0 una ≠ 0 ∧ seqAhead e.s0 una < 32768 then none else some e
        | none => none }

/-- CREDIT of a class, expanded upward from the last expanded value (R411). -/
def Port.credited (t : Port) (cls credit : Nat) : Port :=
  let last := sGet 0 t.freed cls
  let n := (credit + 256 - last / 8 % 256) % 256
  if 8 * n ≤ poolSize cls then { t with freed := sSet 0 t.freed cls (last / 8 * 8 + 8 * n) } else t

/-- The header of a flit (R403). -/
structure FlitHead where
  dest : Nat
  seq : Nat
  ack : Nat
  cls : Nat
  kind : Nat
  sub : Nat
  hops : Nat
  crCls : Nat
  credit : Nat

def flitHead (v : Nat) : FlitHead :=
  ⟨bitsOf v 63 48, bitsOf v 47 32, bitsOf v 31 21, bitsOf v 20 19, bitsOf v 18 17, bitsOf v 16 13, bitsOf v 12 10,
    bitsOf v 9 8, bitsOf v 7 0⟩

/-- The bytes of a flit and whether it is good: decoded, and with its CRC (R404). -/
def flitBytes (raw : BitVec 2048) : List Byte := natLe 256 raw.toNat

def flitGood (bs : List Byte) (rs : Bool) : Bool := rs && decide (crc64 (bs.take 248) = fieldAt bs 248 8)

/-- ACK and credits that a good flit of any kind delivers. -/
def takeReturn (p : Nat) (h : FlitHead) (s : State) : State :=
  pump p (updPort p (fun t => (t.acked h.ack s.cycle).credited h.crCls h.credit) s)

/-! ### Receiving (R405, R408, R411, R419) -/

def drop (p : Nat) (s : State) : State := updPort p (fun t => { t with drops := satAdd 64 t.drops 1 }) s

/-- Flits of a class that a port's receive pool holds: of messages not yet whole and not yet taken. -/
def poolHeld (s : State) (p cls : Nat) : Nat :=
  let t := portAt s p
  ((t.partial_.filter (fun e => e.1 / 2 == cls)).map (fun e => e.2.length / 240)).foldl (fun a b => a + b) 0 +
    ((s.link.inbox.filter (fun m => m.port == p && m.cls == cls)).map (fun m => flitsOf m.bytes.length)).foldl
      (fun a b => a + b) 0

/-- A flit of a message that is for another node (R419, R420). -/
def forwardFlit (p : Nat) (h : FlitHead) (body : List Byte) (s : State) : State :=
  let first : Bool := h.cls == 0 || h.sub / 8 == 1
  let last : Bool := h.cls == 0 || h.sub / 4 % 2 == 1
  let key := 2 * h.cls + (if h.cls = 0 then 0 else h.sub / 2 % 2)
  let chosen : Nat :=
    if first then (if h.hops = 0 then 1 else match portFor s h.dest with | some q => q + 2 | none => 0)
    else sGet 0 (portAt s p).through key
  let s := updPort p (fun t => { t with through := sSet 0 t.through key (if last then 0 else if chosen = 0 then 1 else chosen)
                                        mine := sUpd 0 t.mine h.cls (fun n => n + 1) }) s
  if chosen ≥ 2 then
    let q := chosen - 2
    let id := if first then s.link.nextMsg else (((portAt s q).waiting ++ (portAt s q).unacked).filter (fun f => !f.own &&
      f.dest == h.dest && f.cls == h.cls)).foldl (fun a f => max a f.msg) 0
    let f : TxFlit := { seq := 0, dest := h.dest, cls := h.cls, sub := h.sub, hops := h.hops - 1, body := body, msg := id
                        own := false, src := (originOf h.cls h.sub body).getD (ownNode s), ctx := 0, mop := 0, mkey := 0, mtag := 0 }
    let s := { s with link := { s.link with nextMsg := if first then s.link.nextMsg + 1 else s.link.nextMsg } }
    if (portAt s q).state = 2 then pump q (updPort q (fun t => { t with waiting := t.waiting ++ [f] }) s) else s
  else if chosen = 0 ∧ first = true then sendUnreach (originOf h.cls h.sub body) h.dest s
  else if h.hops = 0 then drop p s
  else s

/-- A flit of a message for this device: a CTL message, or part of a longer one. -/
def deliverFlit (p : Nat) (h : FlitHead) (body : List Byte) (s : State) : State :=
  let put := fun (bs : List Byte) (sub at_ : Nat) (s : State) =>
    { s with link := { s.link with inbox := s.link.inbox ++ [⟨p, h.cls, sub, bs, at_⟩] } }
  if h.cls = 0 then
    if h.sub = 0 ∨ h.sub > 5 then updPort p (fun t => { t with mine := sUpd 0 t.mine 0 (fun n => n + 1) }) (drop p s)
    else put body h.sub s.cycle s
  else
    let key := 2 * h.cls + h.sub / 2 % 2
    let t := portAt s p
    let old := if h.sub / 8 = 1 then [] else sGet [] t.partial_ key
    let since := if h.sub / 8 = 1 then s.cycle else sGet 0 t.partialAt key
    if h.sub / 4 % 2 = 1 then
      put (old ++ body) 0 since (updPort p (fun t => { t with partial_ := sErase t.partial_ key, partialAt := sErase t.partialAt key }) s)
    else updPort p (fun t => { t with partial_ := sSet [] t.partial_ key (old ++ body)
                                      partialAt := sSet 0 t.partialAt key since }) s

/-- An accepted DATA flit; one that finds its pool full is a credit overflow (R427). -/
def acceptFlit (p : Nat) (h : FlitHead) (body : List Byte) (s : State) : State :=
  let s := updPort p (fun t => { t with expect := (t.expect + 1) % 65536, nakOut := false }) s
  if poolHeld s p h.cls ≥ poolSize h.cls then portDown p 3 s
  else if h.dest = ownNode s then deliverFlit p h body s
  else forwardFlit p h body s

def execDataFlit (port : BitVec 5) (raw : BitVec 2048) (rs : Bool) (s : State) : Host.Outcome State Fault Refusal :=
  .next (
    let p := port.toNat
    let bs := flitBytes raw
    let h := flitHead (fieldAt bs 0 8)
    let t := portAt s p
    if !t.coded then s
    else if !flitGood bs rs then updPort p (fun t => { t with nakOut := true }) s
    else if h.kind ≠ 0 then s
    else
      let s := takeReturn p h s
      let d := seqAhead t.expect h.seq
      if d = 0 then flushOut (acceptFlit p h ((bs.drop 8).take 240) s)
      else if d < 32768 then updPort p (fun t => { t with nakOut := true }) s
      else s)

/-- IDLE and NAK flits: a bad one is discarded and counted, a good one returns ACK and credits. -/
def returnFlit (kind p : Nat) (raw : BitVec 2048) (rs : Bool) (after : State → State) (s : State) : State :=
  let bs := flitBytes raw
  let h := flitHead (fieldAt bs 0 8)
  if !(portAt s p).coded then s
  else if !flitGood bs rs then drop p s
  else if h.kind ≠ kind then s
  else after (takeReturn p h s)

def execIdleFlit (port : BitVec 5) (raw : BitVec 2048) (rs : Bool) (s : State) : Host.Outcome State Fault Refusal :=
  .next (returnFlit 1 port.toNat raw rs (fun s => s) s)

def execNakFlit (port : BitVec 5) (raw : BitVec 2048) (rs : Bool) (s : State) : Host.Outcome State Fault Refusal :=
  .next (returnFlit 2 port.toNat raw rs (demandReplay port.toNat) s)

/-- No ACK has advanced for RTT + 1 µs (R409). -/
def execAckTimeout (port : BitVec 5) (s : State) : Host.Outcome State Fault Refusal :=
  .next (
    let t := portAt s port.toNat
    if !t.coded || t.unacked.isEmpty then s
    else demandReplay port.toNat { s with cycle := max s.cycle (t.ackAt + ackWait t) })

/-- An episode has stayed open for LLR_WINDOW. -/
def execLlrWindowExpiry (port : BitVec 5) (s : State) : Host.Outcome State Fault Refusal :=
  .next (
    let p := port.toNat
    match (portAt s p).episode with
    | some e =>
      if !(portAt s p).coded then s
      else portDown p 1 { s with cycle := max s.cycle (e.t0 + 3000 * lnkCtl s p 12 8) }
    | none => s)

/-! ### Lanes, spares and FEC modes (R398 to R402) -/

/-- The logical lane that a receiving physical lane of an engine carries, if any. -/
def logicalLane (e : Engine) (lane : Nat) : Option Nat :=
  if lane = 16 then (if e.spareRx = 0 then none else some (e.spareRx - 1))
  else if e.spareRx = lane + 1 then none
  else some lane

/-- SPARE_REQ for a lane, on the reverse direction of its port. -/
def askSpare (k lane action : Nat) (s : State) : State :=
  let at_ := s.beat.gnum + 2
  sendOn (4 * k + lane / 4) 4 (natLe 1 lane ++ natLe 1 action ++ natLe 6 0 ++ natLe 8 at_)
    (updEngine k (fun e => { e with switchRx := some ⟨lane, action, at_, false⟩ }) s)

/-- A receiving lane fails: the spare takes it, or its port goes down; `all` says that every lane of the port has lost
codeword lock. -/
def laneFails (k lane : Nat) (all : Bool) (s : State) : State :=
  let e := engineAt s k
  match logicalLane e lane with
  | none => s
  | some j =>
    let p := 4 * k + j / 4
    if (portAt s p).state ≠ 2 then s
    else if all then portDown p 4 s
    else if !portIsPartner s p || (e.spareRx != 0 && !e.lentRx) || e.switchRx.any (fun w => w.action != 3) || lane == 16 ||
        lnkCtl s p 1 1 == 0 then portDown p 2 s
    else askSpare k j 1 s

def execBerWindowEnd (engine : BitVec 3) (ber : BitVec 544) (eye : BitVec 272) (ce ue : BitVec 544) (s : State) :
    Host.Outcome State Fault Refusal :=
  .next (
    let k := engine.toNat
    let laneB : Nat → Nat := fun i => ber.toNat / 2 ^ (32 * i) % 2 ^ 32
    let s := (List.range 17).foldl (fun s i =>
      let unit := 17 * k + i
      let eyeNow := eye.toNat / 2 ^ (16 * i) % 2 ^ 16
      let s := updEngine k (fun e => { e with ber := sSet 0 e.ber i (laneB i), eye := sSet 0 e.eye i eyeNow }) s
      let s := tallyAdd (tallyAdd s 0x01 0x10 unit (ce.toNat / 2 ^ (32 * i) % 2 ^ 32)) 0x02 0x10 unit
        (ue.toNat / 2 ^ (32 * i) % 2 ^ 32)
      let s := tallyExtreme (tallyGauge s 0x10 0x10 unit (laneB i)) 0x11 0x10 unit (fun a b => decide (a > b)) (laneB i)
      tallyExtreme (tallyGauge s 0x12 0x10 unit eyeNow) 0x13 0x10 unit (fun a b => decide (a < b)) eyeNow) s
    (List.range 4).foldl (fun s q =>
      let p := 4 * k + q
      let e := engineAt s k
      let lanes := (List.range 17).filter (fun i => match logicalLane e i with | some j => j / 4 == q | none => false)
      let t := portAt s p
      if t.state ≠ 2 then s
      else if t.reach then
        if lanes.all (fun i => decide (laneB i < 1000000 * lnkCtl s p 49 40)) then
          updPort p (fun t => { t with quiet := t.quiet + 64
                                       nextReach := if t.quiet + 64 ≥ 65536 ∧ t.fixed.isNone = true ∧ lnkCtl s p 0 0 = 1
                                         then some false else t.nextReach }) s
        else updPort p (fun t => { t with quiet := 0 }) s
      else if lnkCtl s p 0 0 = 1 ∧ t.fixed.isNone = true ∧ lanes.any (fun i => decide (laneB i > 1000000 * lnkCtl s p 39 30)) = true then
        updPort p (fun t => { t with nextReach := some true }) s
      else s) s)

/-! ### Taking messages -/

/-- The message at a place of the inbox, if it is a CTL message of a consumer and a type. -/
def ctlMsg (s : State) (i sub type : Nat) : Option InMsg :=
  (s.link.inbox[i]?).bind (fun m => if m.cls = 0 ∧ m.sub = sub ∧ fieldAt m.bytes 0 1 = type then some m else none)

/-- A message of the inbox has been taken. -/
def takeMsg (i : Nat) (s : State) : State := { s with link := { s.link with inbox := s.link.inbox.eraseIdx i } }

/-! ### Link-control messages (R401, R424) -/

/-- A message is taken from the inbox, its flits freed in the pool of its port (R411). -/
def freeMsg (i : Nat) (m : InMsg) (s : State) : State :=
  let s := takeMsg i s
  if m.port < 32 then updPort m.port (fun t => { t with mine := sUpd 0 t.mine m.cls (fun n => n + flitsOf m.bytes.length) }) s else s

/-- A row that takes a link-control message of a type which came on a port. -/
def linkCtlRow (i type : Nat) (go : InMsg → State → State) (s : State) : State :=
  match ctlMsg s i 1 type with
  | some m => flushOut (go m (freeMsg i m s))
  | none => s

def execSpareReq (i : BitVec 16) (s : State) : Host.Outcome State Fault Refusal :=
  .next (linkCtlRow i.toNat 4 (fun m s =>
    let k := m.port / 4
    let lane := 4 * (m.port % 4) + fieldAt m.bytes 0x10 1 % 4
    let action := fieldAt m.bytes 0x11 1
    let at_ := fieldAt m.bytes 0x18 8
    let e := engineAt s k
    let ok : Bool := decide (at_ > s.beat.gnum) && decide (1 ≤ action ∧ action ≤ 3) && portIsPartner s m.port &&
      (match action with
       | 2 => e.spareTx == lane + 1
       | 1 => (e.spareTx == 0 || e.lentTx) && e.switchTx.all (fun w => w.action == 3)
       | _ => e.spareTx == 0 && e.switchTx.isNone)
    let s := if ok then updEngine k (fun e => { e with switchTx := some ⟨lane, action, at_, true⟩ }) s else s
    sendOn m.port 5 (natLe 1 (fieldAt m.bytes 0x10 1) ++ natLe 1 action ++ natLe 1 (if ok then 0 else 1) ++ natLe 5 0 ++
      natLe 8 at_) s) s)

def execSpareAck (i : BitVec 16) (s : State) : Host.Outcome State Fault Refusal :=
  .next (linkCtlRow i.toNat 5 (fun m s =>
    let k := m.port / 4
    match (engineAt s k).switchRx with
    | some w =>
      if w.lane % 4 ≠ fieldAt m.bytes 0x10 1 % 4 ∨ w.lane / 4 ≠ m.port % 4 ∨ w.action ≠ fieldAt m.bytes 0x11 1 ∨
          w.at_ ≠ fieldAt m.bytes 0x18 8 then s
      else if fieldAt m.bytes 0x12 1 = 0 then updEngine k (fun e => { e with switchRx := some { w with acked := true } }) s
      else updEngine k (fun e => { e with switchRx := none }) s
    | none => s) s)

/-- HELLO of a port: CAPS with forwarding, and the delays of the part. -/
def sendHello (p : Nat) (s : State) : State :=
  sendOn p 1 (natLe 4 1 ++ natLe 4 (Config.txDelay p) ++ natLe 4 (Config.rxDelay p)) s

/-- ECHO of a port: the time in whole ns and a number. -/
def sendEcho (p : Nat) (s : State) : State :=
  let t := portAt s p
  let seq := (t.echoSeq + 1) % 65536
  sendOn p 2 (natLe 8 (s.cycle / 3) ++ natLe 2 seq) (updPort p (fun t => { t with echoSeq := seq, echoT1 := s.cycle / 3 }) s)

def execHello (i : BitVec 16) (s : State) : Host.Outcome State Fault Refusal :=
  .next (linkCtlRow i.toNat 1 (fun m s =>
    let p := m.port
    if (portAt s p).state ≠ 1 ∨ (portAt s p).phase ≠ 5 then s
    else if fieldAt m.bytes 2 2 ≠ expectedNode s p ∨ fieldAt m.bytes 4 1 ≠ expectedPort s p then
      updPort p (fun t => { t with state := 4 }) s
    else sendEcho p (updPort p (fun t => { t with
      peerNode := fieldAt m.bytes 2 2, peerPort := fieldAt m.bytes 4 1, hello := true, farTx := fieldAt m.bytes 0x14 4
      farRx := fieldAt m.bytes 0x18 4, phase := 6, phaseAt := s.cycle }) s)) s)

/-- A port that is up sends ECHO every 64 beats. -/
def execEchoInterval (port : BitVec 5) (s : State) : Host.Outcome State Fault Refusal :=
  .next (if (portAt s port.toNat).state = 2 then sendEcho port.toNat s else s)

/-- ECHO is answered; `turn` is the turnaround in units of 2^-16 ns. -/
def execEcho (i : BitVec 16) (turn : BitVec 32) (s : State) : Host.Outcome State Fault Refusal :=
  .next (linkCtlRow i.toNat 2 (fun m s =>
    sendOn m.port 3 ((m.bytes.drop 0x10).take 10 ++ natLe 2 0 ++ natLe 4 turn.toNat) s) s)

/-- ECHO_REPLY measures the port; the sixteenth of training decides whether it comes up (R410, R422). -/
def execEchoReply (i : BitVec 16) (s : State) : Host.Outcome State Fault Refusal :=
  .next (linkCtlRow i.toNat 3 (fun m s =>
    let p := m.port
    let t := portAt s p
    if fieldAt m.bytes 0x18 2 ≠ t.echoSeq ∨ t.coded = false then s
    else
      let rtt := m.at_ * 65536 / 3 - t.echoT1 * 65536 - fieldAt m.bytes 0x1C 4
      let asym : Int := ((Config.txDelay p : Int) + (t.farRx : Int) - ((t.farTx : Int) + (Config.rxDelay p : Int))) / 2 + asymAdj s p
      let s := updPort p (fun t => { t with rtt := rtt, asym := asym, echoes := t.echoes + 1 }) s
      let t := portAt s p
      if t.state ≠ 1 ∨ t.phase ≠ 6 then s
      else if t.echoes < 16 then sendEcho p s
      else if 4 * ackWait t ≤ 3000 * lnkCtl s p 12 8 then updPort p (fun t => { t with phase := 7, phaseAt := s.cycle }) s
      else updPort p (fun t => { t with state := 5 }) s) s)

/-- The origin of a message learns that it could not be delivered (R420, R441). -/
def execUnreach (i : BitVec 16) (s : State) : Host.Outcome State Fault Refusal :=
  .next (linkCtlRow i.toNat 6 (fun m s =>
    let dest := fieldAt m.bytes 0x10 2
    let port := if m.port < 32 then m.port else 0xFFFF
    let s := (s.gate.ops.filter (fun o => o.nodes.contains dest)).foldl (fun s o =>
      if (gateOp s o.id).isSome then
        raisePeerLost (regionOf o.cell) o.ctx port dest 5 (if o.fn = 3 then 1 else 3) o.key o.tag s
      else s) s
    (parAwaiting s dest).foldl (fun s c => parPeerLost c port dest 5 1 (ctxAt s c).code.key 0 s) s) s)

/-! ### Line messages (R313) -/

def execArrived (i : BitVec 16) (s : State) : Host.Outcome State Fault Refusal :=
  .next (match ctlMsg s i.toNat 3 1 with
    | none => s
    | some m => placeArrived m.bytes (freeMsg i.toNat m s))

/-! ### Training (R422, R423) -/

/-- The far physical lane that a training frame on one of this port's lanes must name. -/
def farLane (s : State) (p lane : Nat) : Nat := if lane = 16 then 16 else 4 * (expectedPort s p % 4) + lane % 4

def execTrainingFrame (port : BitVec 5) (lane : BitVec 5) (raw : BitVec 2048) (s : State) : Host.Outcome State Fault Refusal :=
  .next (
    let p := port.toNat
    let bs := flitBytes raw
    let t := portAt s p
    if t.state ≠ 1 ∨ t.phase = 0 ∨ t.phase > 4 ∨ fieldAt bs 0 8 ≠ 0x5A5AA5A50FF0C33C ∨ crc32c (bs.take 0xFC) ≠ fieldAt bs 0xFC 4 then s
    else if fieldAt bs 8 1 ≠ farLane s p lane.toNat ∨ fieldAt bs 9 1 ≠ expectedPort s p ∨ fieldAt bs 0xA 2 ≠ expectedNode s p then
      updPort p (fun t => { t with state := 4 }) s
    else
      let st := fieldAt bs 0xE 2
      if st / 4 % 2 = 1 then
        sendHello p (updPort p (fun t => { t.fresh 5 s.cycle with peerNode := expectedNode s p }) s)
      else
        let phase := if st / 2 % 2 = 1 then 4 else 3
        updPort p (fun t => if t.phase < phase then { t with phase := phase, phaseAt := if t.phase ≤ 1 ∨ phase = 4 then s.cycle else t.phaseAt }
          else t) s)

/-- The bound of a training phase in cycles (R422). -/
def phaseBound (phase : Nat) : Nat :=
  match phase with
  | 2 | 3 => 60000000
  | 5 | 6 => 300000
  | _ => 3000000

def execTrainingPhaseTimeout (port : BitVec 5) (s : State) : Host.Outcome State Fault Refusal :=
  .next (
    let p := port.toNat
    let t := portAt s p
    if t.state ≠ 1 ∨ t.phase = 0 ∨ t.phase ≥ 7 then s
    else updPort p (fun t => { t with state := 3, laser := false, waiting := [], unacked := [] })
      { s with cycle := max s.cycle (t.phaseAt + phaseBound t.phase) })

end Sys2Proof.Machine
end

