-- ==== Sys2Proof/Machine/Sha.lean ====
section
/-! DEFINITION. SHA-512 and HMAC-SHA-512/256 (R470, R541, R545; the algorithms are those of FIPS 180-4 and FIPS 198-1, which
the spec names). -/

namespace Sys2Proof.Machine

/-- Round constants 0 to 19 of SHA-512. -/
def shaK0 : List Word :=
  [ 0x428a2f98d728ae22#64, 0x7137449123ef65cd#64, 0xb5c0fbcfec4d3b2f#64, 0xe9b5dba58189dbbc#64,
    0x3956c25bf348b538#64, 0x59f111f1b605d019#64, 0x923f82a4af194f9b#64, 0xab1c5ed5da6d8118#64,
    0xd807aa98a3030242#64, 0x12835b0145706fbe#64, 0x243185be4ee4b28c#64, 0x550c7dc3d5ffb4e2#64,
    0x72be5d74f27b896f#64, 0x80deb1fe3b1696b1#64, 0x9bdc06a725c71235#64, 0xc19bf174cf692694#64,
    0xe49b69c19ef14ad2#64, 0xefbe4786384f25e3#64, 0x0fc19dc68b8cd5b5#64, 0x240ca1cc77ac9c65#64 ]

/-- Round constants 20 to 39 of SHA-512. -/
def shaK1 : List Word :=
  [ 0x2de92c6f592b0275#64, 0x4a7484aa6ea6e483#64, 0x5cb0a9dcbd41fbd4#64, 0x76f988da831153b5#64,
    0x983e5152ee66dfab#64, 0xa831c66d2db43210#64, 0xb00327c898fb213f#64, 0xbf597fc7beef0ee4#64,
    0xc6e00bf33da88fc2#64, 0xd5a79147930aa725#64, 0x06ca6351e003826f#64, 0x142929670a0e6e70#64,
    0x27b70a8546d22ffc#64, 0x2e1b21385c26c926#64, 0x4d2c6dfc5ac42aed#64, 0x53380d139d95b3df#64,
    0x650a73548baf63de#64, 0x766a0abb3c77b2a8#64, 0x81c2c92e47edaee6#64, 0x92722c851482353b#64 ]

/-- Round constants 40 to 59 of SHA-512. -/
def shaK2 : List Word :=
  [ 0xa2bfe8a14cf10364#64, 0xa81a664bbc423001#64, 0xc24b8b70d0f89791#64, 0xc76c51a30654be30#64,
    0xd192e819d6ef5218#64, 0xd69906245565a910#64, 0xf40e35855771202a#64, 0x106aa07032bbd1b8#64,
    0x19a4c116b8d2d0c8#64, 0x1e376c085141ab53#64, 0x2748774cdf8eeb99#64, 0x34b0bcb5e19b48a8#64,
    0x391c0cb3c5c95a63#64, 0x4ed8aa4ae3418acb#64, 0x5b9cca4f7763e373#64, 0x682e6ff3d6b2b8a3#64,
    0x748f82ee5defb2fc#64, 0x78a5636f43172f60#64, 0x84c87814a1f0ab72#64, 0x8cc702081a6439ec#64 ]

/-- Round constants 60 to 79 of SHA-512. -/
def shaK3 : List Word :=
  [ 0x90befffa23631e28#64, 0xa4506cebde82bde9#64, 0xbef9a3f7b2c67915#64, 0xc67178f2e372532b#64,
    0xca273eceea26619c#64, 0xd186b8c721c0c207#64, 0xeada7dd6cde0eb1e#64, 0xf57d4f7fee6ed178#64,
    0x06f067aa72176fba#64, 0x0a637dc5a2c898a6#64, 0x113f9804bef90dae#64, 0x1b710b35131c471b#64,
    0x28db77f523047d84#64, 0x32caab7b40c72493#64, 0x3c9ebe0a15c9bebc#64, 0x431d67c49c100d4c#64,
    0x4cc5d4becb3e42b6#64, 0x597f299cfc657e2a#64, 0x5fcb6fab3ad6faec#64, 0x6c44198c4a475817#64 ]

/-- The initial hash of SHA-512. -/
def sha512Init : List Word :=
  [ 0x6a09e667f3bcc908#64, 0xbb67ae8584caa73b#64, 0x3c6ef372fe94f82b#64, 0xa54ff53a5f1d36f1#64,
    0x510e527fade682d1#64, 0x9b05688c2b3e6c1f#64, 0x1f83d9abfb41bd6b#64, 0x5be0cd19137e2179#64 ]

/-- The initial hash of SHA-512/256. -/
def sha512t256Init : List Word :=
  [ 0x22312194fc2bf72c#64, 0x9f555fa3c84c64c2#64, 0x2393b86b6f53b151#64, 0x963877195940eabd#64,
    0x96283ee2a88effe3#64, 0xbe5e1e2553863992#64, 0x2b0199fc2c85b8aa#64, 0x0eb72ddc81c52ca2#64 ]

/-- The round constants. -/
def shaK : List Word := shaK0 ++ shaK1 ++ shaK2 ++ shaK3

/-- The number that a list of bytes spells, most significant first. -/
def beNat (bs : List Byte) : Nat := bs.foldl (fun v b => 256 * v + b.toNat) 0

/-- The n bytes of a number, most significant first. -/
def natBe (n v : Nat) : List Byte := (natLe n v).reverse

def shaWord (bs : List Byte) (i : Nat) : Word := BitVec.ofNat 64 (beNat ((bs.drop (8 * i)).take 8))

/-- The message schedule: the last 16 words are kept newest first, and n more are made. -/
def shaSchedule : Nat → List Word → List Word
  | 0, _ => []
  | n + 1, w =>
    let a := w.getD 14 0#64
    let b := w.getD 1 0#64
    let s0 := a.rotateRight 1 ^^^ a.rotateRight 8 ^^^ (a >>> 7)
    let s1 := b.rotateRight 19 ^^^ b.rotateRight 61 ^^^ (b >>> 6)
    let t := w.getD 15 0#64 + s0 + w.getD 6 0#64 + s1
    t :: shaSchedule n (t :: w.take 15)

/-- One round on the eight working words. -/
def shaRound (v : List Word) (kw : Word × Word) : List Word :=
  match v with
  | [a, b, c, d, e, f, g, h] =>
    let t1 := h + (e.rotateRight 14 ^^^ e.rotateRight 18 ^^^ e.rotateRight 41) + ((e &&& f) ^^^ (~~~e &&& g)) + kw.1 + kw.2
    let t2 := (a.rotateRight 28 ^^^ a.rotateRight 34 ^^^ a.rotateRight 39) + ((a &&& b) ^^^ (a &&& c) ^^^ (b &&& c))
    [t1 + t2, a, b, c, d + t1, e, f, g]
  | _ => v

/-- One block of 128 bytes. -/
def shaBlock (h : List Word) (bs : List Byte) : List Word :=
  let first := (List.range 16).map (shaWord bs)
  let w := first ++ shaSchedule 64 first.reverse
  List.zipWith (fun x y => x + y) h ((shaK.zip w).foldl shaRound h)

/-- The blocks of a padded message one after another. -/
def shaBlocks : Nat → List Word → List Byte → List Word
  | 0, h, _ => h
  | n + 1, h, bs => shaBlocks n (shaBlock h bs) (bs.drop 128)

/-- The 64 bytes that a message gives from an initial hash. -/
def sha512From (init : List Word) (bs : List Byte) : List Byte :=
  let n := bs.length
  let p := bs ++ [0x80#8] ++ List.replicate ((239 - n % 128) % 128) 0#8 ++ natBe 16 (8 * n)
  (shaBlocks (p.length / 128) init p).flatMap (fun w => natBe 8 w.toNat)

def sha512 (bs : List Byte) : List Byte := sha512From sha512Init bs

/-- The first 32 bytes of a SHA-512 digest. -/
def sha512Head (bs : List Byte) : List Byte := (sha512 bs).take 32

def sha512t256 (bs : List Byte) : List Byte := (sha512From sha512t256Init bs).take 32

/-- HMAC-SHA-512/256 under a 32-byte key (R470). -/
def hmac256 (key bs : List Byte) : List Byte :=
  let k := key ++ List.replicate (128 - key.length) 0#8
  sha512t256 (k.map (fun b => b ^^^ 0x5c#8) ++ sha512t256 (k.map (fun b => b ^^^ 0x36#8) ++ bs))

end Sys2Proof.Machine
end

