-- ==== Sys2Proof/Machine/Ozmin.lean ====
section
/-! DEFINITION. Ozmin's taking of commands: packets and replies, rings and sessions, the checks of a header, the queues of
the classes, and the end of a command (R458 to R477, R508, R609, R611). -/

namespace Sys2Proof.Machine

/-! ### Status codes (R486) -/

def stOk : Nat := 0x0000
def stReserved : Nat := 0x0101
def stLength : Nat := 0x0102
def stSeq : Nat := 0x0103
def stTagBusy : Nat := 0x0104
def stTagExpired : Nat := 0x0105
def stDenied : Nat := 0x0106
def stBusy : Nat := 0x0107
def stContextInvalid : Nat := 0x0108
def stFaulted : Nat := 0x0109
def stStopped : Nat := 0x010A
def stXferTimeout : Nat := 0x010B
def stCfgInvalid : Nat := 0x0201
def stSwapLate : Nat := 0x0202
def stSwapPending : Nat := 0x0203
def stSlotConflict : Nat := 0x0204
def stTimerOrder : Nat := 0x0205
def stScopeActive : Nat := 0x0206
def stBeatNotice : Nat := 0x0207
def stBeatDepth : Nat := 0x0208
def stBeatUnlocked : Nat := 0x0209
def stPlanLen : Nat := 0x020A
def stContextExists : Nat := 0x0301
def stCtxState : Nat := 0x0302
def stResidentFull : Nat := 0x0303
def stBellConflict : Nat := 0x0304
def stLineConflict : Nat := 0x0305
def stCtxLate : Nat := 0x0306
def stCtxParked : Nat := 0x0307
def stCtxHolds : Nat := 0x0308
def stSaveSmall : Nat := 0x0309
def stFrameShared : Nat := 0x030A
def stGranaryBusy : Nat := 0x030B
def stStepAbandoned : Nat := 0x0401
def stStepBusy : Nat := 0x0402
def stUpdateNonfinite : Nat := 0x0403
def stUpdatePending : Nat := 0x0404
def stUpdateState : Nat := 0x0405
def stMillPlacement : Nat := 0x0406
def stReshardRequired : Nat := 0x0407
def stReshardMismatch : Nat := 0x0408
def stReshardActive : Nat := 0x0409
def stPageRetired : Nat := 0x0501
def stXlateFull : Nat := 0x0502
def stMarginNoSpare : Nat := 0x0601
def stMarginAborted : Nat := 0x0602
def stSpareBusy : Nat := 0x0603
def stCodeStale : Nat := 0x0701
def stCodeLost : Nat := 0x0702
def stSnapshotBusy : Nat := 0x0703
def stSnapshotTorn : Nat := 0x0704
def stTicket : Nat := 0x0801
def stSessionFull : Nat := 0x0802
def stImageInvalid : Nat := 0x0803
def stRollback : Nat := 0x0804

/-! ### Replies (R459) -/

/-- The 64 bytes of a reply. -/
def Reply.bytes (r : Reply) : List Byte :=
  natLe 4 r.tag ++ natLe 2 r.status ++ natLe 2 r.opcode ++ natLe 8 r.seq ++ natLe 2 r.ctx ++
    natLe 2 (if r.dup then 1 else 0) ++ natLe 4 0 ++ natLe 8 r.gnum ++
    (List.range 4).flatMap (fun i => natLe 8 (r.det.getD i 0))

def ringSet (s : State) (c : Nat) : RingSet := sGet {} s.oz.rings c

def updRingSet (c : Nat) (f : RingSet → RingSet) (s : State) : State :=
  { s with oz := { s.oz with rings := sUpd {} s.oz.rings c f } }

def sessionAt (s : State) (n : Nat) : Session := sGet {} s.oz.sessions n

def updSession (n : Nat) (f : Session → Session) (s : State) : State :=
  { s with oz := { s.oz with sessions := sUpd {} s.oz.sessions n f } }

/-- A packet leaves the management port (R470, R488). -/
def sendPacket (addr port : Nat) (bs : List Byte) (s : State) : State :=
  let s := regCount aMgmtTx 1 s
  { s with oz := { s.oz with sent := s.oz.sent ++ [⟨addr, port, false, bs⟩] } }

/-- The head of a datagram (R470). -/
def datagramHead (num kind : Nat) : List Byte := natLe 4 num ++ natLe 1 1 ++ natLe 1 kind ++ natLe 2 0

/-- A datagram of an open session leaves, tagged with its key (R470). -/
def sendTagged (num addr port kind : Nat) (body : List Byte) (s : State) : State :=
  let x := sessionAt s num
  if x.isOpen then
    let bs := datagramHead num kind ++ body
    sendPacket addr port (bs ++ hmac256 x.key bs) s
  else s

/-- A reply leaves untagged (R470, R472). -/
def sendUntagged (num addr port : Nat) (r : Reply) (s : State) : State :=
  sendPacket addr port (datagramHead num 2 ++ r.bytes) s

/-- A reply goes where its command came from: a ring set holds it for its completion ring, but in Safe-Hold, and a session
gets it at once with the inline output (R463, R475, R507). -/
def sendReply (o : Origin) (r : Reply) (inline : List Byte) (s : State) : State :=
  match o with
  | .ring c _ =>
    if (ringSet s c).slots = 0 ∨ s.flt.safeHold then s
    else updRingSet c (fun x => { x with held := x.held ++ [r] }) s
  | .session n addr port => sendTagged n addr port 2 (r.bytes ++ inline) s

/-- The last 1,024 replies of completed commands are kept (R467). -/
def keepIn (l : List Reply) (r : Reply) : List Reply :=
  let k := l.filter (fun x => x.tag != r.tag) ++ [r]
  k.drop (k.length - 1024)

def keepReply (o : Origin) (r : Reply) (s : State) : State :=
  match o with
  | .ring c _ => if (ringSet s c).slots = 0 then s else updRingSet c (fun x => { x with kept := keepIn x.kept r }) s
  | .session n _ _ => if (sessionAt s n).isOpen then updSession n (fun x => { x with kept := keepIn x.kept r }) s else s

def keptReplies (s : State) (o : Origin) : List Reply :=
  match o with
  | .ring c _ => (ringSet s c).kept
  | .session n _ _ => (sessionAt s n).kept

/-- Two origins share TAGs and order: the same ring set, or the same session (R467, R468). -/
def Origin.same (a b : Origin) : Bool :=
  match a, b with
  | .ring c _, .ring d _ => c == d
  | .session n _ _, .session m _ _ => n == m
  | _, _ => false

/-! ### Commands -/

/-- A command as taken: its origin and the fields of its header (R458). -/
structure Cmd where
  origin : Origin
  opcode : Nat
  flags : Nat
  ctx : Nat
  tag : Nat
  seq : Nat
  payload : List Byte
  deriving DecidableEq, Repr

/-- A command came by a ring. -/
def Cmd.fromRing (c : Cmd) : Bool := match c.origin with | .ring _ _ => true | .session _ _ _ => false

/-- Byte fields of a packet. -/
def pktField (bs : List Byte) (off n : Nat) : Nat := fieldAt bs off n

/-- The command that a packet spells. -/
def cmdOf (o : Origin) (bs : List Byte) : Cmd :=
  ⟨o, pktField bs 0 2, pktField bs 2 2, pktField bs 4 2, pktField bs 8 4, pktField bs 0x10 8,
    (bs.drop 32).take (pktField bs 6 2)⟩

/-- A field of the payload. -/
def Cmd.field (c : Cmd) (off n : Nat) : Nat := fieldAt c.payload off n

def Job.field (j : Job) (off n : Nat) : Nat := fieldAt j.payload off n

/-- The classes in the order of R29: URGENT, CONTROL, BULK, REPORT. -/
inductive CmdClass
  | urgent | control | bulk | report
  deriving DecidableEq, Repr

def CmdClass.rank (c : CmdClass) : Nat :=
  match c with
  | .urgent => 0
  | .control => 1
  | .bulk => 2
  | .report => 3

/-- Which contexts a command may name (R460): C from 1 on, D context 0, or what its SCOPE or KIND says. -/
inductive CmdScope
  | ctx | device | either
  deriving DecidableEq, Repr

/-- A row of the table Opcodes (R476): class, scope, and the bytes of its payload. -/
structure OpRow where
  op : Nat
  cls : CmdClass
  scope : CmdScope
  len : Nat
  deriving DecidableEq, Repr

/-- The table Opcodes, groups 0x01 to 0x04. -/
def opRows0 : List OpRow :=
  [ ⟨0x0101, .control, .ctx, 8⟩, ⟨0x0102, .control, .ctx, 16⟩, ⟨0x0103, .control, .ctx, 8⟩, ⟨0x0104, .control, .ctx, 0⟩,
    ⟨0x0105, .control, .ctx, 0⟩, ⟨0x0106, .report, .ctx, 8⟩, ⟨0x0107, .control, .either, 32⟩, ⟨0x0108, .control, .ctx, 0⟩,
    ⟨0x0201, .control, .either, 24⟩, ⟨0x0202, .control, .either, 16⟩, ⟨0x0203, .control, .device, 16⟩,
    ⟨0x0204, .control, .device, 8⟩, ⟨0x0301, .control, .ctx, 16⟩, ⟨0x0302, .control, .ctx, 8⟩, ⟨0x0303, .bulk, .ctx, 0⟩,
    ⟨0x0304, .control, .ctx, 8⟩, ⟨0x0401, .control, .ctx, 16⟩, ⟨0x0402, .control, .device, 8⟩, ⟨0x0403, .bulk, .device, 24⟩,
    ⟨0x0404, .bulk, .device, 24⟩ ]

/-- The table Opcodes, groups 0x05 to 0x0F. -/
def opRows1 : List OpRow :=
  [ ⟨0x0501, .control, .device, 16⟩, ⟨0x0502, .control, .device, 8⟩, ⟨0x0503, .control, .device, 8⟩,
    ⟨0x0601, .control, .ctx, 8⟩, ⟨0x0602, .bulk, .ctx, 0⟩, ⟨0x0603, .control, .ctx, 8⟩, ⟨0x0604, .bulk, .ctx, 16⟩,
    ⟨0x0605, .bulk, .ctx, 48⟩, ⟨0x0701, .bulk, .device, 8⟩, ⟨0x0702, .bulk, .device, 16⟩, ⟨0x0703, .bulk, .device, 8⟩,
    ⟨0x0801, .report, .either, 40⟩, ⟨0x0901, .control, .device, 8⟩, ⟨0x0902, .control, .ctx, 8⟩,
    ⟨0x0A01, .control, .device, 16⟩, ⟨0x0A02, .control, .device, 128⟩, ⟨0x0A03, .control, .device, 0⟩,
    ⟨0x0A04, .bulk, .device, 16⟩, ⟨0x0A05, .control, .device, 8⟩, ⟨0x0A06, .report, .device, 40⟩,
    ⟨0x0A07, .control, .device, 16⟩, ⟨0x0A08, .report, .device, 16⟩, ⟨0x0F01, .urgent, .either, 8⟩,
    ⟨0x0F02, .urgent, .device, 8⟩, ⟨0x0F03, .urgent, .device, 8⟩ ]

def opRow (op : Nat) : Option OpRow := (opRows0 ++ opRows1).find? (fun r => r.op == op)

def classOf (op : Nat) : CmdClass := match opRow op with | some r => r.cls | none => .report

/-- The length that the payload must have: that of its table, and with the inline data of MEM_WRITE and FW_WRITE (R458). -/
def payloadLength (op : Nat) (p : List Byte) : Option Nat :=
  let round8 (n : Nat) : Nat := (n + 7) / 8 * 8
  match opRow op with
  | none => none
  | some r =>
    if op = 0x0404 ∧ fieldAt p 0x10 8 = 0 then some (24 + round8 (fieldAt p 8 4))
    else if op = 0x0A04 ∧ fieldAt p 8 8 = 0 then some (16 + round8 (fieldAt p 4 4))
    else some r.len

/-- What the payload's fields must satisfy: offset, and whether the field is as its table says. The first that fails is
the field at fault (R11, R459, R478 to R482, R527, R574). -/
def payloadChecks (op : Nat) (p : List Byte) : List (Nat × Bool) :=
  let f := fieldAt p
  let zero (o n : Nat) : Nat × Bool := (o, f o n == 0)
  let most (o n m : Nat) : Nat × Bool := (o, decide (f o n ≤ m))
  let within (o n lo hi : Nat) : Nat × Bool := (o, decide (lo ≤ f o n) && decide (f o n ≤ hi))
  let phys (o : Nat) : Nat × Bool := (o, decide (f o 8 < 2 ^ 40))
  -- a field that counts only where its MASK bit is set
  let masked (m bit o n lo hi : Nat) : Nat × Bool :=
    (o, decide (f m 2 / 2 ^ bit % 2 = 0) || (decide (lo ≤ f o n) && decide (f o n ≤ hi)))
  let scopeId (kind : Nat) : Bool :=
    let i := f 2 2
    match kind with
    | 0 => if i / 2 ^ 15 = 1 then decide (i % 2 ^ 15 < 4352) else decide (i < 4096)
    | 1 => decide (i < 256)
    | 2 => decide (i < 4)
    | 6 => i == 0
    | _ => decide (i < 8)
  let reports : List (Nat × Bool) :=
    let k := f 0 2
    let i := f 2 2
    let structs : List Nat := [0x00, 0x01, 0x02, 0x03, 0x04, 0x05, 0x06, 0x07, 0x08, 0x09, 0x0A, 0x0B, 0x0C, 0x0D, 0x0E, 0x0F,
      0x10, 0x11, 0x12, 0x18, 0x19, 0x1A, 0x1B, 0x1C, 0x20]
    [(0, decide (1 ≤ k ∧ k ≤ 5)),
     (2, match k with | 2 => structs.contains i | 4 => decide (i < 1024) | _ => i == 0)]
  match op with
  | 0x0101 => [phys 0]
  | 0x0102 => [(8, decide (f 8 4 < 8) && decide (f 8 4 < 4 ∨ f 8 4 = 4)), zero 12 4]
  | 0x0106 => [phys 0]
  | 0x0107 => [(0x1C, f 0x1C 4 % 2 == 0)]
  | 0x0201 => [most 0 1 5, zero 1 7, phys 8, (0x10, if f 0 1 = 5 then decide (f 0x10 8 < 2 ^ 40) else f 0x10 8 == 0)]
  | 0x0202 => [most 0 1 5, zero 1 7]
  | 0x0203 => [masked 0xC 0 0 2 4 256, masked 0xC 1 2 2 4 256, masked 0xC 2 4 2 4 256, masked 0xC 3 6 2 4 256,
      masked 0xC 4 8 1 1 8, masked 0xC 5 9 1 0 100, masked 0xC 6 10 1 0 100, most 0xB 1 3, most 0xC 2 511, zero 0xE 2]
  | 0x0204 => [most 0 1 2, most 1 1 31, most 4 2 16383, within 6 1 1 255, zero 7 1]
  | 0x0301 => [most 8 2 1, (10, decide (f 8 2 = 1) || f 10 2 == 0), zero 14 2]
  | 0x0302 => [within 0 1 1 3, zero 1 7]
  | 0x0304 => [within 0 1 1 2, zero 1 7]
  | 0x0401 => [(0, decide (f 0 8 % 2 ^ 21 = 0) && decide (f 0 8 < 2 ^ 40)),
      (8, decide (1 ≤ f 8 4) && decide (f 8 4 ≤ 393216) && decide (f 0 8 + f 8 4 * 2 ^ 21 ≤ 2 ^ 40)), zero 12 4]
  | 0x0402 => [most 0 1 1, zero 1 7]
  | 0x0403 => [phys 0, within 8 4 1 16777216, zero 12 4, phys 0x10]
  | 0x0404 => [phys 0, (8, decide (f 0x10 8 ≠ 0) || decide (f 8 4 ≤ 1024)), zero 12 4, phys 0x10]
  | 0x0501 => [most 0 2 255, masked 0 0 2 1 1 20, masked 0 1 3 1 1 15, masked 0 2 4 1 1 7, masked 0 3 5 1 0 7,
      masked 0 4 6 2 1 1023, masked 0 5 8 2 0 1023, masked 0 6 0xA 2 1 1023, masked 0 7 0xC 4 1 0xFFFFF]
  | 0x0502 => [most 0 1 31, most 1 1 2, zero 2 6]
  | 0x0503 => [most 0 1 7, within 1 1 1 2, most 2 1 15, zero 3 5]
  | 0x0601 => [phys 0]
  | 0x0604 => [within 0 1 1 2, (1, f 1 1 != 0), (4, decide (f 1 1 ≠ 1) || f 4 2 == 0), zero 6 2, zero 12 4]
  | 0x0605 => [phys 8, within 0x10 2 1 64, within 0x12 1 1 2, zero 0x13 1, zero 0x16 2, zero 0x1E 2]
  | 0x0701 => [most 0 1 6, most 1 1 7, (2, scopeId (f 0 1)), zero 4 4]
  | 0x0702 => [most 0 1 7, most 1 1 3, zero 2 6]
  | 0x0703 => [most 0 1 7, most 1 1 16, zero 2 6]
  | 0x0801 => reports ++ [zero 4 4, phys 0x18, zero 0x24 4]
  | 0x0901 => [zero 4 4]
  | 0x0902 => [most 0 4 255, zero 4 4]
  | 0x0A02 => [(0, f 0 4 == 0x54454B54), (4, f 4 2 == 1), most 6 1 7, zero 7 1, zero 0x38 8]
  | 0x0A04 => [(4, decide (f 8 8 ≠ 0) || decide (f 4 4 ≤ 1024)), phys 8]
  | 0x0A05 => [most 4 4 1]
  | 0x0A06 => [phys 0x20]
  | 0x0A07 => [most 0 1 7, zero 1 7]
  | 0x0A08 => [zero 4 4]
  | 0x0F01 => [most 0 1 1, zero 1 7]
  | 0x0F02 => [most 0 2 4095, zero 2 6]
  | 0x0F03 => [most 0 1 5, zero 1 1, (2, scopeId (f 0 1)), zero 4 4]
  | _ => []

/-- The scope that a command has by its SCOPE or KIND (R460, R477, R479, R527). -/
def scopeOf (op : Nat) (p : List Byte) : CmdScope :=
  match op with
  | 0x0201 | 0x0202 => if fieldAt p 0 1 ≤ 1 then .ctx else .device
  | 0x0801 => if fieldAt p 0 2 = 3 then .ctx else .device
  | 0x0F01 => if fieldAt p 0 1 = 0 then .ctx else .device
  | _ => match opRow op with | some r => r.scope | none => .either

/-! ### Refusal, acceptance and completion (R459) -/

/-- A command is refused: it has no effect but its reply. -/
def refuseCmd (c : Cmd) (status : Nat) (det : List Nat) (s : State) : State :=
  sendReply c.origin ⟨c.tag, status, c.opcode, c.seq, c.ctx, false, s.beat.gnum, det⟩ [] (regCount aCmdRefused 1 s)

/-- A refusal with ST_CFG_INVALID (R611): structure code, INDEX and byte offset. -/
def refuseCfg (c : Cmd) (code index off : Nat) (s : State) : State :=
  refuseCmd c stCfgInvalid [code * 2 ^ 56 + index, off] s

/-- A command is accepted and in progress: the job and the state that holds it. -/
def acceptCmd (c : Cmd) (at_ phase : Nat) (vals : List Nat) (s : State) : State :=
  let j : Job := ⟨s.nextJob, c.origin, c.opcode, c.tag, c.seq, c.ctx, c.payload, at_, phase, vals, []⟩
  let s := regCount aCmdAccepted 1 s
  { s with jobs := s.jobs ++ [j], nextJob := s.nextJob + 1 }

def jobById (s : State) (id : Nat) : Option Job := s.jobs.find? (fun j => j.id == id)

def updJob (id : Nat) (f : Job → Job) (s : State) : State :=
  { s with jobs := s.jobs.map (fun j => if j.id = id then f j else j) }

def dropJob (id : Nat) (s : State) : State := { s with jobs := s.jobs.filter (fun j => j.id != id) }

/-- A job ends with its reply; a reply of a refusal (R486) is not kept. -/
def endJobWith (j : Job) (status gnum : Nat) (det : List Nat) (inline : List Byte) (kept : Bool) (s : State) : State :=
  let r : Reply := ⟨j.tag, status, j.opcode, j.seq, j.ctx, false, gnum, det⟩
  let s := dropJob j.id s
  sendReply j.origin r inline (if kept then keepReply j.origin r s else s)

/-- A job completes. -/
def endJob (j : Job) (status gnum : Nat) (det : List Nat) (s : State) : State := endJobWith j status gnum det [] true s

/-- A command accepted and completed at once. -/
def completeCmd (c : Cmd) (status gnum : Nat) (det : List Nat) (inline : List Byte) (s : State) : State :=
  let r : Reply := ⟨c.tag, status, c.opcode, c.seq, c.ctx, false, gnum, det⟩
  sendReply c.origin r inline (keepReply c.origin r (regCount aCmdAccepted 1 s))

/-- The jobs of a context with an opcode. -/
def jobsOf (s : State) (op ctx : Nat) : List Job := s.jobs.filter (fun j => j.opcode == op && j.ctx == ctx)

/-! ### Transfers over the management port (R475) -/

/-- The datagrams of a transfer from the first byte not sent on, while at most 256 KiB are unacknowledged. -/
def pushXfer : Nat → Xfer → State → Xfer × State
  | 0, x, s => (x, s)
  | n + 1, x, s =>
    if x.sent < x.data.length ∧ x.sent < x.acked + 262144 then
      let k := min 1024 (min (x.data.length - x.sent) (x.acked + 262144 - x.sent))
      let body := natLe 4 x.tag ++ natLe 4 0 ++ natLe 8 x.sent ++ (x.data.drop x.sent).take k
      pushXfer n { x with sent := x.sent + k } (sendTagged x.num x.addr x.port x.kind body s)
    else (x, s)

/-- A transfer starts for a job (R475). -/
def startXfer (j : Job) (kind status : Nat) (det : List Nat) (data : List Byte) (s : State) : State :=
  match j.origin with
  | .ring _ _ => s
  | .session n addr port =>
    let r := pushXfer 256 ⟨n, addr, port, j.tag, kind, j.id, status, det, data, 0, 0, s.cycle⟩ s
    { r.2 with oz := { r.2.oz with xfers := r.2.oz.xfers ++ [r.1] } }

/-- The output of a job: written at OUT_ADDR, or following the reply, or in KIND 4 datagrams (R475). -/
def deliverOut (j : Job) (outAddr status : Nat) (det : List Nat) (data : List Byte) (s : State) : State :=
  if outAddr ≠ 0 then endJob j status s.beat.gnum det (poke s outAddr data)
  else if data.length ≤ 1024 then endJobWith j status s.beat.gnum det data true s
  else startXfer j 4 status det data s

/-- A command issued from a ring asks for output over the management port (R475). -/
def deniedOut (c : Cmd) (outAddr : Nat) : Bool :=
  outAddr == 0 && c.fromRing

/-- The job that a command accepted last. -/
def lastJob (s : State) : Option Job := s.jobs.getLast?

/-- A command accepted whose output is ready at once. -/
def answerOut (c : Cmd) (outAddr : Nat) (det : List Nat) (data : List Byte) (s : State) : State :=
  let s := acceptCmd c 0 0 [] s
  match lastJob s with
  | some j => deliverOut j outAddr stOk det data s
  | none => s

/-! ### Sessions end (R472) -/

/-- A session closes: its transfers, with the commands that they serve, and the commands that wait for it go; other commands
in progress go on, and their replies are lost with the session. -/
def closeSession (n : Nat) (s : State) : State :=
  let gone := (s.oz.xfers.filter (fun x => x.num == n)).map (fun x => x.job)
  { s with
    jobs := s.jobs.filter (fun j => !gone.contains j.id)
    oz := { s.oz with
      sessions := sSet {} s.oz.sessions n {}
      xfers := s.oz.xfers.filter (fun x => x.num != n)
      queue := s.oz.queue.filter (fun q => match q.origin with | .session m _ _ => m != n | _ => true) } }

def openSessions (s : State) : List Nat := (s.oz.sessions.filter (fun e => e.2.isOpen)).map (fun e => e.1)

def closeSessions (s : State) : State := (openSessions s).foldl (fun s n => closeSession n s) s

/-! ### Checks of a header -/

/-- The rights mask of an origin (R466, R472). -/
def rightsOf (s : State) (o : Origin) : Nat :=
  match o with
  | .ring c _ => (ringSet s c).rights
  | .session n _ _ => (sessionAt s n).rights

/-- In Safe-Hold only these are accepted (R508). -/
def safeHoldAdmits (c : Cmd) : Bool :=
  [0x0A01, 0x0A02, 0x0A03, 0x0A08, 0x0801, 0x0A06].contains c.opcode || (c.opcode == 0x0403 && isRegAddr (c.field 0 8))

/-- The route and rights of a command permit it (R466, R477, R508). -/
def cmdPermitted (s : State) (c : Cmd) : Bool :=
  let g := c.opcode / 256
  let guarded : Bool := g == 0x0A || g == 0x0F || c.opcode == 0x0107 || c.opcode == 0x0403 || c.opcode == 0x0404
  (rightsOf s c.origin / 2 ^ g % 2 == 1) && (!s.flt.safeHold || safeHoldAdmits c) &&
  (match c.origin with
   | .ring r _ => (r == 0 || c.ctx == r) && (r == 0 || !guarded) && !(c.opcode == 0x0107 && c.ctx == 0) &&
       !([0x0A01, 0x0A02, 0x0A03, 0x0A08].contains c.opcode)
   | .session _ _ _ => true)

/-- The refusal that a header or payload draws, if any: status and details. The order of the checks is a DESIGN CHOICE:
reserved opcode and header fields, rights and route, context, length, payload fields. -/
def headerFault (s : State) (c : Cmd) (length : Nat) (bs : List Byte) : Option (Nat × List Nat) :=
  match opRow c.opcode with
  | none => some (stReserved, [0])
  | some _ =>
    if c.flags ≥ 4 then some (stReserved, [2])
    else if c.ctx ≥ 2 ^ 14 then some (stReserved, [4])
    else if pktField bs 0x0C 4 ≠ 0 then some (stReserved, [0x0C])
    else if pktField bs 0x18 8 ≠ 0 then some (stReserved, [0x18])
    else if !cmdPermitted s c then some (stDenied, [])
    else if length > 1160 ∨ payloadLength c.opcode c.payload ≠ some length then some (stLength, [6])
    else match (payloadChecks c.opcode c.payload).find? (fun e => !e.2) with
      | some e => some (stReserved, [0x20 + e.1])
      | none =>
        match scopeOf c.opcode c.payload with
        | .ctx => if c.ctx = 0 then some (stContextInvalid, []) else none
        | .device => if c.ctx ≠ 0 then some (stContextInvalid, []) else none
        | .either => none

/-- What TAG and RETRY bring about (R467): none where the command goes on as a new one. -/
def tagCheck (c : Cmd) (s : State) : Option State :=
  let busy := s.jobs.any (fun j => j.origin.same c.origin && j.tag == c.tag)
  let waits := s.oz.queue.any (fun q => q.origin.same c.origin && pktField q.packet 8 4 == c.tag)
  let retry : Bool := c.flags / 2 % 2 == 1
  match (keptReplies s c.origin).find? (fun r => r.tag == c.tag) with
  | some r =>
    if retry then some (sendReply c.origin { r with dup := true, seq := c.seq } [] s)
    else some (refuseCmd c stTagBusy [] s)
  | none =>
    if busy || waits then
      if retry then
        some { s with
          jobs := s.jobs.map (fun j => if j.origin.same c.origin && j.tag == c.tag then
            { j with seq := c.seq, origin := c.origin } else j)
          oz := { s.oz with queue := s.oz.queue.map (fun q =>
            if q.origin.same c.origin && pktField q.packet 8 4 == c.tag then
              { q with origin := c.origin, packet := q.packet.take 0x10 ++ natLe 8 c.seq ++ q.packet.drop 0x18 } else q) } }
      else some (refuseCmd c stTagBusy [] s)
    else if retry then some (refuseCmd c stTagExpired [] s)
    else none

/-- A command must wait in the queue of its class: an earlier command of its origin and class waits there, or it carries
FENCE and an earlier command of its origin has not completed (R468), or it is a MUSTER_RUN and another is in progress or
waits (R576). -/
def mustWait (c : Cmd) (earlier : List Queued) (s : State) : Bool :=
  earlier.any (fun q => q.origin.same c.origin && decide (classOf (pktField q.packet 0 2) = classOf c.opcode)) ||
  (c.opcode == 0x0701 && (s.jobs.any (fun j => j.opcode == 0x0701) || earlier.any (fun q => pktField q.packet 0 2 == 0x0701))) ||
  (c.flags % 2 == 1 &&
    (s.jobs.any (fun j => j.origin.same c.origin) || earlier.any (fun q => q.origin.same c.origin)))

/-- A queue of a class is full (R473). -/
def queueFull (s : State) (op : Nat) : Bool :=
  decide (((s.oz.queue.filter (fun q => decide (classOf (pktField q.packet 0 2) = classOf op))).length) ≥ 256)

/-- A command whose SEQ is in order: it is refused, answered as a copy, made to wait, or decided by its own rule. -/
def admitCmd (c : Cmd) (bs : List Byte) (go : Cmd → State → State) (s : State) : State :=
  match tagCheck c s with
  | some t => t
  | none =>
    match headerFault s c (pktField bs 6 2) bs with
    | some e => refuseCmd c e.1 e.2 s
    | none =>
      if mustWait c s.oz.queue s then
        if queueFull s c.opcode then refuseCmd c stBusy [] s
        else { s with oz := { s.oz with queue := s.oz.queue ++ [⟨c.origin, bs⟩] } }
      else go c s

/-! ### Taking from a ring (R461 to R465) -/

/-- The packet in the slot at the head of a submission ring, if Ozmin takes it now: RUNNING, outside Safe-Hold, with a
command in the ring, and with 17 free completion entries, or one for an urgent command. -/
def ringPacket (s : State) (c : Nat) (urgent : Bool) : Option (List Byte) :=
  let r := ringSet s c
  let head := if urgent then r.uqHead else r.sqHead
  let tail := if urgent then r.uqTail else r.sqTail
  let free := r.slots + 16 - (r.cqTail + 2 ^ 32 - r.cqHead) % 2 ^ 32
  if s.oz.running && !s.flt.safeHold && decide (r.slots ≠ 0) && decide (head ≠ tail) &&
    decide (free ≥ (if urgent then 1 else 17)) then
    some (peek s (if urgent then r.uqBase + 256 * (head % 16) else r.sqBase + 256 * (head % r.slots)) 256)
  else none

/-- The slot at the head has been consumed; the SEQ expected next is the command's SEQ plus one (R465). -/
def popRing (c : Nat) (urgent : Bool) (seq : Nat) (s : State) : State :=
  updRingSet c (fun r =>
    if urgent then { r with uqHead := (r.uqHead + 1) % 2 ^ 32, uqSeq := seq + 1 }
    else { r with sqHead := (r.sqHead + 1) % 2 ^ 32, sqSeq := seq + 1 }) s

/-- A command at the head of a ring is consumed and admitted, or refused for its SEQ (R465). -/
def takeRing (c : Nat) (urgent : Bool) (bs : List Byte) (go : Cmd → State → State) (s : State) : State :=
  let m := cmdOf (.ring c urgent) bs
  let due := if urgent then (ringSet s c).uqSeq else (ringSet s c).sqSeq
  let s := popRing c urgent m.seq s
  if m.seq ≠ due then refuseCmd m stSeq [] s else admitCmd m bs go s

/-- Commands with a reserved opcode at the head of a ring are taken and refused. -/
def refuseReserved (c : Nat) (urgent : Bool) : Nat → State → State
  | 0, s => s
  | n + 1, s =>
    match ringPacket s c urgent with
    | some bs =>
      if (opRow (pktField bs 0 2)).isNone then refuseReserved c urgent n (takeRing c urgent bs (fun _ s => s) s) else s
    | none => s

/-! ### Taking from a session (R470 to R473) -/

/-- The management port takes packets: enabled, not strapped off, and its link up. -/
def mgmtOn (s : State) : Bool :=
  s.oz.running && decide (regField s aMgmtCtl 0 0 = 1) && decide (s.pins.straps % 4 ≠ 3) && decide (s.pins.mgmtSpeed ≠ 0)

/-- The body of a datagram: without the head and, where it carries one, the TAG. -/
def datagramBody (d : Datagram) (tagged : Bool) : List Byte :=
  (d.bytes.drop 8).take (d.bytes.length - 8 - (if tagged then 32 else 0))

/-- The head of a datagram is that of a command (R470). -/
def datagramOk (d : Datagram) : Bool :=
  decide (d.bytes.length ≤ 1232) && decide (fieldAt d.bytes 4 1 = 1) && decide (fieldAt d.bytes 5 1 = 1) &&
    decide (fieldAt d.bytes 6 2 = 0)

/-- The TAG of a datagram verifies under a key (R470). -/
def datagramTagged (d : Datagram) (key : List Byte) : Bool :=
  decide (40 ≤ d.bytes.length) &&
    decide (hmac256 key (d.bytes.take (d.bytes.length - 32)) = d.bytes.drop (d.bytes.length - 32))

/-- A datagram of an open session verifies (R473). -/
def datagramAuth (s : State) (d : Datagram) : Bool :=
  let x := sessionAt s (fieldAt d.bytes 0 4)
  x.isOpen && datagramTagged d x.key

/-- A SEQ that the session has not seen, no more than 63 below the highest (R473). -/
def seqFresh (x : Session) (q : Nat) : Bool := decide (1 ≤ q) && decide (x.highest ≤ q + 63) && !x.seen.contains q

/-- The session has accepted a datagram with this SEQ. -/
def noteSeq (n q : Nat) (s : State) : State :=
  updSession n (fun x =>
    let h := max x.highest q
    { x with highest := h, lastAt := s.cycle, seen := (q :: x.seen).filter (fun v => decide (h ≤ v + 63)) }) s

/-- A command datagram of a session is taken and admitted; one that does not verify, or whose SEQ is not fresh, is no
command (R473). -/
def takeDatagram (opc : Nat) (d : Datagram) (go : Cmd → State → State) (s : State) : State :=
  let n := fieldAt d.bytes 0 4
  let bs := datagramBody d true
  let m := cmdOf (.session n d.addr.toNat d.port.toNat) bs
  if mgmtOn s && datagramOk d && decide (m.opcode = opc) && datagramAuth s d && seqFresh (sessionAt s n) m.seq then
    admitCmd m bs go (noteSeq n m.seq (regCount aMgmtRx 1 s))
  else s

/-- A command that has waited is decided: nothing before it holds it up, and no command of a higher class that nothing
holds up waits with it (R29, R468). -/
def takeQueued (opc i : Nat) (go : Cmd → State → State) (s : State) : State :=
  match s.oz.queue[i]? with
  | none => s
  | some q =>
    let m := cmdOf q.origin q.packet
    let ready (k : Nat) (x : Queued) : Bool := !mustWait (cmdOf x.origin x.packet) (s.oz.queue.take k) s
    let above := (List.range s.oz.queue.length).any (fun k =>
      match s.oz.queue[k]? with
      | some x => decide ((classOf (pktField x.packet 0 2)).rank < (classOf m.opcode).rank) && ready k x
      | none => false)
    if m.opcode = opc ∧ ready i q ∧ above = false then
      go m { s with oz := { s.oz with queue := s.oz.queue.eraseIdx i } }
    else s

/-- A command of an opcode reaches Ozmin by a route; messages it sends go to their ports. -/
def command (opc : Nat) (r : Route) (go : Cmd → State → State) (s : State) : State :=
  flushOut (match r with
    | .normal c =>
      match ringPacket s c.toNat false with
      | some bs => if pktField bs 0 2 = opc then
          refuseReserved c.toNat false 4096 (takeRing c.toNat false bs go s) else s
      | none => s
    | .urgent c =>
      match ringPacket s c.toNat true with
      | some bs => if pktField bs 0 2 = opc then
          refuseReserved c.toNat true 16 (takeRing c.toNat true bs go s) else s
      | none => s
    | .session d => takeDatagram opc d go s
    | .queued i => if s.oz.running then takeQueued opc i.toNat go s else s)

/-! ### Reading structures that a command names (R609) -/

/-- Lines of a run, read in turn from number `i` on; the line of number h.which meets the given check. The answer is the
address of an uncorrectable line, if any. -/
def readRegions (h : LineHit) : List (Nat × Nat) → Nat → State → Option Nat × State
  | [], _, s => (none, s)
  | (a, n) :: t, i, s =>
    let k := (pieces a n).length
    let r := physRead s a n (if i ≤ h.which ∧ h.which < i + k then h.ecc else .clean) (h.which - i)
    match r.bad with
    | some pa => (some pa, r.st)
    | none => readRegions h t (i + k) r.st

/-- The global pseudo-channel that serves a physical address. -/
def pcAt (s : State) (pa : Nat) : Nat :=
  match physAt s pa with
  | .hbm st la => 64 * st + pcOf la
  | .carve off => pcOf (carveLa off)
  | _ => 0xFFFF

/-- A fault is recorded for a context and in context 0's ring, with no discard. -/
def recordOnly (f : FaultRec) (ctx : Nat) (s : State) : State :=
  let x := ctxAt s ctx
  let s := if ctx = 0 ∨ x.st = .free ∨ x.desc.faultSlots = 0 then s
    else
      let k := x.kept.faultCount
      let s := poke s (x.desc.faultRing + 64 * (k % x.desc.faultSlots)) (f.bytes ctx s.beat.gnum)
      tallyAdd (updKept s ctx (fun y => { y with faultCount := satAdd 64 y.faultCount 1 })) 0x40 0x20 ctx 1
  record0 f s

/-- FLT_HBM_UE is recorded for the context that a command names and in context 0's ring, with no discard (R609). -/
def recordUe (ctx pa : Nat) (s : State) : State := recordOnly { code := 0x0304, unit := pcAt s pa, arg := pa } ctx s

/-- A command reads structures and goes on, unless a line is uncorrectable: then it completes with ST_FAULTED and has no
other effect (R609). -/
def readingCmd (c : Cmd) (regions : List (Nat × Nat)) (h : LineHit) (go : State → State) (s : State) : State :=
  match readRegions h regions 0 s with
  | (some pa, t) => completeCmd c stFaulted t.beat.gnum [] [] (recordUe c.ctx pa t)
  | (none, t) => go t

end Sys2Proof.Machine
end

