-- ==== Sys2Proof/Machine/Flash.lean ====
section
/-! DEFINITION. The flash and what the device reads in it: Boot Record, Factory Record, owner record and images, and the
identity derived from them (R531 to R544). -/

namespace Sys2Proof.Machine

/-- Bytes of the flash; an erased byte reads 0xFF. -/
def flashGet (s : State) (off n : Nat) : List Byte := sGetAll 0xFF#8 s.boot.flash off n

def flashNat (s : State) (off n : Nat) : Nat := leNat (flashGet s off n)

def flashPut (off : Nat) (bs : List Byte) (s : State) : State :=
  { s with boot := { s.boot with flash := sSetAll 0xFF#8 s.boot.flash off bs } }

def flashErase (off n : Nat) (s : State) : State :=
  { s with boot := { s.boot with flash := sClear s.boot.flash off (off + n) } }

/-- The ASCII bytes of a label (R541). -/
def ascii (t : String) : List Byte := t.toList.map (fun c => BitVec.ofNat 8 c.toNat)

/-! ### The Boot Record (R532, R534, R535) -/

/-- Copy k of the Boot Record is valid. -/
def bootCopyOk (s : State) (k : Nat) : Bool :=
  let b := flashGet s (0x10000 * k) 256
  let root := (b.drop 0x20).take 32
  decide (fieldAt b 0 4 = 0x44425242) && decide (fieldAt b 4 2 = 1) && decide (fieldAt b 0xFC 4 = crc32c (b.take 0xFC)) &&
    decide (sha512Head root = Config.romHash) &&
    Config.ed25519Verify root ((b.drop 0x20).take 64) ((b.drop 0x60).take 64)

/-- The copy in use: of two valid ones, that with the higher SERIAL (R532). -/
def newerCopy (ok : Nat → Bool) (serial : Nat → Nat) : Option Nat :=
  if ok 0 then (if ok 1 && decide (serial 0 < serial 1) then some 1 else some 0)
  else if ok 1 then some 1 else none

def bootCopy (s : State) : Option Nat := newerCopy (bootCopyOk s) (fun k => flashNat s (0x10000 * k + 8) 8)

/-- The Boot Record in use. -/
def bootRecord (s : State) : List Byte := match bootCopy s with | some k => flashGet s (0x10000 * k) 256 | none => []

/-- ACTIVE, TRIAL and FLOOR of the Boot Record in use. -/
def bootActive (s : State) : Nat := fieldAt (bootRecord s) 6 1

def bootTrial (s : State) : Bool := fieldAt (bootRecord s) 7 1 % 2 == 1

def bootFloor (s : State) : Nat := fieldAt (bootRecord s) 0x10 4

/-- The Boot Record is rewritten in the copy not in use, with SERIAL raised by one (R532, R534). -/
def rewriteBoot (active : Nat) (trial : Bool) (floor : Nat) (s : State) : State :=
  match bootCopy s with
  | none => s
  | some k =>
    let b := flashGet s (0x10000 * k) 256
    let head := b.take 6 ++ natLe 1 active ++ natLe 1 (if trial then 1 else 0) ++ natLe 8 (fieldAt b 8 8 + 1) ++ natLe 4 floor ++
      (b.drop 0x14).take (0xFC - 0x14)
    flashPut (0x10000 * (1 - k)) (head ++ natLe 4 (crc32c head)) (flashErase (0x10000 * (1 - k)) 0x10000 s)

/-! ### The Factory Record (R532, R536) -/

def factoryOff (k : Nat) : Nat := 0x20000 + 0x40000 * k

/-- Copy k of the Factory Record is valid: its signature and the certificate it carries verify under ROOT_KEY. -/
def factoryCopyOk (s : State) (k : Nat) : Bool :=
  let o := factoryOff k
  let root := ((bootRecord s).drop 0x20).take 32
  decide (flashNat s o 4 = 0x44465246) && decide (flashNat s (o + 4) 2 = 1) &&
    Config.ed25519Verify root (flashGet s o 0x3FFC0) (flashGet s (o + 0x3FFC0) 64) &&
    Config.ed25519Verify root (flashGet s (o + 8) 16 ++ flashGet s (o + 0x20) 32 ++ flashGet s (o + 6) 2)
      (flashGet s (o + 0x40) 64)

/-- The offset of the Factory Record in use. -/
def factoryBase (s : State) : Option Nat :=
  if factoryCopyOk s 0 then some (factoryOff 0) else if factoryCopyOk s 1 then some (factoryOff 1) else none

/-- Bytes of the Factory Record in use. -/
def factoryGet (s : State) (off n : Nat) : List Byte :=
  match factoryBase s with | some o => flashGet s (o + off) n | none => List.replicate n 0#8

def factoryNat (s : State) (off n : Nat) : Nat := leNat (factoryGet s off n)

/-! ### Identity (R541, R542) -/

/-- The secret that the PUF gives with the Factory Record's helper data. -/
def pufSecretOf (s : State) : List Byte := Config.pufSecret (factoryGet s 0x100 4096)

def identitySeed (s : State) : List Byte := sha512Head (ascii "ST40-ID-SEED" ++ pufSecretOf s)

def sealKey (s : State) : List Byte := sha512Head (ascii "ST40-SEAL" ++ pufSecretOf s)

def identityPublic (s : State) : List Byte := Config.ed25519Public (identitySeed s)

/-- A signature under the identity key. -/
def signIdentity (s : State) (bs : List Byte) : List Byte := Config.ed25519Sign (identitySeed s) bs

/-- Identity is valid (R541). -/
def identityOk (s : State) : Bool :=
  decide (sha512Head (ascii "ST40-PUF-CHECK" ++ pufSecretOf s) = factoryGet s 0x80 32) &&
    decide (identityPublic s = factoryGet s 0x20 32)

/-- The digest that names this device (R472, R528). -/
def deviceDigest (s : State) : List Byte := sha512Head (identityPublic s)

/-! ### The owner record (R532, R538, R542) -/

def ownerOff (k : Nat) : Nat := 0xA0000 + 0x10000 * k

def ownerCopyOk (s : State) (k : Nat) : Bool :=
  let b := flashGet s (ownerOff k) 512
  decide (fieldAt b 0 4 = 0x44524E4F) && decide (fieldAt b 4 2 = 1) && decide (fieldAt b 0x1FC 4 = crc32c (b.take 0x1FC))

def ownerCopy (s : State) : Option Nat := newerCopy (ownerCopyOk s) (fun k => flashNat s (ownerOff k + 8) 8)

/-- The owner record in use, if any. -/
def ownerRecord (s : State) : Option (List Byte) := (ownerCopy s).map (fun k => flashGet s (ownerOff k) 512)

/-- The pad that wraps the owner secret under a SERIAL (R542). -/
def wrapPad (s : State) (serial : Nat) : List Byte := sha512Head (sealKey s ++ natLe 8 serial)

def xorBytes (a b : List Byte) : List Byte := List.zipWith (fun x y => x ^^^ y) a b

/-- The owner secret that a record unseals to; none where its CHECK fails (R542). -/
def unsealOwner (s : State) (b : List Byte) : Option (List Byte) :=
  let secret := xorBytes ((b.drop 0x10).take 32) (wrapPad s (fieldAt b 8 8))
  if hmac256 (sealKey s) secret = (b.drop 0x30).take 32 then some secret else none

/-- The secret of a claimed part: valid and not zero. -/
def ownerSecret (s : State) : Option (List Byte) :=
  match ownerRecord s with
  | none => none
  | some b =>
    match unsealOwner s b with
    | some k => if k.all (fun x => x == 0#8) then none else some k
    | none => none

/-- The owner record of a claimed part as its users see it: key, floor and configuration fields. -/
def ownerField (s : State) (off n : Nat) : Nat :=
  match s.boot.secret, ownerRecord s with
  | some _, some b => fieldAt b off n
  | _, _ => 0

def ticketKey (s : State) (slot : Nat) : List Byte :=
  match ownerRecord s with | some b => (b.drop (0x60 + 32 * slot)).take 32 | none => List.replicate 32 0#8

/-- Bytes replaced in a record. -/
def putBytes (b : List Byte) (off : Nat) (v : List Byte) : List Byte := b.take off ++ v ++ b.drop (off + v.length)

/-- A new owner record is programmed into the copy not in use, with SERIAL raised by one, the secret wrapped under it and
the CRC renewed (R532, R542). -/
def programOwner (secret : List Byte) (b : List Byte) (s : State) : State :=
  let serial := (match ownerRecord s with | some r => fieldAt r 8 8 | none => 0) + 1
  let b := putBytes b 0 (natLe 4 0x44524E4F ++ natLe 2 1 ++ natLe 2 0 ++ natLe 8 serial ++
    xorBytes secret (wrapPad s serial) ++ hmac256 (sealKey s) secret)
  let b := b.take 0x1FC ++ natLe 4 (crc32c (b.take 0x1FC))
  let k := match ownerCopy s with | some k => 1 - k | none => 0
  flashPut (ownerOff k) b (flashErase (ownerOff k) 0x10000 s)

/-! ### Images (R544) -/

def slotOff (k : Nat) : Nat := 0x1000000 + 0x1000000 * k

/-- An image at an offset of the flash checks: magic, kind, version, reserved fields, lengths, digest and signature. -/
def imageOk (s : State) (off room magic kind : Nat) (key : List Byte) : Bool :=
  let h := flashGet s off 192
  let len := fieldAt h 0x10 4
  decide (fieldAt h 0 4 = magic) && decide (fieldAt h 4 2 = 1) && decide (fieldAt h 6 1 = kind) && decide (fieldAt h 7 1 = 0) &&
    decide (fieldAt h 0x0C 4 ≤ fieldAt h 8 4) && decide (fieldAt h 0x18 40 = 0) && decide (192 + len ≤ room) &&
    decide (fieldAt h 0x14 4 < max 1 len) &&
    decide (sha512 (flashGet s (off + 192) len) = (h.drop 0x40).take 64) &&
    Config.ed25519Verify key (h.take 128) ((h.drop 0x80).take 64)

/-- An Ozmin image of a slot checks (R544). -/
def ozminImageOk (s : State) (slot : Nat) : Bool :=
  imageOk s (slotOff slot) 0x1000000 0x4E494D4F 1 (((bootRecord s).drop 0x40).take 32)

/-- The OS loader checks under the ticket key that OS_SLOT names (R544, R548). -/
def loaderOk (s : State) : Bool :=
  let k := ownerField s 0x50 1
  s.boot.secret.isSome && decide (k < 8) && imageOk s 0x3000000 0x2000000 0x52444C4F 2 (ticketKey s k)

def imageVersion (s : State) (off : Nat) : Nat := flashNat s (off + 8) 4

/-- Header and body of an image. -/
def imageBytes (s : State) (off : Nat) : List Byte := flashGet s off (192 + flashNat s (off + 0x10) 4)

end Sys2Proof.Machine
end

