-- ==== Sys2Proof/Machine/Tally.lean ====
section
/-! DEFINITION. The Tally: its entries, the sense periods, the log in flash, checkpoints, replay and reports (R514 to
R530). -/

namespace Sys2Proof.Machine

/-! ### Entries (R514, R515) -/

/-- A row of the table Structures: code, number of units, quantities. -/
structure TallyStruct where
  code : Nat
  units : Nat
  qtys : List Nat

/-- The table Structures, but for STRUCT 0x00 and 0x20, whose units R514 gives apart. -/
def tallyStructs : List TallyStruct :=
  [ ⟨0x01, 4352, [0x01, 0x02]⟩, ⟨0x02, 4352, [0x01, 0x02]⟩, ⟨0x03, 17408, [0x01, 0x02]⟩, ⟨0x04, 4352, [0x01, 0x02]⟩,
    ⟨0x05, 4352, [0x08, 0x40]⟩, ⟨0x06, 256, [0x04, 0x08]⟩, ⟨0x07, 256, [0x01, 0x02]⟩, ⟨0x08, 256, [0x02]⟩,
    ⟨0x09, 17408, [0x04, 0x08]⟩, ⟨0x0A, 8, [0x01, 0x02]⟩, ⟨0x0B, 4, [0x01, 0x02]⟩,
    ⟨0x0C, 512, [0x01, 0x02, 0x05, 0x06, 0x07, 0x08]⟩, ⟨0x0D, 512, [0x01]⟩, ⟨0x0E, 2048, [0x14, 0x15]⟩,
    ⟨0x0F, 16, [0x03, 0x19]⟩, ⟨0x10, 136, [0x01, 0x02, 0x10, 0x11, 0x12, 0x13, 0x14, 0x15]⟩,
    ⟨0x11, 32, [0x03, 0x04, 0x18, 0x19]⟩, ⟨0x12, 4, [0x02, 0x03]⟩,
    ⟨0x18, 29, [0x28, 0x29, 0x2A, 0x2B, 0x2C, 0x2D, 0x2E, 0x2F, 0x30]⟩, ⟨0x19, 4, [0x30, 0x31]⟩, ⟨0x1A, 64, [0x20]⟩,
    ⟨0x1B, 60, [0x21]⟩, ⟨0x1C, 22, [0x38]⟩ ]

/-- The quantities of STRUCT 0x20. -/
def ctxQtys : List Nat := [0x38, 0x40, 0x43, 0x44, 0x45, 0x46]

/-- The fault codes that the spec defines (R489). -/
def faultCodes : List Nat :=
  let run (lo hi : Nat) : List Nat := (List.range (hi + 1 - lo)).map (fun i => lo + i)
  run 0x0101 0x010C ++ run 0x0110 0x0114 ++ run 0x0118 0x011B ++ run 0x0120 0x0124 ++ run 0x0128 0x012B ++
    run 0x0130 0x0132 ++ run 0x0201 0x0206 ++ run 0x0301 0x0312 ++ run 0x0401 0x040B

/-- The kind of a quantity: 0 counter, 1 gauge, 2 maximum, 3 minimum (R515). -/
def qtyKind (q : Nat) : Nat :=
  if [0x08, 0x10, 0x12, 0x14, 0x21].contains q then 1
  else if q = 0x11 ∨ q = 0x30 then 2
  else if q = 0x13 ∨ q = 0x15 ∨ q = 0x31 then 3 else 0

/-- The contexts that have entries: context 0, and those not FREE. -/
def talliedCtxs (s : State) : List Nat :=
  0 :: ((s.ctxs.filter (fun e => decide (e.1 ≠ 0 ∧ e.2.st ≠ .free))).map (fun e => e.1))

def qtyOf (id : Nat) : Nat := id / 2 ^ 24
def structOf (id : Nat) : Nat := id / 2 ^ 16 % 256
def unitOfId (id : Nat) : Nat := id % 2 ^ 16

/-- An identifier names an entry (R514). -/
def tallyExists (s : State) (id : Nat) : Bool :=
  let q := qtyOf id
  let u := unitOfId id
  let total : Bool := u == 0xFFFF && qtyKind q == 0
  match structOf id with
  | 0x00 => (q == 0x40 && (faultCodes.contains u || total)) || ([0x41, 0x42, 0x47].contains q && u == 0)
  | 0x20 => ctxQtys.contains q && ((talliedCtxs s).contains u || total)
  | k => tallyStructs.any (fun r => r.code == k && r.qtys.contains q && (decide (u < r.units) || total))

/-- The value of an entry. A device total adds the units up; that of STRUCT 0x20 keeps what freed contexts had counted. -/
def tallyValue (s : State) (id : Nat) : Nat :=
  if unitOfId id = 0xFFFF then
    (s.tly.vals.filter (fun e => e.1 / 2 ^ 16 == id / 2 ^ 16)).foldl (fun v e => satAdd 64 v e.2) 0
  else sGet 0 s.tly.vals id

/-- FLAGS of an entry (R528). -/
def tallyFlags (s : State) (id : Nat) : Nat :=
  let k := qtyKind (qtyOf id)
  k + (if k = 0 ∧ tallyValue s id = 2 ^ 64 - 1 then 4 else 0) + (if k ≠ 0 ∧ sGet false s.tly.ever id = false then 8 else 0)

/-- Sixteen bytes of a report or checkpoint (R522, R528). -/
def entryBytes (s : State) (id : Nat) : List Byte := natLe 4 id ++ natLe 4 (tallyFlags s id) ++ natLe 8 (tallyValue s id)

/-- The identifiers of a structure's entries. -/
def structIds (s : State) (k : Nat) : List Nat :=
  match k with
  | 0x00 => (faultCodes ++ [0xFFFF]).map (tallyId 0x40 0) ++ [tallyId 0x41 0 0, tallyId 0x42 0 0, tallyId 0x47 0 0]
  | 0x20 => ctxQtys.flatMap (fun q => (talliedCtxs s ++ [0xFFFF]).map (tallyId q 0x20))
  | _ => (tallyStructs.filter (fun r => r.code == k)).flatMap (fun r => r.qtys.flatMap (fun q =>
      ((List.range r.units) ++ (if qtyKind q = 0 then [0xFFFF] else [])).map (tallyId q k)))

/-- All structure codes. -/
def structCodes : List Nat := 0x00 :: (tallyStructs.map (fun r => r.code)) ++ [0x20]

/-- Identifiers in ascending order. -/
def ascending (l : List Nat) : List Nat := l.mergeSort (fun a b => decide (a ≤ b))

def allIds (s : State) : List Nat := ascending (structCodes.flatMap (structIds s))

/-- Some counter is saturated. -/
def anySat (s : State) : Bool := s.tly.vals.any (fun e => qtyKind (qtyOf e.1) == 0 && decide (e.2 = 2 ^ 64 - 1))

/-! ### The log (R522 to R524) -/

/-- A record as it lies in flash (R522). -/
def LogRec.bytes (r : LogRec) : List Byte :=
  let head := natLe 1 r.type ++ natLe 1 r.flags ++ natLe 2 (32 + r.body.length) ++ natLe 4 r.boots ++ natLe 8 r.seq ++
    natLe 8 r.gnum ++ natLe 4 0
  head ++ natLe 4 (crc32c (head ++ r.body)) ++ r.body

/-- A sector's header (R522). -/
def LogSector.header (x : LogSector) : List Byte :=
  let head := natLe 4 0x474F4C54 ++ natLe 4 x.erases ++ natLe 8 x.first ++ natLe 12 0
  head ++ natLe 4 (crc32c head)

/-- Bytes of a sector in use. -/
def LogSector.used (x : LogSector) : Nat := 32 + (x.recs.map (fun r => 32 + r.body.length)).foldl (fun a b => a + b) 0

/-- CKPT, PART and PARTS of a checkpoint record. -/
def LogRec.part (r : LogRec) : Nat × Nat × Nat := (fieldAt r.body 0 8, fieldAt r.body 8 2, fieldAt r.body 10 2)

/-- The parts of the latest complete checkpoint among records. -/
def latestCheckpoint (recs : List LogRec) : List LogRec :=
  let parts := recs.filter (fun r => r.type == 2)
  let whole (k : Nat) : Bool := parts.any (fun r => r.part.1 == k && decide
    ((parts.filter (fun q => q.part.1 == k)).length = r.part.2.2))
  let best := (parts.filter (fun r => whole r.part.1)).foldl (fun v r => max v (r.part.1 + 1)) 0
  parts.filter (fun r => r.part.1 + 1 == best)

/-- All records of the log in flash. -/
def logRecs (s : State) : List LogRec := s.tly.sectors.flatMap (fun x => x.recs)

/-- Entries in a part of a checkpoint: as many as a sector has room for (DESIGN CHOICE). -/
def partEntries : Nat := 4091

/-- A list cut into runs of n. -/
def runsOf {α : Type} (n : Nat) : Nat → List α → List (List α)
  | 0, _ => []
  | fuel + 1, l => if l.isEmpty then [] else l.take n :: runsOf n fuel (l.drop n)

/-- A checkpoint is taken: every existing entry at one instant, in parts that wait among the records (R524). -/
def startCheckpoint (s : State) : State :=
  let es := (allIds s).map (entryBytes s)
  let parts := runsOf partEntries (es.length / partEntries + 1) es
  let recs : List LogRec := parts.mapIdx (fun i p =>
    { type := 2, flags := 0, seq := 0, gnum := s.beat.gnum, boots := 0,
      body := natLe 8 (s.tly.ckpt + 1) ++ natLe 2 i ++ natLe 2 parts.length ++ natLe 4 0 ++ p.flatMap id })
  { s with tly := { s.tly with
      queue := s.tly.queue ++ recs
      ckpt := s.tly.ckpt + 1
      ckptLeft := parts.length
      ckptAt := s.cycle } }

/-- A checkpoint is asked for: one in progress satisfies it (R524). -/
def askCheckpoint (s : State) : State := if s.tly.ckptLeft = 0 then startCheckpoint s else s

/-- The sector of a number holds a part of the latest complete checkpoint, or a record after it (R524). -/
def sectorHeld (s : State) (num : Nat) : Bool :=
  match (latestCheckpoint (logRecs s)).head? with
  | none => false
  | some c => s.tly.sectors.any (fun x => x.num == num && x.recs.any (fun r => decide (c.seq ≤ r.seq)))

/-- A record is programmed: into the sector being written, or into the next one of the circle, which is erased; a sector
that will soon be due and is still held draws a new checkpoint first (R522 to R524). -/
def programRec (r : LogRec) (s : State) : State :=
  let r := { r with seq := s.tly.seq, boots := s.tly.boots }
  let s := regSet { s with tly := { s.tly with seq := s.tly.seq + 1 } } aTlyLogSeq (BitVec.ofNat 64 s.tly.seq)
  match s.tly.sectors.getLast? with
  | some x =>
    if x.used + 32 + r.body.length ≤ 65536 then
      { s with tly := { s.tly with sectors := s.tly.sectors.dropLast ++ [{ x with recs := x.recs ++ [r] }] } }
    else
      let num := (x.num + 1) % 1024
      let erases := match s.tly.sectors.find? (fun y => y.num == num) with | some y => y.erases + 1 | none => 1
      let s := { s with tly := { s.tly with
        sectors := s.tly.sectors.filter (fun y => y.num != num) ++ [⟨num, erases, r.seq, [r]⟩] } }
      if sectorHeld s ((num + 65) % 1024) then askCheckpoint s else s
  | none => { s with tly := { s.tly with sectors := [⟨0, 1, r.seq, [r]⟩] } }

/-- The oldest waiting record is programmed into the flash log, once Ozmin owns the flash (R523). -/
def execLogProgram (s : State) : Host.Outcome State Fault Refusal :=
  .next (match s.oz.running, s.tly.queue with
    | true, r :: rest =>
      let left := if r.type = 2 then s.tly.ckptLeft - 1 else s.tly.ckptLeft
      programRec r { s with tly := { s.tly with queue := rest, ckptLeft := left } }
    | _, _ => s)

/-- Cycles of a number of minutes and of milliseconds. -/
def minutes (n : Nat) : Nat := n * 60 * 3000000000

def millis (n : Nat) : Nat := n * 3000000

/-- A checkpoint falls due CKPT_MIN minutes after the start of the last one (R524). -/
def execCheckpoint (s : State) : Host.Outcome State Fault Refusal :=
  .next (
    let due := s.tly.ckptAt + minutes (effField s aTlyCtl 31 24)
    if s.tly.ready && decide (s.tly.ckptLeft = 0) then startCheckpoint { s with cycle := max s.cycle due } else s)

/-! ### Replay (R525) -/

/-- An event record adds its event to the entries it counts, and its effect to the repair state. -/
def replayRec (counted : Bool) (s : State) (r : LogRec) : State :=
  let f := fieldAt r.body
  let s := if counted then
      match r.type with
      | 3 =>
        let s := tallyAdd s 0x40 0x00 (f 0 2) 1
        if f 0 2 / 256 = 1 ∧ f 0x1A 2 ≠ 0xFFFF then tallyAdd s 0x40 0x05 (f 0x1A 2) 1 else s
      | 4 =>
        let id := f 8 8
        if qtyKind (qtyOf id) = 0 then tallyAdd s (qtyOf id) (structOf id) (unitOfId id) 1
        else tallyGauge s (qtyOf id) (structOf id) (unitOfId id) (if f 0 2 = 0 then 0 else 1)
      | 5 => tallyAdd s 0x07 0x0C (64 * f 8 1 + f 9 1) 1
      | 6 => tallyGauge s 0x08 0x05 (f 0 2) 1
      | _ => s
    else s
  match r.type with
  | 4 =>
    match r.note with
    | [k, st] =>
      let row : Row := if st = 1 then ⟨.remapped1, true, false⟩ else if st = 2 then ⟨.fused, false, false⟩
        else ⟨.remapped2, true, false⟩
      let s := if st = 2 then updDie s (rowDie k) (fun d =>
          { d with hpprUsed := sUpd 0 d.hpprUsed (k / 2 ^ 21 % 64 * 64 + bankOfBlock (k % 2 ^ 21)) (fun v => v + 1) })
        else s
      { s with mem := { s.mem with rows := sSet {} s.mem.rows k row } }
    | [_, p, row, col] => updCell s (p / 4) (fun x =>
        let m := sUpd {} x.arrays (p % 4) (fun a => { a with badRow := row, badCol := col })
        { x with arrays := m })
    | _ => s
  | 5 => { s with mem := { s.mem with retired := sSet false s.mem.retired (f 0 8 / 2 ^ 21) true } }
  | _ => s

/-- The entries of a checkpoint part become the Tally's. -/
def replayPart (s : State) (r : LogRec) : State :=
  (List.range ((r.body.length - 16) / 16)).foldl (fun s i =>
    let id := fieldAt r.body (16 + 16 * i) 4
    let flags := fieldAt r.body (16 + 16 * i + 4) 4
    if unitOfId id = 0xFFFF then s
    else { s with tly := { s.tly with
      vals := sSet 0 s.tly.vals id (fieldAt r.body (16 + 16 * i + 8) 8)
      ever := sSet false s.tly.ever id (flags % 4 != 0 && flags / 8 % 2 == 0) } }) s

/-- The cells that the latest of their records leaves fenced, in the order of those records (R584). -/
def fencedLast (recs : List LogRec) : List Nat :=
  recs.foldl (fun ps r =>
    let p := fieldAt r.body 0 2
    if r.type = 6 then ps.filter (fun q => q != p) ++ [p]
    else match r.type, r.note with
      | 4, [q] => ps.filter (fun x => x != q)
      | _, _ => ps) []

/-- The log is replayed from its latest complete checkpoint, up to the first record that does not check: `torn` is how many
records check, where one does not. Then the BOOT record is appended (R525). -/
def replayLog (torn : Option Nat) (version : Nat) (s : State) : State :=
  let recs := (logRecs s).take (torn.getD (logRecs s).length)
  let parts := latestCheckpoint recs
  let from_ := match parts.getLast? with | some p => p.seq + 1 | none => 0
  let s := parts.foldl replayPart s
  let s := recs.foldl (fun s r => replayRec (decide (from_ ≤ r.seq)) s r) s
  let s := (fencedLast recs).foldl (fun s p => commitFence (p / 17) (applyFence p s)) s
  let last := recs.getLast?
  let clean := match last with | some r => r.type == 2 && r.part.2.1 + 1 == r.part.2.2 | none => false
  let s := { s with tly := { s.tly with
    seq := match last with | some r => r.seq + 1 | none => 0
    boots := match last with | some r => r.boots + 1 | none => 1
    ckpt := parts.foldl (fun v p => max v p.part.1) 0
    ckptAt := s.cycle
    ready := true
    unclean := !clean
    torn := torn.isSome } }
  logAppend s 1 0 (natLe 4 version ++ natLe 4 ((if clean then 0 else 1) + (if torn.isSome then 2 else 0)) ++ natLe 8 0)

/-! ### Reports (R527 to R529) -/

/-- The entries of a report's body, for the kinds that list entries. -/
def reportIds (s : State) (kind scope ctx : Nat) : List Nat :=
  match kind with
  | 1 => ascending (((allIds s).filter (fun id => unitOfId id == 0xFFFF || structOf id == 0x00 || structOf id == 0x19)))
  | 2 => ascending (structIds s scope)
  | _ => ascending (ctxQtys.map (fun q => tallyId q 0x20 ctx))

/-- The body of a report, and its ENTRIES. -/
def reportBody (s : State) (kind scope ctx : Nat) : List Byte × Nat :=
  match kind with
  | 4 =>
    match s.tly.sectors.reverse[scope]? with
    | some x => let b := x.header ++ x.recs.flatMap LogRec.bytes; (b, b.length)
    | none => ([], 0)
  | 5 => let b := (latestCheckpoint (logRecs s)).flatMap LogRec.bytes; (b, b.length)
  | k => let ids := reportIds s k scope ctx; (ids.flatMap (entryBytes s), ids.length)

/-- The timebase in units of 2^-16 ns (R69). -/
def timebase (s : State) : Int := ((s.cycle * 65536 / 3 : Nat) : Int) + s.beat.adjust

def timeNs (s : State) : Nat := (timebase s / 65536).toNat

/-- A report (R528). -/
def reportBytes (s : State) (kind scope ctx : Nat) (nonce : List Byte) : List Byte :=
  let b := reportBody s kind scope ctx
  let sat : Bool := (kind ≤ 3 : Bool) && (reportIds s kind scope ctx).any (fun id => tallyFlags s id / 4 % 2 == 1)
  let flags := (if sat then 1 else 0) + (if s.tly.unclean then 2 else 0) + (if s.flt.safeHold then 4 else 0) +
    (if regGet s aTlyLogDrops ≠ 0#64 then 8 else 0)
  let head := natLe 4 0x52594C54 ++ natLe 2 1 ++ natLe 2 kind ++ natLe 2 (if kind = 3 then ctx else scope) ++ natLe 2 flags ++
    natLe 4 (96 + b.1.length + 64) ++ deviceDigest s ++ nonce ++ natLe 4 s.tly.boots ++ natLe 4 b.2 ++ natLe 8 s.beat.gnum ++
    natLe 8 (timeNs s) ++ natLe 4 s.boot.version ++ natLe 4 0
  head ++ b.1 ++ signIdentity s (head ++ b.1)

/-- REPORT_GET (R527): it waits for the end of the first sense period after its acceptance. -/
def reportGet (c : Cmd) (s : State) : State :=
  let out := c.field 0x18 8
  let need := 96 + (reportBody s (c.field 0 2) (c.field 2 2) c.ctx).1.length + 64
  if s.boot.idOk = false ∨ deniedOut c out = true then refuseCmd c stDenied [] s
  else if out ≠ 0 ∧ c.field 0x20 4 < need then refuseCmd c stLength [0x40, need] s
  else acceptCmd c 0 0 [] s

def execReportGet (r : Route) (s : State) : Host.Outcome State Fault Refusal := .next (command 0x0801 r reportGet s)

/-- Reports whose snapshot is due are built and sent (R529). -/
def sendReports (s : State) : State :=
  (s.jobs.filter (fun j => j.opcode == 0x0801 && j.phase == 0)).foldl (fun s j =>
    let b := reportBytes s (j.field 0 2) (j.field 2 2) j.ctx ((j.payload.drop 8).take 16)
    let s := updJob j.id (fun x => { x with phase := 1 }) (regCount aTlyReports 1 s)
    deliverOut { j with phase := 1 } (j.field 0x18 8) stOk [b.length] b s) s

/-! ### Sampling (R517 to R520) -/

/-- The temperature band of a reading (R518). -/
def bandOf (t : Int) : Nat :=
  if t < 40 then 0 else if t < 55 then 1 else if t < 70 then 2 else if t < 85 then 3 else if t < 95 then 4
  else if t < 105 then 5 else if t < 115 then 6 else 7

/-- The 64-bit value of a signed reading. -/
def signedWord (v : Int) : Nat := (v % 2 ^ 64).toNat

/-- Comparison of readings held as 64-bit values. -/
def readingGt (a b : Nat) : Bool := decide (signedOf 64 a > signedOf 64 b)

/-- The Tally reads a die's temperature once in a period (R517); a region at T_LIM is hot (R563), and a stack's reading is
that of SQ_STAT (R297). -/
def execDieTempRead (die : BitVec 5) (temp : Int) (s : State) : Host.Outcome State Fault Refusal :=
  .next (
    let d := die.toNat
    if d ≥ 29 ∨ s.tly.tempsNew.contains d = true then s
    else
      let s := { s with tly := { s.tly with temps := sPut s.tly.temps d temp, tempsNew := d :: s.tly.tempsNew } }
      let s := if 12 ≤ d ∧ d < 20 then updDie s (d - 12) (fun x => { x with temp := temp.toNat }) else s
      if d < 4 then
        let rest := s.pwr.hot.filter (fun r => r != d)
        { s with pwr := { s.pwr with hot := if 100 ≤ temp then d :: rest else rest } }
      else s)

/-- A read found no slot of the sense bus: a die's, whose previous reading stands, or an oscillator's, which is retried at
the next period (R517, R520). -/
def execSenseReadSkip (osc : Bool) (unit : BitVec 6) (s : State) : Host.Outcome State Fault Refusal :=
  .next (
    let s := regCount aTlySkipped 1 (tallyAdd s 0x41 0 0 1)
    if osc ∧ unit.toNat < 60 then { s with tly := { s.tly with ageLate := unit.toNat :: s.tly.ageLate } } else s)

/-- A clock domain's supply droops; events less than 1 µs apart count as one (R519). -/
def execDroopEvent (domain : BitVec 6) (s : State) : Host.Outcome State Fault Refusal :=
  .next (
    let k := domain.toNat
    let d := sGet {} s.pwr.domains k
    let joined : Bool := decide (d.last ≠ 0 ∧ s.cycle + 1 < d.last + 3000)
    let s := { s with pwr := { s.pwr with domains := sSet {} s.pwr.domains k { d with droop := true, last := s.cycle + 1 } } }
    if joined then s else tallyAdd s 0x20 0x1A k 1)

/-- The value of FP32 bits as a fraction, if it is finite. -/
def fp32Ratio (bits : Nat) : Option (Int × Nat) :=
  match ElemFmt.decode .fp32 bits with
  | .fin sg m e =>
    let n : Int := if sg then -(m : Int) else (m : Int)
    some (if e ≥ 0 then (n * 2 ^ e.toNat, 1) else (n, 2 ^ (-e).toNat))
  | _ => none

/-- A quotient rounded to the nearest integer, halves to even. -/
def roundDiv (n : Int) (d : Nat) : Int :=
  let q := n / (d : Int)
  let r := n - q * d
  if 2 * r > d then q + 1 else if 2 * r = d then (if q % 2 = 0 then q else q + 1) else q

/-- The die that an aging oscillator lies on (R520). -/
def oscDie (u : Nat) : Nat := if u < 32 then u / 8 else if u < 48 then 4 + (u - 32) / 2 else if u < 52 then 28 else 20 + (u - 52)

/-- The shift of an oscillator from its baseline in ppm: of its frequency, less its coefficient for each degree from 60 °C
(R520). -/
def agePpm (hz : Nat) (f0 k : Int × Nat) (temp : Int) : Int :=
  -- (f − f0) / f0 in ppm is (hz − 10^6 f0) / f0, with f0 in MHz
  let num := (hz : Int) * f0.2 - 1000000 * f0.1
  roundDiv (num * k.2 - k.1 * (temp - 60) * f0.1) (f0.1.toNat * k.2)

/-- An aging oscillator is read, at the interval or again after a skip: its frequency in Hz (R520). -/
def execAgeRead (unit : BitVec 6) (hz : Nat) (s : State) : Host.Outcome State Fault Refusal :=
  .next (
    let u := unit.toNat
    if u ≥ 60 then s
    else
      let late := s.tly.ageLate.contains u
      let due := s.tly.ageAt + minutes (60 * effField s aTlyCtl 39 32)
      let now := if late then s.cycle else max s.cycle due
      let s := { s with cycle := now, tly := { s.tly with ageLate := s.tly.ageLate.filter (fun v => v != u) } }
      let s := if late ∨ u ≠ 59 then s else { s with tly := { s.tly with ageAt := due } }
      let temp := (sFind s.tly.temps (oscDie u)).getD 60
      match fp32Ratio (factoryNat s (0x9A00 + 8 * u) 4), fp32Ratio (factoryNat s (0x9A00 + 8 * u + 4) 4) with
      | some f0, some k =>
        if f0.1 ≤ 0 then let f := takeFree s; tallyGauge f.2 0x21 0x1B u (f.1 % 2 ^ 64)
        else tallyGauge s 0x21 0x1B u (signedWord (agePpm hz f0 k temp))
      | _, _ => let f := takeFree s; tallyGauge f.2 0x21 0x1B u (f.1 % 2 ^ 64))

/-- A sense period ends: bands and maxima, then what TLY_CTL holds takes effect, a checkpoint that is due starts, and the
reports are snapshot (R517, R518, R529, R530). -/
def execSensePeriodEnd (s : State) : Host.Outcome State Fault Refusal :=
  .next (
    let at_ := s.tly.periodAt + millis s.tly.period
    let s := { s with cycle := max s.cycle at_ }
    let s : State := s.tly.temps.foldl (fun (s : State) (e : Nat × Int) =>
      let s := tallyAdd s (0x28 + bandOf e.2) 0x18 e.1 s.tly.period
      tallyExtreme s 0x30 0x18 e.1 readingGt (signedWord e.2)) s
    let s := regEffSet s aTlyCtl (regGet s aTlyCtl)
    let s := { s with tly := { s.tly with tempsNew := [], periodAt := at_, period := effField s aTlyCtl 15 0 } }
    let s := if s.tly.ready ∧ s.tly.ckptAt + minutes (effField s aTlyCtl 31 24) ≤ s.cycle then askCheckpoint s else s
    sendReports s)

end Sys2Proof.Machine
end

