-- ==== Sys2Proof/Machine/Mgmt.lean ====
section
/-! DEFINITION. Doorbells and replies, ring sets, sessions, and transfers over the management port (R461 to R475, R479,
R483). -/

namespace Sys2Proof.Machine

/-! ### Doorbells and replies (R462, R463) -/

/-- A doorbell that a ring set does not admit is ignored and counted. -/
def ignoreDoorbell (s : State) : State := regCount aCmdDbIgnored 1 s

/-- A doorbell publishes a submission tail (R462); commands with reserved opcodes are then refused. -/
def publishTail (c : Nat) (urgent : Bool) (tail : Nat) (s : State) : State :=
  let r := ringSet s c
  let size := if urgent then 16 else r.slots
  let head := if urgent then r.uqHead else r.sqHead
  if r.slots = 0 ∨ (tail + 2 ^ 32 - head) % 2 ^ 32 > size then ignoreDoorbell s
  else
    refuseReserved c urgent size
      (updRingSet c (fun r => if urgent then { r with uqTail := tail } else { r with sqTail := tail }) s)

def execNormalTail (ctx : BitVec 14) (tail : BitVec 32) (s : State) : Host.Outcome State Fault Refusal :=
  .next (publishTail ctx.toNat false tail.toNat s)

def execUrgentTail (ctx : BitVec 14) (tail : BitVec 32) (s : State) : Host.Outcome State Fault Refusal :=
  .next (publishTail ctx.toNat true tail.toNat s)

/-- A doorbell publishes the completion head (R463). A head past the replies written is ignored and counted (DEDUCED). -/
def publishHead (c head : Nat) (s : State) : State :=
  let r := ringSet s c
  if r.slots = 0 ∨ (head + 2 ^ 32 - r.cqHead) % 2 ^ 32 > (r.cqTail + 2 ^ 32 - r.cqHead) % 2 ^ 32 then ignoreDoorbell s
  else refuseReserved c false r.slots (refuseReserved c true 16 (updRingSet c (fun r => { r with cqHead := head }) s))

def execCompletionHead (ctx : BitVec 14) (head : BitVec 32) (s : State) : Host.Outcome State Fault Refusal :=
  .next (publishHead ctx.toNat head.toNat s)

/-- A held reply is written into the completion ring once it has room, and the completion tail advances (R463). -/
def postReply (c : Nat) (s : State) : State :=
  let r := ringSet s c
  let size := r.slots + 16
  match r.held with
  | [] => s
  | p :: rest =>
    if s.oz.running = false ∨ s.flt.safeHold = true ∨ (r.cqTail + 2 ^ 32 - r.cqHead) % 2 ^ 32 ≥ size then s
    else
      updRingSet c (fun r => { r with held := rest, cqTail := (r.cqTail + 1) % 2 ^ 32 })
        (poke s (r.cqBase + 64 * (r.cqTail % size)) p.bytes)

def execReplyPost (ctx : BitVec 14) (s : State) : Host.Outcome State Fault Refusal := .next (postReply ctx.toNat s)

/-! ### Ring sets (R461, R479) -/

/-- A ring of n bytes lies at a 4 KiB-aligned base in job space or in the carve-out. -/
def ringFits (s : State) (base n : Nat) : Bool :=
  decide (base % 4096 = 0) &&
    (decide (base + n ≤ jobBytes s) || (decide (0xBC00000000 ≤ base) && decide (base + n ≤ 0xBE00000000)))

/-- The offset of the first field of a ring set that breaks R461, counted from SQ_BASE. -/
def ringFault (s : State) (sq uq cq slots : Nat) : Option Nat :=
  if slots ∉ [16, 32, 64, 128, 256, 512, 1024, 2048, 4096] then some 0x18
  else if !ringFits s sq (256 * slots) then some 0
  else if !ringFits s uq 4096 then some 8
  else if !ringFits s cq (64 * (slots + 16)) then some 0x10
  else none

/-- RING_SET installs a ring set, or removes it with SLOTS 0 (R461, R479). -/
def ringSetCmd (c : Cmd) (s : State) : State :=
  let busy := s.jobs.any (fun j => j.origin.same (.ring c.ctx false)) ||
    s.oz.queue.any (fun q => q.origin.same (.ring c.ctx false))
  let sq := c.field 0 8
  let uq := c.field 8 8
  let cq := c.field 0x10 8
  let slots := c.field 0x18 4
  if busy then refuseCmd c stScopeActive [] s
  else if slots = 0 then updRingSet c.ctx (fun _ => {}) (completeCmd c stOk s.beat.gnum [] [] s)
  else match ringFault s sq uq cq slots with
    | some o => refuseCfg c 0x19 0 (0x20 + o) s
    | none =>
      let s := updRingSet c.ctx (fun _ =>
        { sqBase := sq, uqBase := uq, cqBase := cq, slots := slots, rights := c.field 0x1C 4 }) s
      completeCmd c stOk s.beat.gnum [] [] s

def execRingSet (r : Route) (s : State) : Host.Outcome State Fault Refusal := .next (command 0x0107 r ringSetCmd s)

/-! ### Packets that carry no command (R470, R473) -/

/-- A datagram is the opening of a session: SESSION_HELLO, or SESSION_OPEN of a half-open one. -/
def opensSession (s : State) (d : Datagram) : Bool :=
  let op := fieldAt d.bytes 8 2
  let n := fieldAt d.bytes 0 4
  (op == 0x0A01 && n == 0) || (op == 0x0A02 && s.oz.half.any (fun h => h.num == n))

/-- A datagram to the command port that carries no command to accept. -/
def dropDatagram (d : Datagram) (s : State) : State :=
  let n := fieldAt d.bytes 0 4
  let m := cmdOf (.session n d.addr.toNat d.port.toNat) (datagramBody d true)
  if datagramOk d = false ∨ opensSession s d = true then s
  else if datagramAuth s d = false then regCount aMgmtAuthFail 1 s
  else if seqFresh (sessionAt s n) m.seq = false then regCount aMgmtReplay 1 s
  else if (opRow m.opcode).isNone then takeDatagram m.opcode d (fun _ s => s) s
  else s

/-- The management port takes a packet that carries no command to accept. -/
def execMgmtDatagram (p : MgmtPacket) (s : State) : Host.Outcome State Fault Refusal :=
  .next (
    if mgmtOn s = false then s
    else match p with
      | .solicit a => { s with oz := { s.oz with sent := s.oz.sent ++ [⟨a.toNat, 0, true, natLe 6 (regGet s aMgmtMac).toNat⟩] } }
      | .echo a bs => { s with oz := { s.oz with sent := s.oz.sent ++ [⟨a.toNat, 0, true, bs⟩] } }
      | .udp d => dropDatagram d s
      | .fragment | .other => regCount aMgmtDrops 1 s)

/-! ### Sessions (R471 to R473) -/

/-- A session number that is not in use, at or above a free value. -/
def freshSession (s : State) (f : Nat) : Nat :=
  ((List.range 32).map (fun i => (f + i) % 2 ^ 32)).find? (fun n =>
    n != 0 && !(openSessions s).contains n && !s.oz.half.any (fun h => h.num == n)) |>.getD 1

/-- The refusal of a command outside any session: its reply goes untagged. -/
def refuseUntagged (c : Cmd) (num addr port status : Nat) (det : List Nat) (s : State) : State :=
  sendUntagged num addr port ⟨c.tag, status, c.opcode, c.seq, c.ctx, false, s.beat.gnum, det⟩ (regCount aCmdRefused 1 s)

/-- The faults of a packet outside any session: reserved fields, context, length. -/
def openFault (c : Cmd) (bs : List Byte) (len : Nat) : Option (Nat × List Nat) :=
  if c.flags ≥ 4 then some (stReserved, [2])
  else if c.ctx ≥ 2 ^ 14 then some (stReserved, [4])
  else if pktField bs 0x0C 4 ≠ 0 then some (stReserved, [0x0C])
  else if pktField bs 0x18 8 ≠ 0 then some (stReserved, [0x18])
  else if c.ctx ≠ 0 then some (stContextInvalid, [])
  else if pktField bs 6 2 ≠ len then some (stLength, [6])
  else match (payloadChecks c.opcode c.payload).find? (fun e => !e.2) with
    | some e => some (stReserved, [0x20 + e.1])
    | none => none

/-- SESSION_HELLO (R471): a device nonce and a session number go back untagged; a ninth half-open session displaces the
oldest. -/
def hello (d : Datagram) (s : State) : State :=
  let bs := datagramBody d false
  let c := cmdOf (.session 0 d.addr.toNat d.port.toNat) bs
  if mgmtOn s = false ∨ datagramOk d = false ∨ fieldAt d.bytes 0 4 ≠ 0 ∨ c.opcode ≠ 0x0A01 then s
  else
    let s := regCount aMgmtRx 1 s
    match openFault c bs 16 with
    | some e => refuseUntagged c 0 d.addr.toNat d.port.toNat e.1 e.2 s
    | none =>
      let f := takeFree s
      let g := takeFree f.2
      let s := g.2
      let n := freshSession s g.1
      let nonce := natLe 16 f.1
      let half := s.oz.half ++ [⟨n, c.payload.take 16, nonce⟩]
      let s := regCount aCmdAccepted 1 { s with oz := { s.oz with half := half.drop (half.length - 8) } }
      sendUntagged 0 d.addr.toNat d.port.toNat
        ⟨c.tag, stOk, c.opcode, c.seq, 0, false, s.beat.gnum, [fieldAt nonce 0 8, fieldAt nonce 8 8, n]⟩ s

def execSessionHello (r : Route) (s : State) : Host.Outcome State Fault Refusal :=
  .next (match r with
    | .session d => hello d s
    | r => command 0x0A01 r (fun _ s => s) s)

/-- The session key K (R471). -/
def sessionKey (secret ticket : List Byte) (h : HalfOpen) : List Byte := hmac256 secret (ticket.take 0x40 ++ h.device ++ h.client)

/-- The ticket of a SESSION_OPEN is good (R472). -/
def ticketGood (s : State) (t : List Byte) : Bool :=
  let slot := fieldAt t 6 1
  let key := ticketKey s slot
  s.boot.idOk && !key.all (fun b => b == 0#8) && Config.ed25519Verify key (t.take 0x40) ((t.drop 0x40).take 64) &&
    decide ((t.drop 0x18).take 32 = deviceDigest s) && decide (ownerField s (0x160 + 8 * slot) 8 ≤ fieldAt t 0x10 8) &&
    decide (1 ≤ fieldAt t 0x0C 4) && decide (fieldAt t 0x0C 4 ≤ 86400)

/-- SESSION_OPEN (R472). -/
def openSession (d : Datagram) (s : State) : State :=
  let n := fieldAt d.bytes 0 4
  let addr := d.addr.toNat
  let port := d.port.toNat
  let bs := datagramBody d true
  let c := cmdOf (.session n addr port) bs
  match s.oz.half.find? (fun h => h.num == n) with
  | none => s
  | some h =>
    if mgmtOn s = false ∨ datagramOk d = false ∨ c.opcode ≠ 0x0A02 then s
    else
      let s := regCount aMgmtRx 1 s
      match openFault c bs 128, s.boot.secret with
      | some e, _ => refuseUntagged c n addr port e.1 e.2 s
      | none, none => refuseUntagged c n addr port stTicket [] s
      | none, some secret =>
        let key := sessionKey secret c.payload h
        if ticketGood s c.payload = false ∨ datagramTagged d key = false then refuseUntagged c n addr port stTicket [] s
        else if (openSessions s).length ≥ 16 then refuseUntagged c n addr port stSessionFull [] s
        else
          let x : Session :=
            { isOpen := true
              key := key
              rights := fieldAt c.payload 8 4
              openedAt := s.cycle
              lifetime := fieldAt c.payload 0x0C 4
              lastAt := s.cycle
              highest := c.seq
              seen := [c.seq] }
          let rest := s.oz.half.filter (fun h => h.num != n)
          let s := updSession n (fun _ => x) { s with oz := { s.oz with half := rest } }
          completeCmd c stOk s.beat.gnum [fieldAt c.payload 0x0C 4] [] s

def execSessionOpen (r : Route) (s : State) : Host.Outcome State Fault Refusal :=
  .next (match r with
    | .session d => openSession d s
    | r => command 0x0A02 r (fun _ s => s) s)

/-- The number of the session that a command came by. -/
def Cmd.sessionNum (c : Cmd) : Nat := match c.origin with | .session n _ _ => n | .ring _ _ => 0

/-- SESSION_CLOSE: the reply leaves, and the session closes (R472). -/
def execSessionClose (r : Route) (s : State) : Host.Outcome State Fault Refusal :=
  .next (command 0x0A03 r (fun c s => closeSession c.sessionNum (completeCmd c stOk s.beat.gnum [] [] s)) s)

/-- Cycles of a number of seconds. -/
def seconds (n : Nat) : Nat := n * 3000000000

/-- A session closes after MGMT_CTL.IDLE seconds without an accepted datagram (R472). -/
def execSessionIdleExpiry (num : BitVec 32) (s : State) : Host.Outcome State Fault Refusal :=
  .next (
    let x := sessionAt s num.toNat
    if x.isOpen = false then s
    else closeSession num.toNat { s with cycle := max s.cycle (x.lastAt + seconds (regField s aMgmtCtl 31 16)) })

/-- A session closes after LIFETIME seconds (R472). -/
def execSessionLifetimeExpiry (num : BitVec 32) (s : State) : Host.Outcome State Fault Refusal :=
  .next (
    let x := sessionAt s num.toNat
    if x.isOpen = false then s
    else closeSession num.toNat { s with cycle := max s.cycle (x.openedAt + seconds x.lifetime) })

/-! ### Transfers (R475) -/

/-- A transfer ends, and its job gets its reply. -/
def endXfer (x : Xfer) (status : Nat) (s : State) : State :=
  let s := { s with oz := { s.oz with xfers := s.oz.xfers.filter (fun y => y.job != x.job) } }
  match jobById s x.job with
  | some j => endJob j status s.beat.gnum x.det s
  | none => s

def putXfer (x : Xfer) (s : State) : State :=
  { s with oz := { s.oz with xfers := s.oz.xfers.map (fun y => if y.job = x.job then x else y) } }

/-- The transfer of a session and a TAG. -/
def xferOf (s : State) (num tag : Nat) : Option Xfer := s.oz.xfers.find? (fun x => x.num == num && x.tag == tag)

/-- XFER_ACK: bytes received contiguously; the last ends a report's transfer. An offset past what has been sent, or no further
than before, changes nothing (DEDUCED). -/
def ackXfer (c : Cmd) (s : State) : State :=
  let s := completeCmd c stOk s.beat.gnum [] [] s
  let o := c.field 8 8
  match xferOf s c.sessionNum (c.field 0 4) with
  | none => s
  | some x =>
    if o ≤ x.acked ∨ x.sent < o then s
    else if o = x.data.length ∧ x.kind ≠ 3 then endXfer x x.status s
    else
      let r := pushXfer 256 { x with acked := o, at_ := s.cycle } s
      putXfer r.1 r.2

def execXferAck (r : Route) (s : State) : Host.Outcome State Fault Refusal := .next (command 0x0A08 r ackXfer s)

/-- After 1 s without progress a transfer is sent again from the acknowledged offset. -/
def execXferResend (num : BitVec 32) (tag : BitVec 32) (s : State) : Host.Outcome State Fault Refusal :=
  .next (match xferOf s num.toNat tag.toNat with
    | none => s
    | some x =>
      let r := pushXfer 256 { x with sent := x.acked } { s with cycle := max s.cycle (x.at_ + seconds 1) }
      putXfer r.1 r.2)

/-- After 10 s without progress a transfer ends with ST_XFER_TIMEOUT. -/
def execXferTimeout (num : BitVec 32) (tag : BitVec 32) (s : State) : Host.Outcome State Fault Refusal :=
  .next (match xferOf s num.toNat tag.toNat with
    | none => s
    | some x => endXfer x stXferTimeout { s with cycle := max s.cycle (x.at_ + seconds 10) })

/-- The management lane comes up at a speed, or loses its link (R601). A strap may fix the technology or disable the
port (R603). -/
def execMgmtLinkUp (speed : BitVec 2) (s : State) : Host.Outcome State Fault Refusal :=
  .next (
    let k := s.pins.straps % 4
    let v := speed.toNat
    if v = 3 ∨ (v = 1 ∧ k = 1) ∨ (v = 2 ∧ k = 2) ∨ (v ≠ 0 ∧ k = 3) then s
    else { s with pins := { s.pins with mgmtSpeed := v } })

end Sys2Proof.Machine
end

