-- ==== Sys2Proof/Machine/Boot.lean ====
section
/-! DEFINITION. The boot sequence, restarts of Ozmin, firmware update, the owner record and quotes (R537 to R556). -/

namespace Sys2Proof.Machine

/-! ### Stages (R546 to R548) -/

/-- Boot stops (R547): ALERT_N is asserted. -/
def bootFails (error : Nat) (s : State) : State :=
  { s with boot := { s.boot with status := 2, error := error }, pins := { s.pins with alert := true } }

/-- Boot goes on with an error reported; the first one reported stays. -/
def bootError (error : Nat) (s : State) : State :=
  if s.boot.error = 0 then { s with boot := { s.boot with error := error } } else s

/-- The cell repair map of the Factory Record (R537): the failed position's number lies at position 16. -/
def loadCellRepair (s : State) : State :=
  (factoryGet s 0x1100 256).zipIdx.foldl (fun s e =>
    let v := e.1.toNat
    if v / 128 = 1 ∧ v % 32 < 16 then
      updCell (updBlk s e.2 (fun b => { b with pos := sSet 0 b.pos (v % 32) 17, spare := none, health := .committed }))
        (17 * e.2 + v % 32) (fun x => { x with fenced := true })
    else s) s

/-- The array repair maps of the Factory Record (R536). -/
def loadArrayRepair (s : State) : State :=
  (List.range 17408).foldl (fun s i =>
    let v := factoryNat s (0x1200 + 2 * i) 2
    if v = 0x1F1F then s
    else updCell s (i / 4) (fun x =>
      let m := sUpd {} x.arrays (i % 4) (fun a => { a with badRow := v % 256, badCol := v / 256 })
      { x with arrays := m })) s

/-- Stage 3: repair maps, MAC, identity and owner record (R537, R539, R541, R542). -/
def bootStage3 (s : State) : State :=
  if (factoryBase s).isNone then bootFails 0x02 s
  else
    let s := loadArrayRepair (loadCellRepair s)
    let s := regSet s aMgmtMac (BitVec.ofNat 64 (factoryNat s 0x18 6))
    let ok := identityOk s
    let s := { s with boot := { s.boot with idOk := ok, secret := ownerSecret s, stage := 4 } }
    let s := if ok then s else bootError 0x04 s
    if s.boot.secret.isSome ∨ (ownerRecord s).isNone = true then s else bootError 0x05 s

/-- Stage 4: every stack is trained; a failed one is marked failed (R293, R548). -/
def bootStage4 (fails : BitVec 8) (s : State) : State :=
  let s := (List.range 8).foldl (fun s n => updDie s n (fun d => { d with state := if fails.getLsbD n then 2 else 1 })) s
  { s with boot := { s.boot with stage := 5 } }

/-- A measurement joins the chain (R545). -/
def addMeasure (type version : Nat) (bytes : List Byte) (s : State) : State :=
  let d := sha512 bytes
  { s with boot := { s.boot with chain := s.boot.chain ++ [⟨type, version, d⟩], measure := sha512 (s.boot.measure ++ d) } }

/-- The chain before its first measurement. -/
def emptyChain (s : State) : State :=
  { s with boot := { s.boot with chain := [], measure := List.replicate 64 0#8 } }

/-- Measurements 1 to 4 (R545). -/
def measureBoot (s : State) : State :=
  let s := addMeasure 1 0 (((bootRecord s).drop 0x20).take 0x80) (emptyChain s)
  let s := addMeasure 2 (factoryNat s 6 2) (factoryGet s 0 0x40000) s
  let s := addMeasure 3 s.boot.version (imageBytes s (slotOff s.boot.slot)) s
  match s.boot.secret, ownerRecord s with
  | some _, some b => addMeasure 4 (fieldAt b 8 4) (putBytes b 0x10 (List.replicate 64 0#8)) s
  | _, _ => s

/-- A slot may be started (R547). -/
def startable (s : State) (slot : Nat) : Bool :=
  ozminImageOk s slot && decide (bootFloor s ≤ imageVersion s (slotOff slot))

/-- Stage 7: the image is chosen and measured (R547, R553). -/
def bootStage7 (s : State) : State :=
  let a := bootActive s
  let run (slot : Nat) (fallback : Bool) (s : State) : State :=
    let b := { s.boot with slot := slot, version := imageVersion s (slotOff slot), fallback := fallback
                           trialFail := false, ownerChanged := false, stage := 8 }
    measureBoot { s with boot := b }
  if !s.boot.trialFail && startable s a then run a false s
  else if startable s (1 - a) then run (1 - a) true (rewriteBoot (1 - a) false (bootFloor s) s)
  else bootFails 0x03 s

/-- Context 0's ring set and fault ring are those of the owner record, where they check (R539). -/
def loadPlatform (s : State) : State :=
  let sq := ownerField s 0x1A0 8
  let uq := ownerField s 0x1A8 8
  let cq := ownerField s 0x1B0 8
  let slots := ownerField s 0x1B8 4
  let rights := ownerField s 0x1BC 4
  let ring := ownerField s 0x1C0 8
  let n := ownerField s 0x1C8 4
  let good : Bool := slots != 0 && (ringFault s sq uq cq slots).isNone && rights % 2 == 0
  let set : RingSet := if good then { sqBase := sq, uqBase := uq, cqBase := cq, slots := slots, rights := rights } else {}
  let fits : Bool := decide (n ∈ (List.range 13).map (fun i => 2 ^ (i + 4))) && decide (ring % 64 = 0) &&
    decide (ring + 64 * n ≤ jobBytes s)
  let s := updRingSet 0 (fun _ => set) s
  { s with flt := { s.flt with ring0 := ring, slots0 := if fits then n else 0 } }

/-- Stage 8: Ozmin starts; the OS loader is checked, measured and started (R546, R548). -/
def bootStage8 (s : State) : State :=
  let s := loadPlatform s
  let s := { s with
    oz := { s.oz with running := true, since := s.cycle }
    boot := { s.boot with status := 1, booted := true } }
  let dark : Bool := decide ((dieAt s 0).state = 2) && decide ((dieAt s 4).state = 2)
  if !dark && loaderOk s then
    let s := addMeasure 5 (imageVersion s 0x3000000) (imageBytes s 0x3000000) s
    { s with boot := { s.boot with osRun := true } }
  else bootError 0x06 { s with boot := { s.boot with osRun := false } }

/-- The stage in progress ends and the next begins (R546): `fails` names the stacks that fail their training, and `torn`
says how many records of the Tally log check, where one does not. -/
def execBootStage (fails : BitVec 8) (torn : Option Nat) (s : State) : Host.Outcome State Fault Refusal :=
  .next (
    let next (k : Nat) (s : State) : State := { s with boot := { s.boot with stage := k } }
    if s.pins.inReset ∨ s.boot.status ≠ 0 then s
    else match s.boot.stage with
      | 1 => if s.pins.straps / 8 % 2 = 1 then { s with boot := { s.boot with status := 2 } } else next 2 s
      | 2 => if (bootCopy s).isNone then bootFails 0x01 s else next 3 s
      | 3 => bootStage3 s
      | 4 => bootStage4 fails s
      | 5 => next 6 (replayLog torn (imageVersion s (slotOff (bootActive s))) s)
      | 6 => next 7 { s with mem := { s.mem with hbm := [], poison := [] } }
      | 7 => bootStage7 s
      | _ => bootStage8 s)

/-! ### Restart and trial (R469, R552, R553) -/

/-- Ozmin stops and boot stages 7 and 8 are to run: ring sets but context 0's, sessions and commands in progress go without
reply (R469, R552). -/
def restartOzmin (trialFail : Bool) (s : State) : State :=
  { s with
    oz := { s.oz with running := false, rings := s.oz.rings.filter (fun e => e.1 == 0), sessions := [], half := [],
                      queue := [], xfers := [] }
    jobs := []
    boot := { s.boot with stage := 7, status := 0, restart := false, trialFail := trialFail } }

/-- Ozmin restarts when FW_ACTIVATE asked for it, or when it fails to reach RUNNING (R552). -/
def execOzminRestart (s : State) : Host.Outcome State Fault Refusal :=
  .next (
    if s.boot.restart then restartOzmin false s
    else if s.boot.stage = 8 ∧ s.boot.status = 0 then restartOzmin (bootTrial s) s
    else s)

/-- An uncorrectable error of the Hall firmware: every resident context faults and Ozmin restarts (R490, R552). -/
def execFltHallFw (s : State) : Host.Outcome State Fault Refusal :=
  .next (
    if s.oz.running = false then s
    else restartOzmin (bootTrial s) (flushOut (raiseDeviceFault { code := 0x0405 } s)))

/-- A TRIAL image that has run 60 s is confirmed (R553). -/
def execTrialConfirm (s : State) : Host.Outcome State Fault Refusal :=
  .next (
    if s.oz.running = false ∨ bootTrial s = false ∨ bootActive s ≠ s.boot.slot then s
    else
      let req := flashNat s (slotOff s.boot.slot + 0x0C) 4
      rewriteBoot (bootActive s) false (max (bootFloor s) req) { s with cycle := max s.cycle (s.oz.since + seconds 60) })

/-! ### Firmware update (R550, R551) -/

/-- The shadow slot: the one that Ozmin did not start from. -/
def shadowSlot (s : State) : Nat := 1 - s.boot.slot

/-- FW_WRITE: its bytes wait to be programmed (R550). -/
def fwWrite (h : LineHit) (c : Cmd) (s : State) : State :=
  let off := c.field 0 4
  let len := c.field 4 4
  let src := c.field 8 8
  if src = 0 ∧ c.fromRing = true then refuseCmd c stDenied [] s
  else if off + len > 0x1000000 then refuseCmd c stImageInvalid [] s
  else if bootActive s = shadowSlot s then refuseCmd c stScopeActive [] s
  else if src = 0 then acceptCmd { c with payload := c.payload.take (16 + len) } 0 0 [] s
  else readingCmd c [(src, len)] h (fun s =>
    acceptCmd { c with payload := c.payload.take 16 ++ peek s src len } 0 0 [] s) s

def execFwWrite (r : Route) (h : LineHit) (s : State) : Host.Outcome State Fault Refusal :=
  .next (command 0x0A04 r (fwWrite h) s)

/-- The 64 KiB sectors of a run of bytes, from the start of a slot. -/
def sectorsOf (off len : Nat) : List Nat :=
  if len = 0 then [] else (List.range (((off + len - 1) / 0x10000) + 1 - off / 0x10000)).map (fun i => off / 0x10000 + i)

/-- The bytes of the oldest FW_WRITE are programmed, a sector being erased before its first write (R550). -/
def execImageProgrammingDone (s : State) : Host.Outcome State Fault Refusal :=
  .next (match s.jobs.find? (fun j => j.opcode == 0x0A04) with
    | none => s
    | some j =>
      let off := j.field 0 4
      let data := j.payload.drop 16
      let base := slotOff (shadowSlot s)
      let fresh := (sectorsOf off data.length).filter (fun k => !s.boot.erased.contains k)
      let s := fresh.foldl (fun s k => flashErase (base + 0x10000 * k) 0x10000 s) s
      let s := { s with boot := { s.boot with erased := s.boot.erased ++ fresh } }
      endJob j stOk s.beat.gnum [data.length] (flashPut (base + off) data s))

/-- FW_ACTIVATE (R551). -/
def fwActivate (c : Cmd) (s : State) : State :=
  let base := slotOff (shadowSlot s)
  let len := c.field 0 4
  let restart : Bool := c.field 4 4 == 1
  if flashNat s (base + 0x10) 4 + 192 ≠ len ∨ ozminImageOk s (shadowSlot s) = false then refuseCmd c stImageInvalid [] s
  else if imageVersion s base < bootFloor s then refuseCmd c stRollback [] s
  else if (bootTrial s = true ∧ bootActive s = s.boot.slot) ∨ (restart = true ∧ unparked s ≠ []) then
    refuseCmd c stScopeActive [] s
  else
    let s := rewriteBoot (shadowSlot s) true (bootFloor s) s
    let s := { s with boot := { s.boot with erased := [] } }
    let s := completeCmd c stOk s.beat.gnum [imageVersion s base] [] s
    if restart then closeSessions { s with boot := { s.boot with restart := true } } else s

def execFwActivate (r : Route) (s : State) : Host.Outcome State Fault Refusal := .next (command 0x0A05 r fwActivate s)

/-! ### Quotes (R554) -/

/-- A quote. -/
def quoteBytes (s : State) (nonce : List Byte) : List Byte :=
  let b := s.boot
  let flags := (if bootTrial s then 1 else 0) + (if b.ownerChanged then 2 else 0) + (if s.flt.safeHold then 4 else 0) +
    (if b.secret.isSome then 8 else 0) + (if b.fallback then 16 else 0)
  let body := natLe 4 0x54455551 ++ natLe 2 1 ++ natLe 2 b.chain.length ++ natLe 4 flags ++ natLe 4 b.version ++
    natLe 4 (bootFloor s) ++ natLe 1 b.slot ++ natLe 3 0 ++ natLe 4 s.tly.boots ++ natLe 4 0 ++ natLe 8 s.beat.gnum ++
    nonce ++ factoryGet s 8 16 ++ factoryGet s 6 2 ++ natLe 6 0 ++ identityPublic s ++ factoryGet s 0x40 64 ++ b.measure ++
    b.chain.flatMap (fun m => natLe 2 m.type ++ natLe 2 0 ++ natLe 4 m.version ++ m.digest)
  body ++ signIdentity s body

def attestQuote (c : Cmd) (s : State) : State :=
  let out := c.field 0x20 8
  if s.boot.idOk = false ∨ deniedOut c out = true then refuseCmd c stDenied [] s
  else
    let q := quoteBytes s (c.payload.take 32)
    answerOut c out [q.length] q s

def execAttestQuote (r : Route) (s : State) : Host.Outcome State Fault Refusal := .next (command 0x0A06 r attestQuote s)

/-! ### The owner record (R540, R556) -/

/-- TICKET_FLOOR never lowers a floor (R483, R540). -/
def ticketFloor (c : Cmd) (s : State) : State :=
  let slot := c.field 0 1
  let v := c.field 8 8
  let s := match s.boot.secret, ownerRecord s with
    | some k, some b =>
      if fieldAt b (0x160 + 8 * slot) 8 < v then
        let t := programOwner k (putBytes b (0x160 + 8 * slot) (natLe 8 v)) s
        { t with boot := { t.boot with ownerChanged := true } }
      else s
    | _, _ => s
  completeCmd c stOk s.beat.gnum [] [] s

def execTicketFloor (r : Route) (s : State) : Host.Outcome State Fault Refusal := .next (command 0x0A07 r ticketFloor s)

/-- The four words staged for an item. -/
def stagedItem (m : Sparse (List Nat)) (i : Nat) : List Nat := sGet [0, 0, 0, 0] m i

/-- The bytes of staged words. -/
def wordBytes (ws : List Nat) : List Byte := (List.range 4).flatMap (fun i => natLe 8 (ws.getD i 0))

/-- A record with a staged item in place (R556). Installing a key sets the slot's floor to zero (R540). -/
def stageInto (b : List Byte) (e : Nat × List Nat) : List Byte :=
  let w := e.2
  if e.1 = 0 then b
  else if e.1 ≤ 8 then putBytes (putBytes b (0x60 + 32 * (e.1 - 1)) (wordBytes w)) (0x160 + 8 * (e.1 - 1)) (natLe 8 0)
  else if e.1 = 9 then putBytes b 0x1A0 (wordBytes w)
  else
    putBytes (putBytes b 0x1C0 (natLe 8 (w.getD 0 0) ++ natLe 4 (w.getD 1 0 % 2 ^ 32))) 0x50
      (natLe 1 (w.getD 1 0 / 2 ^ 32))

/-- COMMIT: unless BUSY, or the staged secret is all zero, a new record is to be programmed (R556). -/
def commitOwner (s : State) : State :=
  let zero : Bool := (sFind s.boot.staged 0).isSome && (stagedItem s.boot.staged 0).all (fun w => w == 0)
  if s.boot.writing.isSome ∨ zero = true then s
  else { s with boot := { s.boot with writing := some (.commit s.boot.staged) } }

/-- RELEASE: unless BUSY, both copies are to be erased (R556). -/
def releaseOwner (s : State) : State :=
  if s.boot.writing.isSome then s else { s with boot := { s.boot with writing := some .release } }

/-- A word of the item in ITEM is staged (R556). -/
def stageWord (i : Nat) (v : Word) (s : State) : State :=
  let item := regField s aBootOwnSel 3 0
  let ws := updAt (stagedItem s.boot.staged item) i (fun _ => v.toNat)
  { s with boot := { s.boot with staged := sPut s.boot.staged item ws } }

/-- The new owner record is programmed, or both copies are erased: BUSY clears, the staged items go, and every session
closes (R540, R556). -/
def execOwnerRecordWritten (s : State) : Host.Outcome State Fault Refusal :=
  .next (match s.boot.writing with
    | none => s
    | some w =>
      let s := match w with
        | .release => flashErase (ownerOff 0) 0x20000 s
        | .commit items =>
          let b := (ownerRecord s).getD (putBytes (List.replicate 512 0#8) 0x50 [0xFF#8])
          let old := match ownerRecord s with | some r => (unsealOwner s r).getD (List.replicate 32 0#8) | none => List.replicate 32 0#8
          let secret := if (sFind items 0).isSome then wordBytes (stagedItem items 0) else old
          programOwner secret (items.foldl stageInto b) s
      let staged := match w with | .release => s.boot.staged | .commit _ => []
      let s := { s with boot := { s.boot with writing := none, staged := staged, ownerChanged := true } }
      closeSessions { s with boot := { s.boot with secret := ownerSecret s } })

end Sys2Proof.Machine
end

