-- ==== Sys2Proof/Machine/Power.lean ====
section
/-! DEFINITION. Power and clocks: budgets, pacing and energy, Safe-Hold, the environment, the rails and resets, and the
checks of the device's own units (R344, R490, R506 to R509, R557 to R572, R603 to R605). -/

namespace Sys2Proof.Machine

/-! ### Commands (R565, R566) -/

/-- PWR_CAP: it takes effect at the next boundary. -/
def pwrCap (c : Cmd) (s : State) : State :=
  let v := c.field 0 4
  if v ≠ 0 ∧ (v < 1500 ∨ 3600 < v) then refuseCfg c 0x19 0 0x20 s
  else acceptCmd c (s.beat.gnum + 1) 0 [if v = 0 then 3600 else v] s

def execPwrCap (r : Route) (s : State) : Host.Outcome State Fault Refusal := .next (command 0x0901 r pwrCap s)

/-- PWR_SHARE: it takes effect at the next boundary. -/
def pwrShare (c : Cmd) (s : State) : State :=
  if (ctxAt s c.ctx).st = .free then refuseCmd c stCtxState [] s
  else acceptCmd c (s.beat.gnum + 1) 0 [c.field 0 4] s

def execPwrShare (r : Route) (s : State) : Host.Outcome State Fault Refusal := .next (command 0x0902 r pwrShare s)

/-! ### Energy (R344, R345) -/

/-- Energy in units of 10^-5 mJ joins a count of mJ and its remainder. -/
def addEnergy (rem e : Nat) : Nat × Nat := ((rem + e) / 100000, (rem + e) % 100000)

/-- Energy of a structure's account. -/
def energyAccount (unit e : Nat) (s : State) : State :=
  let r := addEnergy (sGet 0 s.pwr.rems unit) e
  tallyAdd { s with pwr := { s.pwr with rems := sSet 0 s.pwr.rems unit r.2 } } 0x38 0x1C unit r.1

/-- Energy of a context; context 0 has its Tally entry only. -/
def energyCtx (c e : Nat) (s : State) : State :=
  if c = 0 then
    let r := addEnergy s.pwr.rem0 e
    tallyAdd { s with pwr := { s.pwr with rem0 := r.2 } } 0x38 0x20 0 r.1
  else
    let k := (ctxAt s c).kept
    let r := addEnergy k.energyRem e
    let carry : Nat := if k.energy + r.1 ≥ 2 ^ 64 then 1 else 0
    tallyAdd (updKept s c (fun k => { k with energy := satAdd 64 k.energy r.1, energyRem := r.2, acct := k.acct ||| carry }))
      0x38 0x20 c r.1

/-- Energy divided in proportion to weights, nothing left over: what does not divide goes to the last, and with no weight
to context 0 (R344). -/
def divideEnergy (e total : Nat) : List (Nat × Nat) → Nat → State → State
  | [], left, s => energyCtx 0 left s
  | [(c, _)], left, s => energyCtx c left s
  | (c, w) :: t, left, s => divideEnergy e total t (left - e * w / total) (energyCtx c (e * w / total) s)

def shareEnergy (e : Nat) (ws : List (Nat × Nat)) (s : State) : State :=
  let ws := ws.filter (fun x => x.2 != 0)
  divideEnergy e ((ws.map (fun x => x.2)).foldl (fun a b => a + b) 0) ws e s

/-- The weights of the unparked contexts by their traffic to a die or engine. -/
def trafficWeights (s : State) (key : Nat) : List (Nat × Nat) :=
  (unparked s).map (fun c => (c, sGet 0 (ctxAt s c).traffic key))

/-- One measured part: its account, its idle energy to context 0, and the rest to the contexts. -/
def measuredPart (unit : Nat) (p : Nat × Nat) (ws : List (Nat × Nat)) (s : State) : State :=
  shareEnergy (p.1 - p.2) ws (energyCtx 0 (min p.1 p.2) (energyAccount unit p.1 s))

/-- The energy of an interval is divided. -/
def divideInterval (m : PowerReading) (s : State) : State :=
  let s := (List.range 4).foldl (fun s r => measuredPart r (m.regions.getD r (0, 0))
    ((m.shares.filter (fun x => x.2.1 == r)).map (fun x => (x.1, x.2.2.2))) s) s
  let s := (List.range 8).foldl (fun s n => measuredPart (4 + n) (m.dies.getD n (0, 0)) (trafficWeights s n) s) s
  let s := (List.range 8).foldl (fun s k => measuredPart (12 + k) (m.engines.getD k (0, 0)) (trafficWeights s (8 + k)) s) s
  let s := energyCtx 0 m.hall (energyAccount 20 m.hall s)
  let s := energyCtx 0 m.loss (energyAccount 21 m.loss s)
  (unparked s).foldl (fun s c => updCtx s c (fun x => { x with traffic := [] })) s

/-! ### Budgets and pacing (R563 to R569) -/

/-- WEIGHT of a context (R566). -/
def weightOf (s : State) (c : Nat) : Nat :=
  let w := (ctxAt s c).desc.power % 256
  if w = 0 then 16 else w

/-- Blocks that a context holds in a region. -/
def blocksIn (s : State) (c r : Nat) : Nat := ((partBlocks s c).filter (fun g => g / 64 == r)).length

/-- The unparked contexts with blocks in a region. -/
def regionCtxs (s : State) (r : Nat) : List Nat := (unparked s).filter (fun c => decide (blocksIn s c r ≠ 0))

/-- B′ of a region in 10^-3 W: BUDGET scaled to the cap, and by 0.8 while the region is hot. -/
def regionBudget (s : State) (r : Nat) : Nat :=
  let sum := (List.range 4).foldl (fun a i => a + 1000 * s.pwr.policy.budget.getD i 0) 0
  let other := s.pwr.other.foldl (fun a b => a + b) 0 / s.pwr.other.length
  let left := 1000 * effField s aPwrCtl 11 0 - other
  let b := 1000 * s.pwr.policy.budget.getD r 0
  let b := if sum ≤ left then b else b * left / sum
  if s.pwr.hot.contains r then b * 8 / 10 else b

/-- S_rc of R566. -/
def powerShare (s : State) (b c r : Nat) : Nat :=
  let total := (regionCtxs s r).foldl (fun a j => a + weightOf s j * blocksIn s j r) 0
  b * (weightOf s c * blocksIn s c r) / total

/-- The cells of a context that are gated in a region. -/
def gatedIn (s : State) (c r : Nat) : Nat :=
  ((partCells s c).filter (fun l => regionOf l == r && (match (cellAt s (physOf s l)).seq.wait with
    | some w => w.gated
    | none => false))).length

def ungatedIn (s : State) (c r : Nat) : Nat := ((partCells s c).filter (fun l => regionOf l == r)).length - gatedIn s c r

/-- L_rc of R567: what the gated cells of the region lend, in proportion to weight times ungated cells (R569). -/
def powerLent (s : State) (b c r : Nat) : Nat :=
  if s.pwr.policy.lend then
    let pool := (regionCtxs s r).foldl (fun a j => a + powerShare s b j r * gatedIn s j r / (16 * blocksIn s j r)) 0
    let total := (regionCtxs s r).foldl (fun a j => a + weightOf s j * ungatedIn s j r) 0
    pool * (weightOf s c * ungatedIn s c r) / total
  else 0

/-- The level of a context in a region. -/
def paceAt (s : State) (c r : Nat) : Nat := sGet 0 s.pwr.pace (4 * c + r)

/-- One context's level after an interval, and whether it ends above its share at MAX_PACE (R567). -/
def nextPace (s : State) (b c r power : Nat) : Nat × Bool :=
  let due := powerShare s b c r + powerLent s b c r
  let p := paceAt s c r
  if power > due then (min (p + 1) s.pwr.policy.maxPace, p == s.pwr.policy.maxPace)
  else if power * 100 < due * 95 then (p - 1, false)
  else (p, false)

/-- The levels of a region's contexts move; the answer says whether one ends OVER. -/
def paceRegion (m : PowerReading) (a : Bool × State) (r : Nat) : Bool × State :=
  let b := regionBudget a.2 r
  let xs := (regionCtxs a.2 r).map (fun c =>
    (c, nextPace a.2 b c r (match m.shares.find? (fun x => x.1 == c && x.2.1 == r) with | some x => x.2.2.1 | none => 0)))
  let s := xs.foldl (fun s x => { s with pwr := { s.pwr with pace := sSet 0 s.pwr.pace (4 * x.1 + r) x.2.1 } }) a.2
  let q := { s.pwr with
    measured := updAt s.pwr.measured r (fun _ => (m.regions.getD r (0, 0)).1)
    budget := updAt s.pwr.budget r (fun _ => b)
    paceMax := updAt s.pwr.paceMax r (fun _ => xs.foldl (fun v x => max v x.2.1) 0) }
  (a.1 || xs.any (fun x => x.2.2), { s with pwr := q })

/-- Loans of cells that are gated no longer are withdrawn. -/
def settleLoans (s : State) : State :=
  (s.pwr.loans.filter (fun e => match (cellAt s (physOf s e.1)).seq.wait with | some w => !w.gated | none => true)).foldl
    (fun s e => reclaimPower e.1 s) s

/-- A sense interval ends: budgets, shares, levels and energy. -/
def execPowerInterval (m : PowerReading) (s : State) : Host.Outcome State Fault Refusal :=
  .next (
    if s.pins.inReset ∨ s.flt.safeHold then s
    else
      let s := settleLoans s
      let sum := fun (l : List (Nat × Nat)) => l.foldl (fun a x => a + x.1) 0
      let other := sum (m.dies.take 8) + sum (m.engines.take 8) + m.hall + m.loss
      let s := { s with pwr := { s.pwr with other := (other :: s.pwr.other).take 100 } }
      let r := [0, 1, 2, 3].foldl (paceRegion m) (false, s)
      let s := { r.2 with pwr := { r.2.pwr with overCap := r.1 } }
      let s := if r.1 then regCount aPwrOver 1 s else s
      divideInterval m (regCount aPwrPaced m.held s))

/-! ### Safe-Hold (R507, R557) -/

/-- The domains whose rails are shed in Safe-Hold: those of regions, base dies and engines. -/
def shedDomains (m : Sparse Domain) : Sparse Domain :=
  (List.range 56).foldl (fun m k => sUpd {} m k (fun d => { d with running := false, locked := false })) m

/-- A cell stops at once, with nothing in its queues or in flight. -/
def Cell.halt (x : Cell) : Cell := { x with seq := {}, units := {} }

/-- Every cell, Mill, gate and move engine stops, and every context's work goes. -/
def haltAll (s : State) : State :=
  let cells := (s.cells.map (fun (e : Nat × Cell) => (e.1, e.2.halt))).filter (fun e => decide (e.2 ≠ ({} : Cell)))
  let ctxs := s.ctxs.map (fun (e : Nat × Ctx) => (e.1, { e.2 with run := {}, upd := none }))
  { s with
    cells := cells
    ctxs := ctxs.filter (fun e => decide (e.2 ≠ ({} : Ctx)))
    sync := { s.sync with ops := [], releases := [], cancels := [] }
    gate := { s.gate with ops := [], held := [] }
    pwr := { s.pwr with pace := [], loans := [], domains := shedDomains s.pwr.domains } }

/-- Every laser is dark and every port down. -/
def darken (s : State) : State :=
  let dark (t : Port) : Port := { ({} : Port) with txBytes := t.txBytes, replays := t.replays, downs := t.downs, drops := t.drops }
  let ports := (s.link.ports.map (fun (e : Nat × Port) => (e.1, dark e.2))).filter (fun e => decide (e.2 ≠ ({} : Port)))
  { s with link := { s.link with ports := ports, inbox := [] }, out := [] }

/-- The commands in progress end: those of sessions with ST_FAULTED, those of rings without a reply (R507). -/
def endAllJobs (s : State) : State :=
  let s := s.jobs.foldl (fun s j => match j.origin with
    | .session _ _ _ => endJob j stFaulted s.beat.gnum [] s
    | .ring _ _ => dropJob j.id s) { s with oz := { s.oz with xfers := [] } }
  let s := s.oz.queue.foldl (fun s q => match q.origin with
    | .session _ _ _ => refuseCmd (cmdOf q.origin q.packet) stDenied [] s
    | .ring _ _ => s) s
  let held := s.oz.rings.map (fun (e : Nat × RingSet) => (e.1, { e.2 with held := [] }))
  { s with oz := { s.oz with queue := [], rings := held.filter (fun e => decide (e.2 ≠ ({} : RingSet))) } }

/-- A device fault of R506 enters Safe-Hold: the fault is recorded with SAFE_HOLD set, everything stops, the rails of R557
are shed and ALERT_N is asserted; the Tally takes a checkpoint. -/
def enterSafeHold (f : FaultRec) (s : State) : State :=
  if s.flt.safeHold then record0 { f with flags := f.flags ||| recSafeHold } s
  else
    let s := raiseFault { f with flags := f.flags ||| recSafeHold } (residents s) s
    let s := endAllJobs (darken (haltAll s))
    askCheckpoint { s with
      flt := { s.flt with safeHold := true }
      pins := { s.pins with alert := true, pwrgd := false } }

/-! ### Resets (R509, R546, R558 to R562, R603 to R605) -/

/-- The device in reset: every register and memory at its reset value; flash, the rails and the debug ports as they
are. -/
def resetDevice (s : State) : State :=
  let pins := { s.pins with inReset := true, alert := false, tripped := false, mgmtSpeed := 0, straps := 0 }
  { State.reset with
    pending := s.pending, fresh := s.fresh, pins := pins, readOut := s.readOut
    boot := { State.reset.boot with flash := s.boot.flash }
    tly := { State.reset.tly with sectors := s.tly.sectors } }

/-- PERST_N is asserted. Rails that Safe-Hold shed stay off until the input has qualified again. -/
def execPerstNAssert (s : State) : Host.Outcome State Fault Refusal := .next (resetDevice s)

/-- Every rail is off. -/
def powerOff (s : State) : State :=
  let t := resetDevice s
  { t with pins := { pwrgd := false, inReset := true } }

/-- The input lies below 38 V for 100 µs or above 63 V for 10 µs (R560). -/
def execInputProtect (s : State) : Host.Outcome State Fault Refusal := .next (powerOff s)

/-- The input has qualified and every rail is in regulation (R558). -/
def execInputQualified (s : State) : Host.Outcome State Fault Refusal :=
  .next (if s.pins.inReset then { s with pins := { s.pins with pwrgd := true } } else s)

/-- Release from reset samples the straps and begins boot (R559, R603); a trigger of R562 holds it off. -/
def execResetRelease (straps : BitVec 4) (s : State) : Host.Outcome State Fault Refusal :=
  .next (if s.pins.inReset ∧ s.pins.pwrgd ∧ s.pins.alert = false then
      let t := resetDevice s
      { t with pins := { t.pins with inReset := false, straps := straps.toNat } } else s)

/-! ### The environment (R561 to R563) -/

/-- A trigger: Safe-Hold, or before boot stage 8 the device is kept in reset with ALERT_N asserted. -/
def envTrigger (f : FaultRec) (s : State) : State :=
  if s.flt.safeHold ∨ s.boot.booted ∨ s.boot.stage ≥ 8 then enterSafeHold f s
  else
    let t := resetDevice s
    { t with pins := { t.pins with alert := true } }

/-- A sample lies outside its sensor's range, how many in a row trigger, and the fault's code. -/
def sensorRule (k : Nat) (v : Int) : Bool × Nat × Nat :=
  match k with
  | 0 => (decide (v < 40000 ∨ 60000 < v), 50, 0x0408)
  | 1 => (decide (v < 200 ∨ 400 < v), 3, 0x0409)
  | 2 => (decide (v < 2500), 10, 0x0409)
  | _ => (decide (v < -50000 ∨ 50000 < v), 3, 0x040A)

/-- A sensor's value in a field of 64 bits. -/
def envFault (code k : Nat) (v : Int) : FaultRec := { code := code, unit := k, arg := signedWord v }

def execEnvSensorSample (sensor : BitVec 2) (value : Int) (s : State) : Host.Outcome State Fault Refusal :=
  .next (
    let k := sensor.toNat
    if s.pins.inReset then s
    else
      let r := sensorRule k value
      let n := if r.1 then (sGet {} s.pwr.sensors k).outside + 1 else 0
      let s := { s with pwr := { s.pwr with sensors := sSet {} s.pwr.sensors k ⟨value, n⟩ } }
      let s := tallyExtreme s 0x30 0x19 k readingGt (signedWord value)
      let s := tallyExtreme s 0x31 0x19 k (fun a b => readingGt b a) (signedWord value)
      if n = r.2.1 then flushOut (envTrigger (envFault r.2.2 k value) s) else s)

/-- No reference edge for 1 µs (R561). -/
def execRefclockLoss (s : State) : Host.Outcome State Fault Refusal :=
  .next (if s.pins.inReset then s
    else flushOut (envTrigger (envFault 0x040A 3 (sGet {} s.pwr.sensors 3).value) s))

/-- A die passes its trip temperature (R563); in reset the rails go off (R604). -/
def execThermtrip (die : BitVec 5) (s : State) : Host.Outcome State Fault Refusal :=
  .next (
    if die.toNat ≥ 29 then s
    else if s.pins.inReset then powerOff s
    else
      let s := { s with pins := { s.pins with tripped := true } }
      flushOut (enterSafeHold { code := 0x040B, unit := die.toNat } s))

/-! ### Checks of the device's own units (R490, R571) -/

/-- A device fault after which no context is unparked until a Hall MUSTER_RUN passes. -/
def unitCheck (f : FaultRec) (s : State) : State :=
  flushOut { raiseDeviceFault f s with flt := { (raiseDeviceFault f s).flt with unparkBarred := true } }

def execFltBeatMaster (s : State) : Host.Outcome State Fault Refusal := .next (unitCheck { code := 0x0406 } s)

def execFltPowerManager (s : State) : Host.Outcome State Fault Refusal := .next (unitCheck { code := 0x0407 } s)

/-- A domain's PLL loses lock: within the specification of sensor 3 the domain stops and the power manager faults. -/
def execPllLockLoss (domain : BitVec 6) (s : State) : Host.Outcome State Fault Refusal :=
  .next (
    let k := domain.toNat
    let stop (s : State) : State :=
      { s with pwr := { s.pwr with domains := sUpd {} s.pwr.domains k (fun d => { d with running := false, locked := false }) } }
    if (sensorRule 3 (sGet {} s.pwr.sensors 3).value).1 then
      { s with pwr := { s.pwr with domains := sUpd {} s.pwr.domains k (fun d => { d with locked := false }) } }
    else unitCheck { code := 0x0407, unit := k } (stop s))

/-- A parity or state check of a cell fails: the cell is fenced (R490). -/
def execFltCellInternal (c : LCell) (s : State) : Host.Outcome State Fault Refusal :=
  .next (if isVacant s c.toNat then s else flushOut (raiseCellFault { code := 0x0131 } c.toNat s))

/-- An internal check of a gate fails (R490). -/
def execFltGateInternal (region : BitVec 2) (s : State) : Host.Outcome State Fault Refusal :=
  .next (flushOut (raiseRegionFault { code := 0x0311, unit := region.toNat } region.toNat s))

end Sys2Proof.Machine
end

