-- ==== Sys2Proof/Machine/Slots.lean ====
section
/-! DEFINITION. Reserved slots of streets, avenues, edges, hub ports, ring lanes and optical ports, and their conflicts
(R235 to R246, R270, R414, R415). -/

namespace Sys2Proof.Machine

/-! ### Lanes that a stream reserves (R236, R237, R240) -/

/-- Slots that a stream holds on a lane: the lane's name, how many streams may hold one slot of it, and the slots. -/
structure LaneUse where
  lane : Nat
  cap : Nat
  mask : Nat

/-- An end of a stream's route: a logical cell of a block, a block store, or a stack's base die. -/
inductive RouteEnd
  | cell (g c : Nat)
  | store (g : Nat)
  | stack (n : Nat)

/-- Names of lanes. A block store's four ports and a hub port's eight lanes are not told apart: a slot of them may be held
that many times (DESIGN CHOICE). -/
def laneCellOut (g c : Nat) : Nat × Nat := (0x0000000 + 16 * g + c, 1)
def laneCellIn (g c : Nat) : Nat × Nat := (0x1000000 + 16 * g + c, 1)
def laneStoreOut (g : Nat) : Nat × Nat := (0x2000000 + g, 4)
def laneStoreIn (g : Nat) : Nat × Nat := (0x3000000 + g, 4)
def laneStopOut (g b : Nat) : Nat × Nat := (0x4000000 + 2 * g + b, 1)
def laneStopIn (g b : Nat) : Nat × Nat := (0x5000000 + 2 * g + b, 1)
/-- An avenue link that leaves the stop of a block: direction 0 east, 1 west, 2 south, 3 north. -/
def laneAvenue (g dir b : Nat) : Nat × Nat := (0x6000000 + 8 * g + 2 * dir + b, 1)
/-- An edge port of a region: edge 0 west, 1 east, 2 north; outward or inward. -/
def laneEdge (r edge i b : Nat) (out : Bool) : Nat × Nat :=
  (0x7000000 + 256 * r + 64 * edge + 4 * i + 2 * b + (if out then 1 else 0), 1)
def laneHub (n : Nat) (out : Bool) : Nat × Nat := (0x8000000 + 2 * n + (if out then 1 else 0), 8)
def laneRing (a b lane : Nat) : Nat × Nat := (0x9000000 + 64 * a + 16 * b + lane, 1)

/-- Row and column of a block's stop (R18). -/
def stopRow (g : Nat) : Nat := g / 8 % 8
def stopCol (g : Nat) : Nat := g % 8

/-- The avenue links from a stop along its row, then along the column of the destination, with the cycle of each counted
from `t`: a hop takes two cycles, the first entered two cycles after the stop (DESIGN CHOICE). -/
def avenueLinks (r row col row' col' b t : Nat) : List ((Nat × Nat) × Nat) :=
  let stop (i j : Nat) : Nat := 64 * r + 8 * i + j
  let along := (List.range (if col < col' then col' - col else col - col')).map (fun i =>
    if col < col' then laneAvenue (stop row (col + i)) 0 b else laneAvenue (stop row (col - i)) 1 b)
  let down := (List.range (if row < row' then row' - row else row - row')).map (fun i =>
    if row < row' then laneAvenue (stop (row + i) col') 2 b else laneAvenue (stop (row - i) col') 3 b)
  (along ++ down).mapIdx (fun i l => (l, t + 2 + 2 * i))

/-- Hops of avenue between two stops of a region. -/
def avenueHops (g h : Nat) : Nat := (avenueLinks 0 (stopRow g) (stopCol g) (stopRow h) (stopCol h) 0 0).length

/-- Block of an end, if it is a cell or a block store. -/
def RouteEnd.block (e : RouteEnd) : Option Nat :=
  match e with
  | .cell g _ => some g
  | .store g => some g
  | .stack _ => none

/-- Region of an end. -/
def RouteEnd.region (e : RouteEnd) : Nat :=
  match e with
  | .cell g _ => g / 64
  | .store g => g / 64
  | .stack n => n / 2

def RouteEnd.outPort (e : RouteEnd) : List (Nat × Nat) :=
  match e with
  | .cell g c => [laneCellOut g c]
  | .store g => [laneStoreOut g]
  | .stack _ => []

def RouteEnd.inPort (e : RouteEnd) : List (Nat × Nat) :=
  match e with
  | .cell g c => [laneCellIn g c]
  | .store g => [laneStoreIn g]
  | .stack _ => []

/-- The lanes of a route with the cycles at which a flit reaches them, but for ring lanes. -/
def routeLanes (src dst : RouteEnd) (b : Nat) : List ((Nat × Nat) × Nat) :=
  let at_ (l : List (Nat × Nat)) (t : Nat) : List ((Nat × Nat) × Nat) := l.map (fun x => (x, t))
  match src.block, dst.block with
  | some g, some h =>
    if g = h then at_ src.outPort 0 ++ at_ dst.inPort 8
    else if src.region = dst.region then
      let t := 8 + 4 + 2 * avenueHops g h
      at_ src.outPort 0 ++ [(laneStopOut g b, 8)] ++
        avenueLinks src.region (stopRow g) (stopCol g) (stopRow h) (stopCol h) b 8 ++ [(laneStopIn h b, t)] ++ at_ dst.inPort (t + 8)
    else
      at_ src.outPort 0 ++ [(laneStopOut g b, 8)] ++
        avenueLinks src.region (stopRow g) (stopCol g) 0 (stopCol g) b 8 ++
        [(laneEdge src.region 2 (stopCol g) b true, 26), (laneEdge dst.region 2 (stopCol h) b false, 83)] ++
        avenueLinks dst.region 0 (stopCol h) (stopRow h) (stopCol h) b 83 ++ [(laneStopIn h b, 101)] ++ at_ dst.inPort 109
  | some g, none =>
    match dst with
    | .stack n =>
      if src.region = n / 2 then
        at_ src.outPort 0 ++ [(laneStopOut g b, 8)] ++
          avenueLinks (n / 2) (stopRow g) (stopCol g) (stopRow g) (if n % 2 = 0 then 0 else 7) b 8 ++
          [(laneEdge (n / 2) (n % 2) (stopRow g) b true, 26)]
      else
        at_ src.outPort 0 ++ [(laneStopOut g b, 8)] ++
          avenueLinks src.region (stopRow g) (stopCol g) 0 (stopCol g) b 8 ++
          [(laneEdge src.region 2 (stopCol g) b true, 26), (laneHub n true, 95)]
    | _ => []
  | none, some h =>
    match src with
    | .stack n =>
      if dst.region = n / 2 then
        [(laneEdge (n / 2) (n % 2) (stopRow h) b false, 12)] ++
          avenueLinks (n / 2) (stopRow h) (if n % 2 = 0 then 0 else 7) (stopRow h) (stopCol h) b 12 ++
          [(laneStopIn h b, 30)] ++ at_ dst.inPort 38
      else
        [(laneHub n false, 0), (laneEdge dst.region 2 (stopCol h) b false, 69)] ++
          avenueLinks dst.region 0 (stopCol h) (stopRow h) (stopCol h) b 69 ++ [(laneStopIn h b, 87)] ++ at_ dst.inPort 95
    | _ => []
  | none, none => []

/-- The directed ring links between two regions (R236). -/
def ringHops (a b : Nat) : List (Nat × Nat) :=
  if a = b then []
  else if (a = 0 ∧ b = 3) ∨ (a = 3 ∧ b = 0) then [(a, 1), (1, b)]
  else if (a = 1 ∧ b = 2) ∨ (a = 2 ∧ b = 1) then [(a, 0), (0, b)]
  else [(a, b)]

/-- Slots of a wheel of 64, turned by d. -/
def turned (mask d : Nat) : Nat := (mask * 2 ^ (d % 64)) % 2 ^ 64 + mask / 2 ^ (64 - d % 64)

/-- How many of n bits are set. -/
def bitsSet (n mask : Nat) : Nat := ((List.range n).filter (fun i => mask / 2 ^ i % 2 == 1)).length

/-- The ends of a stream, from the source of its data: none where a block lies outside the partition. -/
def streamEnds (blocks : List Nat) (t : Stream) : Option (RouteEnd × RouteEnd) :=
  match blocks[t.blk]? with
  | none => none
  | some g =>
    let far : Option RouteEnd := match t.kind with
      | 0 => (blocks[t.dest / 16]?).map (fun h => .cell h (t.dest % 16))
      | 1 => (blocks[t.dest]?).map (fun h => .store h)
      | _ => if t.dest < 8 then some (.stack t.dest) else none
    far.map (fun e => if t.dir = 0 then (.cell g t.cell, e) else (e, .cell g t.cell))

/-- The directed ring links that a stream crosses. -/
def streamRing (blocks : List Nat) (t : Stream) : List (Nat × Nat) :=
  match streamEnds blocks t with
  | some (a, b) => ringHops a.region b.region
  | none => []

/-- What a stream reserves. -/
def streamUses (blocks : List Nat) (t : Stream) : List LaneUse :=
  match streamEnds blocks t with
  | none => []
  | some (a, b) =>
    (routeLanes a b (t.lane % 2)).map (fun e => ⟨e.1.1, e.1.2, turned t.wheel e.2⟩) ++
      (ringHops a.region b.region).map (fun h => let l := laneRing h.1 h.2 (t.lane / 2 % 8); ⟨l.1, l.2, t.ring⟩)

/-- What a table reserves. -/
def tableUses (blocks : List Nat) (ts : List Stream) : List LaneUse := ts.flatMap (streamUses blocks)

/-- How often a slot of a lane is held. -/
def slotCount (us : List LaneUse) (lane i : Nat) : Nat :=
  (us.filter (fun u => u.lane == lane && u.mask / 2 ^ i % 2 == 1)).length

/-- Two streams hold a slot of a lane that only one may hold. -/
def tableOver (us : List LaneUse) : Bool :=
  us.any (fun u => (List.range 64).any (fun i => decide (slotCount us u.lane i > u.cap)))

/-! ### Conflicts between contexts (R246, R270, R415) -/

/-- The largest of a list of numbers. -/
def largest (l : List Nat) : Nat := l.foldl max 0

/-- The slot tables of a plan, each as its streams. -/
def planTables (s : State) (plan : Nat) : List (List Stream) :=
  let dir := planSlots s plan
  (List.range (peekNat s (dir + 6) 2)).map (fun t => slotStreams s (slotTableAddr s dir t))

/-- The blocks and the tables of each resident context but one, and of that one under a plan; a context with no plan
reserves nothing. -/
def tableSets (s : State) (c plan : Nat) : List (List Nat × List (List Stream)) :=
  (partBlocks s c, planTables s plan) ::
    ((residents s).filter (fun d => d != c && planOf (ctxAt s d) != 0)).map (fun d =>
      (partBlocks s d, planTables s (planOf (ctxAt s d))))

/-- The slots per wheel that a table reserves at a region's edge in a direction. -/
def edgeSlots (blocks : List Nat) (r : Nat) (out : Bool) (ts : List Stream) : Nat :=
  ts.foldl (fun a t => a + ((streamRing blocks t).filter (fun h => (if out then h.1 else h.2) == r)).length * bitsSet 64 t.ring) 0

/-- The injection slots of a table's CTX streams that name a stack. -/
def stackSlots (n : Nat) (ts : List Stream) : Nat :=
  ts.foldl (fun a t => if t.kind ≥ 2 ∧ t.dest = n then a + bitsSet 64 t.wheel else a) 0

/-- A plan's tables conflict with those of the other resident contexts: a slot held twice, an edge's limit of 640 or a
stack's of 768. -/
def slotConflict (s : State) (c plan : Nat) : Bool :=
  let sets := tableSets s c plan
  let uses := sets.map (fun x => x.2.map (tableUses x.1))
  let sum (f : List Nat × List (List Stream) → Nat) : Nat := sets.foldl (fun a x => a + f x) 0
  (uses.headD []).any (fun us => us.any (fun u => (List.range 64).any (fun i =>
    decide (uses.foldl (fun a tabs => a + largest (tabs.map (fun t => slotCount t u.lane i))) 0 > u.cap)))) ||
  (List.range 4).any (fun r => [true, false].any (fun out =>
    decide (sum (fun x => largest (x.2.map (edgeSlots x.1 r out))) > 640))) ||
  (List.range 8).any (fun n => decide (sum (fun x => largest (x.2.map (stackSlots n))) > 768))

/-- A stream of a link table: number, port of the region, destination, slots of the wheel of 256. -/
structure LinkStream where
  num : Nat
  port : Nat
  dest : Nat
  wheel : Nat

/-- Streams of the link table at an address. -/
def linkStreams (s : State) (tab : Nat) : List LinkStream :=
  (List.range (peekNat s (tab + 2) 2)).map (fun i =>
    let a := tab + 0x20 + 48 * i
    ⟨peekNat s a 2, peekNat s (a + 2) 1, peekNat s (a + 4) 2, peekNat s (a + 16) 32⟩)

/-- The link tables of a plan by address; none where it has no directory. -/
def planLinkTables (s : State) (plan : Nat) : List Nat :=
  let dir := planLinks s plan
  if dir = 0 then [] else (List.range (peekNat s (dir + 6) 2)).map (fun t => peekNat s (dir + 0x10 + 8 * t) 8)

/-- Ports and slots that a plan's link tables hold. -/
def linkUses (s : State) (plan : Nat) : List (Nat × Nat) :=
  (planLinkTables s plan).flatMap (fun a =>
    let r := peekNat s (a + 4) 1
    (linkStreams s a).map (fun t => (8 * r + t.port, t.wheel)))

/-- A plan's link tables meet the reservations of another resident context (R415). -/
def linkConflict (s : State) (c plan : Nat) : Bool :=
  ((residents s).filter (fun d => d != c && planOf (ctxAt s d) != 0)).any (fun d =>
    (linkUses s (planOf (ctxAt s d))).any (fun x => (linkUses s plan).any (fun y => x.1 == y.1 && Nat.land x.2 y.2 != 0)))

/-- The ports that a context's active link tables name. -/
def linkPorts (s : State) (c : Nat) : List Nat :=
  if planOf (ctxAt s c) = 0 then [] else (linkUses s (planOf (ctxAt s c))).map (fun x => x.1)

end Sys2Proof.Machine
end

