-- ==== Sys2Proof/Machine/Validate.lean ====
section
/-! DEFINITION. Validation of plans, shard maps and the device-scope sets (R43, R79, R164, R165, R244, R245, R261, R323,
R324, R346, R349, R414 to R417, R501, R564, R611). -/

namespace Sys2Proof.Machine

/-- The first failure of a structure: its code and index of R611, and the byte offset. -/
structure CfgFail where
  code : Nat
  index : Nat
  off : Nat
  deriving DecidableEq, Repr

/-- The first field at fault, of fields in ascending offset. -/
def badField (code index : Nat) (fs : List (Nat × Bool)) : Option CfgFail :=
  (fs.find? (fun e => !e.2)).map (fun e => ⟨code, index, e.1⟩)

/-- The first failure of structures in their order. -/
def firstFail (l : List (Option CfgFail)) : Option CfgFail := l.findSome? (fun x => x)

/-- A CRC-32C in memory covers the bytes of some runs. -/
def crcHolds (s : State) (at_ : Nat) (runs : List (Nat × Nat)) : Bool :=
  decide (crc32c (runs.flatMap (fun r => peek s r.1 r.2)) = peekNat s at_ 4)

/-- A run of bytes is zero. -/
def zeroAt (s : State) (a n : Nat) : Bool := peekNat s a n == 0

/-- Logical cell 15 of the degraded block of partition block b (R501). -/
def lostCell (s : State) (blocks : List Nat) (b c : Nat) : Bool :=
  c == 15 && (match blocks[b]? with | some g => (blk s g).lost15 | none => false)

/-! ### Plans (R43) -/

/-- The plan header. -/
def planHeaderFail (s : State) (blocks : List Nat) (plan : Nat) : Option CfgFail :=
  let f (o n : Nat) : Nat := peekNat s (plan + o) n
  let addr (o : Nat) : Nat × Bool := (o, decide (f o 8 < 2 ^ 40))
  let dark : Bool := (List.range (planFrames s plan)).all (fun k => f 0x28 8 != 0 ||
    peekNat s (frameAddr s plan k + 8) 8 == 2 ^ 64 - 1)
  badField 1 0 [(0x3C, crcHolds s (plan + 0x3C) [(plan, 0x3C)]), (0, f 0 4 == 0x4E414C50), (4, f 4 2 == 1),
    (6, decide (4 ≤ f 6 2) && decide (f 6 2 ≤ 256)), (0x0A, f 0x0A 2 == blocks.length && blocks.length != 0), (0x0C, f 0x0C 4 == 0),
    (0x10, decide (f 0x10 8 < 2 ^ 40) && f 0x10 8 % 64 == 0), addr 0x18, addr 0x20,
    (0x28, decide (f 0x28 8 < 2 ^ 40) && dark), (0x34, f 0x34 8 == 0)]

/-- A slot or link directory. -/
def directoryFail (s : State) (code magic dir : Nat) : Option CfgFail :=
  let n := peekNat s (dir + 6) 2
  badField code 0 ([(0x0C, crcHolds s (dir + 0x0C) [(dir, 0x0C), (dir + 0x10, 8 * n)]), (0, peekNat s dir 4 == magic),
    (4, peekNat s (dir + 4) 2 == 1), (6, n != 0), (8, zeroAt s (dir + 8) 4)] ++
    (List.range n).map (fun t => (0x10 + 8 * t, let a := peekNat s (dir + 0x10 + 8 * t) 8; decide (a < 2 ^ 40) && a % 32 == 0)))

/-- The fields of stream entry i of a slot table (R245). -/
def streamFields (s : State) (blocks : List Nat) (tab : Nat) (before : List Stream) (i : Nat) (t : Stream) : List (Nat × Bool) :=
  let a := tab + 0x20 + 32 * i
  let o := 0x20 + 32 * i
  let lane := peekNat s (a + 9) 1
  let destOk : Bool := match t.kind with
    | 0 => decide (t.dest / 16 < blocks.length) && !lostCell s blocks (t.dest / 16) (t.dest % 16)
    | 1 => decide (t.dest < blocks.length)
    | 2 => decide (t.dest < 8) && (match blocks[t.blk]? with | some g => t.dest / 2 == g / 64 | none => false)
    | _ => decide (t.dest < 8) && (match blocks[t.blk]? with | some g => t.dest / 2 != g / 64 | none => false)
  let crosses : Bool := !(streamRing blocks t).isEmpty
  let mine := streamUses blocks t
  let held := tableUses blocks before
  let beyond (lanes : List LaneUse) : Bool := lanes.any (fun u => (List.range 64).any (fun k =>
    u.mask / 2 ^ k % 2 == 1 && decide (slotCount (held ++ mine) u.lane k > u.cap)))
  let ring := mine.filter (fun u => decide (u.lane ≥ 0x9000000))
  [(o, decide (t.num < 512) && !before.any (fun u => u.num == t.num)), (o + 2, decide (t.blk < blocks.length)),
    (o + 4, decide (t.cell < 16) && !lostCell s blocks t.blk t.cell), (o + 5, decide (t.kind < 4)), (o + 6, destOk),
    (o + 8, decide (t.dir < 2)), (o + 9, decide (lane < 16) && decide (lane / 2 < 5)), (o + 0x0A, zeroAt s (a + 0x0A) 6),
    (o + 0x10, !beyond (mine.filter (fun u => decide (u.lane < 0x9000000)))), (o + 0x18, (t.ring != 0) == crosses && !beyond ring)]

/-- Slot table t. -/
def slotTableFail (s : State) (blocks : List Nat) (dir t : Nat) : Option CfgFail :=
  let a := slotTableAddr s dir t
  let n := peekNat s (a + 2) 2
  let ts := slotStreams s a
  badField 4 t ([(0x1C, crcHolds s (a + 0x1C) [(a, 0x1C), (a + 0x20, 32 * n)]), (0, peekNat s a 2 == t),
    (2, decide (n ≤ 512)), (4, zeroAt s (a + 4) 24)] ++
    (ts.mapIdx (fun i x => streamFields s blocks a (ts.take i) i x)).flatMap id)

/-- The longest run of set bits of a wheel of 256, counted round it, is at most 8, and at most 192 are set (R415). -/
def wheelFits (mask : Nat) : Bool :=
  decide (bitsSet 256 mask ≤ 192) &&
    !(List.range 256).any (fun i => (List.range 9).all (fun k => mask / 2 ^ ((i + k) % 256) % 2 == 1))

/-- Link table t (R414, R415). -/
def linkTableFail (s : State) (plan dir t : Nat) : Option CfgFail :=
  let a := peekNat s (dir + 0x10 + 8 * t) 8
  let n := peekNat s (a + 2) 2
  let r := peekNat s (a + 4) 1
  let ts := linkStreams s a
  let named : Bool := (List.range (planFrames s plan)).all (fun f => (List.range 4).all (fun q =>
    peekNat s (frameAddr s plan f + 8 + 2 * q) 2 != t || q == r))
  let entry (i : Nat) (x : LinkStream) : List (Nat × Bool) :=
    let o := 0x20 + 48 * i
    let before := ts.take i
    let held := (before.filter (fun y => y.port == x.port)).foldl (fun m y => Nat.lor m y.wheel) 0
    [(o, decide (x.num < 256) && !before.any (fun y => y.num == x.num)), (o + 2, decide (x.port < 8)),
      (o + 3, zeroAt s (a + o + 3) 1), (o + 4, x.dest == expectedNode s (8 * r + x.port)), (o + 6, zeroAt s (a + o + 6) 10),
      (o + 0x10, Nat.land held x.wheel == 0 && wheelFits (Nat.lor held x.wheel))]
  badField 6 t ([(0x1C, crcHolds s (a + 0x1C) [(a, 0x1C), (a + 0x20, 48 * n)]), (0, peekNat s a 2 == t),
    (2, decide (n ≤ 256)), (4, decide (r < 4) && named), (5, zeroAt s (a + 5) 23)] ++ (ts.mapIdx entry).flatMap id)

/-- Frame f: header and block entries. -/
def frameFail (s : State) (blocks : List Nat) (plan f : Nat) : Option CfgFail :=
  let a := frameAddr s plan f
  let links := if planLinks s plan = 0 then 0 else peekNat s (planLinks s plan + 6) 2
  let link (q : Nat) : Bool := let x := peekNat s (a + 8 + 2 * q) 2; x == 0xFFFF || decide (x < links)
  badField 0 f ([(0x1C, crcHolds s (a + 0x1C) [(a, 0x1C), (a + 0x20, 32 * blocks.length)]), (0, peekNat s a 2 == f),
    (2, decide (peekNat s (a + 2) 2 < 8)), (4, decide (peekNat s (a + 4) 2 < peekNat s (planSlots s plan + 6) 2)),
    (6, zeroAt s (a + 6) 2), (8, link 0), (10, link 1), (12, link 2), (14, link 3), (0x10, zeroAt s (a + 0x10) 12)] ++
    (List.range (16 * blocks.length)).map (fun i =>
      let e := peekNat s (a + 0x20 + 2 * i) 2
      (0x20 + 2 * i, e / 4096 % 8 == 0 && !(e / 2 ^ 15 == 1 && lostCell s blocks (i / 16) (i % 16)))))

/-- The program image (R164, R165): its CRCs first, the header's and then those of the segments. -/
def programFail (s : State) (blocks : Nat) (plan : Nat) : Option CfgFail :=
  let p := planProg s plan
  let size := peekNat s (plan + 0x30) 4
  let n := segmentCount s p
  let segs := (List.range n).map (fun i => (i, segmentAt s p i))
  badField 2 0 ([(0x1C, crcHolds s (p + 0x1C) [(p, 0x1C)])] ++
    segs.map (fun e => (0x20 + 32 * e.1 + 0x1C,
      crcHolds s (p + 0x20 + 32 * e.1 + 0x1C) [(p + 0x20 + 32 * e.1, 0x1C), (p + e.2.offset, 16 * e.2.count)])) ++
    [(0, peekNat s p 4 == 0x4D475250), (4, peekNat s (p + 4) 2 == 1),
      (6, n != 0 && decide (n ≤ 4096) && decide (0x20 + 32 * n ≤ size)), (8, zeroAt s (p + 8) 20)] ++
    segs.flatMap (fun e =>
      let o := 0x20 + 32 * e.1
      [(o, e.2.offset % 16 == 0 && decide (e.2.offset + 16 * e.2.count ≤ size)), (o + 4, decide (e.2.start < 4096)),
        (o + 6, e.2.count != 0 && decide (e.2.start + e.2.count ≤ 4096)), (o + 8, decide (e.2.first < blocks)),
        (o + 10, decide (e.2.first ≤ e.2.last) && decide (e.2.last < blocks)), (o + 14, zeroAt s (p + o + 14) 14)]))

/-- A plan, in the order of R43. -/
def planFail (s : State) (c plan : Nat) : Option CfgFail :=
  let blocks := partBlocks s c
  match planHeaderFail s blocks plan with
  | some e => some e
  | none =>
    let dir := planSlots s plan
    match directoryFail s 3 0x544F4C53 dir with
    | some e => some e
    | none =>
      let links := planLinks s plan
      let frames := planFrames s plan
      firstFail (
        (List.range (peekNat s (dir + 6) 2)).map (slotTableFail s blocks dir) ++
        (if links = 0 then [] else directoryFail s 5 0x4B4E494C links ::
          (List.range (peekNat s (links + 6) 2)).map (linkTableFail s plan links)) ++
        (List.range frames).map (frameFail s blocks plan) ++ [programFail s blocks.length plan])

/-- The runs that the validation of a plan reads (R609). -/
def planRegions (s : State) (plan : Nat) : List (Nat × Nat) :=
  let dir := planSlots s plan
  let links := planLinks s plan
  let n := peekNat s (dir + 6) 2
  let k := if links = 0 then 0 else peekNat s (links + 6) 2
  [(plan, 64), (dir, 0x10 + 8 * n)] ++
    (List.range n).map (fun t => let a := slotTableAddr s dir t; (a, 0x20 + 32 * peekNat s (a + 2) 2)) ++
    (if links = 0 then [] else [(links, 0x10 + 8 * k)]) ++
    (planLinkTables s plan).map (fun a => (a, 0x20 + 48 * peekNat s (a + 2) 2)) ++
    [(planFrameBase s plan, planFrames s plan * (32 + 32 * planBlocks s plan)), (planProg s plan, peekNat s (plan + 0x30) 4)]

/-! ### Shard maps (R349) -/

/-- Group entries and their node lists. -/
def smGroupFail (s : State) (c map g : Nat) : List (Option CfgFail) :=
  let e := smGroup s map g
  let addr := peekNat s (peekNat s (map + 0x10) 8 + 16 * g + 8) 8
  let earlier := (List.range g).map (smGroup s map)
  let taken : Bool := (residents s).any (fun d => d != c && shardMapOf (ctxAt s d) != 0 &&
    (List.range (smGroups s (shardMapOf (ctxAt s d)))).any (fun h => (smGroup s (shardMapOf (ctxAt s d)) h).key == e.key))
  let selfOk : Bool := e.self == 0xFFFF || (decide (e.self < e.members) && e.nodes.getD e.self 0x10000 == ownNode s)
  [badField 8 g [(0, decide (1 ≤ e.members) && decide (e.members ≤ 1024)), (2, selfOk),
     (4, !earlier.any (fun x => x.key == e.key) && !taken), (8, decide (addr < 2 ^ 40))],
   badField 9 g ((List.range e.members).map (fun j =>
     (4 * j, decide (peekNat s (addr + 4 * j) 4 < 65536) && !(e.nodes.take j).contains (e.nodes.getD j 0))))]

/-- Two runs of numbers meet. -/
def runsMeet (a n b m : Nat) : Bool := decide (a < b + m) && decide (b < a + n) && n != 0 && m != 0

/-- A tensor entry. -/
def smTensorFail (s : State) (map t : Nat) : Option CfgFail :=
  let a := peekNat s (map + 0x18) 8 + 96 * t
  let x := smTensor s map t
  let members := (smGroup s map x.group).members
  let pair (j : Nat) : Bool := x.stateFmt / 16 ^ j % 4 == x.stateFmt / 16 ^ j / 4 % 4 && x.stateFmt / 16 ^ j % 4 != 3
  let meets : Bool := (List.range t).any (fun u =>
    let y := smTensor s map u
    runsMeet x.resIndex x.shards y.resIndex y.shards)
  badField 0x0A t [(0, decide (x.group < smGroups s map)), (2, decide (x.gfmt < 3)), (3, zeroAt s (a + 3) 1),
    (4, x.rows != 0), (8, x.cols != 0 && decide (x.cols ≤ 65535)),
    (0x0C, x.shards != 0 && x.shards % members == 0 && x.rows % x.shards == 0 &&
      decide (x.shardBytes x.gsize ≤ 8 * 2 ^ 20)),
    (0x0E, pair 0 && pair 1 && pair 2 && decide (x.stateFmt < 4096)),
    (0x10, !meets && decide (x.resIndex + x.shards ≤ smRecords s map)), (0x14, zeroAt s (a + 0x14) 4)]

/-- A shard map. -/
def shardFail (s : State) (c map : Nat) : Option CfgFail :=
  let f (o n : Nat) : Nat := peekNat s (map + o) n
  let addr (o al : Nat) : Nat × Bool := (o, decide (f o 8 < 2 ^ 40) && f o 8 % al == 0)
  let g := smGroups s map
  let t := smTensors s map
  let lists := (List.range g).map (fun i => let a := f 0x10 8 + 16 * i; (peekNat s (a + 8) 8, 4 * peekNat s a 2))
  match badField 7 0 [(0x5C, crcHolds s (map + 0x5C) ([(map, 0x5C), (f 0x10 8, 16 * g)] ++ lists ++ [(f 0x18 8, 96 * t)])),
    (0, f 0 4 == 0x44524853), (4, f 4 2 == 1), (6, decide (1 ≤ t) && decide (t ≤ 4096)),
    (8, decide (1 ≤ g) && decide (g ≤ 256)), (0x0A, [16, 32, 64, 128, 256, 512, 1024].contains (f 0x0A 2)), addr 0x10 16, addr 0x18 32,
    addr 0x20 32, addr 0x28 64, (0x30, decide (f 0x30 8 < 2 ^ 40) && f 0x30 8 % 2 ^ 21 == 0), (0x3C, decide (f 0x3C 4 ≤ f 0x38 4)),
    (0x40, f 0x40 28 == 0)] with
  | some e => some e
  | none => firstFail ((List.range g).flatMap (smGroupFail s c map) ++ (List.range t).map (smTensorFail s map))

/-- The runs that the validation of a shard map reads. -/
def shardRegions (s : State) (map : Nat) : List (Nat × Nat) :=
  if map = 0 then []
  else
    let gb := peekNat s (map + 0x10) 8
    [(map, 0x60), (gb, 16 * smGroups s map)] ++
      (List.range (smGroups s map)).map (fun i => (peekNat s (gb + 16 * i + 8) 8, 4 * peekNat s (gb + 16 * i) 2)) ++
      [(peekNat s (map + 0x18) 8, 96 * smTensors s map)]

/-! ### Device-scope sets -/

/-- A partition map as it is used (R323). -/
def partOf (bs : List Byte) : PartMap :=
  let blocks := (List.range 256).foldl (fun m g =>
    let v := fieldAt bs (2 * g) 2
    if v / 2 ^ 15 = 1 then sPut m g (v % 2 ^ 14 + 1) else m) []
  ⟨blocks, (List.range 128).foldl (fun m u =>
    let v := fieldAt bs (0x200 + 2 * u) 2
    if v / 2 ^ 14 = 0 then m else sPut m u v) []⟩

/-- A block lies in a scope that is out of service: by QUARANTINE, or in a region that accepts no new partition. -/
def blockBarred (s : State) (g : Nat) : Bool :=
  s.flt.barred.contains (g / 64) ||
    s.flt.quarantined.any (fun q => q == (1, g) || q == (2, g / 64) || (q.1 == 0 && (if q.2 / 2 ^ 15 = 1 then q.2 % 2 ^ 15 / 17 else q.2 / 16) == g))

/-- A Square unit is out of service. -/
def unitBarred (s : State) (u : Nat) : Bool :=
  s.flt.badUnits.contains u || s.flt.barred.contains (u / 32) ||
    s.flt.quarantined.any (fun q => q == (3, u / 16) || q == (2, u / 32))

/-- A block or a Square unit lies in the scope of the MUSTER_RUN in progress (R576). -/
def blockUnderTest (s : State) (g : Nat) : Bool :=
  match musterScope s with
  | some (0, p) => p / 17 == g
  | some (1, k) => k == g
  | some (2, r) => r == g / 64
  | _ => false

def unitUnderTest (s : State) (u : Nat) : Bool := musterScope s == some (3, u / 16)

/-- A partition map assigns a block or a unit under test. -/
def assignsUnderTest (s : State) (m : PartMap) : Bool :=
  m.blocks.any (fun e => blockUnderTest s e.1) || m.units.any (fun e => unitUnderTest s e.1)

/-- Validation of a partition map (R324). A unit or block newly given to a context must be in service (R485, R490). -/
def partFail (s : State) (bs : List Byte) : Option CfgFail :=
  let f := fieldAt bs
  let owner (v : Nat) : Bool := v != 0 && (ctxAt s v).st.resident
  badField 0x0B 0 ([(0x3FC, crc32c (bs.take 0x3FC) == f 0x3FC 4)] ++
    (List.range 256).map (fun g =>
      let v := f (2 * g) 2
      (2 * g, v / 2 ^ 14 % 2 == 0 && (if v / 2 ^ 15 = 1 then
        owner (v % 2 ^ 14) && (blk s g).health != .failed && (sGet 0 s.sets.part.blocks g == v % 2 ^ 14 + 1 || !blockBarred s g)
        else v == 0))) ++
    (List.range 128).map (fun u =>
      let v := f (0x200 + 2 * u) 2
      (0x200 + 2 * u, match v / 2 ^ 14 with
        | 0 => v == 0
        | 3 => false
        | _ => owner (v % 2 ^ 14) && (sGet 0 s.sets.part.units u == v || !unitBarred s u))) ++
    [(0x300, f 0x300 252 == 0)])

/-- An interleave map as it is used (R259). -/
def imapOf (bs : List Byte) : IMap :=
  ⟨some ((List.range 3008).foldl (fun m g => let v := fieldAt bs (4 * g) 4; if v = 0 then m else sPut m g v) [])⟩

/-- The units of its stacks that an entry uses, as stack and unit. -/
def entryUnits (e : Nat × Nat × Nat) : List (Nat × Nat) :=
  match e.1 with
  | 1 => (List.range 8).map (fun n => (n, e.2.2))
  | 2 => (List.range 8).map (fun i => (2 * e.2.1 + i % 2, e.2.2 + i / 2))
  | 3 => (List.range 8).map (fun i => (e.2.1, e.2.2 + i))
  | _ => []

/-- Validation of an interleave map (R261). -/
def imapFail (s : State) (bs : List Byte) : Option CfgFail :=
  let strong := s.mem.strong
  let m := imapOf bs
  let limit (n : Nat) : Nat := if n % 4 = 0 then (if strong then 2728 else 2816) else (if strong then 2976 else 3072)
  let count := if strong then 2914 else 3008
  let step (a : Option CfgFail × List (Nat × Nat)) (g : Nat) : Option CfgFail × List (Nat × Nat) :=
    match a.1 with
    | some e => (some e, a.2)
    | none =>
      let v := fieldAt bs (4 * g) 4
      let e := m.entry strong g
      let us := entryUnits e
      let shape : Bool := v / 2 ^ 20 == 0 && v / 2 ^ 5 % 8 == 0 && (match e.1 with
        | 0 => v == 0
        | 1 => e.2.1 == 0
        | 2 => decide (e.2.1 < 4)
        | _ => true)
      if shape && (decide (g < count) || v == 0) && us.all (fun u => decide (u.2 < limit u.1) && !a.2.contains u) then
        (none, us ++ a.2)
      else (some ⟨0x0C, 0, 4 * g⟩, a.2)
  ((List.range 3008).foldl step (none, [])).1

/-- A power policy as it is used (R564). -/
def policyOf (bs : List Byte) : Policy :=
  ⟨fieldAt bs 6 1, fieldAt bs 7 1 % 2 == 1, (List.range 4).map (fun r => fieldAt bs (8 + 2 * r) 2)⟩

/-- Validation of a power policy. -/
def policyFail (bs : List Byte) : Option CfgFail :=
  let f := fieldAt bs
  badField 0x0D 0 ([(0x3C, crc32c (bs.take 0x3C) == f 0x3C 4), (0, f 0 4 == 0x594C4F50), (4, f 4 2 == 1),
    (6, decide (f 6 1 ≤ 8)), (7, decide (f 7 1 ≤ 1))] ++
    (List.range 4).map (fun r => (8 + 2 * r, decide (200 ≤ f (8 + 2 * r) 2) && decide (f (8 + 2 * r) 2 ≤ 800))) ++
    [(0x10, f 0x10 44 == 0)])

/-- The route set as it is used (R416, R417). -/
def tablesOf (ports routes : List Byte) : LinkTables :=
  let n := fieldAt routes 6 2
  ⟨fieldAt ports 6 2,
   (List.range 32).foldl (fun m p => sSet 0 m p (fieldAt ports (0x20 + 16 * p) 8)) [],
   n, (List.range n).foldl (fun m i => sSet 0 m i (fieldAt routes (0x20 + 4 * i) 4)) []⟩

/-- A CRC of a table at 0x1C, with its own field taken as zero. -/
def tableCrc (bs : List Byte) : Bool := crc32c (bs.take 0x1C ++ [0#8, 0#8, 0#8, 0#8] ++ bs.drop 0x20) == fieldAt bs 0x1C 4

/-- Validation of the port and route tables. -/
def routeFail (ports routes : List Byte) : Option CfgFail :=
  let f := fieldAt ports
  let q := fieldAt routes
  let partner (p : Nat) : Bool := f (0x20 + 16 * p) 1 / 2 % 2 == 1
  let enabled (p : Nat) : Bool := f (0x20 + 16 * p) 1 % 2 == 1
  let n := q 6 2
  firstFail [
    badField 0x0E 0 ([(0x1C, tableCrc ports), (0, f 0 4 == 0x54524F50), (4, f 4 2 == 1), (8, f 8 20 == 0)] ++
      (List.range 32).flatMap (fun p =>
        let o := 0x20 + 16 * p
        [(o, decide (f o 1 < 4) && !(partner p && (List.range p).any (fun k => k / 4 == p / 4 && partner k))),
         (o + 1, decide (f (o + 1) 1 < 32)), (o + 8, f (o + 8) 8 == 0)])),
    badField 0x0F 0 ([(0x1C, tableCrc routes), (0, q 0 4 == 0x54554F52), (4, q 4 2 == 1), (6, n != 0), (8, q 8 20 == 0)] ++
      (List.range n).flatMap (fun i => (List.range 4).map (fun k =>
        let o := 0x20 + 4 * i + k
        let b := q o 1
        (o, if b / 128 = 1 then decide (b / 32 % 4 < 3) && enabled (b % 32) && decide (i ≠ f 6 2) else (i != f 6 2 || b == 0)))))]

end Sys2Proof.Machine
end

