-- ==== Sys2Proof/Machine/Beat.lean ====
section
/-! DEFINITION. The beat master: beat length and its changes, stretches, adaptation, and alignment with the other devices of
the group (R44, R55 to R74, R84, R440). -/

namespace Sys2Proof.Machine

/-! ### Settings in force (R83, R84) -/

def beatLen (s : State) : Nat := regField s aBeatCtl 8 0
def stretchMax (s : State) : Nat := regField s aBeatCtl 24 16
def beatNotice (s : State) : Nat := regField s aBeatCtl 35 32
def adaptMax (s : State) : Nat := regField s aBeatAdapt 40 32
def adaptMin (s : State) : Nat := regField s aBeatAdapt 24 16

/-- ROLE: 0 standalone, 1 leader, 2 follower. -/
def beatRole (s : State) : Nat := regField s aBeatGroup 55 54
def beatGroupId (s : State) : Nat := regField s aBeatGroup 15 0
def parentPort (s : State) : Nat := regField s aBeatGroup 49 45
def paceCtx (s : State) : Nat := regField s aBeatGroup 29 16
def syncInt (s : State) : Nat := regField s aBeatGroup 63 56

/-- A field of a register takes a value. -/
def setField (s : State) (a hi lo v : Nat) : State := regSet s a (BitVec.ofNat 64 (putBits (regGet s a).toNat hi lo v))

def updBeat (f : Beat → Beat) (s : State) : State := { s with beat := f s.beat }

/-- The largest LEN_MIN of this device's unparked contexts; on a leader the followers' floors too (R44). -/
def planFloor (s : State) : Nat :=
  let own := largest ((unparked s).map (fun c => let p := planOf (ctxAt s c); if p = 0 then 0 else planLenMin s p))
  if beatRole s = 1 then largest (own :: s.beat.floors.map (fun e => e.2)) else own

/-- The stretch limit in µs (R59). -/
def stretchLimit (s : State) : Nat := min (max (stretchMax s) (beatLen s)) (2 * beatLen s)

/-- The guard point of the open beat. -/
def guardPoint (s : State) : Nat := s.beat.deadline - 3000

/-- The other members of the beat group: those of the pacing context's commit group (DESIGN CHOICE: the spec gives the
device no other list of them). -/
def groupNodes (s : State) : List Nat :=
  let x := ctxAt s (paceCtx s)
  x.cNodes.filter (fun n => n != ownNode s)

/-- A beat message: header and body, with zeros to its end (R73). -/
def beatMsg (s : State) (type : Nat) (body : List Byte) : List Byte :=
  natLe 1 type ++ natLe 1 1 ++ natLe 2 (beatGroupId s) ++ natLe 4 (ownNode s) ++ natLe 8 s.beat.gnum ++ body

/-- A beat message goes to every other member. -/
def tellGroup (type : Nat) (body : List Byte) (s : State) : State :=
  (groupNodes s).foldl (fun s n => sendCtl n 0 2 (beatMsg s type body) s) s

/-! ### The timer order (R440) -/

/-- COLL_TIMEOUT against twice the links' windows and twice the longest beat, in µs. -/
def timersOrdered (coll window hops stretch adapt : Nat) : Bool :=
  decide (coll ≥ 2 * (hops + 1) * window + 2 * min (max stretch adapt) (2 * adapt))

/-- The largest of a field over the eight engines, as last written. -/
def engineMost (s : State) (hi lo : Nat) : Nat := largest ((List.range 8).map (fun k => regField s (regInst aLnkCtl k) hi lo))

def collTimeout (s : State) : Nat := regField s aGateCtl 19 0

/-! ### Changes of LEN, STRETCH_MAX and NOTICE (R66, R67, R84) -/

/-- The values that will hold once every scheduled change has taken effect. -/
def lenAhead (s : State) : Nat × Nat × Nat :=
  match s.beat.changes.getLast? with
  | some c => (c.len, c.stretchMax, c.notice)
  | none => (beatLen s, stretchMax s, beatNotice s)

/-- A LEN_SET body. -/
def lenSetBody (c : LenChange) : List Byte :=
  natLe 2 c.len ++ natLe 2 c.stretchMax ++ natLe 1 c.notice ++ natLe 1 (if c.byCommand then 1 else 0) ++ natLe 2 0 ++
    natLe 8 c.effective

def addChange (c : LenChange) (s : State) : State := updBeat (fun b => { b with changes := b.changes ++ [c] }) s

/-- A change by command or register write: at the next boundary, or on a leader with LEN_SET four beats on. -/
def commandLen (len stretch notice : Nat) (s : State) : State :=
  if beatRole s = 1 then
    let c : LenChange := ⟨len, stretch, notice, s.beat.gnum + 4, true⟩
    tellGroup 5 (lenSetBody c) (addChange c s)
  else addChange ⟨len, stretch, notice, s.beat.gnum + 1, true⟩ s

/-- The changes of a beat take effect; commanded values hold over those of adaptation (R67). -/
def applyLen (gnum : Nat) (s : State) : State :=
  let due := s.beat.changes.filter (fun c => decide (c.effective ≤ gnum))
  let pick := match (due.filter (fun c => c.byCommand)).getLast? with
    | some c => some c
    | none => due.getLast?
  match pick with
  | none => s
  | some c =>
    let s := setField (setField (setField s aBeatCtl 8 0 c.len) aBeatCtl 24 16 c.stretchMax) aBeatCtl 35 32 c.notice
    updBeat (fun b => { b with changes := b.changes.filter (fun c => decide (gnum < c.effective)) }) s

/-- The condition of R62 on a NOTICE, for the ports that are up. -/
def noticeFits (s : State) (notice : Nat) : Bool :=
  (List.range 32).all (fun p => (portAt s p).state != 2 ||
    decide ((portAt s p).rtt / 2 + 200 * 65536 + 1000 * 65536 ≤ notice * 1000 * 65536))

/-- LEN lies within MIN to MAX (R84). -/
def lenFits (len lo hi : Nat) : Bool := decide (lo ≤ len) && decide (len ≤ hi)

/-- LEN, MIN and MAX written together: all of them where they agree, else one after another, a field that would break R84
staying as it is. -/
def settleLen (len lo hi newLen newLo newHi : Nat) : Nat × Nat × Nat :=
  if lenFits newLen newLo newHi then (newLen, newLo, newHi)
  else
    let len := if lenFits newLen lo hi then newLen else len
    let lo := if lenFits len newLo hi then newLo else lo
    (len, lo, if lenFits len lo newHi then newHi else hi)

/-- BEAT_SET: the selected fields of BEAT_ADAPT and BEAT_CTL, those that R84 lets stand (R480). -/
def beatSet (c : Cmd) (s : State) : State :=
  let has (i : Nat) : Bool := c.field 0x0C 2 / 2 ^ i % 2 == 1
  let ahead := lenAhead s
  let len := if has 0 then c.field 0 2 else ahead.1
  let stretch := if has 1 then c.field 2 2 else ahead.2.1
  let notice := if has 4 then c.field 8 1 else ahead.2.2
  let lo := if has 2 then c.field 4 2 else adaptMin s
  let hi := if has 3 then c.field 6 2 else adaptMax s
  let follower : Bool := beatRole s == 2
  if has 0 && !follower && decide (len < planFloor s) then refuseCmd c stPlanLen [] s
  else if (has 1 || has 3) && !timersOrdered (collTimeout s) (engineMost s 12 8) (engineMost s 23 21)
      (if follower then stretchMax s else stretch) hi then refuseCmd c stTimerOrder [] s
  else if has 4 && beatRole s == 1 && !noticeFits s notice then refuseCmd c stBeatNotice [] s
  else
    let v := settleLen ahead.1 (adaptMin s) (adaptMax s) (if follower then ahead.1 else len) lo hi
    let s := setField (setField s aBeatAdapt 24 16 v.2.1) aBeatAdapt 40 32 v.2.2
    let s := if has 5 then setField s aBeatAdapt 7 0 (c.field 9 1) else s
    let s := if has 6 then setField s aBeatAdapt 15 8 (c.field 10 1) else s
    let s := if has 7 then setField s aBeatCtl 41 41 (c.field 11 1 % 2) else s
    let s := if has 8 then setField s aBeatCtl 40 40 (c.field 11 1 / 2) else s
    if (has 0 || has 1 || has 4) && !follower then
      let s := commandLen v.1 stretch notice s
      acceptCmd c (s.beat.gnum + (if beatRole s = 1 then 4 else 1)) 0 [] s
    else completeCmd c stOk s.beat.gnum [] [] s

def execBeatSet (r : Route) (s : State) : Host.Outcome State Fault Refusal := .next (command 0x0203 r beatSet s)

/-- BEAT_JOIN: the role and the group; a follower's reply waits for its parent's first SYNC (R62, R68, R74, R480). -/
def beatJoin (c : Cmd) (s : State) : State :=
  let role := c.field 0 1
  if unparked s ≠ [] then refuseCmd c stScopeActive [] s
  else if role = 1 ∧ noticeFits s (beatNotice s) = false then refuseCmd c stBeatNotice [] s
  else
    let g := putBits (putBits (putBits (putBits (putBits (regGet s aBeatGroup).toNat 63 56 (c.field 6 1)) 55 54 role) 49 45
      (c.field 1 1)) 29 16 (c.field 4 2)) 15 0 (c.field 2 2)
    let s := regSet s aBeatGroup (BitVec.ofNat 64 g)
    let s := updBeat (fun b => { b with
      depth := 0, locked := role == 1, joining := role == 2, good := 0, syncLost := false, alignWarn := false, exchange := none
      leader := none, floors := [], reports := [], changes := [], lastSync := b.gnum, timedOut := false }) s
    if role = 2 then acceptCmd c 0 0 [] s else completeCmd c stOk s.beat.gnum [0] [] s

def execBeatJoin (r : Route) (s : State) : Host.Outcome State Fault Refusal := .next (command 0x0204 r beatJoin s)

/-! ### Stretches (R57 to R61) -/

/-- The cells of a context that are active in the open beat and have not yielded. -/
def notYielded (s : State) (c : Nat) : List Nat :=
  (partCells s c).filter (fun l => let q := (cellAt s (physOf s l)).seq; q.running && !q.yielded)

/-- A context is Elastic (R55). -/
def isElastic (s : State) (c : Nat) : Bool := (ctxAt s c).desc.mode % 2 == 1

/-- The check point: an Elastic partition that has not yielded moves the deadline by 1 µs, within the limit. -/
def execStretchCheck (s : State) : Host.Outcome State Fault Refusal :=
  .next (
    let d := s.beat.deadline
    if s.pins.inReset ∨ guardPoint s ≤ s.cycle then s
    else
      let s := { s with cycle := max s.cycle (d - 3000 * beatNotice s) }
      match (unparked s).find? (fun c => isElastic s c && !(notYielded s c).isEmpty) with
      | none => s
      | some c =>
        if d + 3000 ≤ s.beat.openAt + 3000 * stretchLimit s then
          let s := updBeat (fun b => { b with deadline := d + 3000, k := b.k + 1 }) s
          if beatRole s = 0 then s else flushOut (tellGroup 4 (natLe 1 s.beat.k ++ natLe 1 0 ++ natLe 2 c) s)
        else s)

/-- A beat message of a type in the inbox, for this device's group. -/
def beatRow (i type : Nat) (go : InMsg → State → State) (s : State) : State :=
  match ctlMsg s i 2 type with
  | some m =>
    let s := freeMsg i m s
    if beatRole s ≠ 0 ∧ fieldAt m.bytes 2 2 = beatGroupId s ∧ fieldAt m.bytes 1 1 = 1 then flushOut (go m s) else s
  | none => s

def execStretch (i : BitVec 16) (s : State) : Host.Outcome State Fault Refusal :=
  .next (beatRow i.toNat 4 (fun m s =>
    let n := fieldAt m.bytes 8 8
    let k := fieldAt m.bytes 0x10 1
    if n < s.beat.gnum ∨ (n = s.beat.gnum ∧ guardPoint s < s.cycle) then raiseBeatAlign s
    else if n = s.beat.gnum then
      updBeat (fun b => { b with deadline := max b.deadline (b.openAt + 3000 * (beatLen s + k)), k := max b.k k }) s
    else s) s)

/-! ### Adaptation (R63 to R66) -/

/-- The pacing context runs the last beat of a step, which a frame marked STEP_END is. -/
def inLastBeat (s : State) : Bool :=
  let x := ctxAt s (paceCtx s)
  x.st == .unparked && x.run.inFrame && x.run.flags % 2 == 1

/-- The law of R64; the slacks are in cycles. A report not received counts as slack 0. -/
def adaptedLen (s : State) : Nat :=
  let b := s.beat
  let len := beatLen s
  let heard := b.reports.filter (fun r => r.first == b.winFirst)
  let slack := if beatRole s = 1 ∧ (groupNodes s).any (fun n => !heard.any (fun r => r.node == n)) then 0
    else (heard.map (fun r => 3 * r.slackNs)).foldl min (b.winSlack.getD 0)
  if b.winBeats = 0 then len
  else if 100 * b.winStretched > regField s aBeatAdapt 7 0 * b.winBeats ∧ len < adaptMax s then len + 1
  else if b.winStretched = 0 ∧ 100 * slack > regField s aBeatAdapt 15 8 * len * 3000 ∧ len > max (adaptMin s) (planFloor s) then
    len - 1
  else len

/-- In the step's last beat the leader decides the length and tells every member; a standalone device decides for
itself. -/
def execAdaptDecide (s : State) : Host.Outcome State Fault Refusal :=
  .next (
    if beatRole s = 2 ∨ regField s aBeatCtl 41 41 = 0 ∨ s.beat.decided ∨ inLastBeat s = false then s
    else
      let c : LenChange := ⟨adaptedLen s, stretchMax s, beatNotice s, s.beat.gnum + 1, false⟩
      let s := updBeat (fun b => { b with decided := true }) (addChange c s)
      if beatRole s = 1 then flushOut (tellGroup 5 (lenSetBody c) s) else s)

/-- A follower takes a LEN_SET; one that comes after the guard point of the beat before EFFECTIVE is too late (R67). -/
def execLenSet (i : BitVec 16) (s : State) : Host.Outcome State Fault Refusal :=
  .next (beatRow i.toNat 5 (fun m s =>
    let f := fieldAt m.bytes
    if beatRole s ≠ 2 then s
    else
      let s := updBeat (fun b => { b with leader := some (f 4 4) }) s
      let c : LenChange := ⟨f 0x10 2, f 0x12 2, f 0x14 1, f 0x18 8, f 0x15 1 == 1⟩
      if c.effective ≤ s.beat.gnum then raiseBeatAlign s else addChange c s) s)

/-- The leader takes a follower's SLACK and its floor. -/
def execSlack (i : BitVec 16) (s : State) : Host.Outcome State Fault Refusal :=
  .next (beatRow i.toNat 6 (fun m s =>
    let f := fieldAt m.bytes
    if beatRole s ≠ 1 then s
    else updBeat (fun b => { b with
      reports := b.reports.filter (fun r => r.node != f 4 4) ++ [⟨f 4 4, f 0x10 4, f 0x18 8⟩]
      floors := sSet 0 b.floors (f 4 4) (f 0x20 2) }) s) s)

/-! ### Alignment (R69 to R74) -/

/-- The timebase at a cycle, in units of 2^-16 ns. -/
def timebaseAt (s : State) (cycle : Nat) : Int := ((cycle * 65536 / 3 : Nat) : Int) + s.beat.adjust

/-- A time of a message: whole ns and a fraction. -/
def msgTime (bs : List Byte) (off : Nat) : Int := ((fieldAt bs off 8 * 65536 + fieldAt bs (off + 8) 2 : Nat) : Int)

def timeBytes (t : Int) : List Byte := natLe 8 (t / 65536).toNat ++ natLe 2 (t % 65536).toNat

/-- Cycles of a time span in units of 2^-16 ns. -/
def spanCycles (t : Int) : Int := t * 3 / 65536

/-- The body of a SYNC that leaves now. -/
def syncBody (s : State) (seq : Nat) : List Byte :=
  timeBytes (timebase s) ++ natLe 2 (beatLen s) ++ natLe 2 (stretchMax s) ++ natLe 1 (beatNotice s) ++ natLe 1 s.beat.depth ++
    timeBytes (timebaseAt s s.beat.openAt) ++ natLe 2 seq

/-- SYNC goes to the devices below this one: by every port that is up but the one towards the parent (DESIGN CHOICE: a parent
holds no list of its followers, and one that it is not the parent of ignores it). -/
def sendSyncs (s : State) : State :=
  let seq := (s.beat.seq + 1) % 65536
  let s := updBeat (fun b => { b with seq := seq }) s
  let ports := (List.range 32).filter (fun p => (portAt s p).state == 2 && !(beatRole s == 2 && p == parentPort s))
  ports.foldl (fun s p => queueAt p ⟨(portAt s p).peerNode, 0, 2, 0, beatMsg s 1 (syncBody s seq)⟩ s) s

/-- A waiting BEAT_JOIN ends. -/
def endJoin (status : Nat) (det : List Nat) (kept : Bool) (s : State) : State :=
  match s.jobs.find? (fun j => j.opcode == 0x0204) with
  | some j => endJobWith j status s.beat.gnum det [] kept s
  | none => s

/-- The first SYNC of the parent: depth, beat number, length and deadline are taken (R68, R74). -/
def joinGroup (m : InMsg) (s : State) : State :=
  let f := fieldAt m.bytes
  let depth := f 0x1F 1 + 1
  if depth > 8 then
    endJoin stBeatDepth [] false (setField (updBeat (fun b => { b with joining := false }) s) aBeatGroup 55 54 0)
  else
    let s := setField (setField (setField s aBeatCtl 8 0 (f 0x1A 2)) aBeatCtl 24 16 (f 0x1C 2)) aBeatCtl 35 32 (f 0x1E 1)
    let shift := timebaseAt s m.at_ - msgTime m.bytes 0x10
    let opened := spanCycles (msgTime m.bytes 0x20 + shift - s.beat.adjust)
    let s := updBeat (fun b => { b with
      joining := false, depth := depth, gnum := f 8 8, openAt := opened.toNat, deadline := (opened + 3000 * (beatLen s : Int)).toNat
      k := 0, changes := [] }) s
    endJoin stOk [depth] true s

/-- A SYNC of the parent: the follower notes t1 and t2, and sends DELAY_REQ at t3, its own timestamps corrected by the port's
asymmetry value. -/
def execSync (i : BitVec 16) (s : State) : Host.Outcome State Fault Refusal :=
  .next (beatRow i.toNat 1 (fun m s =>
    if beatRole s ≠ 2 ∨ m.port ≠ parentPort s then s
    else
      let s := if s.beat.joining then joinGroup m s else s
      if beatRole s ≠ 2 then s
      else
        let seq := fieldAt m.bytes 0x2A 2
        let asym := (portAt s m.port).asym
        let s := updBeat (fun b => { b with
          exchange := some ⟨seq, msgTime m.bytes 0x10, timebaseAt s m.at_ + asym, timebase s + asym⟩
          lastSync := b.gnum, timedOut := false
          leader := if fieldAt m.bytes 0x1F 1 = 0 then some (fieldAt m.bytes 4 4) else b.leader }) s
        queueAt m.port ⟨(portAt s m.port).peerNode, 0, 2, 0, beatMsg s 2 (natLe 2 seq)⟩ s) s)

/-- A parent answers DELAY_REQ with the time of its arrival. -/
def execDelayReq (i : BitVec 16) (s : State) : Host.Outcome State Fault Refusal :=
  .next (beatRow i.toNat 2 (fun m s =>
    if m.port < 32 then
      queueAt m.port ⟨(portAt s m.port).peerNode, 0, 2, 0,
        beatMsg s 3 (timeBytes (timebaseAt s m.at_) ++ natLe 2 (fieldAt m.bytes 0x10 2))⟩ s
    else s) s)

/-- An exchange ends: offset and delay, the steering of the timebase, and LOCKED (R70, R72). -/
def endExchange (x : SyncExchange) (t4 : Int) (s : State) : State :=
  let off := ((x.t2 - x.t1) - (t4 - x.t3)) / 2
  let del := ((x.t2 - x.t1) + (t4 - x.t3)) / 2
  let far := off.natAbs
  let b := s.beat
  let good := if far ≤ 100 * 65536 then b.good + 1 else 0
  let move (c : Nat) : Nat := ((c : Int) + spanCycles off).toNat
  let s := { s with beat := { b with
    exchange := none, offset := off, delay := del.toNat, good := good, adjust := b.adjust - off
    openAt := move b.openAt, deadline := move b.deadline
    alignWarn := decide (far > 100 * 65536)
    locked := b.locked || decide (good ≥ 2)
    syncLost := b.syncLost && decide (good < 2) } }
  if far > 500 * 65536 then raiseBeatAlign (updBeat (fun b => { b with syncLost := true }) s) else s

def execDelayResp (i : BitVec 16) (s : State) : Host.Outcome State Fault Refusal :=
  .next (beatRow i.toNat 3 (fun m s =>
    match s.beat.exchange with
    | some x =>
      if m.port = parentPort s ∧ fieldAt m.bytes 0x1A 2 = x.seq then endExchange x (msgTime m.bytes 0x10) s else s
    | none => s) s)

/-- Eight SYNC intervals have passed without a SYNC (R72). -/
def execSyncTimeout (s : State) : Host.Outcome State Fault Refusal :=
  .next (
    if beatRole s = 2 ∧ s.beat.joining = false ∧ s.beat.timedOut = false ∧ s.beat.lastSync + 8 * syncInt s ≤ s.beat.gnum then
      flushOut (raiseBeatAlign (updBeat (fun b => { b with syncLost := true, timedOut := true, good := 0 }) s))
    else s)

end Sys2Proof.Machine
end

