-- ==== Sys2Proof/Machine/Swap.lean ====
section
/-! DEFINITION. CFG_WRITE and CFG_SWAP, and what each swap does at its boundary (R20, R44, R75 to R82, R261, R274, R324,
R365, R418, R477 to R480, R500, R501). -/

namespace Sys2Proof.Machine

/-- The accepted CFG_SWAP of a scope that has not yet taken effect. -/
def swapPending (s : State) (scope ctx : Nat) : Bool := (jobsOf s 0x0202 ctx).any (fun j => j.field 0 1 == scope)

/-- A RESHARD of the context is in progress (R367). -/
def resharding (s : State) (c : Nat) : Bool := !(jobsOf s 0x0303 c).isEmpty

/-! ### CFG_WRITE (R76, R79, R480) -/

/-- The shadow pointer of a context's plan or shard set takes a value. -/
def writePointer (c scope addr : Nat) (s : State) : State :=
  updCtx s c (fun x =>
    let d := x.desc
    if scope = 0 then { x with desc := if x.kept.planB then { d with planA := addr } else { d with planB := addr } }
    else { x with resharded := false, desc := if x.kept.shardB then { d with shardA := addr } else { d with shardB := addr } })

/-- The runs of the structures that a CFG_WRITE of a device scope copies. -/
def setRuns (s : State) (scope addr addr2 : Nat) : List (Nat × Nat) :=
  match scope with
  | 2 => [(addr, 1024)]
  | 3 => [(addr, 12032)]
  | 4 => [(addr, 64)]
  | _ => [(addr, 544), (addr2, 32 + 4 * peekNat s (addr2 + 6) 2)]

/-- The bytes of a device-scope shadow set. -/
def writeSet (scope addr addr2 : Nat) (s : State) : State :=
  let bytes (i : Nat) : List Byte := match (setRuns s scope addr addr2)[i]? with | some r => peek s r.1 r.2 | none => []
  let d := s.sets
  { s with sets := match scope with
    | 2 => { d with partShadow := some (bytes 0) }
    | 3 => { d with imapShadow := some (bytes 0) }
    | 4 => { d with powerShadow := some (bytes 0) }
    | _ => { d with routeShadow := some (bytes 0, bytes 1) } }

def cfgWrite (h : LineHit) (c : Cmd) (s : State) : State :=
  let scope := c.field 0 1
  let addr := c.field 8 8
  if scope ≤ 1 ∧ (ctxAt s c.ctx).st = .free then refuseCmd c stCtxState [] s
  else if swapPending s scope c.ctx then refuseCmd c stSwapPending [] s
  else if scope = 1 ∧ resharding s c.ctx then refuseCmd c stReshardActive [] s
  else if scope = 1 ∧ (ctxAt s c.ctx).upd.isSome then refuseCmd c stUpdatePending [] s
  else if scope ≤ 1 then completeCmd c stOk s.beat.gnum [] [] (writePointer c.ctx scope addr s)
  else
    readingCmd c (setRuns s scope addr (c.field 0x10 8)) h (fun s =>
      completeCmd c stOk s.beat.gnum [] [] (writeSet scope addr (c.field 0x10 8) s)) s

def execCfgWrite (r : Route) (h : LineHit) (s : State) : Host.Outcome State Fault Refusal :=
  .next (command 0x0201 r (cfgWrite h) s)

/-! ### CFG_SWAP: acceptance (R77 to R81) -/

/-- The shadow pointers. -/
def shadowPlan (x : Ctx) : Nat := if x.kept.planB then x.desc.planA else x.desc.planB
def shadowShard (x : Ctx) : Nat := if x.kept.shardB then x.desc.shardA else x.desc.shardB

/-- Two shard maps are layout-equal (R365). -/
def layoutEqual (s : State) (a b : Nat) : Bool :=
  if a = 0 ∨ b = 0 then a == b
  else
    smTensors s a == smTensors s b && smGroups s a == smGroups s b &&
    (List.range (smGroups s a)).all (fun g => smGroup s a g == smGroup s b g) &&
    (List.range (smTensors s a)).all (fun t =>
      let x := smTensor s a t
      let y := smTensor s b t
      x.group == y.group && x.rows == y.rows && x.cols == y.cols && x.shards == y.shards && x.stateFmt == y.stateFmt &&
        x.grad == y.grad && x.arrays == y.arrays)

/-- Two shard maps differ only in the node numbers of members that a CODE_REBUILD has rebuilt (R454). -/
def rebuiltEqual (s : State) (c a b : Nat) : Bool :=
  let old := (ctxAt s c).code.renames
  a != 0 && b != 0 && !old.isEmpty && smTensors s a == smTensors s b && smGroups s a == smGroups s b &&
    (List.range (smGroups s a)).all (fun g =>
      let x := smGroup s a g
      let y := smGroup s b g
      x.members == y.members && x.self == y.self && x.key == y.key &&
        (x.nodes.zip y.nodes).all (fun e => e.1 == e.2 || old.any (fun p => p.1 == e.1))) &&
    (List.range (smTensors s a)).all (fun t => smTensor s a t == smTensor s b t)

/-- The blocks and units that two partition maps give differently. -/
def changedBlocks (a b : PartMap) : List Nat := (List.range 256).filter (fun g => sGet 0 a.blocks g != sGet 0 b.blocks g)
def changedUnits (a b : PartMap) : List Nat := (List.range 128).filter (fun u => sGet 0 a.units u != sGet 0 b.units u)

/-- A park or an unpark transfer of a context is in progress (R324): its save or its preparation. -/
def transferring (s : State) (c : Nat) : Bool :=
  (jobsOf s 0x0102 c).any (fun j => j.phase == 1) || !(jobsOf s 0x0103 c).isEmpty

/-- A context may not lose or gain what a swap of the partition map changes (R81, R274, R324). -/
def ctxPinned (s : State) (c : Nat) : Bool := (ctxAt s c).st == .unparked || transferring s c

/-- A swap of the partition map is refused for the contexts whose blocks or units it changes. -/
def partBusy (s : State) (m : PartMap) : Bool :=
  let old := s.sets.part
  let owners := (changedBlocks old m).flatMap (fun g => [sGet 0 old.blocks g, sGet 0 m.blocks g]) ++
    (changedUnits old m).flatMap (fun u =>
      let o (v : Nat) : Nat := if v / 16384 = 0 then 0 else v % 16384 + 1
      [o (sGet 0 old.units u), o (sGet 0 m.units u)])
  owners.any (fun o => o != 0 && ctxPinned s (o - 1))

/-- A swap of the interleave map changes a granule with a frame that a resident context maps (R261). -/
def imapBusy (s : State) (m : IMap) : Bool :=
  (residents s).any (fun c => (ctxAt s c).xlate.any (fun e =>
    let g := e.2.frame / 128
    decide (g < 3008) && m.entry s.mem.strong g != imapEntry s g))

/-- A swap of the route set is refused (R418). -/
def routeBusy (s : State) (m : LinkTables) : Bool :=
  (m.node != s.link.tables.node && !(unparked s).isEmpty) ||
    (residents s).any (fun c => (linkPorts s c).any (fun p =>
      let a := sGet 0 s.link.tables.ports p
      let b := sGet 0 m.ports p
      a % 2 != b % 2 || a / 256 % 2 ^ 24 != b / 256 % 2 ^ 24))

def acceptSwap (c : Cmd) (s : State) : State :=
  let at_ := c.field 8 8
  acceptCmd c (if at_ = 0 then s.beat.gnum + 1 else at_) 0 [] s

/-- Acceptance of a swap once its shadow set is chosen. -/
def swapScope (h : LineHit) (c : Cmd) (s : State) : State :=
  let x := ctxAt s c.ctx
  let fail (e : CfgFail) (s : State) : State := refuseCfg c e.code e.index e.off s
  match c.field 0 1 with
  | 0 =>
    let plan := shadowPlan x
    readingCmd c (planRegions s plan) h (fun s =>
      match planFail s c.ctx plan with
      | some e => fail e s
      | none =>
        if slotConflict s c.ctx plan || linkConflict s c.ctx plan then refuseCmd c stSlotConflict [] s
        else if x.st = .unparked ∧ planLenMin s plan > beatLen s then refuseCmd c stPlanLen [] s
        else acceptSwap c s) s
  | 1 =>
    let map := shadowShard x
    readingCmd c (shardRegions s map) h (fun s =>
      match (if map = 0 then none else shardFail s c.ctx map) with
      | some e => fail e s
      | none =>
        if !x.resharded && !layoutEqual s (shardMapOf x) map && !rebuiltEqual s c.ctx (shardMapOf x) map then refuseCmd c stReshardRequired [] s
        else acceptSwap c s) s
  | 2 =>
    match s.sets.partShadow.bind (partFail s) with
    | some e => fail e s
    | none =>
      let m := match s.sets.partShadow with | some bs => partOf bs | none => {}
      if partBusy s m || assignsUnderTest s m then refuseCmd c stScopeActive [] s
      else acceptSwap c s
  | 3 =>
    match s.sets.imapShadow.bind (imapFail s) with
    | some e => fail e s
    | none =>
      if imapBusy s (match s.sets.imapShadow with | some bs => imapOf bs | none => {}) then refuseCmd c stScopeActive [] s
      else acceptSwap c s
  | 4 =>
    match s.sets.powerShadow.bind policyFail with
    | some e => fail e s
    | none => acceptSwap c s
  | _ =>
    match s.sets.routeShadow.bind (fun b => routeFail b.1 b.2) with
    | some e => fail e s
    | none =>
      if routeBusy s (match s.sets.routeShadow with | some b => tablesOf b.1 b.2 | none => {}) then refuseCmd c stScopeActive [] s
      else acceptSwap c s

def cfgSwap (h : LineHit) (c : Cmd) (s : State) : State :=
  let scope := c.field 0 1
  let at_ := c.field 8 8
  if scope ≤ 1 ∧ (ctxAt s c.ctx).st = .free then refuseCmd c stCtxState [] s
  else if swapPending s scope c.ctx then refuseCmd c stSwapPending [] s
  else if at_ ≠ 0 ∧ at_ ≤ s.beat.gnum then refuseCmd c stSwapLate [] s
  else if scope ≤ 1 ∧ resharding s c.ctx then refuseCmd c stReshardActive [] s
  else swapScope h c s

def execCfgSwap (r : Route) (h : LineHit) (s : State) : Host.Outcome State Fault Refusal :=
  .next (command 0x0202 r (cfgSwap h) s)

/-! ### What a swap does at its boundary (R80, R82) -/

/-- One vacant number of a block is taken over, by the spare or, in a degraded block, by the position that held logical cell
15; the Tally records it (R20, R500, R501, R505). -/
def takeOverOne (g l : Nat) (s : State) : State :=
  let s := updBlk s g (fun b =>
    match b.spare with
    | some p => { b with pos := sSet 0 b.pos (l % 16) (p + 1), spare := none }
    | none => { b with pos := sSet 0 b.pos (l % 16) (b.posOf 15 + 1) })
  logRepair (tallyAdd s 0x04 0x06 g 1) 2 (tallyId 0x04 0x06 g) 0

/-- The vacant numbers of a block are taken over, in the order in which their cells were fenced. -/
def takeOver (g : Nat) (s : State) : State :=
  let b := blk s g
  let due := if b.lost15 then b.awaiting.filter (fun l => l % 16 != 15) else b.awaiting
  updBlk (due.foldl (fun s l => takeOverOne g l s) s) g (fun b => { b with awaiting := [] })

/-- The plan set swaps: its blocks' spares take over, and the new program is to be loaded before frame 0. -/
def applyPlan (c : Nat) (s : State) : State :=
  let s := updKept s c (fun k => { k with planB := !k.planB })
  let s := (partBlocks s c).foldl (fun s g => takeOver g s) s
  updRun s c (fun r => { r with needLoad := true, frame := 0, nextStart := 0 })

/-- The shard set swaps (R357, R365). Coded state stays valid over a layout-equal map, and over one that names the nodes of
rebuilt members, whose numbers then stand in the map itself (R451, R454). -/
def applyShard (c : Nat) (s : State) : State :=
  let x := ctxAt s c
  let s :=
    if layoutEqual s (shardMapOf x) (shadowShard x) then s
    else if rebuiltEqual s c (shardMapOf x) (shadowShard x) then updCode c (fun d => { d with renames := [] }) s
    else clearValid c s
  let s := resetResidency c s
  let s := updCtx (updKept s c (fun k => { k with shardB := !k.shardB })) c (fun x =>
    { x with resharded := false, alm := { x.alm with placed := false } })
  resetResidency c s

/-- A unit changes owner or mode: it is to be cleared, and its old owner's cache on the die goes (R274). -/
def reassignUnit (u : Nat) (s : State) : State :=
  let n := u / 16
  let old := unitOf s n (u % 16)
  let lo := cacheKey n old.2 0
  let s := if old.1 = 1 then { s with mem := { s.mem with cache := sClear s.mem.cache lo (lo + 65536) } } else s
  updDie s n (fun d => { d with clearing := if d.clearing.contains (u % 16) then d.clearing else d.clearing ++ [u % 16] })

def applyPart (s : State) : State :=
  let m := match s.sets.partShadow with | some bs => partOf bs | none => {}
  let fresh := (changedBlocks s.sets.part m).filter (fun g => sGet 0 s.sets.part.blocks g == 0)
  let s := (changedUnits s.sets.part m).foldl (fun s u => reassignUnit u s) s
  let s := { s with sets := { s.sets with part := m, partRaw := s.sets.partShadow, partShadow := s.sets.partRaw } }
  fresh.foldl (fun s g => takeOver g s) s

def applyImap (s : State) : State :=
  let m : IMap := match s.sets.imapShadow with | some bs => imapOf bs | none => {}
  { s with sets := { s.sets with imap := m, imapRaw := s.sets.imapShadow, imapShadow := s.sets.imapRaw } }

def applyPower (s : State) : State :=
  let p : Policy := match s.sets.powerShadow with | some bs => policyOf bs | none => {}
  { s with sets := { s.sets with powerRaw := s.sets.powerShadow, powerShadow := s.sets.powerRaw }
           pwr := { s.pwr with policy := p, setB := !s.pwr.setB } }

/-- A port is newly enabled, or disabled, or stays as it is (R418). -/
def switchPort (p : Nat) (was now : Bool) (s : State) : State :=
  if was == now then s
  else if now then updPort p (fun t => if engineOut s (p / 4) then { t.fresh 0 s.cycle with state := 3, laser := false } else t.fresh 1 s.cycle) s
  else
    let t := portAt s p
    loseMessages p 0 (t.unacked ++ t.waiting) [] (updPort p (fun t => { t.fresh 0 s.cycle with state := 0, laser := false }) s)

def applyRoute (s : State) : State :=
  let m : LinkTables := match s.sets.routeShadow with | some b => tablesOf b.1 b.2 | none => {}
  let old := s.link.tables
  let s := { s with link := { s.link with tables := m }
                    sets := { s.sets with routeRaw := s.sets.routeShadow, routeShadow := s.sets.routeRaw } }
  (List.range 32).foldl (fun s p => switchPort p (sGet 0 old.ports p % 2 == 1) (sGet 0 m.ports p % 2 == 1) s) s

/-- A swap takes effect; its reply carries the first beat with the new set. -/
def applySwap (j : Job) (s : State) : State :=
  let s := match j.field 0 1 with
    | 0 => applyPlan j.ctx s
    | 1 => applyShard j.ctx s
    | 2 => applyPart s
    | 3 => applyImap s
    | 4 => applyPower s
    | _ => applyRoute s
  endJob j stOk (s.beat.gnum + 1) [] s

end Sys2Proof.Machine
end

