-- ==== Sys2Proof/Machine/Context.lean ====
section
/-! DEFINITION. Contexts: descriptors, translation loads, line tables, parks, unparks, resizes and granary swaps (R263 to
R266, R298, R310, R314 to R316, R319 to R340, R478 to R482). -/

namespace Sys2Proof.Machine

/-! ### The descriptor (R321) -/

/-- The 256 bytes of a descriptor. -/
def descBytes (s : State) (c : Nat) : List Byte :=
  let x := ctxAt s c
  let d := x.desc
  let k := x.kept
  let st := match x.st with | .free => 0 | .stored => 1 | .parked => 2 | .unparked => 3
  let mask := (partBlocks s c).foldl (fun a g => a + 2 ^ g) 0
  natLe 2 (if x.st = .free then 0 else c) ++ natLe 1 st ++ natLe 1 d.mode ++ natLe 4 d.timeout ++ natLe 8 d.xlateRoot ++
    (List.range 4).flatMap (fun r => natLe 4 (d.bells.getD r 0)) ++ natLe 2 d.lines ++ natLe 2 0 ++ natLe 4 d.power ++
    natLe 8 d.lineTable ++ natLe 8 d.planA ++ natLe 8 d.planB ++ natLe 8 d.shardA ++ natLe 8 d.shardB ++ natLe 2 d.gwBase ++
    natLe 2 d.gaBase ++ natLe 2 d.gwCount ++ natLe 1 (if k.gsel then 1 else 0) ++
    natLe 1 ((if k.planB then 1 else 0) + (if k.shardB then 2 else 0)) ++ natLe 16 d.seed.toNat ++ natLe 8 d.almanac ++
    natLe 8 d.groups ++ natLe 8 d.faultRing ++ natLe 4 d.faultSlots ++ natLe 4 d.beatSlots ++ natLe 8 d.beatRing ++
    natLe 8 k.faultCount ++ natLe 8 k.beatCount ++ natLe 8 d.ringReport ++ natLe 8 d.saveArea ++ natLe 8 d.saveSize ++
    natLe 8 k.energy ++ natLe 8 k.runBeats ++ natLe 8 k.gated ++ natLe 8 k.parkGnum ++ natLe 2 k.resume ++ natLe 1 k.acct ++
    natLe 5 0 ++ natLe 32 (if x.st = .free then 0 else mask)

/-- The fields of an image that the host sets. -/
def descOf (bs : List Byte) : Desc :=
  let f := fieldAt bs
  { mode := f 3 1, timeout := f 4 4, xlateRoot := f 8 8, bells := (List.range 4).map (fun r => f (0x10 + 4 * r) 4)
    lines := f 0x20 2, power := f 0x24 4, lineTable := f 0x28 8, planA := f 0x30 8, planB := f 0x38 8, shardA := f 0x40 8
    shardB := f 0x48 8, gwBase := f 0x50 2, gaBase := f 0x52 2, gwCount := f 0x54 2, seed := BitVec.ofNat 128 (f 0x58 16)
    almanac := f 0x68 8, groups := f 0x70 8, faultRing := f 0x78 8, faultSlots := f 0x80 4, beatSlots := f 0x84 4
    beatRing := f 0x88 8, ringReport := f 0xA0 8, saveArea := f 0xA8 8, saveSize := f 0xB0 8 }

/-- Powers of two from 16 to 65,536. -/
def ringSizes : List Nat := (List.range 13).map (fun i => 2 ^ (i + 4))

/-- Validation of a descriptor image (R322). -/
def descFail (s : State) (c : Nat) (bs : List Byte) : Option CfgFail :=
  let f := fieldAt bs
  let fits (a n al : Nat) : Bool := a % al == 0 && decide (a + n ≤ jobBytes s)
  let zero (o n : Nat) : Nat × Bool := (o, f o n == 0)
  let bell (r : Nat) : Nat × Bool :=
    let v := f (0x10 + 4 * r) 4
    (0x10 + 4 * r, bitsOf v 15 14 == 0 && bitsOf v 31 31 == 0 && decide (bitsOf v 13 0 + bitsOf v 30 16 ≤ 16384))
  let lines := f 0x20 2
  let count := bitsOf lines 10 5
  let gw := f 0x50 2
  let ga := f 0x52 2
  let n := f 0x54 2
  let window (b : Nat) : Bool := n == 0 || decide (b + n ≤ 1024)
  let taken : Bool := s.ctxs.any (fun e => e.1 != c && e.2.st != .free &&
    runsMeet (f 0xA8 8) (f 0xB0 8) e.2.desc.saveArea e.2.desc.saveSize)
  badField 0x10 0 ([zero 2 1, (3, decide (f 3 1 < 16)), (4, decide (f 4 4 < 2 ^ 20)), (8, fits (f 8 8) 8192 4096)] ++
    (List.range 4).map bell ++
    [(0x20, decide (lines < 2 ^ 11) && decide (bitsOf lines 4 0 + count ≤ 32)), zero 0x22 2, (0x24, decide (f 0x24 4 < 256)),
      (0x28, fits (f 0x28 8) (32 * count) 1 && (count != 0 || f 0x28 8 == 0)), (0x30, fits (f 0x30 8) 64 1),
      (0x38, fits (f 0x38 8) 64 1), (0x40, fits (f 0x40 8) 96 1), (0x48, fits (f 0x48 8) 96 1), (0x50, window gw),
      (0x52, window ga && (n == 0 || !runsMeet gw n ga n)), (0x54, decide (n ≤ 256)), zero 0x56 1, zero 0x57 1,
      (0x68, fits (f 0x68 8) 512 64), (0x70, fits (f 0x70 8) 6160 1), (0x78, fits (f 0x78 8) (64 * f 0x80 4) 64),
      (0x80, ringSizes.contains (f 0x80 4)), (0x84, ringSizes.contains (f 0x84 4)),
      (0x88, fits (f 0x88 8) (64 * f 0x84 4) 64), zero 0x90 8, zero 0x98 8, (0xA0, fits (f 0xA0 8) 256 1),
      (0xA8, fits (f 0xA8 8) (f 0xB0 8) 4096 && !taken), (0xB0, f 0xB0 8 % 4096 == 0), zero 0xB8 8, zero 0xC0 8, zero 0xC8 8,
      zero 0xD0 8, zero 0xD8 2, zero 0xDA 1, zero 0xDB 5, zero 0xE0 32])

/-- Contexts that are resident or whose unpark prepares. -/
def claimants (s : State) : List Nat :=
  (s.ctxs.filter (fun e => e.2.st.resident || !(jobsOf s 0x0103 e.1).isEmpty)).map (fun e => e.1)

/-- Bell runs overlap those of another claimant (R298). -/
def bellsMeet (s : State) (c : Nat) (d : Desc) : Bool :=
  (claimants s).any (fun k => k != c && (List.range 4).any (fun r =>
    let a := bellRun { (ctxAt s k) with desc := d } r
    let b := bellRun (ctxAt s k) r
    runsMeet a.1 a.2 b.1 b.2))

/-- The line run overlaps that of another claimant (R310). -/
def linesMeet (s : State) (c : Nat) (d : Desc) : Bool :=
  (claimants s).any (fun k => k != c &&
    (let a := lineRun { (ctxAt s k) with desc := d }
     let b := lineRun (ctxAt s k)
     runsMeet a.1 a.2 b.1 b.2))

/-- The bells of a context, ascending (R316). -/
def ctxBells (x : Ctx) : List Nat :=
  (List.range 4).flatMap (fun r => let b := bellRun x r; (List.range b.2).map (fun i => 16384 * r + b.1 + i))

/-- The lines of a context, ascending. -/
def ctxLineIds (x : Ctx) : List Nat := let r := lineRun x; (List.range r.2).map (fun i => r.1 + i)

/-- The bells of a context take their initial state (R315). -/
def resetBells (c : Nat) (s : State) : State :=
  (ctxBells (ctxAt s c)).foldl (fun s b => updBell s b (fun _ => {})) s

/-- A line in its initial state; the table entry it was loaded from stays. -/
def Line.cleared (n : Line) : Line :=
  { n with phase := 0#16, arrived := [], latch := [], latchDue := false, peers := [], peersNext := [] }

/-- Lines of a context take their initial state: all of them, or the local ones only. -/
def resetLines (c : Nat) (all : Bool) (s : State) : State :=
  (ctxLineIds (ctxAt s c)).foldl (fun s l => updLine l (fun n => if all || decide (n.members ≤ 1) then n.cleared else n) s) s

/-! ### CTX_CREATE and CTX_QUERY -/

/-- The Tally's entries of a context are zeroed; a freed context's counts stay in the device's totals (R516). -/
def clearTallyCtx (c : Nat) (s : State) : State :=
  ctxQtys.foldl (fun s q =>
    let v := sGet 0 s.tly.vals (tallyId q 0x20 c)
    let s := { s with tly := { s.tly with vals := sErase s.tly.vals (tallyId q 0x20 c) } }
    if v = 0 then s else tallyAdd s q 0x20 0xFFFF v) s

/-- A context is created: device-kept fields cleared, bells and lines reset, STATE PARKED, RESUME all ones. -/
def createCtx (c : Nat) (bs : List Byte) (s : State) : State :=
  let d := descOf bs
  let a := d.almanac
  let alm : Almanac := if a = 0 then {} else { cb := peekNat s (a + 0x10) 1, step := peekNat s (a + 8) 8 }
  let x : Ctx := { st := .parked, desc := d, kept := { resume := 0xFFFF }, alm := alm }
  let s := clearTallyCtx c { s with ctxs := sSet {} s.ctxs c x }
  (ctxLineIds x).foldl (fun s l => updLine l (fun _ => {}) s) (resetBells c s)

/-- The device-kept fields of an Almanac block at create (R374). -/
def almCreateFail (s : State) (a : Nat) : Option CfgFail :=
  if a = 0 then none
  else badField 0x13 0 [(7, peekNat s (a + 7) 1 == 0), (0x10, decide (peekNat s (a + 0x10) 1 ≤ 1)), (0x38, peekNat s (a + 0x38) 8 == 0)]

def ctxCreate (h : LineHit) (c : Cmd) (s : State) : State :=
  let a := c.field 0 8
  if (ctxAt s c.ctx).st ≠ .free then refuseCmd c stContextExists [] s
  else if (claimants s).length ≥ 256 then refuseCmd c stResidentFull [] s
  else readingCmd c [(a, 256), (peekNat s (a + 0x68) 8, 0x40)] h (fun s =>
    let bs := peek s a 256
    match (descFail s c.ctx bs).or (almCreateFail s (fieldAt bs 0x68 8)) with
    | some e => refuseCfg c e.code e.index e.off s
    | none =>
      if bellsMeet s c.ctx (descOf bs) then refuseCmd c stBellConflict [] s
      else if linesMeet s c.ctx (descOf bs) then refuseCmd c stLineConflict [] s
      else completeCmd c stOk s.beat.gnum [] [] (createCtx c.ctx bs s)) s

def execCtxCreate (r : Route) (h : LineHit) (s : State) : Host.Outcome State Fault Refusal :=
  .next (command 0x0101 r (ctxCreate h) s)

def ctxQuery (c : Cmd) (s : State) : State :=
  let out := c.field 0 8
  if deniedOut c out then refuseCmd c stDenied [] s else answerOut c out [256] (descBytes s c.ctx) s

def execCtxQuery (r : Route) (s : State) : Host.Outcome State Fault Refusal := .next (command 0x0106 r ctxQuery s)

/-! ### Translation loads (R263 to R266, R325, R339) -/

/-- A level-2 entry as its 64 bits. -/
def entryOf (v : Nat) : XEntry := ⟨bitsOf v 39 21, bitsOf v 3 2, bitsOf v 1 1 == 1⟩

/-- The entry for a level-1 index and a level-2 index, or why it may not be loaded. -/
inductive EntryRead
  | invalid
  | valid (e : XEntry)
  | bad (status : Nat) (det : List Nat)

/-- What a refusal with ST_CFG_INVALID names. -/
def cfgDetail (code index off : Nat) : List Nat := [code * 2 ^ 56 + index, off]

/-- A frame is named with the KIND of its granule, or lies in a scratch unit of the context (R265). -/
def kindFits (s : State) (c : Nat) (e : XEntry) : Bool :=
  match e.kind, physAt s (e.frame * 2 ^ 21) with
  | 2, .scratch off => decide (unitOf s (off / 2 ^ 27) (off / 2 ^ 23 % 16) = (2, c))
  | 0, .hbm _ _ => decide ((imapEntry s (e.frame / 128)).1 = 2) || decide ((imapEntry s (e.frame / 128)).1 = 3)
  | 1, .hbm _ _ => decide ((imapEntry s (e.frame / 128)).1 = 1)
  | _, _ => false

/-- The stacks that a frame lies on. -/
def frameStacks (s : State) (f : Nat) : List Nat :=
  match physAt s (f * 2 ^ 21) with
  | .hbm st _ =>
    match (imapEntry s (f / 128)).1 with
    | 1 => List.range 8
    | 2 => [st / 2 * 2, st / 2 * 2 + 1]
    | _ => [st]
  | _ => []

/-- Reading the entry for level-1 index i and level-2 index j of a context's tables. -/
def readEntry (s : State) (c i j : Nat) : EntryRead :=
  let one := peekNat s ((ctxAt s c).desc.xlateRoot + 8 * i) 8
  let cfg1 (off : Nat) : EntryRead := .bad stCfgInvalid (cfgDetail 0x16 i off)
  let cfg2 (off : Nat) : EntryRead := .bad stCfgInvalid (cfgDetail 0x17 (512 * i + j) off)
  if bitsOf one 11 1 ≠ 0 then cfg1 0
  else if bitsOf one 63 40 ≠ 0 then cfg1 5
  else if one % 2 = 0 then .invalid
  else
    let v := peekNat s (one + 4095 - (one + 4095) % 4096 - (if one % 4096 = 0 then 0 else 4096) + 8 * j) 8
    if bitsOf v 20 4 ≠ 0 ∨ bitsOf v 3 2 = 3 then cfg2 0
    else if bitsOf v 63 40 ≠ 0 then cfg2 5
    else if v % 2 = 0 then .invalid
    else
      let e := entryOf v
      if sGet false s.mem.retired e.frame then .bad stPageRetired (cfgDetail 0x17 (512 * i + j) 2)
      else if !kindFits s c e || (frameStacks s e.frame).any (fun n => stackOut s n) then cfg2 2
      else .valid e

/-- The entries of some pages, by page, or the first refusal. -/
def readPages (s : State) (c : Nat) : List Nat → (Nat × List Nat) ⊕ Sparse XEntry
  | [] => .inr []
  | p :: t =>
    match readEntry s c (p / 512) (p % 512) with
    | .bad st det => .inl (st, det)
    | .invalid => readPages s c t
    | .valid e =>
      match readPages s c t with
      | .inl r => .inl r
      | .inr m => .inr (sPut m p e)

/-- A frame of job space that another context maps (R325). -/
def frameShared (s : State) (c f : Nat) : Bool :=
  s.ctxs.any (fun e => e.1 != c && e.2.xlate.any (fun x => x.2.frame == f && x.2.kind != 2))

/-- The images that the granary exchanges agree (R339). -/
def granaryFail (s : State) (x : Ctx) (m : Sparse XEntry) : Option CfgFail :=
  let d := x.desc
  let like (a b : Option XEntry) : Bool := match a, b with
    | none, none => true
    | some a, some b =>
      a.kind == b.kind && (imapEntry s (a.frame / 128)).1 == (imapEntry s (b.frame / 128)).1 &&
        (imapEntry s (a.frame / 128)).2.1 == (imapEntry s (b.frame / 128)).2.1
    | _, _ => false
  ((List.range (512 * d.gwCount)).find? (fun k => !like (sFind m (512 * d.gwBase + k)) (sFind m (512 * d.gaBase + k)))).map
    (fun k => ⟨0x17, 512 * d.gwBase + k, 0⟩)

/-- Entries in the translation store of a region without a context's own (R264). -/
def storeUse (s : State) (c r : Nat) : Nat :=
  ((unparked s).filter (fun k => k != c && decide (blocksIn s k r ≠ 0))).foldl (fun a k => a + (ctxAt s k).xlate.length) 0

/-- A context's translation after a load may stand: frames not shared, the granary's images alike, room in every region. -/
def loadFail (s : State) (c : Nat) (fresh all : Sparse XEntry) : Option (Nat × List Nat) :=
  if fresh.any (fun e => e.2.kind != 2 && frameShared s c e.2.frame) then some (stFrameShared, [])
  else match granaryFail s (ctxAt s c) all with
    | some e => some (stCfgInvalid, cfgDetail e.code e.index e.off)
    | none =>
      if (List.range 4).any (fun r => decide (blocksIn s c r ≠ 0) && decide (storeUse s c r + all.length > 393216)) then
        some (stXlateFull, [])
      else none

/-- The runs of memory that a load of level-1 indices reads. -/
def xlateRegions (s : State) (c : Nat) (is : List Nat) : List (Nat × Nat) :=
  let root := (ctxAt s c).desc.xlateRoot
  is.flatMap (fun i =>
    let one := peekNat s (root + 8 * i) 8
    (root + 8 * i, 8) :: (if one % 2 = 1 then [(bitsOf one 39 12 * 4096, 4096)] else []))

/-- MEM_MAP: pages as they are now seen through the granary (R266, R338, R482). -/
def memMap (h : LineHit) (c : Cmd) (s : State) : State :=
  let x := ctxAt s c.ctx
  let first := c.field 0 8 / 2 ^ 21
  let n := c.field 8 4
  if x.st = .free then refuseCmd c stCtxState [] s
  else
    let ps := (List.range n).map (fun k => 512 * granaryIndex x ((first + k) / 512) + (first + k) % 512)
    readingCmd c (xlateRegions s c.ctx (distinct (ps.map (fun p => p / 512)))) h (fun s =>
      match readPages s c.ctx ps with
      | .inl r => refuseCmd c r.1 r.2 s
      | .inr m =>
        if x.st ≠ .unparked then
          if m.any (fun e => e.2.kind != 2 && frameShared s c.ctx e.2.frame) then refuseCmd c stFrameShared [] s
          else completeCmd c stOk s.beat.gnum [n] [] s
        else if ps.any (fun p => (sFind x.xlate p).isSome && sFind x.xlate p != sFind m p) then refuseCmd c stScopeActive [] s
        else
          let all := m.foldl (fun a e => sPut a e.1 e.2) x.xlate
          match loadFail s c.ctx m all with
          | some r => refuseCmd c r.1 r.2 s
          | none =>
            let s := updCtx s c.ctx (fun x => { x with xlate := all, alm := { x.alm with placed := false } })
            completeCmd c stOk s.beat.gnum [n] [] s) s

def execMemMap (r : Route) (h : LineHit) (s : State) : Host.Outcome State Fault Refusal :=
  .next (command 0x0401 r (memMap h) s)

/-! ### Line tables (R310) -/

/-- Byte i of a participant mask. -/
def maskBits (s : State) (a : Nat) : Sparse Bool :=
  (List.range 4096).foldl (fun m b => if peekNat s (a + b / 8) 1 / 2 ^ (b % 8) % 2 = 1 then sPut m b true else m) []

/-- Line table entry of line l at address a, and its mask. -/
def lineFail (s : State) (blocks : List Nat) (a l : Nat) : Option CfgFail :=
  let f (o n : Nat) : Nat := peekNat s (a + o) n
  let m := f 8 2
  let own : Bool := m == 1
  let outside (k : Nat) : Bool := (List.range 8).any (fun b => f 0 8 != 0 && peekNat s (f 0 8 + k) 1 / 2 ^ b % 2 == 1 &&
    (decide ((8 * k + b) / 16 ≥ blocks.length) || lostCell s blocks ((8 * k + b) / 16) (b + 8 * (k % 2))))
  firstFail [
    badField 0x11 l [(0x1C, crcHolds s (a + 0x1C) ([(a, 0x1C), (f 0 8, 512)] ++ if own then [] else [(f 0x10 8, 4 * m)])),
      (0, decide (f 0 8 < 2 ^ 40)), (8, decide (1 ≤ m) && decide (m ≤ 512)), (0x0A, decide (f 0x0A 2 < m)),
      (0x0C, !own || f 0x0C 4 == 0), (0x10, decide (f 0x10 8 < 2 ^ 40) && (!own || f 0x10 8 == 0)), (0x18, f 0x18 4 == 0)],
    ((List.range 512).find? outside).map (fun k => ⟨0x12, l, k⟩)]

/-- A line as its table entry gives it, in its initial state. -/
def lineOf (s : State) (a : Nat) : Line :=
  let f (o n : Nat) : Nat := peekNat s (a + o) n
  let m := f 8 2
  { mask := maskBits s (f 0 8), members := m, self := f 0x0A 2, key := BitVec.ofNat 32 (f 0x0C 4)
    nodes := if m ≤ 1 then [] else (List.range m).map (fun i => peekNat s (f 0x10 8 + 4 * i) 4 % 65536) }

/-- The runs that the load of a line table reads. -/
def lineRegions (s : State) (x : Ctx) : List (Nat × Nat) :=
  (List.range (lineRun x).2).flatMap (fun i =>
    let a := x.desc.lineTable + 32 * i
    let m := peekNat s (a + 8) 2
    [(a, 32), (peekNat s a 8, 512)] ++ if m ≤ 1 then [] else [(peekNat s (a + 0x10) 8, 4 * m)])

/-! ### The save area (R316, R327 to R331) -/

def roundPage (n : Nat) : Nat := (n + 4095) / 4096 * 4096

/-- The offsets of the sections of a save (bells, lines, cell records, cell stores, block stores) and its end. -/
structure SaveLayout where
  bells : Nat
  lines : Nat
  cells : Nat
  stores : Nat
  blocks : Nat
  size : Nat

def saveLayout (bells lines blocks : Nat) (stores : Bool) : SaveLayout :=
  let l := 4096 + roundPage (4 * bells)
  let c := l + roundPage (1216 * lines)
  let st := c + roundPage (1024 * (16 * blocks))
  let b := if stores then st + roundPage (786432 * (16 * blocks)) else st
  ⟨4096, l, c, st, b, if stores then b + 0x800000 * blocks else st⟩

/-- Bytes saved: the header, and every section's own bytes. -/
def savedBytes (bells lines blocks : Nat) (stores : Bool) : Nat :=
  64 + 4 * bells + 1216 * lines + 1024 * (16 * blocks) + (if stores then 786432 * (16 * blocks) + 0x800000 * blocks else 0)

/-- The bits of a set in n bytes. -/
def setBytes (n : Nat) (m : Sparse Bool) : List Byte := natLe n (m.foldl (fun a e => a + 2 ^ e.1) 0)

def bitsOfBytes (bs : List Byte) : Sparse Bool :=
  (List.range (8 * bs.length)).foldl (fun m b =>
    if (bs.getD (b / 8) 0#8).toNat / 2 ^ (b % 8) % 2 = 1 then sPut m b true else m) []

/-- A line as it is saved. -/
def lineBytes (n : Line) : List Byte :=
  natLe 2 n.phase.toNat ++ natLe 2 n.epoch.toNat ++ natLe 4 0 ++ setBytes 512 n.arrived ++ setBytes 512 n.latch ++
    setBytes 64 n.peers ++ setBytes 64 n.peersNext ++ natLe 56 0

/-- The partition's number of a logical cell: 16 times its partition block index, plus its number in the block. -/
def partNumber (s : State) (c l : Nat) : Nat := 16 * partIndex s c (blockOf l) + l % 16

/-- A cell record (R330). A handle names its consumer by the partition's own number of the cell, so that a job may move
between blocks (DESIGN CHOICE). -/
def cellRecord (s : State) (c : Nat) (x : Cell) : List Byte :=
  let ring (r : Nat) : List Byte :=
    let g := ringAt x r
    natLe 8 (g.base + g.slots * 2 ^ 19 + g.slotSz * 2 ^ 27 + (if g.defined then 2 ^ 63 else 0))
  let state (r : Nat) : List Byte :=
    let g := ringAt x r
    natLe 8 (g.filled.length + g.returned * 2 ^ 8 + g.nextFill * 2 ^ 16 + g.nextFree * 2 ^ 24)
  let handle (k : Nat) : List Byte :=
    let g := handleAt x k
    if g.bound then
      let next := (ringAt (cellAt s (physOf s g.peer)) g.ring).nextFill
      natLe 8 (partNumber s c g.peer + g.ring * 2 ^ 12 + g.credits * 2 ^ 16 + next * 2 ^ 24 + 2 ^ 63)
    else natLe 8 0
  (List.range 16).flatMap (fun i => natLe 8 (xGet x.x i).toNat) ++
    (List.range 16).flatMap (fun i => natLe 16 (sGet 0#128 x.d i).toNat) ++ (List.range 8).flatMap ring ++
    (List.range 8).flatMap state ++ (List.range 8).flatMap handle ++ natLe 448 0

/-- The cell of a logical number, or nothing where it is vacant. -/
def cellOrNone (s : State) (l : Nat) : Cell := if isVacant s l then {} else cellAt s (physOf s l)

/-- Cell store and accumulator memories as they are saved. -/
def savedStores (x : Cell) : List Byte :=
  sGetAll 0#8 x.store 0 storeSize ++ (sGetAll 0#32 x.acc 0 65536).flatMap (fun v => natLe 4 v.toNat)

/-- The logical cells of a partition, vacant ones included, in cell-record order. -/
def allCells (s : State) (c : Nat) : List Nat := (partBlocks s c).flatMap (fun g => (List.range 16).map (fun n => 16 * g + n))

/-- The save of a context is written to its save area (R329). -/
def writeSave (c : Nat) (stores bad : Bool) (s : State) : State :=
  let x := ctxAt s c
  let a := x.desc.saveArea
  let bells := ctxBells x
  let lines := ctxLineIds x
  let blocks := partBlocks s c
  let y := saveLayout bells.length lines.length blocks.length stores
  let head := natLe 4 0x45564153 ++ natLe 2 ((if stores then 1 else 0) + (if bad then 2 else 0)) ++ natLe 2 blocks.length ++
    natLe 8 x.kept.parkGnum ++ natLe 2 x.kept.resume ++ natLe 42 0
  let s0 := s
  let s := poke s a (head ++ natLe 4 (crc32c head))
  let s := poke s (a + y.bells) (bells.flatMap (fun b => natLe 4 (bellAt s0 b).count.toNat))
  let s := poke s (a + y.lines) (lines.flatMap (fun l => lineBytes (lineAt s0 l)))
  let s := poke s (a + y.cells) ((allCells s0 c).flatMap (fun l => cellRecord s0 c (cellOrNone s0 l)))
  if stores then
    let s := poke s (a + y.stores) ((allCells s0 c).flatMap (fun l => savedStores (cellOrNone s0 l)))
    poke s (a + y.blocks) (blocks.flatMap (fun g => sGetAll 0#8 (blk s0 g).store 0 0x800000))
  else s

/-! ### CTX_PARK (R326 to R331) -/

/-- A save of a context would not fit. -/
def saveTooSmall (s : State) (c : Nat) (stores : Bool) : Bool :=
  let x := ctxAt s c
  decide ((saveLayout (ctxBells x).length (ctxLineIds x).length (partBlocks s c).length stores).size > x.desc.saveSize)

/-- PARKED to STORED: the descriptor and the save area are left, and the context maps no frame (R610). -/
def storeCtx (c : Nat) (s : State) : State := updCtx s c (fun x => { x with st := .stored, xlate := [] })

def ctxPark (c : Cmd) (s : State) : State :=
  let x := ctxAt s c.ctx
  let at_ := c.field 0 8
  let opts := c.field 8 4
  if opts = 4 then
    if x.st ≠ .parked then refuseCmd c stCtxState [] s
    else if transferring s c.ctx then refuseCmd c stScopeActive [] s
    else completeCmd c stOk x.kept.parkGnum [0] [] (storeCtx c.ctx s)
  else if x.st ≠ .unparked then refuseCmd c stCtxState [] s
  else if at_ ≠ 0 ∧ at_ ≤ s.beat.gnum then refuseCmd c stCtxLate [] s
  else if resharding s c.ctx then refuseCmd c stReshardActive [] s
  else if !(jobsOf s 0x0102 c.ctx).isEmpty then refuseCmd c stScopeActive [] s
  else if saveTooSmall s c.ctx (opts / 2 % 2 == 1) then refuseCmd c stSaveSmall [] s
  else acceptCmd c at_ 0 [opts] s

def execCtxPark (r : Route) (s : State) : Host.Outcome State Fault Refusal := .next (command 0x0102 r ctxPark s)

/-- What an uncorrectable word leaves in a save: zero; and its fault, recorded with the cell fenced at the next
boundary (R331, R499). -/
def saveMeets (c : Nat) (e : SaveHit) (s : State) : State :=
  match e with
  | .cell l h =>
    let l := l.toNat
    let p := physOf s l
    let gone (f : FaultRec) (g : Cell → Cell) (s : State) : State :=
      fencing (fun f _ s => recordOnly f c s) { f with lcell := l, pcell := p } [c] (blockOf l) l p (updCell s p g)
    match h.mem with
    | .store => gone (storeEccForeign h.loc 0) (fun x => { x with store := sClear x.store (h.loc / 8 * 8) (h.loc / 8 * 8 + 8) }) s
    | .acc => gone { code := 0x0108, unit := h.unit, arg := h.loc } (fun x => { x with acc := sErase x.acc (16384 * h.unit + h.loc) }) s
    | _ => s
  | .block g off =>
    let o := off.toNat / 8 * 8
    recordOnly { code := 0x0201, unit := g.toNat, arg := off.toNat } c
      (failBlock g.toNat (updBlk s g.toNat (fun b => { b with store := sClear b.store o (o + 8) })))

/-- The save of a park is complete in HBM: the reply (R328, R331). -/
def execParkSaveDone (ctx : BitVec 14) (hit : Option SaveHit) (s : State) : Host.Outcome State Fault Refusal :=
  .next (
    let c := ctx.toNat
    match (jobsOf s 0x0102 c).find? (fun j => j.phase == 1) with
    | none => s
    | some j =>
      let stores : Bool := j.field 8 4 / 2 % 2 == 1
      let bad := hit.isSome
      let s := match hit with | some e => saveMeets c e s | none => s
      let s := writeSave c stores bad s
      let s := updCtx s c (fun x => { x with saved := !bad, kept := if bad then { x.kept with acct := x.kept.acct ||| 8 } else x.kept })
      let x := ctxAt s c
      endJob j (if bad then stFaulted else stOk) x.kept.parkGnum
        [savedBytes (ctxBells x).length (ctxLineIds x).length (partBlocks s c).length stores] s)

/-! ### CTX_UNPARK (R332 to R334) -/

/-- A job that runs on several devices: a group of its shard map, or a line of its line table, with more than one
member (R72). -/
def multiDevice (s : State) (x : Ctx) : Bool :=
  let map := shardMapOf x
  (map != 0 && (List.range (smGroups s map)).any (fun g => decide ((smGroup s map g).members > 1))) ||
    (List.range (lineRun x).2).any (fun i => decide (peekNat s (x.desc.lineTable + 32 * i + 8) 2 > 1))

/-- The header of a usable save checks. -/
def saveUsable (s : State) (x : Ctx) : Bool :=
  x.saved && peekNat s x.desc.saveArea 4 == 0x45564153 && crcHolds s (x.desc.saveArea + 0x3C) [(x.desc.saveArea, 0x3C)]

/-- Why an unpark is refused on acceptance, if it is. -/
def unparkFault (s : State) (c : Cmd) : Option (Nat × List Nat) :=
  let x := ctxAt s c.ctx
  let at_ := c.field 0 8
  let blocks := partBlocks s c.ctx
  let plan := planOf x
  if x.st ≠ .parked ∧ x.st ≠ .stored then some (stCtxState, [])
  else if s.flt.unparkBarred || transferring s c.ctx || (partBlocks s c.ctx).any (blockUnderTest s) then some (stScopeActive, [])
  else if at_ ≠ 0 ∧ at_ ≤ s.beat.gnum then some (stCtxLate, [])
  else if x.st = .stored ∧ (claimants s).length ≥ 256 then some (stResidentFull, [])
  else if bellsMeet s c.ctx x.desc then some (stBellConflict, [])
  else if linesMeet s c.ctx x.desc then some (stLineConflict, [])
  else if blocks.isEmpty then some (stCfgInvalid, cfgDetail 0x1B 0 0)
  else if planBlocks s plan ≠ blocks.length then some (stCfgInvalid, cfgDetail 1 0 0x0A)
  else if saveUsable s x && peekNat s (x.desc.saveArea + 6) 2 != blocks.length then some (stCfgInvalid, cfgDetail 0x1B 0 0)
  else if slotConflict s c.ctx plan || linkConflict s c.ctx plan then some (stSlotConflict, [])
  else if multiDevice s x && !s.beat.locked then some (stBeatUnlocked, [])
  else if planLenMin s plan > beatLen s then some (stPlanLen, [])
  else none

def ctxUnpark (c : Cmd) (s : State) : State :=
  match unparkFault s c with
  | some e => refuseCmd c e.1 e.2 s
  | none => acceptCmd c (c.field 0 8) 0 [] s

def execCtxUnpark (r : Route) (s : State) : Host.Outcome State Fault Refusal := .next (command 0x0103 r ctxUnpark s)

/-- A cell as an unpark finds it: registers, rings and stores empty, queues idle, no instruction memory. -/
def Cell.unparked (x : Cell) : Cell :=
  { x with
    x := [], d := [], rings := [], handles := [], imem := [], store := [], acc := [], seq := {}, units := {}, flags := 0#8
    arrays := (x.arrays.map (fun (e : Nat × MatrixArray) =>
      let m := match e.2.nextMap with | some m => m | none => (e.2.badRow, e.2.badCol)
      (e.1, { e.2 with active := {}, standby := {}, loader := none, badRow := m.1, badCol := m.2, nextMap := none }))).filter
        (fun e => decide (e.2 ≠ ({} : MatrixArray))) }

/-- A cell from its record; the consumer of a handle is the partition's cell of that number. -/
def Cell.restored (x : Cell) (s : State) (c : Nat) (rec : List Byte) : Cell :=
  let f := fieldAt rec
  let ring (r : Nat) : Ring :=
    let v := f (0x180 + 8 * r) 8
    let w := f (0x1C0 + 8 * r) 8
    { defined := v / 2 ^ 63 == 1, base := bitsOf v 18 0, slots := bitsOf v 26 19, slotSz := bitsOf v 42 27
      filled := List.replicate (bitsOf w 7 0) (0, 0), returned := bitsOf w 15 8, nextFill := bitsOf w 23 16, nextFree := bitsOf w 31 24 }
  let handle (k : Nat) : RingHandle :=
    let v := f (0x200 + 8 * k) 8
    if v / 2 ^ 63 = 1 then ⟨true, 16 * (partBlocks s c).getD (bitsOf v 11 4) 0 + bitsOf v 3 0, bitsOf v 14 12, bitsOf v 23 16⟩ else {}
  { x with
    x := (List.range 16).foldl (fun m i => sSet 0#64 m i (BitVec.ofNat 64 (f (8 * i) 8))) []
    d := (List.range 16).foldl (fun m i => sSet 0#128 m i (BitVec.ofNat 128 (f (0x80 + 16 * i) 16))) []
    rings := (List.range 8).foldl (fun m r => sSet {} m r (ring r)) []
    handles := (List.range 8).foldl (fun m k => sSet {} m k (handle k)) [] }

/-- The producers of the filled slots of a partition's rings: the cell whose handle is connected to the ring. -/
def nameProducers (c : Nat) (s : State) : State :=
  (partCells s c).foldl (fun s l => updCell s (physOf s l) (fun x =>
    { x with rings := x.rings.map (fun (e : Nat × Ring) =>
        let who := (partCells s c).findSome? (fun k => ((cellAt s (physOf s k)).handles.find? (fun g =>
          g.2.bound && g.2.peer == l && g.2.ring == e.1)).map (fun g => (k, g.1)))
        (e.1, { e.2 with filled := e.2.filled.map (fun _ => who.getD (0, 0)) })) })) s

/-- Array maps of a cell take effect that cost check mode: the Tally shows it (R152, R154). -/
def noteCheckLoss (p : Nat) (s : State) : State :=
  (List.range 4).foldl (fun s a =>
    match (sGet {} (cellAt s p).arrays a).nextMap with
    | some m => if m.2 ≠ 0x1F then tallyGauge s 0x08 0x09 (4 * p + a) 1 else s
    | none => s) s

/-- The saved state of cells and blocks is restored, or cells and blocks are cleared (R327, R334). -/
def restoreCells (c : Nat) (usable : Bool) (s : State) : State :=
  let x := ctxAt s c
  let a := x.desc.saveArea
  let blocks := partBlocks s c
  let stores : Bool := usable && peekNat s (a + 4) 2 % 2 == 1
  let y := saveLayout (ctxBells x).length (ctxLineIds x).length blocks.length stores
  let s := (allCells s c).zipIdx.foldl (fun s e =>
    if isVacant s e.1 then s
    else updCell (noteCheckLoss (physOf s e.1) s) (physOf s e.1) (fun x =>
      let x := x.unparked
      let x := if usable then x.restored s c (peek s (a + y.cells + 1024 * e.2) 1024) else x
      if stores then
        let o := a + y.stores + 786432 * e.2
        { x with store := sSetAll 0#8 [] 0 (peek s o storeSize)
                 acc := sSetAll 0#32 [] 0 ((List.range 65536).map (fun i => BitVec.ofNat 32 (peekNat s (o + storeSize + 4 * i) 4))) }
      else x)) s
  let s := nameProducers c s
  blocks.zipIdx.foldl (fun s e => updBlk s e.1 (fun b =>
    { b with store := if stores then sSetAll 0#8 [] 0 (peek s (a + y.blocks + 0x800000 * e.2) 0x800000) else [] })) s

/-- Bells and lines are restored, or take their initial state; the line table is loaded. -/
def restoreSync (c : Nat) (usable : Bool) (s : State) : State :=
  let x := ctxAt s c
  let a := x.desc.saveArea
  let y := saveLayout (ctxBells x).length (ctxLineIds x).length (partBlocks s c).length false
  let s := (ctxBells x).zipIdx.foldl (fun s e => updBell s e.1 (fun _ =>
    { count := if usable then BitVec.ofNat 32 (peekNat s (a + y.bells + 4 * e.2) 4) else 0#32 })) s
  (ctxLineIds x).zipIdx.foldl (fun s e =>
    let n := lineOf s (x.desc.lineTable + 32 * e.2)
    let bs := peek s (a + y.lines + 1216 * e.2) 1216
    let part (o k : Nat) : Sparse Bool := bitsOfBytes ((bs.drop o).take k)
    updLine e.1 (fun _ => if usable then
      { n with phase := BitVec.ofNat 16 (fieldAt bs 0 2), epoch := BitVec.ofNat 16 (fieldAt bs 2 2), arrived := part 8 512
               latch := part 0x208 512, peers := part 0x408 64, peersNext := part 0x448 64 } else n) s) s

/-- The first line table entry that fails. -/
def lineTableFail (s : State) (c : Nat) : Option CfgFail :=
  let x := ctxAt s c
  firstFail ((ctxLineIds x).zipIdx.map (fun e => lineFail s (partBlocks s c) (x.desc.lineTable + 32 * e.2) e.1))

/-- An unpark ends without effect: the context stays in its former state. -/
def failUnpark (j : Job) (status : Nat) (det : List Nat) (s : State) : State :=
  endJobWith j status s.beat.gnum det [] (status == stFaulted) s

/-- Preparation ends: translation and line table are loaded and checked, and the saved state is restored; it waits for the
clearing of the context's Square units (R265, R310, R325, R333, R609). -/
def prepareUnpark (j : Job) (h : LineHit) (s : State) : State :=
  let c := j.ctx
  let x := ctxAt s c
  let usable := saveUsable s x
  let y := saveLayout (ctxBells x).length (ctxLineIds x).length (partBlocks s c).length (peekNat s (x.desc.saveArea + 4) 2 % 2 == 1)
  match readRegions h (xlateRegions s c (List.range 1024) ++ lineRegions s x ++
      (if usable then [(x.desc.saveArea, y.size)] else [])) 0 s with
  | (some pa, t) => failUnpark j stFaulted [] (recordUe c pa t)
  | (none, s) =>
    match readPages s c (List.range 524288), lineTableFail s c with
    | .inl r, _ => failUnpark j r.1 r.2 s
    | .inr _, some e => failUnpark j stCfgInvalid (cfgDetail e.code e.index e.off) s
    | .inr m, none =>
      match loadFail s c m m with
      | some r => failUnpark j r.1 r.2 s
      | none =>
        let s := restoreSync c usable (restoreCells c usable s)
        let s := updCtx s c (fun x => { x with xlate := m, alm := { x.alm with placed := false } })
        updJob j.id (fun j => { j with phase := 1 }) s

def execUnparkPrepDone (ctx : BitVec 14) (h : LineHit) (s : State) : Host.Outcome State Fault Refusal :=
  .next (
    let c := ctx.toNat
    let clearing := (List.range 8).any (fun n => (dieAt s n).clearing.any (fun u =>
      (unitOf s n u).1 != 0 && (unitOf s n u).2 == c))
    match (jobsOf s 0x0103 c).find? (fun j => j.phase == 0) with
    | none => s
    | some j => if clearing then s else prepareUnpark j h s)

/-! ### CTX_RESIZE, CTX_DESTROY and GRANARY_SWAP (R335, R336, R340) -/

/-- The step in progress is over before its end: its remaining frames are skipped, and the next step starts at the frame
after its STEP_END (R45, R56; DEDUCED for a step that a park abandons). -/
def skipStep (c : Nat) (s : State) : State :=
  let x := ctxAt s c
  if x.run.step.isNone then s
  else
    let next := frameAfter s (planOf x) (stepEnd s (planOf x) x.run.frame)
    updRun s c (fun r => { r with step := none, inFrame := false, frame := next, nextStart := next })

/-- The STEP whose step a context parked within ends, and RESUME is cleared. -/
def abandonParked (c status : Nat) (s : State) : State :=
  let s := match (ctxAt s c).run.step.bind (jobById s) with
    | some j => endJob j status s.beat.gnum [(ctxAt s c).alm.step] s
    | none => s
  updKept (skipStep c s) c (fun k => { k with resume := 0xFFFF })

def ctxResize (c : Cmd) (s : State) : State :=
  if (ctxAt s c.ctx).st ≠ .parked then refuseCmd c stCtxState [] s
  else if transferring s c.ctx then refuseCmd c stScopeActive [] s
  else
    let s := clearValid c.ctx (clearLanes c.ctx (resetResidency c.ctx (abandonParked c.ctx stStepAbandoned s)))
    completeCmd c stOk s.beat.gnum [] [] (updCtx s c.ctx (fun x => { x with saved := false }))

def execCtxResize (r : Route) (s : State) : Host.Outcome State Fault Refusal := .next (command 0x0104 r ctxResize s)

/-- The CONTEXT_END record (R522). -/
def logContextEnd (c : Nat) (s : State) : State :=
  let k := (ctxAt s c).kept
  let v (q : Nat) : Nat := sGet 0 s.tly.vals (tallyId q 0x20 c)
  logAppend s 7 0 (natLe 2 c ++ natLe 6 0 ++ natLe 8 k.energy ++ natLe 8 k.runBeats ++ natLe 8 k.gated ++ natLe 8 (v 0x40) ++
    natLe 8 (v 0x43) ++ natLe 8 (v 0x44) ++ natLe 1 k.acct ++ natLe 7 0)

/-- The active partition map gives a context a block or a unit. -/
def holdsAny (s : State) (c : Nat) : Bool := !(partBlocks s c).isEmpty || (List.range 8).any (fun n => ownsUnitOn s c n)

def ctxDestroy (c : Cmd) (s : State) : State :=
  let x := ctxAt s c.ctx
  let k := x.kept
  if x.st = .unparked ∨ transferring s c.ctx = true then refuseCmd c stScopeActive [] s
  else if x.st = .free then refuseCmd c stCtxState [] s
  else if holdsAny s c.ctx then refuseCmd c stCtxHolds [] s
  else
    let s := clearTallyCtx c.ctx (logContextEnd c.ctx (abandonParked c.ctx stStepAbandoned s))
    let s := (ctxLineIds x).foldl (fun s l => updLine l (fun _ => {}) s) (resetBells c.ctx s)
    let s := { s with ctxs := sSet {} s.ctxs c.ctx {} }
    completeCmd c stOk s.beat.gnum [k.energy, k.runBeats, k.gated, k.acct] [] s

def execCtxDestroy (r : Route) (s : State) : Host.Outcome State Fault Refusal := .next (command 0x0105 r ctxDestroy s)

/-- Commands of a context that write its memory while they run. -/
def writingOps : List Nat := [0x0303, 0x0304, 0x0602, 0x0604, 0x0605]

def granarySwap (c : Cmd) (s : State) : State :=
  let x := ctxAt s c.ctx
  if x.st.resident = false then refuseCmd c stCtxState [] s
  else if x.desc.gwCount = 0 then refuseCfg c 0x10 0 0x54 s
  else if !(jobsOf s 0x0108 c.ctx).isEmpty then refuseCmd c stSwapPending [] s
  else if writingOps.any (fun op => !(jobsOf s op c.ctx).isEmpty) || (jobsOf s 0x0102 c.ctx).any (fun j => j.phase == 1) then
    refuseCmd c stGranaryBusy [] s
  else acceptCmd c 0 0 [] s

def execGranarySwap (r : Route) (s : State) : Host.Outcome State Fault Refusal := .next (command 0x0108 r granarySwap s)

end Sys2Proof.Machine
end

