-- ==== Sys2Proof/Machine/Schedule.lean ====
section
/-! DEFINITION. The Almanac's arithmetic: FP64 operations, cosine and power correctly rounded, the schedule, and the
constants of parameter groups (R374 to R378, R381). -/

namespace Sys2Proof.Machine

/-! ### FP64 (R376) -/

def fp64Shape : FloatShape := ⟨11, 52, 1023, .ieee⟩

/-- A two-operand operation on encodings. -/
def bits2 (sh : FloatShape) (f : FloatShape → Val → Val → Nat × Flags) (a b : Nat) : Nat := (f sh (sh.decode a) (sh.decode b)).1

def bits1 (sh : FloatShape) (f : FloatShape → Val → Nat × Flags) (a : Nat) : Nat := (f sh (sh.decode a)).1

def add64 : Nat → Nat → Nat := bits2 fp64Shape addVals
def sub64 : Nat → Nat → Nat := bits2 fp64Shape (fun sh x y => addVals sh x y.negate)
def mul64 : Nat → Nat → Nat := bits2 fp64Shape mulVals
def div64 : Nat → Nat → Nat := bits2 fp64Shape divVals
def sqrt64 : Nat → Nat := bits1 fp64Shape sqrtVals
def exp2_64 : Nat → Nat := bits1 fp64Shape exp2Vals
def log2_64 : Nat → Nat := bits1 fp64Shape log2Vals
def lt64 (a b : Nat) : Bool := (fp64Shape.decode a).lt (fp64Shape.decode b)
def isZero64 (a : Nat) : Bool := (fp64Shape.decode a).isZero
def finite64 (a : Nat) : Bool := a / 2 ^ 52 % 2 ^ 11 != 2 ^ 11 - 1
def finite32 (a : Nat) : Bool := a / 2 ^ 23 % 2 ^ 8 != 2 ^ 8 - 1

/-- 1.0 -/
def one64 : Nat := 0x3FF0000000000000

/-- fp64(n) -/
def natTo64 (n : Nat) : Nat := if n = 0 then 0 else (fp64Shape.finish false ⟨n, 1, 0⟩).1

/-- A value rounded once to a format. -/
def roundTo (sh : FloatShape) (v : Val) : Nat :=
  match v with
  | .nan _ => sh.qnan
  | .inf s => sh.infBits s
  | .fin s m e => (sh.finishDyadic s (Val.toDyadic (.fin s m e))).1

/-- fp32_rne of FP64, and FP32 widened. -/
def to32 (a : Nat) : Nat := roundTo fp32Shape (fp64Shape.decode a)
def from32 (a : Nat) : Nat := roundTo fp64Shape (fp32Shape.decode a)

/-! ### cos_rn and pow_rn (R376) -/

/-- Every second term of the cosine series from a given one on: a^(2k) / (2k)! for k, k + 2, and so on. -/
def cosTerms (p : Nat) (a4 : Encl) : Nat → Nat → Encl → Encl
  | 0, _, term => ⟨0, 2 * term.hi + 1⟩
  | n + 1, k, term =>
    term.add (cosTerms p a4 n (k + 2) ((Encl.mul p term a4).divNat ((2 * k + 1) * (2 * k + 2) * (2 * k + 3) * (2 * k + 4))))

/-- cos of a number n / d below 4. -/
def cosAt (n d p : Nat) : Option (Nat × Flags) :=
  let a := Encl.ofRat p n d
  let a2 := Encl.mul p a a
  let a4 := Encl.mul p a2 a2
  let pos := cosTerms p a4 (p + 16) 0 ⟨2 ^ p, 2 ^ p⟩
  let neg := cosTerms p a4 (p + 16) 1 (a2.divNat 2)
  if pos.lo > neg.hi then roundEnclosed fp64Shape false ⟨pos.lo - neg.hi, 1, -(p : Int)⟩ ⟨pos.hi - neg.lo, 1, -(p : Int)⟩
  else if neg.lo > pos.hi then roundEnclosed fp64Shape true ⟨neg.lo - pos.hi, 1, -(p : Int)⟩ ⟨neg.hi - pos.lo, 1, -(p : Int)⟩
  else none

/-- cos_rn of an FP64 number from 0 to below 4. -/
def cos64 (a : Nat) : Nat :=
  match fp64Shape.decode a with
  | .fin _ m e => if m = 0 then one64 else (refine (cosAt (m * 2 ^ e.toNat) (2 ^ (-e).toNat)) 12 64).1
  | _ => fp64Shape.qnan

/-- An enclosure of log2 of m × 2^e, in units of 2^-p. -/
def log2Encl (m : Nat) (e : Int) (p : Nat) : Int × Int :=
  let l := Nat.log2 m
  let up : Bool := decide (2 * m ≥ 3 * 2 ^ l)
  let k : Int := e + l + (if up then 1 else 0)
  let d := if up then 2 ^ (l + 1) else 2 ^ l
  let a := atanhRat p (if up then d - m else m - d) (m + d)
  let q := Encl.div p (a.add a) (ln2 p)
  let kk : Int := k * ((2 ^ p : Nat) : Int)
  if up then (kk - q.hi, kk - q.lo) else (kk + q.lo, kk + q.hi)

/-- 2 to the power v × 2^-p, enclosed: the ends and their exponents. -/
def exp2Encl (v : Int) (p : Nat) : Encl × Int :=
  let n : Int := v / ((2 ^ p : Nat) : Int)
  let f := (v % ((2 ^ p : Nat) : Int)).toNat
  (exp01 p (Encl.mul p ⟨f, f⟩ (ln2 p)), n - (p : Int))

/-- A power with an odd base that no short exponent makes exact. -/
def powAt (m : Nat) (e : Int) (k p : Nat) : Option (Nat × Flags) :=
  let l := log2Encl m e (p + 80)
  let lo := l.1 * k
  let hi := l.2 * k
  let unit : Int := ((2 ^ (p + 80) : Nat) : Int)
  if lo > 1100 * unit then some (fp64Shape.infBits false, flagOvf)
  else if hi < -1200 * unit then some (0, flagUnf)
  else
    let a := exp2Encl lo (p + 80)
    let b := exp2Encl hi (p + 80)
    roundEnclosed fp64Shape false ⟨a.1.lo, 1, a.2⟩ ⟨b.1.hi, 1, b.2⟩

/-- The odd part of a number and the power of two taken out, by bits. -/
def oddPart : Nat → Nat → Nat → Nat × Nat
  | 0, m, k => (m, k)
  | n + 1, m, k => if m % 2 = 0 then oddPart n (m / 2) (k + 1) else (m, k)

/-- pow_rn of a positive FP64 number to a whole FP64 power. -/
def pow64 (base power : Nat) : Nat :=
  match fp64Shape.decode base, fp64Shape.decode power with
  | .fin false m e, .fin _ n f =>
    let k := n * 2 ^ f.toNat / 2 ^ (-f).toNat
    let o := oddPart 53 m 0
    let e : Int := e + o.2
    if m = 0 ∨ k = 0 then one64
    else if o.1 = 1 then
      let x : Int := e * k
      if x > 1100 then fp64Shape.infBits false else if x < -1200 then 0 else (fp64Shape.finish false ⟨1, 1, x⟩).1
    else if k ≤ 64 then (fp64Shape.finish false ⟨o.1 ^ k, 1, e * k⟩).1
    else (refine (powAt o.1 e k) 12 64).1
  | _, _ => fp64Shape.qnan

/-! ### The schedule (R374, R376) -/

/-- A schedule segment. -/
structure Segm where
  kind : Nat
  len : Nat
  v0 : Nat
  v1 : Nat
  p : Nat
  every : Nat
  deriving DecidableEq, Repr

def segm (blk : List Byte) (i : Nat) : Segm :=
  let f := fun o n => fieldAt blk (0x40 + 48 * i + o) n
  ⟨f 0 1, f 8 8, f 0x10 8, f 0x18 8, f 0x20 8, f 0x28 8⟩

/-- value(g, tau, n) -/
def Segm.value (g : Segm) (tau n : Nat) : Nat :=
  let x := div64 (natTo64 tau) (natTo64 n)
  match g.kind with
  | 0 => g.v0
  | 1 => add64 g.v0 (mul64 (sub64 g.v1 g.v0) x)
  | 2 => mul64 g.v0 (exp2_64 (mul64 x (log2_64 (div64 g.v1 g.v0))))
  | 3 => add64 g.v1 (mul64 (sub64 g.v0 g.v1) (mul64 0x3FE0000000000000 (add64 one64 (cos64 (mul64 0x400921FB54442D18 x)))))
  | 4 => mul64 g.v0 (sqrt64 (div64 g.p (add64 g.p (natTo64 tau))))
  | _ => mul64 g.v0 (pow64 g.p (natTo64 (tau / g.every)))

/-- Restarts of the last segment: its start and length for step t. A factor of 1 repeats the same length. -/
def restart (r t : Nat) : Nat → Nat → Nat → Nat × Nat
  | 0, start, n => (start, n)
  | k + 1, start, n =>
    if t < start + n then (start, n)
    else if r = 1 then (start + (t - start) / n * n, n)
    else restart r t k (start + n) (n * r)

/-- schedule(t) over segments from a start on. -/
def scheduleFrom (r t : Nat) : List Segm → Nat → Nat
  | [], _ => 0
  | [g], start =>
    let a := if r = 0 then (start, g.len) else restart r t 70 start g.len
    if t < a.1 + a.2 then g.value (t - a.1) a.2 else g.v1
  | g :: rest, start => if t < start + g.len then g.value (t - start) g.len else scheduleFrom r t rest (start + g.len)

def schedule (blk : List Byte) (t : Nat) : Nat :=
  scheduleFrom (fieldAt blk 0x12 2) t ((List.range (fieldAt blk 6 1)).map (segm blk)) 1

/-! ### Parameter groups (R377, R378) -/

/-- The constants of a parameter group at a step: lr in FP64, the others in FP32. -/
structure GroupConst where
  rule : Nat
  clip : Bool
  lr : Nat
  beta1 : Nat
  beta2 : Nat
  eps : Nat
  tmax : Nat
  dec : Nat
  a1 : Nat
  a2 : Nat
  c1 : Nat
  c2 : Nat
  deriving DecidableEq, Repr

/-- The group of tensor i. -/
def groupOfTensor (grp : List Byte) (i : Nat) : Nat := fieldAt grp (0x800 + i) 1

/-- One less β^t, in the log domain. -/
def biasCorrection (beta t : Nat) : Nat :=
  sub64 one64 (exp2_64 (mul64 (natTo64 t) (log2_64 (from32 beta))))

def groupConst (blk grp : List Byte) (t g : Nat) : GroupConst :=
  let f := fun o n => fieldAt grp (32 * g + o) n
  let lr := mul64 (schedule blk t) (from32 (f 4 4))
  let one32 := 0x3F800000
  let sub32 := bits2 fp32Shape (fun sh x y => addVals sh x y.negate)
  { rule := f 0 1, clip := f 1 1 % 2 == 1, lr := lr, beta1 := f 0x0C 4, beta2 := f 0x10 4, eps := f 0x14 4, tmax := f 0x18 4
    dec := to32 (sub64 one64 (mul64 lr (from32 (f 8 4))))
    a1 := to32 (div64 one64 (biasCorrection (f 0x0C 4) t))
    a2 := to32 (div64 one64 (biasCorrection (f 0x10 4) t))
    c1 := sub32 one32 (f 0x0C 4), c2 := sub32 one32 (f 0x10 4) }

/-- The step factor k (R381): from the clip threshold and total, and the norms WR and DR of the tensor. -/
def stepFactor (k : GroupConst) (clipNorm gtot wr dr : Nat) : Nat :=
  let lower (a b : Nat) : Nat := if lt64 b a then b else a
  let c := if k.clip && !isZero64 clipNorm && !isZero64 gtot then lower one64 (div64 clipNorm (sqrt64 gtot)) else one64
  let r :=
    if k.rule == 2 && !isZero64 wr && !isZero64 dr then
      let r := sqrt64 (div64 wr dr)
      if isZero64 (from32 k.tmax) then r else lower r (from32 k.tmax)
    else one64
  to32 (mul64 (mul64 k.lr c) r)

end Sys2Proof.Machine
end

