-- ==== Sys2Proof/Machine/Almanac.lean ====
section
/-! DEFINITION. The Almanac block, the parameter groups and the placement that a step with UPDATE checks, and the exchange
by which the members of a commit group agree on a flip (R371 to R375, R377, R380, R381, R383 to R386). -/

namespace Sys2Proof.Machine

/-! ### Validation (R372, R373, R375, R377) -/

/-- A segment's fields. -/
def segmFields (blk : List Byte) (i : Nat) : List (Nat × Bool) :=
  let o := 0x40 + 48 * i
  let g := segm blk i
  let pos (v : Nat) : Bool := !(fp64Shape.decode v).sign && !isZero64 v
  [(o, decide (g.kind ≤ 5)), (o + 1, fieldAt blk (o + 1) 7 == 0), (o + 8, g.len != 0),
   (o + 0x10, finite64 g.v0 && (g.kind != 2 || pos g.v0)), (o + 0x18, finite64 g.v1 && (g.kind != 2 || pos g.v1)),
   (o + 0x20, match g.kind with | 4 => finite64 g.p && !lt64 g.p one64 | 5 => finite64 g.p && pos g.p | _ => g.p == 0),
   (o + 0x28, if g.kind = 5 then g.every != 0 else g.every == 0)]

/-- The Almanac block. -/
def almanacFail (s : State) (c : Nat) (blk : List Byte) : Option CfgFail :=
  let f := fieldAt blk
  let clip := f 0x28 8
  let tensors := smTensors s (shardMapOf (ctxAt s c))
  badField 0x13 0 ([(0x1FC, crc32c (blk.take 7 ++ (blk.drop 0x12).take 0x26 ++ (blk.drop 0x40).take 0x1BC) == f 0x1FC 4),
      (0, f 0 4 == 0x4E4D4C41), (4, f 4 2 == 1), (6, decide (1 ≤ f 6 1) && decide (f 6 1 ≤ 8)), (0x11, f 0x11 1 == 0),
      (0x12, decide (f 0x12 2 ≤ 1024)), (0x14, decide (1 ≤ f 0x14 2) && decide (f 0x14 2 ≤ 1024)),
      (0x16, decide (f 0x16 2 < f 0x14 2) && peekNat s (f 0x20 8 + 4 * f 0x16 2) 4 == ownNode s), (0x1C, f 0x1C 4 == 0),
      (0x20, decide (f 0x20 8 + 4 * f 0x14 2 ≤ 2 ^ 40)),
      (0x28, finite64 clip && (isZero64 clip || !(fp64Shape.decode clip).sign)),
      (0x30, f 0x30 8 % 64 == 0 && decide (f 0x30 8 + 64 * tensors ≤ 2 ^ 40))] ++
    (List.range (f 6 1)).flatMap (segmFields blk) ++ [(0x1C0, f 0x1C0 60 == 0)])

/-- The parameter group table and the tensor-to-group map. -/
def groupTableFail (grp : List Byte) : Option CfgFail :=
  let f := fieldAt grp
  let notNeg (v : Nat) : Bool := finite32 v && decide (v ≤ 2 ^ 31)
  let entry (g : Nat) : List (Nat × Bool) :=
    let o := 32 * g
    [(o, decide (f o 1 ≤ 3)), (o + 1, decide (f (o + 1) 1 ≤ 1)), (o + 2, f (o + 2) 2 == 0), (o + 4, notNeg (f (o + 4) 4)),
     (o + 8, notNeg (f (o + 8) 4)), (o + 0xC, notNeg (f (o + 0xC) 4) && (decide (f (o + 0xC) 4 < 0x3F800000) || f (o + 0xC) 4 == 2 ^ 31)),
     (o + 0x10, notNeg (f (o + 0x10) 4) && (decide (f (o + 0x10) 4 < 0x3F800000) || f (o + 0x10) 4 == 2 ^ 31)),
     (o + 0x14, finite32 (f (o + 0x14) 4) && decide (0 < f (o + 0x14) 4) && decide (f (o + 0x14) 4 < 2 ^ 31)),
     (o + 0x18, notNeg (f (o + 0x18) 4)), (o + 0x1C, f (o + 0x1C) 4 == 0)]
  badField 0x14 0 ((0x1800, crc32c (grp.take 0x1800) == f 0x1800 4) :: (List.range 64).flatMap entry ++
    (List.range 4096).map (fun i => (0x800 + i, decide (f (0x800 + i) 1 < 64))) ++ [(0x1804, f 0x1804 12 == 0)])

/-- A pair that a tensor's rule needs is missing (R372): named at the tensor's STATE_FMT. -/
def pairFail (s : State) (map : Nat) (grp : List Byte) : Option CfgFail :=
  if map = 0 then none
  else
    let missing (ti : Nat) : Bool :=
      let t := smTensor s map ti
      let has (p : Nat) : Bool := t.stateSize (2 * p) != 0
      match fieldAt grp (32 * groupOfTensor grp ti) 1 with
      | 0 => !(has 0 && has 1)
      | 3 => !has 0
      | _ => !(has 0 && has 1 && has 2)
    ((List.range (smTensors s map)).find? missing).map (fun ti => ⟨0x0A, ti, 0x0E⟩)

/-- The stack of a line of context memory. -/
def lineStack (s : State) (c a : Nat) : Option Nat :=
  match ctxPa s c a false with
  | .inl _ => none
  | .inr pa => match physAt s pa with | .hbm st _ => some st | _ => none

/-- The arrays of a tensor that a Mill reads or writes: base and element size. -/
def millArrays (t : Tensor) (shadow : Option Tensor) : List (Nat × Nat) :=
  [(t.grad, 4)] ++ ((List.range 6).map (fun j => (t.arrays.getD j 0, t.stateSize j))).filter (fun r => r.2 != 0) ++
    [(t.image0, t.gsize), (t.image1, t.gsize)] ++
    (match shadow with | some u => [(u.image0, u.gsize), (u.image1, u.gsize)] | none => [])

/-- The layout-equal shadow map whose images the Mill writes too (R365, R373, R379). -/
def shadowMap (s : State) (c : Nat) : Option Nat :=
  let x := ctxAt s c
  let map := shardMapOf x
  let sh := shadowShard x
  if sh ≠ 0 ∧ map ≠ 0 ∧ layoutEqual s map sh = true then some sh else none

/-- Every array base is aligned, and every run of 1,024 elements lies on one stack in every array (R373). -/
def placementOk (s : State) (c : Nat) : Bool :=
  let map := shardMapOf (ctxAt s c)
  map == 0 || (List.range (smTensors s map)).all (fun ti =>
    let t := smTensor s map ti
    let n := ownElems t (ctxGroup s c map t.group)
    let arrays := millArrays t ((shadowMap s c).map (fun m => smTensor s m ti))
    n == 0 || (arrays.all (fun a => a.1 % 4096 == 0) && (List.range ((n + 1023) / 1024)).all (fun r =>
      let k := min 1024 (n - 1024 * r)
      let sites := arrays.flatMap (fun a => (runLines (a.1 + 1024 * r * a.2) (k * a.2)).map (lineStack s c))
      match sites with
      | [] => true
      | st :: rest => st.isSome && rest.all (fun u => u == st))))

/-- The runs that a step with UPDATE reads at acceptance: the block, the group table and the node list (R375). -/
def almanacRegions (s : State) (c : Nat) : List (Nat × Nat) :=
  let d := (ctxAt s c).desc
  [(d.almanac, 512), (d.groups, 6160), (peekNat s (d.almanac + 0x20) 8, 4 * peekNat s (d.almanac + 0x14) 2)]

/-- What refuses the block, the group table or the placement. -/
def updateFault (s : State) (c : Nat) : Option (Nat × List Nat) :=
  let x := ctxAt s c
  let blk := peek s x.desc.almanac 512
  let grp := peek s x.desc.groups 6160
  match ((almanacFail s c blk).or (groupTableFail grp)).or (pairFail s (shardMapOf x) grp) with
  | some e => some (stCfgInvalid, cfgDetail e.code e.index e.off)
  | none => if !x.alm.placed && !placementOk s c then some (stMillPlacement, []) else none

/-- The commit group of a block is the one last read (R443). -/
def readCommitGroup (c : Nat) (s : State) : State :=
  let a := (ctxAt s c).desc.almanac
  let n := peekNat s (a + 0x20) 8
  let nodes := (List.range (peekNat s (a + 0x14) 2)).map (fun i => peekNat s (n + 4 * i) 4)
  updCtx s c (fun x => { x with cKey := peekNat s (a + 0x18) 4, cNodes := nodes, cSelf := peekNat s (a + 0x16) 2
                                alm := { x.alm with placed := true } })

/-- The device-kept fields of the block are written (R374). -/
def writeAlmanac (c : Nat) (s : State) : State :=
  let x := ctxAt s c
  let a := x.desc.almanac
  if a = 0 then s
  else
    let s := poke s (a + 7) (natLe 1 x.alm.upd ++ natLe 8 x.alm.step ++ natLe 1 x.alm.cb)
    poke s (a + 0x38) (natLe 8 x.alm.lastFlip)

def updAlm (c : Nat) (f : Almanac → Almanac) (s : State) : State := updCtx s c (fun x => { x with alm := f x.alm })

/-! ### Norms (R380, R384) -/

/-- The address of a field of a tensor's norm area entry. -/
def normAt (u : Update) (ti off : Nat) : Nat := fieldAt u.blk 0x30 8 + 64 * ti + off

/-- The shard groups that this device is a member of. -/
def ownGroups (s : State) (c : Nat) : List (Nat × Group) :=
  let map := shardMapOf (ctxAt s c)
  if map = 0 then []
  else ((List.range (smGroups s map)).map (fun g => (g, ctxGroup s c map g))).filter (fun e => decide (e.2.self < e.2.members))

/-- The tensors of a group, ascending. -/
def groupTensors (s : State) (c g : Nat) : List Nat :=
  let map := shardMapOf (ctxAt s c)
  (List.range (smTensors s map)).filter (fun ti => (smTensor s map ti).group == g)

/-- Norms of a group's tensors go to a node, nine to a message. -/
def sendNorms (c type : Nat) (g : Group) (dst t : Nat) (es : List NormEntry) (s : State) : State :=
  (List.range ((es.length + 8) / 9)).foldl (fun s i =>
    let part := (es.drop (9 * i)).take 9
    sendCtl dst c 4 (updateBytes type part.length g.key g.self ((part.head?.map (fun e => e.tensor)).getD 0) t
      (part.flatMap (fun e => natLe 8 e.g ++ natLe 8 e.d ++ natLe 8 e.w))) s) s

/-- The entries that a NORMS or NORMS_SUM message carries. -/
def normEntries (bs : List Byte) (ts : List Nat) (member : Nat) : List NormEntry :=
  let from_ := ts.dropWhile (fun t => t != fieldAt bs 0x0A 2)
  ((from_.take (min 9 (fieldAt bs 2 2))).zipIdx).map (fun e =>
    let o := 0x18 + 24 * e.2
    ⟨fieldAt bs 4 4, member, e.1, fieldAt bs o 8, fieldAt bs (o + 8) 8, fieldAt bs (o + 16) 8⟩)

/-- GR, DR and WR of a tensor are known: they are kept and written to the norm area. -/
def takeSum (c : Nat) (e : NormEntry) (s : State) : State :=
  match (ctxAt s c).upd with
  | none => s
  | some u =>
    let s := updUpdate c (fun u => { u with sums := u.sums.filter (fun x => x.tensor != e.tensor) ++ [e] }) s
    poke s (normAt u e.tensor 0x20) (natLe 8 e.g ++ natLe 8 e.d ++ natLe 8 e.w)

/-! ### Votes (R384, R386) -/

/-- The leader's deadline for COMMIT has passed: in the step's last beat, later than NOTICE before the guard point. -/
def commitLate (s : State) (c : Nat) : Bool :=
  let r := (ctxAt s c).run
  r.inFrame && r.flags % 2 == 1 && decide (s.cycle + 3000 * beatNotice s > guardPoint s)

/-- DECISION 1: k of every tensor is formed and pass B begins (R381). -/
def startPassB (c gtot : Nat) (s : State) : State :=
  match (ctxAt s c).upd with
  | none => s
  | some u =>
    let s := updUpdate c (fun u => { u with decision := some (gtot, true), mills := List.range 8 }) s
    let s := updAlm c (fun a => { a with upd := 2 }) s
    ((ownGroups s c).flatMap (fun e => groupTensors s c e.1)).foldl (fun s ti =>
      let k := groupConst u.blk u.grp u.t (groupOfTensor u.grp ti)
      let n := u.sums.find? (fun e => e.tensor == ti)
      let f := stepFactor k (fieldAt u.blk 0x28 8) gtot ((n.map (fun e => e.w)).getD 0) ((n.map (fun e => e.d)).getD 0)
      poke s (normAt u ti 0x38) (natLe 4 f ++ natLe 4 0)) s

/-- DECISION 0 acts as ABORT with CAUSE 1. -/
def takeDecision (c gtot : Nat) (yes : Bool) (s : State) : State :=
  if yes then startPassB c gtot s
  else updUpdate c (fun u => { u with decision := some (gtot, false), abort := some 1, settled := true, mills := [] }) s

/-- A vote reaches the leader: one with OK 0 aborts, and the last one brings GTOT and DECISION. -/
def recordVote (c member : Nat) (ok : Bool) (clip : Nat) (s : State) : State :=
  let s := updUpdate c (fun u => { u with votes := u.votes.filter (fun v => v.1 != member) ++ [(member, ok, clip)] }) s
  let x := ctxAt s c
  match x.upd with
  | none => s
  | some u =>
    if u.settled || u.decision.isSome then s
    else if !ok then sendAbort c 1 s
    else
      let clips := (List.range x.cNodes.length).filterMap (fun m => (u.votes.find? (fun v => v.1 == m)).map (fun v => v.2.2))
      if clips.length < x.cNodes.length then s
      else
        let gtot := match clips with | [] => 0 | a :: t => t.foldl add64 a
        let yes := finite64 gtot
        takeDecision c gtot yes (tellCommit c (otherMembers x) 4 (natLe 8 gtot ++ natLe 1 (if yes then 1 else 0)) s)

/-- CLIP: GR over the tensors of CLIP groups of which the device is member 0, in ascending tensor index. -/
def clipSum (s : State) (c : Nat) (u : Update) : Nat :=
  let led := ((ownGroups s c).filter (fun e => e.2.self == 0)).flatMap (fun e => groupTensors s c e.1)
  let ts := led.mergeSort (fun a b => decide (a ≤ b))
  let gs := (ts.filter (fun ti => fieldAt u.grp (32 * groupOfTensor u.grp ti + 1) 1 % 2 == 1)).map (fun ti =>
    ((u.sums.find? (fun e => e.tensor == ti)).map (fun e => e.g)).getD 0)
  match gs with | [] => 0 | a :: t => t.foldl add64 a

/-- Once the sums of all its groups are known, a member votes. -/
def castVote (c : Nat) (s : State) : State :=
  let x := ctxAt s c
  match x.upd with
  | none => s
  | some u =>
    let ts := (ownGroups s c).flatMap (fun e => groupTensors s c e.1)
    if u.voted || !u.mills.isEmpty || u.abort.isSome || !ts.all (fun ti => u.sums.any (fun e => e.tensor == ti)) then s
    else
      let own := u.norms.filter (fun e => ((ownGroups s c).any (fun g => g.2.key == e.key && g.2.self == e.member)))
      let ok : Bool := !u.nonfiniteA && own.all (fun e => finite64 e.g && finite64 e.d && finite64 e.w)
      let clip := clipSum s c u
      let s := updUpdate c (fun u => { u with voted := true }) s
      if x.cSelf = 0 then recordVote c 0 ok clip s
      else tellCommit c [0] 3 (natLe 8 clip ++ natLe 1 (if ok then 1 else 0)) s

/-- Member 0 of a group sums the norms once every member's have come, and tells them. -/
def sumGroup (c g : Nat) (s : State) : State :=
  let e := ctxGroup s c (shardMapOf (ctxAt s c)) g
  match (ctxAt s c).upd with
  | none => s
  | some u =>
    let ts := groupTensors s c g
    let entry (ti m : Nat) : Option NormEntry := u.norms.find? (fun n => n.key == e.key && n.member == m && n.tensor == ti)
    let all : Bool := ts.all (fun ti => (List.range e.members).all (fun m => (entry ti m).isSome))
    if e.self ≠ 0 ∨ all = false ∨ (ts.all (fun ti => u.sums.any (fun n => n.tensor == ti)) && !ts.isEmpty) = true then s
    else
      let total (ti : Nat) : NormEntry :=
        let ns := (List.range e.members).filterMap (entry ti)
        match ns with
        | [] => ⟨e.key, 0, ti, 0, 0, 0⟩
        | a :: rest => rest.foldl (fun r n => { r with g := add64 r.g n.g, d := add64 r.d n.d, w := add64 r.w n.w }) a
      let sums := ts.map total
      let s := sums.foldl (fun s n => takeSum c n s) s
      (e.nodes.drop 1).foldl (fun s node => sendNorms c 2 e node u.t sums s) s

/-- The norms of this device are known (end of pass A): they go to member 0 of each group, or are summed there. -/
def tellNorms (c : Nat) (s : State) : State :=
  match (ctxAt s c).upd with
  | none => s
  | some u =>
    let s := (ownGroups s c).foldl (fun s e =>
      if e.2.self = 0 then sumGroup c e.1 s
      else
        let ts := groupTensors s c e.1
        let own := ts.filterMap (fun ti => u.norms.find? (fun n => n.key == e.2.key && n.member == e.2.self && n.tensor == ti))
        sendNorms c 1 e.2 (e.2.nodes.getD 0 0) u.t own s) s
    castVote c s

/-! ### DONE and COMMIT (R384, R386) -/

/-- DONE reaches the leader: one with OK 0 aborts, and the last one brings COMMIT, in time only. -/
def recordDone (c member : Nat) (ok : Bool) (s : State) : State :=
  let s := updUpdate c (fun u => { u with dones := u.dones.filter (fun v => v.1 != member) ++ [(member, ok)] }) s
  let x := ctxAt s c
  match x.upd with
  | none => s
  | some u =>
    if u.settled then s
    else if !ok then sendAbort c 1 s
    else if (List.range x.cNodes.length).any (fun m => !u.dones.any (fun v => v.1 == m)) then s
    else if commitLate s c then sendAbort c 3 s
    else
      let s := tellCommit c (otherMembers x) 6 [] s
      updUpdate c (fun u => { u with commit := true, settled := true }) s

/-- Pass B and the refresh have ended: DONE (R384, R449). -/
def sendDone (c : Nat) (s : State) : State :=
  let x := ctxAt s c
  match x.upd with
  | none => s
  | some u =>
    if u.doneSent || u.abort.isSome then s
    else
      let ok := !u.nonfiniteB
      let s := updAlm c (fun a => { a with upd := 3 }) (updUpdate c (fun u => { u with doneSent := true }) s)
      if x.cSelf = 0 then recordDone c 0 ok s
      else tellCommit c [0] 5 (natLe 8 0 ++ natLe 1 (if ok then 1 else 0)) s

/-- A coded-state refresh that is part of an update has ended when both parities and every acknowledgement are there. -/
def settleRefresh (c : Nat) (s : State) : State :=
  let d := (ctxAt s c).code
  if d.refreshed && (match d.op with | some o => o.job.isNone | none => false) then sendDone c (finishRefresh c s) else s

/-! ### Received messages (R385) -/

/-- The context whose update a message is for: by STEP, and by C_KEY or the KEY of a shard group. -/
def updateFor (s : State) (bs : List Byte) (shard : Bool) : Option Nat :=
  let key := fieldAt bs 4 4
  (unparked s).find? (fun c =>
    let x := ctxAt s c
    match x.upd with
    | none => false
    | some u => !u.fused && decide (1 ≤ x.alm.upd ∧ x.alm.upd ≤ 3) && u.t == fieldAt bs 0x10 8 &&
        (if shard then (groupByKey s c key).isSome else x.cKey == key))

/-- A row that takes an update message of a type; one that matches no update is dropped. -/
def updateRow (i : BitVec 16) (type : Nat) (go : Nat → List Byte → State → State) (s : State) : State :=
  match ctlMsg s i.toNat 4 type with
  | none => s
  | some m =>
    let s := freeMsg i.toNat m s
    match updateFor s m.bytes (type ≤ 2) with
    | some c => flushOut (go c m.bytes s)
    | none => s

def execNorms (i : BitVec 16) (s : State) : Host.Outcome State Fault Refusal :=
  .next (updateRow i 1 (fun c bs s =>
    match groupByKey s c (fieldAt bs 4 4) with
    | none => s
    | some e =>
      let es := normEntries bs (groupTensors s c e.1) (fieldAt bs 8 2)
      let s := updUpdate c (fun u => { u with norms := u.norms.filter (fun n =>
        !es.any (fun x => x.key == n.key && x.member == n.member && x.tensor == n.tensor)) ++ es }) s
      castVote c (sumGroup c e.1 s)) s)

def execNormsSum (i : BitVec 16) (s : State) : Host.Outcome State Fault Refusal :=
  .next (updateRow i 2 (fun c bs s =>
    match groupByKey s c (fieldAt bs 4 4) with
    | none => s
    | some e =>
      if e.2.self = 0 then s
      else castVote c ((normEntries bs (groupTensors s c e.1) 0).foldl (fun s n => takeSum c n s) s)) s)

def execVote (i : BitVec 16) (s : State) : Host.Outcome State Fault Refusal :=
  .next (updateRow i 3 (fun c bs s =>
    if (ctxAt s c).cSelf = 0 then recordVote c (fieldAt bs 8 2) (fieldAt bs 0x20 1 == 1) (fieldAt bs 0x18 8) s else s) s)

def execVoteSum (i : BitVec 16) (s : State) : Host.Outcome State Fault Refusal :=
  .next (updateRow i 4 (fun c bs s =>
    let open_ : Bool := match (ctxAt s c).upd with
      | some u => u.voted && u.decision.isNone && u.abort.isNone
      | none => false
    if (ctxAt s c).cSelf ≠ 0 ∧ open_ = true then takeDecision c (fieldAt bs 0x18 8) (fieldAt bs 0x20 1 == 1) s else s) s)

def execDone (i : BitVec 16) (s : State) : Host.Outcome State Fault Refusal :=
  .next (updateRow i 5 (fun c bs s =>
    if (ctxAt s c).cSelf = 0 then recordDone c (fieldAt bs 8 2) (fieldAt bs 0x20 1 == 1) s else s) s)

def execCommit (i : BitVec 16) (s : State) : Host.Outcome State Fault Refusal :=
  .next (updateRow i 6 (fun c _ s =>
    if (ctxAt s c).cSelf = 0 then s else updUpdate c (fun u => { u with commit := true, settled := true }) s) s)

def execAbort (i : BitVec 16) (s : State) : Host.Outcome State Fault Refusal :=
  .next (updateRow i 7 (fun c bs s =>
    if (ctxAt s c).cSelf = 0 then s
    else
      let s := updUpdate c (fun u => { u with abort := u.abort.or (some (fieldAt bs 0x20 1)), settled := true, mills := [] }) s
      updCode c (fun d => { d with op := d.op.filter (fun o => o.job.isSome) }) s) s)

/-- E − NOTICE on the leader, in the beat of the STEP_END frame, with a VOTE or DONE missing: ABORT with CAUSE 3 (R386). -/
def updateDeadline (c : Nat) (s : State) : State :=
  let x := ctxAt s c
  match x.upd with
  | none => s
  | some u =>
    if u.fused ∨ u.settled ∨ x.cSelf ≠ 0 ∨ x.alm.upd = 0 ∨ x.alm.upd = 4 ∨ (x.run.inFrame && x.run.flags % 2 == 1) = false then s
    else sendAbort c 3 { s with cycle := max s.cycle (guardPoint s - 3000 * beatNotice s) }

def execUpdateDeadline (ctx : BitVec 14) (s : State) : Host.Outcome State Fault Refusal :=
  .next (flushOut (updateDeadline ctx.toNat s))

end Sys2Proof.Machine
end

