-- ==== Sys2Proof/Machine/Collectives.lean ====
section
/-! DEFINITION. Gate messages received: requests for shards and contributions, their answers, refusals, timeouts and
JOB_FAULT (R353, R431 to R443). -/

namespace Sys2Proof.Machine

/-- The message at a place of the inbox, if it is one of a class and operation. -/
def gateMsg (s : State) (i cls op : Nat) : Option InMsg :=
  (s.link.inbox[i]?).bind (fun m => if m.cls = cls ∧ fieldAt m.bytes 4 2 = op then some m else none)

/-- A row that takes a gate message: the message is freed, its header given, and what it hands out is sent. -/
def gateRow (cls op : Nat) (i : BitVec 16) (go : CollHead → List Byte → State → State) (s : State) : State :=
  match gateMsg s i.toNat cls op with
  | some m => flushOut (go (CollHead.ofBytes m.bytes) m.bytes (freeMsg i.toNat m s))
  | none => s

/-- The operation of a request's identity: a gather, or a collective. -/
def opOf (s : State) (gather : Bool) (key tag : Nat) : Option GateOp :=
  s.gate.ops.find? (fun o => (o.fn == 3) == gather && o.key == key && o.tag == tag)

/-- A REFUSE answer (R437, R438). -/
def refuse (cls op : Nat) (h : CollHead) (ctx status : Nat) (s : State) : State :=
  sendColl cls h.src ctx { h with op := op, status := status, crc := 0, arg := 0 } [] s

/-! ### Serving (R353, R437) -/

/-- The chunks of a shard go to the device that asked for it (R354, R438). -/
def sendShard (ctx : Nat) (h : CollHead) (step : Nat) (bs : List Byte) (s : State) : State :=
  let n := chunkCount bs.length
  (List.range n).foldl (fun s c =>
    sendColl 1 h.src ctx { h with op := 2, chunk := c, chunks := n, arg := step, status := 0
                                  crc := if c + 1 = n then crc32c bs else 0 } (chunkOf bs c) s) s

/-- A FETCH is served from the context that holds its KEY, or refused. -/
def serveFetch (h : CollHead) (lh : LineHit) (s : State) : State :=
  match servingCtx s h.key with
  | none => refuse 1 6 h 0 1 s
  | some c =>
    let map := shardMapOf (ctxAt s c)
    let t := smTensor s map h.tensor
    let g := ctxGroup s c map t.group
    if h.tensor ≥ smTensors s map ∨ h.shard ≥ t.shards ∨ g.members = 0 ∨ h.shard % g.members ≠ g.self then refuse 1 6 h c 3 s
    else
      let x := ctxAt s c
      let r := ctxRead c (t.image x.alm.cb + t.slotOff (h.shard / g.members) t.gsize) (t.shardBytes t.gsize) lh s
      match r.1 with
      | some bs => sendShard c { h with member := g.self } x.alm.step bs r.2
      | none => refuse 1 6 h c 2 r.2

def execFetch (i : BitVec 16) (lh : LineHit) (s : State) : Host.Outcome State Fault Refusal :=
  .next (gateRow 1 1 i (fun h _ s => serveFetch h lh s) s)

/-- A PULL is served from the operation of its TAG; it is held until its COLL issues, and refused where no context holds
its KEY. -/
def execPull (i : BitVec 16) (s : State) : Host.Outcome State Fault Refusal :=
  .next (gateRow 1 3 i (fun h bs s =>
    match servingCtx s h.key with
    | none => refuse 1 6 h 0 1 s
    | some c =>
      match opOf s false h.key h.tag with
      | some o => servePull o h s
      | none => { s with gate := { s.gate with held := s.gate.held ++ [(c, ⟨32, 1, 0, bs, s.cycle⟩)] } }) s)

/-! ### Answers (R433, R434, R439) -/

/-- The data of a chunk in a message. -/
def chunkData (n : Nat) (h : CollHead) (bs : List Byte) : List Byte := collData bs (chunkLen n h.chunk)

def execShard (i : BitVec 16) (s : State) : Host.Outcome State Fault Refusal :=
  .next (gateRow 1 2 i (fun h bs s =>
    match opOf s true h.key h.tag with
    | none => s
    | some o =>
      let t := smTensor s (shardMapOf (ctxAt s o.ctx)) o.tensor
      if h.tensor ≠ o.tensor then s else takeChunk o.id h.shard h (chunkData (t.shardBytes t.gsize) h bs) s) s)

def execPart (i : BitVec 16) (s : State) : Host.Outcome State Fault Refusal :=
  .next (gateRow 1 4 i (fun h bs s =>
    match opOf s false h.key h.tag with
    | none => s
    | some o =>
      let item := match o.fn with | 0 => h.shard | 2 => h.member | _ => o.first
      takeChunk o.id item h (chunkData (itemBytes o) h bs) s) s)

def execDoneAck (i : BitVec 16) (s : State) : Host.Outcome State Fault Refusal :=
  .next (gateRow 1 5 i (fun h _ s =>
    match opOf s false h.key h.tag with
    | none => s
    | some o =>
      let e := match o.fn with | 0 => (h.shard, h.member) | 2 => (h.member, h.member) | _ => (o.first, o.first)
      updGateOp o.id (fun o => { o with serves := o.serves.filter (fun v => v != e) }) s) s)

/-- A refused request: FLT_SHARD_OWNER of a fetch, FLT_COLL of a pull, and FLT_SHARD_CRC where the refused request was the
second one (R353, R437, R439). -/
def execCollRefuse (i : BitVec 16) (s : State) : Host.Outcome State Fault Refusal :=
  .next (gateRow 1 6 i (fun h _ s =>
    let fetch := opOf s true h.key h.tag
    match (match fetch with
      | some o => if (o.item h.shard).isSome then some o else opOf s false h.key h.tag
      | none => opOf s false h.key h.tag) with
    | none => s
    | some o =>
      let item := if o.fn = 3 ∨ o.fn = 0 then h.shard else if o.fn = 2 then h.member else o.first
      let again : Bool := match o.item item with | some x => !x.retried.isEmpty | none => false
      if again then raiseShardCrc o s
      else if o.fn = 3 then raiseFault { code := 0x0309 } [o.ctx] s
      else opCellFault 0x012B o s) s)

/-- The contexts with a coded-state exchange that has a deadline. -/
def parTimed (s : State) : List Nat :=
  (residents s).filter (fun c => match (ctxAt s c).code.op with | some o => o.deadline.isSome | none => false)

/-- FLT_COLL_TIMEOUT at a gate, at its time (R440, R441). -/
def raiseCollTimeout (r c t : Nat) (s : State) : State :=
  let s := gateCount r (fun g => { g with timeouts := satAdd 64 g.timeouts 1 }) { s with cycle := max s.cycle t }
  raiseFault { code := 0x030F } [c] s

/-- A gate operation reaches its deadline (R440, R441). Numbers past the gate operations name the coded-state exchanges, in
ascending context. -/
def execCollTimeout (i : BitVec 16) (s : State) : Host.Outcome State Fault Refusal :=
  .next (match s.gate.ops[i.toNat]? with
    | some o =>
      match o.deadline with
      | some t => if o.complete then s else flushOut (raiseCollTimeout (regionOf o.cell) o.ctx t s)
      | none => s
    | none =>
      match (parTimed s)[i.toNat - s.gate.ops.length]? with
      | some c =>
        match (ctxAt s c).code.op.bind (fun o => if o.unacked.isEmpty && o.want.isEmpty then none else o.deadline) with
        | some t => flushOut (raiseCollTimeout (parRegion s c) c t s)
        | none => s
      | none => s)

/-- A JOB_FAULT discards the work of the context whose C_KEY and epoch it carries (R443, R444). -/
def execJobFault (i : BitVec 16) (s : State) : Host.Outcome State Fault Refusal :=
  .next (match ctlMsg s i.toNat 5 1 with
    | none => s
    | some m =>
      let s := freeMsg i.toNat m s
      match (unparked s).filter (fun c => (ctxAt s c).cKey == fieldAt m.bytes 4 4 && !(ctxAt s c).cNodes.isEmpty &&
          (ctxAt s c).run.epoch == fieldAt m.bytes 0x10 2) with
      | [] => s
      | cs => flushOut (raiseRemote { code := 0x0310, unit := fieldAt m.bytes 0x12 2, arg := fieldAt m.bytes 2 2
                                      d0 := fieldAt m.bytes 0x10 2 } cs s))

end Sys2Proof.Machine
end

