-- ==== Sys2Proof/Machine/Mill.lean ====
section
/-! DEFINITION. The Mills: the passes over a context's state arrays, the fused pass, and the step commands (R45, R379 to
R383, R387 to R390, R481, R500). -/

namespace Sys2Proof.Machine

/-! ### Elements (R372, R379) -/

def bf16Shape : FloatShape := ⟨8, 7, 127, .ieee⟩

/-- The elements of an array as FP32: BF16 is widened exactly. -/
def arrayElems (z : Nat) (bs : List Byte) : List Nat :=
  if z = 0 then []
  else (List.range (bs.length / z)).map (fun i => fieldAt bs (z * i) z * (if z = 2 then 65536 else 1))

/-- FP32 results as an array stores them: a two-byte array takes each rounded once to BF16. -/
def storeElems (z : Nat) (vs : List Nat) : List Byte :=
  vs.flatMap (fun v => if z = 2 then natLe 2 (roundTo bf16Shape (fp32Shape.decode v)) else natLe 4 v)

/-- What an element reads as once it has been stored. -/
def storedElem (z v : Nat) : Nat := if z = 2 then roundTo bf16Shape (fp32Shape.decode v) * 65536 else v

def add32 : Nat → Nat → Nat := bits2 fp32Shape addVals
def sub32 : Nat → Nat → Nat := bits2 fp32Shape (fun sh x y => addVals sh x y.negate)
def mul32 : Nat → Nat → Nat := bits2 fp32Shape mulVals
def div32 : Nat → Nat → Nat := bits2 fp32Shape divVals
def sqrt32 : Nat → Nat := bits1 fp32Shape sqrtVals
def fma32 (a b c : Nat) : Nat := (fmaVals fp32Shape (fp32Shape.decode a) (fp32Shape.decode b) (fp32Shape.decode c)).1

/-- The rule takes both moments. -/
def GroupConst.moments (k : GroupConst) : Bool := k.rule == 1 || k.rule == 2

/-- m' and v' of an element (pass A). -/
def GroupConst.first (k : GroupConst) (g m : Nat) : Nat :=
  if k.moments then fma32 k.beta1 m (mul32 k.c1 g) else if k.rule = 0 then fma32 k.beta1 m g else m

def GroupConst.second (k : GroupConst) (g v : Nat) : Nat :=
  if k.moments then fma32 k.beta2 v (mul32 k.c2 (mul32 g g)) else v

/-- d of an element. Rules without it count a zero (DESIGN CHOICE). -/
def GroupConst.direction (k : GroupConst) (m v : Nat) : Nat :=
  if k.moments then div32 (mul32 m k.a1) (add32 (sqrt32 (mul32 v k.a2)) k.eps) else 0

/-- w' of an element, with step factor f (pass B). -/
def GroupConst.param (k : GroupConst) (f w m d : Nat) : Nat :=
  if k.moments then sub32 (mul32 w k.dec) (mul32 f d)
  else if k.rule = 0 then sub32 (mul32 w k.dec) (mul32 f m) else w

/-- The exact sum of squares, rounded once to FP64; none where an element is not finite. -/
def sumSquares (vs : List Nat) : Option Nat :=
  if vs.all finite32 then
    some (fp64Shape.finishDyadic false (vs.foldl (fun d v =>
      let x := (fp32Shape.decode v).toDyadic
      d.add (x.mul x)) Dyadic.zero)).1
  else none

/-- A norm, free where an element is not finite. -/
def takeNorm (vs : List Nat) (s : State) : Nat × State :=
  match sumSquares vs with
  | some n => (n, s)
  | none => let f := takeFree s; (f.1 % 2 ^ 64, f.2)

/-! ### Reading and writing arrays -/

/-- What a pass has read so far: the number of lines, and whether it goes on. -/
structure MillAt where
  lines : Nat
  st : State

/-- A Mill reads n bytes of an array; where a page is missing or a line fails, the fault is raised. -/
def millRead (c : Nat) (h : LineHit) (a n : Nat) (x : MillAt) : (List Byte × MillAt) ⊕ State :=
  match ctxLines x.st c false (runLines a n) with
  | .inl f => .inr (raiseFault { code := f, arg := a } [c] x.st)
  | .inr _ =>
    let r := ctxRead c a n (if h.which < x.lines then ⟨0, .clean⟩ else ⟨h.which - x.lines, h.ecc⟩) x.st
    match r.1 with
    | none => .inr r.2
    | some bs => .inl (bs, ⟨x.lines + (pieces a n).length, r.2⟩)

/-- A Mill reads the elements of an array that holds n of z bytes each; an absent array holds none. -/
def millElems (c : Nat) (h : LineHit) (a z n : Nat) (x : MillAt) : (List Nat × MillAt) ⊕ State :=
  if z = 0 then .inl ([], x)
  else
    match millRead c h a (n * z) x with
    | .inr s => .inr s
    | .inl r => .inl (arrayElems z r.1, r.2)

/-- A Mill writes an array; false where a page is missing, the fault raised. -/
def millWrite (c a : Nat) (bs : List Byte) (s : State) : Bool × State :=
  if bs.isEmpty then (true, s)
  else
    match ctxLines s c true (runLines a bs.length) with
    | .inl f => (false, raiseFault { code := f, arg := a } [c] s)
    | .inr _ => (true, (ctxWrite c a bs s).2)

/-- Arrays are written one after another until one fails. -/
def millWrites (c : Nat) : List (Nat × List Byte) → State → Bool × State
  | [], s => (true, s)
  | (a, bs) :: t, s =>
    let r := millWrite c a bs s
    if r.1 then millWrites c t r.2 else r

/-- The Mills' counters for a tensor of n elements: runs, bytes read and written per element, and the elements with a
non-finite result, each at the Mill of its run's stack (R373, R392). -/
def millCounts (c base n rd wr : Nat) (bad : List Bool) (s : State) : State :=
  (List.range ((n + 1023) / 1024)).foldl (fun s r =>
    let k := min 1024 (n - 1024 * r)
    let die := (lineStack s c (base + 4096 * r)).getD 0
    let lost := (((bad.drop (1024 * r)).take k).filter (fun b => b)).length
    let add (a m : Nat) (s : State) : State := if m = 0 then s else regCount (regInst a die) m s
    add aMillNonfin lost (add aMillWr (wr * k) (add aMillRd (rd * k) (add aMillRuns 1 s)))) s

/-- The work of a pass on one tensor: its elements, its state arrays by pair and buffer, and its group's constants. -/
structure MillTensor where
  ti : Nat
  n : Nat
  t : Tensor
  k : GroupConst
  key : Nat
  self : Nat
  owned : Bool

/-- The tensors of the active shard map. -/
def millTensors (s : State) (c : Nat) (u : Update) : List MillTensor :=
  let map := shardMapOf (ctxAt s c)
  if map = 0 then []
  else (List.range (smTensors s map)).map (fun ti =>
    let t := smTensor s map ti
    let g := ctxGroup s c map t.group
    ⟨ti, ownElems t g, t, groupConst u.blk u.grp u.t (groupOfTensor u.grp ti), g.key, g.self, decide (g.self < g.members)⟩)

/-- A pass over the tensors, ended by the first fault. -/
def overTensors (go : MillTensor → MillAt → MillAt ⊕ State) : List MillTensor → MillAt → Bool × State
  | [], x => (true, x.st)
  | t :: rest, x =>
    match go t x with
    | .inr s => (false, s)
    | .inl y => overTensors go rest y

def stateAddr (m : MillTensor) (pair buf : Nat) : Nat := m.t.arrays.getD (2 * pair + buf) 0
def stateZ (m : MillTensor) (pair buf : Nat) : Nat := m.t.stateSize (2 * pair + buf)

/-! ### Pass A (R379, R380, R384) -/

/-- Pass A on one tensor. Pair 2 under SGD has no part in it. -/
def passA (c cb : Nat) (u : Update) (h : LineHit) (m : MillTensor) (x : MillAt) : MillAt ⊕ State :=
  let pairs : List Nat := if m.k.rule = 0 then [1] else [1, 2]
  let z (p : Nat) : Nat := if pairs.contains p then stateZ m p cb else 0
  match millElems c h m.t.grad 4 m.n x with
  | .inr s => .inr s
  | .inl g =>
    match millElems c h (stateAddr m 1 cb) (z 1) m.n g.2 with
    | .inr s => .inr s
    | .inl m0 =>
      match millElems c h (stateAddr m 2 cb) (z 2) m.n m0.2 with
      | .inr s => .inr s
      | .inl v0 =>
        let mv := (List.range m.n).map (fun i =>
          let gi := g.1.getD i 0
          let mi := m.k.first gi (m0.1.getD i 0)
          let vi := m.k.second gi (v0.1.getD i 0)
          (gi, mi, vi, m.k.direction mi vi))
        let bad := mv.map (fun e => !(finite32 e.1 && finite32 e.2.1 && finite32 e.2.2.1 && finite32 e.2.2.2))
        let w := millWrites c [
          (stateAddr m 1 (1 - cb), if z 1 = 0 then [] else storeElems (stateZ m 1 (1 - cb)) (mv.map (fun e => e.2.1))),
          (stateAddr m 2 (1 - cb), if z 2 = 0 then [] else storeElems (stateZ m 2 (1 - cb)) (mv.map (fun e => e.2.2.1)))] v0.2.st
        if !w.1 then .inr w.2
        else
          let wr := (if z 1 = 0 then 0 else stateZ m 1 (1 - cb)) + (if z 2 = 0 then 0 else stateZ m 2 (1 - cb))
          let s := millCounts c m.t.grad m.n (4 + z 1 + z 2) wr bad w.2
          let gs := takeNorm (mv.map (fun e => e.1)) s
          let ds := takeNorm (mv.map (fun e => e.2.2.2)) gs.2
          let s := poke ds.2 (normAt u m.ti 0) (natLe 8 gs.1 ++ natLe 8 ds.1)
          let ws := peekNat s (normAt u m.ti (0x10 + 8 * cb)) 8
          let s := updUpdate c (fun u => { u with
            nonfiniteA := u.nonfiniteA || bad.any (fun b => b)
            norms := if m.owned then u.norms ++ [⟨m.key, m.self, m.ti, gs.1, ds.1, ws⟩] else u.norms }) s
          .inl ⟨v0.2.lines, s⟩

def execMillPassADone (ctx : BitVec 14) (h : LineHit) (s : State) : Host.Outcome State Fault Refusal :=
  .next (
    let c := ctx.toNat
    let x := ctxAt s c
    match x.upd with
    | none => s
    | some u =>
      if u.fused ∨ x.alm.upd ≠ 1 ∨ u.mills = [] ∨ u.abort.isSome = true then s
      else
        let r := overTensors (passA c x.alm.cb u h) (millTensors s c u) ⟨0, s⟩
        if r.1 then flushOut (tellNorms c (updUpdate c (fun u => { u with mills := [] }) r.2)) else flushOut r.2)

/-! ### Pass B (R379, R381, R384, R449) -/

/-- An element in a gather image: converted with RNE, saturating; whether it saturated. -/
def imageElem (gfmt v : Nat) : Nat × Bool :=
  let f := ((Fmt.ofCode gfmt).map (fun f => f.elem)).getD .fp32
  let r := convertVal f .rne false (fp32Shape.decode v)
  (r.1, r.2 &&& flagCvtSat != 0#8)

/-- The images of a tensor in a buffer: of the active map and of a layout-equal shadow (R373). -/
def imagesOf (s : State) (c buf : Nat) (m : MillTensor) : List (Nat × Nat) :=
  (m.t.image buf, m.t.gfmt) :: (match shadowMap s c with
    | some sh => let t := smTensor s sh m.ti; [(t.image buf, t.gfmt)]
    | none => [])

/-- The parameters of a tensor are written to a buffer with the images and wsum. -/
def writeParams (c buf : Nat) (u : Update) (m : MillTensor) (rd : Nat) (ws : List Nat) (x : MillAt) : MillAt ⊕ State :=
  let imgs := imagesOf x.st c buf m
  let out := imgs.map (fun e => (e.1, ws.map (imageElem e.2), if e.2 = 0 then 4 else 2))
  let r := millWrites c ((stateAddr m 0 buf, storeElems (stateZ m 0 buf) ws) ::
    out.map (fun e => (e.1, e.2.1.flatMap (fun v => natLe e.2.2 v.1)))) x.st
  if !r.1 then .inr r.2
  else
    let bad := ws.map (fun w => !finite32 w)
    let sat : Bool := out.any (fun e => e.2.1.any (fun v => v.2))
    let s := millCounts c m.t.grad m.n rd (stateZ m 0 buf + (out.map (fun e => e.2.2)).foldl (fun a b => a + b) 0) bad r.2
    let n := takeNorm ws s
    let s := poke n.2 (normAt u m.ti (0x10 + 8 * buf)) (natLe 8 n.1)
    .inl ⟨x.lines, updUpdate c (fun u => { u with nonfiniteB := u.nonfiniteB || sat || bad.any (fun b => b) }) s⟩

/-- Pass B on one tensor: m' and v' are re-read as pass A stored them. -/
def passB (c cb : Nat) (u : Update) (h : LineHit) (m : MillTensor) (x : MillAt) : MillAt ⊕ State :=
  let z (p : Nat) : Nat := if m.k.rule = 3 ∨ (p = 2 ∧ m.k.rule = 0) then 0 else stateZ m p (1 - cb)
  match millElems c h (stateAddr m 0 cb) (stateZ m 0 cb) m.n x with
  | .inr s => .inr s
  | .inl w =>
    match millElems c h (stateAddr m 1 (1 - cb)) (z 1) m.n w.2 with
    | .inr s => .inr s
    | .inl m1 =>
      match millElems c h (stateAddr m 2 (1 - cb)) (z 2) m.n m1.2 with
      | .inr s => .inr s
      | .inl v1 =>
        let f := peekNat v1.2.st (normAt u m.ti 0x38) 4
        let ws := (List.range m.n).map (fun i =>
          let mi := m1.1.getD i 0
          m.k.param f (w.1.getD i 0) mi (m.k.direction mi (v1.1.getD i 0)))
        writeParams c (1 - cb) u m (stateZ m 0 cb + z 1 + z 2) ws v1.2

/-- The own image of a buffer. -/
def imageBytesOf (s : State) (c buf : Nat) : List Byte :=
  (imageRuns s c (shardMapOf (ctxAt s c)) buf).flatMap (fun r => ctxPeek s c r.1 r.2)

/-- The step is a refresh step (R449). -/
def refreshStep (x : Ctx) (t : Nat) : Bool :=
  x.code.present && (!x.code.valid || decide (t - x.code.cstep ≥ x.code.n))

/-- Pass B has ended: a refresh step runs its parity refresh, and DONE follows (R384, R449). -/
def afterPassB (c cb t : Nat) (s : State) : State :=
  let s := updUpdate c (fun u => { u with mills := [] }) s
  if refreshStep (ctxAt s c) t then
    let s := updUpdate c (fun u => { u with refresh := true }) s
    settleRefresh c (startRefresh c none (1 - cb) t (imageBytesOf s c (1 - cb)) s)
  else sendDone c s

def execMillPassBDone (ctx : BitVec 14) (h : LineHit) (s : State) : Host.Outcome State Fault Refusal :=
  .next (
    let c := ctx.toNat
    let x := ctxAt s c
    match x.upd with
    | none => s
    | some u =>
      if u.fused ∨ x.alm.upd ≠ 2 ∨ u.mills = [] ∨ u.abort.isSome = true then s
      else
        let r := overTensors (passB c x.alm.cb u h) (millTensors s c u) ⟨0, s⟩
        if r.1 then flushOut (afterPassB c x.alm.cb u.t r.2) else flushOut r.2)

/-! ### The fused pass (R389) -/

/-- A fused APPLY on one tensor: k as the host wrote it, d from the moments as they are stored. -/
def passApply (c cb : Nat) (u : Update) (h : LineHit) (m : MillTensor) (x : MillAt) : MillAt ⊕ State :=
  let z (p : Nat) : Nat := if p = 2 ∧ m.k.rule = 0 then 0 else stateZ m p cb
  match millElems c h m.t.grad 4 m.n x with
  | .inr s => .inr s
  | .inl g =>
    match millElems c h (stateAddr m 0 cb) (stateZ m 0 cb) m.n g.2 with
    | .inr s => .inr s
    | .inl w =>
      match millElems c h (stateAddr m 1 cb) (z 1) m.n w.2 with
      | .inr s => .inr s
      | .inl m0 =>
        match millElems c h (stateAddr m 2 cb) (z 2) m.n m0.2 with
        | .inr s => .inr s
        | .inl v0 =>
          let f := peekNat v0.2.st (normAt u m.ti 0x38) 4
          let es := (List.range m.n).map (fun i =>
            let gi := g.1.getD i 0
            let mi := storedElem (stateZ m 1 (1 - cb)) (m.k.first gi (m0.1.getD i 0))
            let vi := storedElem (stateZ m 2 (1 - cb)) (m.k.second gi (v0.1.getD i 0))
            let di := m.k.direction mi vi
            (gi, mi, vi, di, m.k.param f (w.1.getD i 0) mi di))
          let bad : Bool := es.any (fun e => !(finite32 e.1 && finite32 e.2.1 && finite32 e.2.2.1 && finite32 e.2.2.2.1))
          let r := millWrites c [
            (stateAddr m 1 (1 - cb), if z 1 = 0 then [] else storeElems (stateZ m 1 (1 - cb)) (es.map (fun e => e.2.1))),
            (stateAddr m 2 (1 - cb), if z 2 = 0 then [] else storeElems (stateZ m 2 (1 - cb)) (es.map (fun e => e.2.2.1)))] v0.2.st
          if !r.1 then .inr r.2
          else
            let s := updUpdate c (fun u => { u with nonfiniteB := u.nonfiniteB || bad }) r.2
            writeParams c (1 - cb) u m (4 + stateZ m 0 cb + z 1 + z 2) (es.map (fun e => e.2.2.2.2)) ⟨v0.2.lines, s⟩

/-- A fused REFRESH on one tensor: every present state array is copied, and images and wsum are written. -/
def passRefresh (c cb : Nat) (u : Update) (h : LineHit) (m : MillTensor) (x : MillAt) : MillAt ⊕ State :=
  match millElems c h (stateAddr m 1 cb) (stateZ m 1 cb) m.n x with
  | .inr s => .inr s
  | .inl m0 =>
    match millElems c h (stateAddr m 2 cb) (stateZ m 2 cb) m.n m0.2 with
    | .inr s => .inr s
    | .inl v0 =>
      match millElems c h (stateAddr m 0 cb) (stateZ m 0 cb) m.n v0.2 with
      | .inr s => .inr s
      | .inl w =>
        let r := millWrites c [(stateAddr m 1 (1 - cb), storeElems (stateZ m 1 (1 - cb)) m0.1),
          (stateAddr m 2 (1 - cb), storeElems (stateZ m 2 (1 - cb)) v0.1)] w.2.st
        if !r.1 then .inr r.2
        else writeParams c (1 - cb) u m (stateZ m 0 cb + stateZ m 1 cb + stateZ m 2 cb) w.1 ⟨w.2.lines, r.2⟩

/-- A fused pass ends on every Mill; the flip, or the discard of a non-finite result, follows at the next boundary. -/
def execMillFusedDone (ctx : BitVec 14) (h : LineHit) (s : State) : Host.Outcome State Fault Refusal :=
  .next (
    let c := ctx.toNat
    let x := ctxAt s c
    match x.upd with
    | none => s
    | some u =>
      if u.fused = false ∨ u.mills = [] ∨ u.abort.isSome = true then s
      else
        let go := if u.apply_ then passApply c x.alm.cb u h else passRefresh c x.alm.cb u h
        let r := overTensors go (millTensors s c u) ⟨0, s⟩
        if r.1 then updUpdate c (fun u => { u with mills := [], abort := if u.nonfiniteB then some 1 else u.abort }) r.2
        else flushOut r.2)

/-! ### STEP (R45, R375, R383, R388, R481, R500) -/

/-- The frame that a step accepted now will start at. -/
def nextStepStart (s : State) (c : Nat) : Nat :=
  let x := ctxAt s c
  let plan := planOf x
  if x.run.step.isSome then frameAfter s plan (stepEnd s plan x.run.frame) else x.run.nextStart

/-- Logical cells of a partition that are vacant and await takeover (R500). -/
def awaitingCells (s : State) (c : Nat) : List Nat := (partBlocks s c).flatMap (fun g => (blk s g).awaiting)

/-- A step command accepted: one that carries UPDATE keeps the block and the group table as read. -/
def acceptStep (c : Cmd) (update : Bool) (s : State) : State :=
  let at_ := c.field 0 8
  let s := acceptCmd c (if at_ = 0 then s.beat.gnum + 1 else at_) 0 [] s
  match lastJob s with
  | some j =>
    if update then
      let d := (ctxAt s c.ctx).desc
      let data := peek s d.almanac 512 ++ peek s d.groups 6160
      updJob j.id (fun j => { j with data := data }) (readCommitGroup c.ctx s)
    else s
  | none => s

def stepCommand (h : LineHit) (c : Cmd) (s : State) : State :=
  let x := ctxAt s c.ctx
  let update : Bool := c.field 8 2 == 1
  let start := nextStepStart s c.ctx
  if x.st = .free then refuseCmd c stCtxState [] s
  else if x.st ≠ .unparked then refuseCmd c stCtxParked [] s
  else if resharding s c.ctx then refuseCmd c stReshardActive [] s
  else if x.alm.upd ≠ 0 then refuseCmd c stUpdatePending [] s
  else if (jobsOf s 0x0301 c.ctx).length ≥ 2 then refuseCmd c stStepBusy [] s
  else match awaitingCells s c.ctx with
  | l :: _ => refuseCfg c 0x1A l 0 s
  | [] =>
    if !update then acceptStep c false s
    else if c.field 0x0A 2 < start ∨ stepEnd s (planOf x) start ≤ c.field 0x0A 2 then refuseCfg c 0x19 0 0x2A s
    else
      readingCmd c (almanacRegions s c.ctx) h (fun s =>
        match updateFault s c.ctx with
        | some e => refuseCmd c e.1 e.2 s
        | none => acceptStep c true s) s

def execStep (r : Route) (h : LineHit) (s : State) : Host.Outcome State Fault Refusal :=
  .next (command 0x0301 r (stepCommand h) s)

/-! ### MILL_FUSED and STEP_RESOLVE (R387, R389) -/

/-- A step of the context is in flight: a step command in progress, or a step parked within. -/
def stepInFlight (s : State) (c : Nat) : Bool :=
  !(jobsOf s 0x0301 c).isEmpty || (ctxAt s c).kept.resume != 0xFFFF

def startFused (c : Cmd) (s : State) : State :=
  let x := ctxAt s c.ctx
  let apply_ : Bool := c.field 0 1 == 2
  let s := readCommitGroup c.ctx (acceptCmd c 0 0 [] s)
  let u : Update := {
    t := x.alm.step + 1, frame := 0, blk := peek s x.desc.almanac 512, grp := peek s x.desc.groups 6160
    fused := true, apply_ := apply_, mills := List.range 8 }
  let s := updCtx s c.ctx (fun x => { x with upd := some u })
  updAlm c.ctx (fun a => { a with upd := 5, passSince := true, sched := schedule u.blk u.t }) s

def millFused (h : LineHit) (c : Cmd) (s : State) : State :=
  let x := ctxAt s c.ctx
  if x.st ≠ .unparked ∨ x.alm.upd ≠ 0 ∨ stepInFlight s c.ctx = true then refuseCmd c stUpdatePending [] s
  else
    readingCmd c (almanacRegions s c.ctx) h (fun s =>
      match updateFault s c.ctx with
      | some e => refuseCmd c e.1 e.2 s
      | none => startFused c s) s

def execMillFused (r : Route) (h : LineHit) (s : State) : Host.Outcome State Fault Refusal :=
  .next (command 0x0304 r (millFused h) s)

/-- The committed coded area turns with the committed buffer: CSTEP and VALID go back to what they were before (R449). -/
def unflipCode (c : Nat) (s : State) : State :=
  if (ctxAt s c).alm.refreshed then
    updCode c (fun d => { d with ccb := 1 - d.ccb, cstep := d.before, valid := d.validBefore }) s
  else s

/-- BACK reverses the last flip. -/
def stepBack (c : Nat) (s : State) : State :=
  let s := unflipCode c s
  writeAlmanac c (updAlm c (fun a => { a with
    cb := 1 - a.cb, step := (a.step + 2 ^ 64 - 1) % 2 ^ 64, passSince := true, refreshed := false }) s)

def stepResolve (c : Cmd) (s : State) : State :=
  let x := ctxAt s c.ctx
  if c.field 0 1 = 2 then
    if x.alm.upd = 0 ∧ x.alm.passSince = false then
      let s := stepBack c.ctx s
      completeCmd c stOk s.beat.gnum [(ctxAt s c.ctx).alm.step] [] s
    else refuseCmd c stUpdateState [] s
  else if x.alm.upd = 4 ∧ (jobsOf s 0x0302 c.ctx).isEmpty = true then acceptCmd c (s.beat.gnum + 1) 0 [] s
  else refuseCmd c stUpdateState [] s

def execStepResolve (r : Route) (s : State) : Host.Outcome State Fault Refusal := .next (command 0x0302 r stepResolve s)

end Sys2Proof.Machine
end

