-- ==== Sys2Proof/Machine/Coding.lean ====
section
/-! DEFINITION. Coded state: the coding descriptor, refresh and commit, rebuilds, and the PAR messages (R437 to R439, R445,
R449 to R453). -/

namespace Sys2Proof.Machine

/-! ### Reading runs of context memory -/

/-- The part of runs from an offset on, of a length. -/
def cutRuns : List (Nat × Nat) → Nat → Nat → List (Nat × Nat)
  | [], _, _ => []
  | (a, n) :: t, off, len =>
    if len = 0 then []
    else if n ≤ off then cutRuns t (off - n) len
    else (a + off, min len (n - off)) :: cutRuns t 0 (len - min len (n - off))

/-- Runs are read one after another, their lines numbered from i on; none where a read fails. -/
def ctxReadAll (c : Nat) (h : LineHit) : List (Nat × Nat) → Nat → State → Option (List Byte) × State
  | [], _, s => (some [], s)
  | (a, n) :: t, i, s =>
    let r := ctxRead c a n (if h.which < i then ⟨0, .clean⟩ else ⟨h.which - i, h.ecc⟩) s
    match r.1 with
    | none => (none, r.2)
    | some bs =>
      let q := ctxReadAll c h t (i + (pieces a n).length) r.2
      (q.1.map (fun rest => bs ++ rest), q.2)

/-! ### CODE_SET (R445, R451) -/

/-- The bytes of a context's own image. -/
def imageSize (s : State) (c : Nat) : Nat :=
  ((imageRuns s c (shardMapOf (ctxAt s c)) (ctxAt s c).alm.cb).map (fun r => r.2)).foldl (fun a b => a + b) 0

/-- The coding descriptor at an address. -/
def codingFail (s : State) (c a : Nat) : Option CfgFail :=
  let f (o n : Nat) : Nat := peekNat s (a + o) n
  let map := shardMapOf (ctxAt s c)
  let keys : List Nat := if map = 0 then [] else (List.range (smGroups s map)).map (fun g => (smGroup s map g).key)
  let area (o : Nat) : Nat × Bool := (o, f o 8 % 2 ^ 21 == 0 && decide (f o 8 < 2 ^ 40))
  badField 0x15 0 [(0x3C, crcHolds s (a + 0x3C) [(a, 0x3C)]), (0, f 0 4 == 0x45444F43), (4, f 4 2 == 1),
    (6, decide (1 ≤ f 6 1) && decide (f 6 1 ≤ 14)), (7, decide (1 ≤ f 7 1) && decide (f 7 1 ≤ 64)), (8, f 8 2 == f 6 1 + 2),
    (0x0A, decide (f 0x0A 2 < f 8 2) && peekNat s (f 0x10 8 + 4 * f 0x0A 2) 4 == ownNode s), (0x0C, !keys.contains (f 0x0C 4)),
    (0x10, decide (f 0x10 8 + 4 * f 8 2 ≤ 2 ^ 40)), (0x18, f 0x18 8 % (4096 * f 6 1) == 0 && decide (imageSize s c ≤ f 0x18 8)),
    area 0x20, area 0x28, (0x30, f 0x30 12 == 0)]

/-- The coding descriptor at an address, with no valid coded state. -/
def codingOf (s : State) (a : Nat) : Coding :=
  let f (o n : Nat) : Nat := peekNat s (a + o) n
  { present := true, k := f 6 1, n := f 7 1, self := f 0x0A 2, key := f 0x0C 4
    nodes := (List.range (f 8 2)).map (fun i => peekNat s (f 0x10 8 + 4 * i) 4), p := f 0x18 8, area0 := f 0x20 8, area1 := f 0x28 8 }

/-- A coded-state exchange outside an update is in progress. -/
def codeBusy (x : Ctx) : Bool := match x.code.op with | some o => o.job.isSome | none => false

def codeSet (h : LineHit) (c : Cmd) (s : State) : State :=
  let x := ctxAt s c.ctx
  let a := c.field 0 8
  if x.st = .free then refuseCmd c stCtxState [] s
  else if x.alm.upd ≠ 0 ∨ codeBusy x = true then refuseCmd c stUpdatePending [] s
  else if a = 0 then completeCmd c stOk s.beat.gnum [] [] (updCode c.ctx (fun _ => {}) (clearValid c.ctx s))
  else
    readingCmd c [(a, 64), (peekNat s (a + 0x10) 8, 4 * peekNat s (a + 8) 2)] h (fun s =>
      match codingFail s c.ctx a with
      | some e => refuseCfg c e.code e.index e.off s
      | none =>
        let s := clearValid c.ctx s
        let new := codingOf s a
        completeCmd c stOk s.beat.gnum [] [] (updCode c.ctx (fun d => { new with renames := d.renames }) s)) s

def execCodeSet (r : Route) (h : LineHit) (s : State) : Host.Outcome State Fault Refusal :=
  .next (command 0x0601 r (codeSet h) s)

/-! ### CODE_REFRESH and CODE_COMMIT (R450) -/

def codeRefresh (h : LineHit) (c : Cmd) (s : State) : State :=
  let x := ctxAt s c.ctx
  if x.st ≠ .unparked then refuseCmd c stCtxState [] s
  else if x.alm.upd ≠ 0 ∨ stepInFlight s c.ctx = true ∨ codeBusy x = true then refuseCmd c stUpdatePending [] s
  else if x.code.present = false then refuseCfg c 0x1B 0 0 s
  else
    let s := acceptCmd c 0 0 [] s
    match lastJob s with
    | none => s
    | some j =>
      let r := ctxReadAll c.ctx h (imageRuns s c.ctx (shardMapOf x) x.alm.cb) 0 s
      match r.1 with
      | none => endJob j stFaulted r.2.beat.gnum [] r.2
      | some image => startRefresh c.ctx (some j.id) x.alm.cb x.alm.step image r.2

def execCodeRefresh (r : Route) (h : LineHit) (s : State) : Host.Outcome State Fault Refusal :=
  .next (command 0x0602 r (codeRefresh h) s)

/-- A refresh outside a step is complete: its reply. -/
def execCodeRefreshDone (ctx : BitVec 14) (s : State) : Host.Outcome State Fault Refusal :=
  .next (
    let c := ctx.toNat
    let d := (ctxAt s c).code
    match d.op with
    | none => s
    | some o =>
      match o.job.bind (jobById s) with
      | none => s
      | some j =>
        if j.opcode = 0x0602 ∧ d.refreshed = true then
          endJob j stOk s.beat.gnum [o.cstep] (updCode c (fun d => { d with ready := true }) (finishRefresh c s))
        else s)

def codeCommit (c : Cmd) (s : State) : State :=
  let x := ctxAt s c.ctx
  let at_ := c.field 0 8
  if x.st = .free then refuseCmd c stCtxState [] s
  else if x.code.ready = false then refuseCmd c stCodeStale [] s
  else acceptCmd c (if at_ = 0 then s.beat.gnum + 1 else at_) 0 [] s

def execCodeCommit (r : Route) (s : State) : Host.Outcome State Fault Refusal := .next (command 0x0603 r codeCommit s)

/-! ### CODE_REBUILD (R452, R453) -/

/-- The new nodes of rebuilt members go into the device's copies of the coding descriptor and the group tables. -/
def renameNode (c lost new : Nat) (s : State) : State :=
  updCode c (fun d =>
    let old := d.nodes.getD lost 0
    { d with nodes := updAt d.nodes lost (fun _ => new)
             renames := (d.renames.filter (fun p => p.1 != old)).map (fun p => if p.2 = old then (p.1, new) else p) ++ [(old, new)] }) s

/-- A survivor later than its coded state rolls back: the base copy goes into buffer CB, and STEP is CSTEP. None where the
base copy cannot be read. -/
def rollBack (c : Nat) (h : LineHit) (s : State) : Bool × State :=
  let x := ctxAt s c
  let d := x.code
  if x.alm.step ≤ d.cstep ∨ d.n < 2 then (true, s)
  else
    let r := ctxRead c (d.baseAt d.ccb) d.p h s
    match r.1 with
    | none => (false, r.2)
    | some bs =>
      (true, updAlm c (fun a => { a with step := d.cstep }) (writeRuns c (imageRuns s c (shardMapOf x) x.alm.cb) bs r.2))

def codeRebuild (h : LineHit) (c : Cmd) (s : State) : State :=
  let x := ctxAt s c.ctx
  let d := x.code
  let n := c.field 1 1
  let lost := (List.range n).map (fun i => (c.field (2 + 2 * i) 2, c.field (8 + 2 * i) 2))
  if x.st ≠ .unparked then refuseCmd c stCtxState [] s
  else if x.alm.upd ≠ 0 ∨ stepInFlight s c.ctx = true ∨ codeBusy x = true then refuseCmd c stUpdatePending [] s
  else if n > 2 then refuseCmd c stCodeLost [] s
  else if c.field 0 1 = 1 ∧ (d.present && d.valid) = false then refuseCmd c stCodeStale [] s
  else if d.present = false then refuseCfg c 0x1B 0 0 s
  else match lost.zipIdx.find? (fun e => decide (d.members ≤ e.1.1)) with
  | some e => refuseCmd c stReserved [0x22 + 2 * e.2] s
  | none =>
    let s := lost.foldl (fun s e => renameNode c.ctx e.1 e.2 s) s
    if c.field 0 1 = 1 then
      let r := rollBack c.ctx h s
      completeCmd c (if r.1 then stOk else stFaulted) r.2.beat.gnum (if r.1 then [d.cstep, 0] else []) [] r.2
    else
      let s := acceptCmd c 0 0 [] s
      match lastJob s with
      | some j => startRebuild c.ctx j.id x.alm.step (lost.map (fun e => e.1)) s
      | none => s

def execCodeRebuild (r : Route) (h : LineHit) (s : State) : Host.Outcome State Fault Refusal :=
  .next (command 0x0604 r (codeRebuild h) s)

/-- A target has every symbol it needs, or cannot go on: the reply. -/
def execCodeRebuildDone (ctx : BitVec 14) (s : State) : Host.Outcome State Fault Refusal :=
  .next (
    let c := ctx.toNat
    let x := ctxAt s c
    match x.code.op with
    | none => s
    | some o =>
      match o.job.bind (jobById s) with
      | none => s
      | some j =>
        if o.rebuild = false then s
        else match o.fail with
        | some st => endJob j st s.beat.gnum [] (updCode c (fun d => { d with op := none, recv := [] }) s)
        | none =>
          if x.code.rebuilt then
            endJob j stOk s.beat.gnum [o.cstep, o.bytes] (finishRebuild c (shardMapOf x) x.alm.cb s)
          else s)

/-! ### PAR messages (R437 to R439, R449, R453) -/

/-- The context that a PAR message's KEY names. -/
def codingCtx (s : State) (key : Nat) : Option Nat :=
  (unparked s).find? (fun c => (ctxAt s c).code.present && (ctxAt s c).code.key == key)

/-- A chunk joins what has come of its piece or symbol; the piece as it then stands. -/
def takeParChunk (c : Nat) (h : CollHead) (bs : List Byte) (s : State) : ParPiece × State :=
  let d := (ctxAt s c).code
  let mine (p : ParPiece) : Bool := p.stripe == h.tensor && p.slot == h.shard
  let old : ParPiece := match d.recv.find? (fun p => mine p && p.cstep == h.gnum) with
    | some p => p
    | none => { cstep := h.gnum, stripe := h.tensor, slot := h.shard, src := h.src }
  let new : ParPiece := { old with
    parts := old.parts.filter (fun e => e.1 != h.chunk) ++ [(h.chunk, chunkData d.piece h bs)]
    total := if h.chunk + 1 = h.chunks then some (h.chunks, h.crc) else old.total }
  (new, updCode c (fun d => { d with recv := d.recv.filter (fun p => !mine p) ++ [new] }) s)

/-- A chunk of a data piece for an own parity. -/
def execPiece (i : BitVec 16) (s : State) : Host.Outcome State Fault Refusal :=
  .next (gateRow 3 1 i (fun h bs s =>
    match codingCtx s h.key with
    | none => refuse 3 5 h 0 1 s
    | some c =>
      let d := (ctxAt s c).code
      if h.shard < d.k ∧ (h.tensor = d.ownStripe 0 ∨ h.tensor = d.ownStripe 1) then
        let r := takeParChunk c h bs s
        settleRefresh c (settlePiece c r.1 r.2)
      else s) s)

/-- A piece that this device sent has been applied. -/
def execPieceAck (i : BitVec 16) (s : State) : Host.Outcome State Fault Refusal :=
  .next (gateRow 3 2 i (fun h _ s =>
    match codingCtx s h.key with
    | none => s
    | some c =>
      settleRefresh c (updOp c (fun o => if o.cstep = h.gnum then
        { o with unacked := o.unacked.filter (fun e => e != (h.tensor, h.shard, h.member)) } else o) s)) s)

/-- Where a symbol that this device holds stands, and the CSTEP it is of: a data piece of the refresh in progress, or a
symbol of the committed coded state; otherwise the STATUS of the refusal. -/
def symbolRuns (s : State) (c : Nat) (h : CollHead) : (Nat × List (Nat × Nat)) ⊕ Nat :=
  let x := ctxAt s c
  let d := x.code
  let map := shardMapOf x
  let part (buf : Nat) : List (Nat × Nat) := cutRuns (imageRuns s c map buf) (h.shard * d.piece) d.piece
  let fresh : Option ParOp := d.op.filter (fun o => !o.rebuild && o.cstep == h.gnum)
  if d.members ≤ h.shard ∨ d.members ≤ h.tensor ∨ d.holder h.tensor h.shard ≠ d.self then .inr 3
  else match (if h.shard < d.k then fresh else none) with
  | some o => .inl (o.cstep, part o.buf)
  | none =>
    if d.valid = false then .inr 4
    else if h.shard ≥ d.k then .inl (d.cstep, [(d.parityAt d.ccb (h.shard - d.k), d.piece)])
    else if x.alm.step = d.cstep then .inl (d.cstep, part x.alm.cb)
    else if d.n ≥ 2 then .inl (d.cstep, [(d.baseAt d.ccb + h.shard * d.piece, d.piece)])
    else .inr 4

def execPieceReq (i : BitVec 16) (lh : LineHit) (s : State) : Host.Outcome State Fault Refusal :=
  .next (gateRow 3 3 i (fun h _ s =>
    match codingCtx s h.key with
    | none => refuse 3 5 h 0 1 s
    | some c =>
      match symbolRuns s c h with
      | .inr status => refuse 3 5 h c status s
      | .inl e =>
        let r := ctxReadAll c lh e.2 0 s
        match r.1 with
        | none => refuse 3 5 h c 2 r.2
        | some bs => sendPiece 4 c h.src e.1 h.tensor h.shard (ctxAt s c).code.piece bs r.2) s)

/-- A chunk of a symbol: of a rebuild, or of a piece asked for again. -/
def execSymbol (i : BitVec 16) (s : State) : Host.Outcome State Fault Refusal :=
  .next (gateRow 3 4 i (fun h bs s =>
    match codingCtx s h.key with
    | none => s
    | some c =>
      let x := ctxAt s c
      match x.code.op with
      | none => s
      | some o =>
        if o.rebuild then
          if !o.want.contains (h.tensor, h.shard) then s
          else if h.gnum ≠ o.cstep then updOp c (fun o => { o with fail := o.fail.or (some stCodeStale) }) s
          else
            let n := (chunkData x.code.piece h bs).length
            let r := takeParChunk c h bs (updOp c (fun o => { o with bytes := o.bytes + n }) s)
            settleSymbol c r.1 r.2
        else if x.code.recv.any (fun p => p.stripe == h.tensor && p.slot == h.shard && p.cstep == h.gnum && p.again) then
          let r := takeParChunk c h bs s
          settleRefresh c (settlePiece c r.1 r.2)
        else s) s)

/-- A refresh cannot go on: within an update DONE goes out with OK 0, and CODE_REFRESH ends. -/
def refuseRefresh (c status : Nat) (s : State) : State :=
  match (ctxAt s c).code.op with
  | none => s
  | some o =>
    let s := updCode c (fun d => { d with op := none, recv := [] }) s
    match o.job with
    | none => sendDone c (updUpdate c (fun u => { u with nonfiniteB := true }) s)
    | some j => match jobById s j with
      | some j => endJob j (if status = 4 then stCodeStale else stFaulted) s.beat.gnum [] s
      | none => s

/-- A refused PAR request: a rebuild loses the symbol, or ends where the coded state is stale; a piece that cannot be sent
again raises FLT_SHARD_CRC; a piece that has no taker ends its refresh. -/
def execParRefuse (i : BitVec 16) (s : State) : Host.Outcome State Fault Refusal :=
  .next (gateRow 3 5 i (fun h _ s =>
    match codingCtx s h.key with
    | none => s
    | some c =>
      let d := (ctxAt s c).code
      match d.op with
      | none => s
      | some o =>
        if o.rebuild then
          if !o.want.contains (h.tensor, h.shard) then s
          else if h.status = 4 then updOp c (fun o => { o with fail := o.fail.or (some stCodeStale) }) s
          else loseSymbol c h.tensor h.shard s
        else if d.recv.any (fun p => p.stripe == h.tensor && p.slot == h.shard && p.cstep == h.gnum && p.again) then raiseParCrc c s
        else if o.cstep = h.gnum ∧ o.unacked.any (fun e => e.1 == h.tensor && e.2.1 == h.shard) = true then
          refuseRefresh c h.status s
        else s) s)

end Sys2Proof.Machine
end

