-- ==== Sys2Proof/Machine/Bulk.lean ====
section
/-! DEFINITION. Data moved in bulk: RESHARD, snapshots, and BULK messages (R341 to R343, R365 to R369, R406, R475). -/

namespace Sys2Proof.Machine

/-! ### BULK messages (R406) -/

/-- A BULK message: DATA is operation 1, ACK operation 2. -/
def bulkBytes (s : State) (op transfer off : Nat) (data : List Byte) : List Byte :=
  natLe 2 (ownNode s) ++ natLe 2 (flitsOf (0x20 + data.length)) ++ natLe 2 op ++ natLe 2 0 ++ natLe 4 0 ++ natLe 4 transfer ++
    natLe 4 transfer ++ natLe 4 0 ++ natLe 8 off ++ data

def sendBulk (dst ctx op transfer off : Nat) (data : List Byte) (s : State) : State :=
  { s with out := s.out ++ [⟨dst, 2, 0, ctx, bulkBytes s op transfer off data⟩] }

/-- The data of a message of 256 flits (DESIGN CHOICE: transfers go in the longest messages). -/
def bulkRoom : Nat := 256 * 240 - 0x20

/-- The offset up to which every byte has come. -/
def contiguous (parts : List (Nat × List Byte)) : Nat → Nat → Nat
  | 0, at_ => at_
  | n + 1, at_ =>
    match parts.find? (fun e => decide (e.1 ≤ at_) && decide (at_ < e.1 + e.2.length)) with
    | some e => contiguous parts n (e.1 + e.2.length)
    | none => at_

/-- A BULK message of an operation in the inbox. -/
def bulkRow (op : Nat) (i : BitVec 16) (go : List Byte → State → State) (s : State) : State :=
  match gateMsg s i.toNat 2 op with
  | some m => flushOut (go m.bytes (freeMsg i.toNat m s))
  | none => s

/-- Bytes of a transfer arrive; the offset received goes back. -/
def execBulkData (i : BitVec 16) (s : State) : Host.Outcome State Fault Refusal :=
  .next (bulkRow 1 i (fun bs s =>
    let src := fieldAt bs 0 2
    let id := fieldAt bs 0x10 4
    let mine (b : BulkIn) : Bool := b.src == src && b.transfer == id
    let old := ((s.gate.bulk.find? mine).map (fun b => b.parts)).getD []
    let parts := old ++ [(fieldAt bs 0x18 8, bs.drop 0x20)]
    let s := { s with gate := { s.gate with bulk := s.gate.bulk.filter (fun b => !mine b) ++ [⟨src, id, parts⟩] } }
    sendBulk src 0 2 id (contiguous parts parts.length 0) [] s) s)

/-! ### RESHARD (R365 to R369) -/

/-- The field offsets of a tensor entry's arrays with each array's base and element size. -/
def tensorArrays (t : Tensor) : List (Nat × Nat × Nat) :=
  [(0x18, t.image0, t.gsize), (0x20, t.image1, t.gsize), (0x28, t.grad, 4)] ++
    (List.range 6).map (fun j => (0x30 + 8 * j, t.arrays.getD j 0, t.stateSize j))

/-- The arrays of a map on this device: tensor, field offset, base and length. -/
def mapArrays (s : State) (c map : Nat) : List (Nat × Nat × Nat × Nat) :=
  if map = 0 then []
  else (List.range (smTensors s map)).flatMap (fun ti =>
    let t := smTensor s map ti
    let n := ownElems t (ctxGroup s c map t.group)
    (tensorArrays t).map (fun a => (ti, a.1, a.2.1, n * a.2.2)))

/-- An array of the shadow that overlaps one of the active map. -/
def overlapFail (s : State) (c active shadow : Nat) : Option CfgFail :=
  let old := mapArrays s c active
  ((mapArrays s c shadow).find? (fun a => old.any (fun b => runsMeet a.2.2.1 a.2.2.2 b.2.2.1 b.2.2.2))).map
    (fun a => ⟨0x0A, a.1, a.2.1⟩)

/-- Tensors that a RESHARD may move between two maps. -/
def reshardable (s : State) (a b : Nat) : Bool :=
  a == 0 || (smTensors s a == smTensors s b && (List.range (smTensors s a)).all (fun ti =>
    let x := smTensor s a ti
    let y := smTensor s b ti
    x.rows == y.rows && x.cols == y.cols && x.gfmt == y.gfmt && x.stateFmt == y.stateFmt))

/-- Two shard maps are equivalent (R366). -/
def mapsEquivalent (s : State) (a b : Nat) : Bool :=
  let head (m : Nat) : List Nat := [smTensors s m, smGroups s m, peekNat s (m + 0x0A) 2, smRecords s m, smPoolPages s m, smReserve s m]
  let group (m g : Nat) : List Nat := let e := smGroup s m g; [e.members, e.self, e.key]
  let tensor (m t : Nat) : List Nat :=
    let e := smTensor s m t
    [e.group, e.gfmt, e.rows, e.cols, e.shards, e.stateFmt, e.resIndex]
  a != 0 && b != 0 && head a == head b && (List.range (smGroups s a)).all (fun g => group a g == group b g) &&
    (List.range (smTensors s a)).all (fun t => tensor a t == tensor b t)

def reshard (h : LineHit) (c : Cmd) (s : State) : State :=
  let x := ctxAt s c.ctx
  let active := shardMapOf x
  let shadow := shadowShard x
  if x.st ≠ .unparked then refuseCmd c stCtxState [] s
  else if x.alm.upd = 4 then refuseCmd c stUpdatePending [] s
  else if resharding s c.ctx then refuseCmd c stReshardActive [] s
  else if stepInFlight s c.ctx then refuseCmd c stScopeActive [] s
  else if shadow = 0 then refuseCfg c 7 0 0 s
  else
    readingCmd c (shardRegions s shadow) h (fun s =>
      match (shardFail s c.ctx shadow).or (overlapFail s c.ctx active shadow) with
      | some e => refuseCfg c e.code e.index e.off s
      | none => if reshardable s active shadow then acceptCmd c 0 0 [] s else refuseCmd c stReshardMismatch [] s) s

def execReshard (r : Route) (h : LineHit) (s : State) : Host.Outcome State Fault Refusal :=
  .next (command 0x0303 r (reshard h) s)

/-- What a RESHARD writes: bytes, where they go, and where they come from when the old owner is this device. Shards by
tensor and slot; of each, the gather image and then the present pairs, each into both buffers. -/
structure ReshardItem where
  size : Nat
  dsts : List Nat
  src : Option Nat

def reshardItems (s : State) (c : Nat) : List ReshardItem :=
  let x := ctxAt s c
  let active := shardMapOf x
  let shadow := shadowShard x
  let cb := x.alm.cb
  (List.range (smTensors s shadow)).flatMap (fun ti =>
    let t := smTensor s shadow ti
    let g := ctxGroup s c shadow t.group
    (List.range (ownSlots t g)).flatMap (fun k =>
      let shard := k * g.members + g.self
      let old := smTensor s active ti
      let og := ctxGroup s c active old.group
      let mine : Bool := active != 0 && og.members != 0 && shard % og.members == og.self
      let item (z a0 a1 from_ : Nat) : ReshardItem :=
        ⟨t.shardBytes z, [a0 + t.slotOff k z, a1 + t.slotOff k z],
          if mine then some (from_ + old.slotOff (shard / og.members) z) else none⟩
      item t.gsize t.image0 t.image1 (old.image cb) ::
        ((List.range 3).filter (fun p => t.stateSize (2 * p) != 0)).map (fun p =>
          item (t.stateSize (2 * p)) (t.arrays.getD (2 * p) 0) (t.arrays.getD (2 * p + 1) 0) (old.arrays.getD (2 * p + cb) 0))))

/-- The items are written: local ones from what the old arrays hold, the others from what was received. The answer says
whether every local read succeeded. -/
def writeItems (c : Nat) (h : LineHit) : List ReshardItem → Nat → List Byte → State → Bool × State
  | [], _, _, s => (true, s)
  | i :: t, k, got, s =>
    let put (bs : List Byte) (s : State) : State := i.dsts.foldl (fun s a => (ctxWrite c a bs s).2) s
    match i.src with
    | none => writeItems c h t k (got.drop i.size) (put (padTo i.size got) s)
    | some a =>
      let r := ctxReadAll c h [(a, i.size)] k s
      match r.1 with
      | none => (false, r.2)
      | some bs => writeItems c h t (k + (pieces a i.size).length) got (put bs r.2)

/-- The arrays of a RESHARD that failed are undefined: free values. -/
def freeItems (c : Nat) (items : List ReshardItem) (s : State) : State :=
  items.foldl (fun s i => i.dsts.foldl (fun s a =>
    let f := takeFree s
    (ctxWrite c a (natLe i.size f.1) f.2).2) s) s

/-- Every shard that this device receives has been written, or a failure under R353 has ended the RESHARD. -/
def execReshardDone (ctx : BitVec 14) (received : List Byte) (served : BitVec 64) (fails : Bool) (h : LineHit) (s : State) :
    Host.Outcome State Fault Refusal :=
  .next (
    let c := ctx.toNat
    match jobsOf s 0x0303 c with
    | [] => s
    | j :: _ =>
      let x := ctxAt s c
      let items := reshardItems s c
      let r := if fails then (false, s) else writeItems c h items 0 received s
      if !r.1 then flushOut (endJob j stFaulted r.2.beat.gnum [] (freeItems c items r.2))
      else
        let n := ((items.filter (fun i => i.src.isNone)).map (fun i => i.size)).foldl (fun a b => a + b) 0
        let same := mapsEquivalent r.2 (shardMapOf x) (shadowShard x)
        endJob j stOk r.2.beat.gnum [n, served.toNat, if same then 1 else 0] (updCtx r.2 c (fun x => { x with resharded := true })))

/-! ### SNAPSHOT (R341 to R343) -/

/-- Entry i of an extent list: SRC, STAGE and LEN. -/
def extentAt (s : State) (list i : Nat) : Nat × Nat × Nat :=
  (peekNat s (list + 24 * i) 8, peekNat s (list + 24 * i + 8) 8, peekNat s (list + 24 * i + 16) 8)

/-- KIND, MODE and TARGET of a context page. -/
def pagePlace (s : State) (c page : Nat) : Option (Nat × Nat × Nat) :=
  (xlateAt (ctxAt s c) page).map (fun e => let g := imapEntry s (e.frame / 128); (e.kind, g.1, g.2.1))

def extentFail (s : State) (c list i : Nat) : Option CfgFail :=
  let e := extentAt s list i
  let whole (a : Nat) : Bool := a % 2 ^ 21 == 0 && decide (a + e.2.2 ≤ 2 ^ 40)
  let pages := e.2.2 / 2 ^ 21
  let at_ (a k : Nat) : Option (Nat × Nat × Nat) := pagePlace s c (a / 2 ^ 21 + k)
  badField 0x18 i [(0, whole e.1 && (List.range pages).all (fun k => (at_ e.1 k).isSome)),
    (8, whole e.2.1 && (List.range pages).all (fun k => at_ e.2.1 k == at_ e.1 k)), (0x10, e.2.2 % 2 ^ 21 == 0)]

def snapshot (h : LineHit) (c : Cmd) (s : State) : State :=
  let x := ctxAt s c.ctx
  let list := c.field 8 8
  let n := c.field 0x10 2
  if !x.st.resident then refuseCmd c stCtxState [] s
  else if c.field 0x12 1 = 2 ∧ c.fromRing = true then refuseCmd c stDenied [] s
  else if s.jobs.any (fun j => j.opcode == 0x0605 && j.phase != 0) then refuseCmd c stSnapshotBusy [] s
  else
    readingCmd c [(list, 24 * n)] h (fun s =>
      match firstFail ((List.range n).map (extentFail s c.ctx list)) with
      | some e => refuseCfg c e.code e.index e.off s
      | none =>
        let s := acceptCmd c 0 (if c.field 0 8 = 0 then 1 else 0) [x.alm.step] s
        match lastJob s with
        | some j => updJob j.id (fun j => { j with data := peek s list (24 * n) }) s
        | none => s) s

def execSnapshot (r : Route) (h : LineHit) (s : State) : Host.Outcome State Fault Refusal :=
  .next (command 0x0605 r (snapshot h) s)

/-- The extents that a snapshot read at acceptance. -/
def Job.extents (j : Job) : List (Nat × Nat × Nat) :=
  (List.range (j.data.length / 24)).map (fun i =>
    (fieldAt j.data (24 * i) 8, fieldAt j.data (24 * i + 8) 8, fieldAt j.data (24 * i + 16) 8))

/-- The staged image is shipped: in BULK messages to a node, or in KIND 3 datagrams. -/
def shipStaged (j : Job) (image : List Byte) (s : State) : State :=
  if j.field 0x12 1 = 1 then
    (List.range ((image.length + bulkRoom - 1) / bulkRoom)).foldl (fun s i =>
      sendBulk (j.field 0x14 2) j.ctx 1 (j.field 0x18 4) (bulkRoom * i) ((image.drop (bulkRoom * i)).take bulkRoom) s) s
  else
    match j.origin with
    | .ring _ _ => s
    | .session n _ _ =>
      let x : Xfer := { num := n, addr := j.field 0x20 16, port := j.field 0x1C 2, tag := j.tag, kind := 3, job := j.id
                        status := stOk, det := [], data := image, sent := 0, acked := 0, at_ := s.cycle }
      let r := pushXfer 256 x s
      { r.2 with oz := { r.2.oz with xfers := r.2.oz.xfers ++ [r.1] } }

/-- Staging ends: the copy stands in the staging area, and shipping begins. -/
def execSnapshotStageEnd (ctx : BitVec 14) (h : LineHit) (s : State) : Host.Outcome State Fault Refusal :=
  .next (
    let c := ctx.toNat
    match (jobsOf s 0x0605 c).find? (fun j => j.phase == 1) with
    | none => s
    | some j =>
      let r := ctxReadAll c h (j.extents.map (fun e => (e.1, e.2.2))) 0 s
      match r.1 with
      | none => flushOut (endJob j stFaulted r.2.beat.gnum [] r.2)
      | some image =>
        let s := writeRuns c (j.extents.map (fun e => (e.2.1, e.2.2))) image r.2
        let s := updJob j.id (fun j => { j with phase := 2, vals := [j.vals.headD 0, image.length, crc32c image, 0] }) s
        flushOut (shipStaged j image s))

/-- A bulk transfer that this device ships is acknowledged up to an offset. -/
def execBulkAck (i : BitVec 16) (s : State) : Host.Outcome State Fault Refusal :=
  .next (bulkRow 2 i (fun bs s =>
    match s.jobs.find? (fun j => j.opcode == 0x0605 && j.phase == 2 && j.field 0x12 1 == 1 &&
        j.field 0x14 2 == fieldAt bs 0 2 && j.field 0x18 4 == fieldAt bs 0x10 4) with
    | some j => updJob j.id (fun j => { j with vals := updAt j.vals 3 (fun v => max v (fieldAt bs 0x18 8)) }) s
    | none => s) s)

/-- The last byte of a snapshot has been acknowledged: the reply. -/
def execSnapshotShipDone (ctx : BitVec 14) (s : State) : Host.Outcome State Fault Refusal :=
  .next (
    match (jobsOf s 0x0605 ctx.toNat).find? (fun j => j.phase == 2) with
    | none => s
    | some j =>
      let total := j.vals.getD 1 0
      let done : Bool := if j.field 0x12 1 = 1 then decide (total ≤ j.vals.getD 3 0)
        else s.oz.xfers.any (fun x => x.job == j.id && x.acked == total)
      if done then
        let s := { s with oz := { s.oz with xfers := s.oz.xfers.filter (fun x => x.job != j.id) } }
        endJob j stOk s.beat.gnum [j.vals.getD 0 0, total, j.vals.getD 2 0] s
      else s)

end Sys2Proof.Machine
end

