-- ==== Sys2Proof/Machine/Service.lean ====
section
/-! DEFINITION. Service commands of links and memory: link settings, FEC modes, spare lanes, margining and the ECC mode (R29,
R285, R294, R295, R399 to R402, R425, R440, R480 to R482, R521). -/

namespace Sys2Proof.Machine

/-! ### Link settings (R440, R480) -/

/-- A field of LNK_CTL of every engine takes a value; it takes effect at the next boundary. -/
def setLinks (hi lo v : Nat) (s : State) : State := (List.range 8).foldl (fun s k => setField s (regInst aLnkCtl k) hi lo v) s

def lnkConfig (c : Cmd) (s : State) : State :=
  let has (i : Nat) : Bool := c.field 0 2 / 2 ^ i % 2 == 1
  let window := if has 0 then c.field 2 1 else engineMost s 12 8
  let hops := if has 2 then c.field 4 1 else engineMost s 23 21
  let coll := if has 7 then c.field 0xC 4 else collTimeout s
  if (has 0 || has 2 || has 7) && !timersOrdered coll window hops (lenAhead s).2.1 (adaptMax s) then
    refuseCmd c stTimerOrder [] s
  else
    let put (i hi lo v : Nat) (s : State) : State := if has i then setLinks hi lo v s else s
    let s := put 6 59 50 (c.field 0xA 2) (put 5 49 40 (c.field 8 2) (put 4 39 30 (c.field 6 2) (put 3 2 0 (c.field 5 1)
      (put 2 23 21 (c.field 4 1) (put 1 19 16 (c.field 3 1) (put 0 12 8 (c.field 2 1) s))))))
    let s := if has 7 then (List.range 4).foldl (fun s r => setField s (regInst aGateCtl r) 19 0 coll) s else s
    acceptCmd c (s.beat.gnum + 1) 0 [] s

def execLnkConfig (r : Route) (s : State) : Host.Outcome State Fault Refusal := .next (command 0x0501 r lnkConfig s)

/-- LNK_FEC: a fixed mode, or its release to R399; the change is made at the next boundary. -/
def lnkFec (c : Cmd) (s : State) : State :=
  let p := c.field 0 1
  let mode := c.field 1 1
  let s := updPort p (fun t =>
    if mode = 0 then { t with fixed := none, nextReach := none }
    else { t with fixed := some (mode - 1), nextReach := if t.reach = decide (mode = 2) then none else some (mode == 2) }) s
  acceptCmd c (s.beat.gnum + 1) 0 [] s

def execLnkFec (r : Route) (s : State) : Host.Outcome State Fault Refusal := .next (command 0x0502 r lnkFec s)

/-! ### Spare lanes (R401, R482) -/

/-- A LNK_MARGIN of an engine that has not completed. -/
def marginJob (s : State) (k : Nat) : Option Job := s.jobs.find? (fun j => j.opcode == 0x0703 && j.field 0 1 == k)

def lnkSpare (c : Cmd) (s : State) : State :=
  let k := c.field 0 1
  let lane := c.field 2 1
  let e := engineAt s k
  if c.field 1 1 = 1 then
    if e.spareRx ≠ 0 ∨ e.switchRx.isSome = true ∨ (marginJob s k).isSome = true then refuseCmd c stSpareBusy [] s
    else if !portIsPartner s (4 * k + lane / 4) then refuseCmd c stReserved [0x22] s
    else askSpare k lane 1 (acceptCmd c 0 0 [] s)
  else if e.spareRx = lane + 1 ∧ (marginJob s k).isNone = true then askSpare k lane 2 (acceptCmd c 0 0 [] s)
  else completeCmd c stOk s.beat.gnum [] [] s

def execLnkSpare (r : Route) (s : State) : Host.Outcome State Fault Refusal :=
  .next (command 0x0503 r lnkSpare s)

/-! ### Lane margining (R29, R425) -/

/-- A packed margin goes to the Tally: the last result, the lowest passing steps field by field, and a log record. -/
def tallyMargin (strct unit bytes v : Nat) (s : State) : State :=
  let low := tallyId 0x15 strct unit
  let old := sGet 0 s.tly.vals low
  let least := leNat ((List.range bytes).map (fun i => BitVec.ofNat 8 (min (old / 256 ^ i % 256) (v / 256 ^ i % 256))))
  let top := v / 256 ^ bytes * 256 ^ bytes
  let s := tallyGauge s 0x15 strct unit (if sGet false s.tly.ever low then top + least else v)
  let s := tallyGauge s 0x14 strct unit v
  logAppend s 8 0 (natLe 4 (tallyId 0x14 strct unit) ++ natLe 4 0 ++ natLe 8 v)

def lnkMargin (c : Cmd) (s : State) : State :=
  let k := c.field 0 1
  let lane := c.field 1 1
  let e := engineAt s k
  if musterScope s = some (4, k) then refuseCmd c stScopeActive [] s
  else if e.spareRx ≠ 0 ∨ e.switchRx.isSome = true ∨ (marginJob s k).isSome = true then refuseCmd c stMarginNoSpare [] s
  else if lane = 16 then acceptCmd c 0 1 [] s
  else if !portIsPartner s (4 * k + lane / 4) then refuseCmd c stMarginNoSpare [] s
  else askSpare k lane 3 (acceptCmd c 0 0 [] s)

def execLnkMargin (r : Route) (s : State) : Host.Outcome State Fault Refusal := .next (command 0x0703 r lnkMargin s)

/-- A margining run ends: its steps are reported, and the traffic is to return to its lane. -/
def execLnkMarginDone (engine : BitVec 3) (phLow phHigh vLow vHigh : BitVec 8) (s : State) : Host.Outcome State Fault Refusal :=
  .next (
    let k := engine.toNat
    match marginJob s k with
    | none => s
    | some j =>
      if j.phase = 0 then s
      else
        let lane := j.field 1 1
        let v := 2 ^ 32 + phLow.toNat * 2 ^ 24 + phHigh.toNat * 2 ^ 16 + vLow.toNat * 2 ^ 8 + vHigh.toNat
        let s := updEngine k (fun e => { e with margins := sSet 0 e.margins lane v }) s
        let s := tallyMargin 0x10 (17 * k + lane) 4 v s
        let s := if lane = 16 then s else askSpare k lane 2 s
        flushOut (endJob j stOk s.beat.gnum [v] s))

/-- A receiving lane loses light or lock, or exceeds LANE_FAIL in Reach mode. A margining run of the engine ends, and the
spare serves the lane that failed; a lane under test keeps the spare. -/
def execLaneFail (engine : BitVec 3) (lane : BitVec 5) (all : Bool) (s : State) : Host.Outcome State Fault Refusal :=
  .next (
    let k := engine.toNat
    let i := lane.toNat
    if i > 16 then s
    else
      match marginJob s k with
      | none => flushOut (laneFails k i all s)
      | some j =>
        let s := endJob j stMarginAborted s.beat.gnum [] s
        let e := engineAt s k
        if i < 16 ∧ e.spareRx = i + 1 ∧ e.lentRx = true then flushOut (askSpare k i 1 s)
        else if i = 16 ∧ e.lentRx = true then flushOut (askSpare k (e.spareRx - 1) 2 s)
        else flushOut (laneFails k i all s))

/-! ### MEM_ECC (R255, R285) -/

def memEcc (c : Cmd) (s : State) : State :=
  if !(residents s).isEmpty || !(jobsOf s 0x0402 0).isEmpty then refuseCmd c stScopeActive [] s
  else
    let s := { s with
      mem := { s.mem with strong := c.field 0 1 == 1 }
      sets := { s.sets with imap := {}, imapRaw := none, imapShadow := none } }
    acceptCmd c 0 0 [] s

def execMemEcc (r : Route) (s : State) : Host.Outcome State Fault Refusal := .next (command 0x0402 r memEcc s)

/-- A stack key lies in the carve-out (R254). -/
def carveKey (k : Nat) : Bool := k / 2 ^ 37 % 4 == 0 && decide (88 * 2 ^ 30 ≤ k % 2 ^ 37)

/-- Job space is zeroed; the carve-out stays. -/
def zeroJobSpace (s : State) : State :=
  { s with mem := { s.mem with
      hbm := s.mem.hbm.filter (fun e => carveKey e.1)
      poison := s.mem.poison.filter (fun e => carveKey (64 * e.1)) } }

def execMemEccDone (s : State) : Host.Outcome State Fault Refusal :=
  .next (match jobsOf s 0x0402 0 with
    | j :: _ => endJob j stOk s.beat.gnum [] (zeroJobSpace s)
    | [] => s)

/-! ### Memory margining (R294, R295) -/

/-- A stack may not be margined: another is, or an unparked context uses it. -/
def stackBusy (s : State) (n : Nat) : Bool :=
  (List.range 8).any (fun k => (dieAt s k).state == 3) || (unparked s).any (fun x => (holdersOfStack s n).contains x)

def memMargin (c : Cmd) (s : State) : State :=
  let n := c.field 0 1
  if stackBusy s n || musterScope s == some (3, n) then refuseCmd c stScopeActive [] s
  else updDie (acceptCmd c 0 0 [(dieAt s n).state] s) n (fun d => { d with state := 3 })

def execMemMargin (r : Route) (s : State) : Host.Outcome State Fault Refusal := .next (command 0x0702 r memMargin s)

/-- The carve-out copy of a stack is rewritten from the other (R294). -/
def rewriteCopy (n : Nat) (s : State) : State :=
  if n % 4 ≠ 0 then s
  else
    let from_ := 4 - n
    let moved := (s.mem.hbm.filter (fun e => e.1 / 2 ^ 37 == from_ && carveKey e.1)).map (fun e => (e.1 % 2 ^ 37, e.2))
    let lines := (s.mem.poison.filter (fun e => 64 * e.1 / 2 ^ 37 == from_ && carveKey (64 * e.1))).map (fun e => (e.1 % 2 ^ 31, e.2))
    let lo := hbmKey n (88 * 2 ^ 30)
    let hbm := moved.foldl (fun m e => sSet 0#8 m (hbmKey n e.1) e.2) (sClear s.mem.hbm lo (hbmKey (n + 1) 0))
    let poison := lines.foldl (fun m e => sSet false m (n * 2 ^ 31 + e.1) e.2) (sClear s.mem.poison (lo / 64) ((n + 1) * 2 ^ 31))
    { s with mem := { s.mem with hbm := hbm, poison := poison } }

/-- A margining run of a stack ends; the passing steps of each pseudo-channel below and above nominal. -/
def execMemMarginDone (stack : BitVec 3) (lows highs : BitVec 512) (s : State) : Host.Outcome State Fault Refusal :=
  .next (
    let n := stack.toNat
    match (jobsOf s 0x0702 0).find? (fun j => j.field 0 1 == n) with
    | none => s
    | some j =>
      let param := j.field 1 1
      let pcs := (List.range 64).filter (fun i => j.field 8 8 / 2 ^ i % 2 == 1)
      let steps (v : BitVec 512) (i : Nat) : Nat := min 64 (v.toNat / 256 ^ i % 256)
      let s := pcs.foldl (fun s i =>
        let lo := steps lows i
        let hi := steps highs i
        let s := updDie s n (fun d => { d with margins := sSet {} d.margins (64 * param + i) ⟨true, lo, hi⟩ })
        tallyMargin 0x0E (4 * (64 * n + i) + param) 2 (2 ^ 16 + hi * 2 ^ 8 + lo) s) s
      let s := rewriteCopy n (updDie s n (fun d => { d with state := j.vals.headD 1 }))
      endJob j stOk s.beat.gnum [pcs.length] s)

end Sys2Proof.Machine
end

