-- ==== Sys2Proof/Machine/Urgent.lean ====
section
/-! DEFINITION. The urgent commands STOP, FENCE_CELL and QUARANTINE, and what each does at its guard point (R484, R485, R490,
R498, R510, R511). A job of phase 0 acts at the guard point of the open beat, one of phase 1 at the next; one of phase 2 has
acted and waits for the boundary. -/

namespace Sys2Proof.Machine

/-- The phase of an urgent command accepted now. -/
def guardPhase (s : State) : Nat := if s.cycle < guardPoint s then 0 else 1

/-! ### STOP (R484) -/

/-- A context with no open step stops: the step it parked within ends. -/
def stopParked (c : Nat) (s : State) : State :=
  if (ctxAt s c).kept.resume ≠ 0xFFFF then abandonParked c stStopped s else s

def parkedOrStored (s : State) : List Nat :=
  (s.ctxs.filter (fun e => decide (e.2.st = .parked) || decide (e.2.st = .stored))).map (fun e => e.1)

def stop (c : Cmd) (s : State) : State :=
  if c.field 0 1 = 1 then
    acceptCmd c 0 (guardPhase s) [] ((parkedOrStored s).foldl (fun s c => stopParked c s) s)
  else
    match (ctxAt s c.ctx).st with
    | .free => refuseCmd c stCtxState [] s
    | .unparked => acceptCmd c 0 (guardPhase s) [] s
    | _ => completeCmd c stOk s.beat.gnum [] [] (stopParked c.ctx s)

def execStop (r : Route) (s : State) : Host.Outcome State Fault Refusal := .next (command 0x0F01 r stop s)

/-- An unparked context stops: its work is discarded with no record and no JOB_FAULT, and its STEPs end. -/
def stopCtx (c : Nat) (s : State) : State :=
  let s := startDiscard c 0 true s
  (jobsOf s 0x0301 c).foldl (fun s j => endJob j stStopped s.beat.gnum [(ctxAt s c).alm.step] s) s

/-- STOP takes effect. -/
def stopActs (j : Job) (s : State) : State :=
  let cs := if j.field 0 1 = 1 then unparked s else [j.ctx]
  let s := cs.foldl (fun s c => if (ctxAt s c).st = .unparked then stopCtx c s else stopParked c s) s
  endJob j stOk s.beat.gnum [] s

/-! ### FENCE_CELL (R485) -/

def fenceCell (c : Cmd) (s : State) : State := acceptCmd c 0 (guardPhase s) [] s

def execFenceCell (r : Route) (s : State) : Host.Outcome State Fault Refusal := .next (command 0x0F02 r fenceCell s)

/-- FLT_CMD_FENCE is raised in the cell that holds the logical number; a vacant number has none. -/
def fenceActs (j : Job) (s : State) : State :=
  let l := j.field 0 2
  if isVacant s l then updJob j.id (fun j => { j with phase := 2, vals := [2 ^ 64 - 1] }) s
  else
    let p := physOf s l
    updJob j.id (fun j => { j with phase := 2, vals := [p] }) (raiseCellFault { code := 0x0132 } l s)

/-! ### QUARANTINE (R485) -/

def quarantine (c : Cmd) (s : State) : State := acceptCmd c 0 (guardPhase s) [] s

def execQuarantine (r : Route) (s : State) : Host.Outcome State Fault Refusal := .next (command 0x0F03 r quarantine s)

/-- The physical cell that a SCOPE_ID of kind 0 names (R574). -/
def scopeCell (s : State) (id : Nat) : Nat := if id / 2 ^ 15 = 1 then id % 2 ^ 15 else physOf s id

/-- Contexts that hold a block, page, Square unit, port or bell within a scope. -/
def holdersOfScope (s : State) (kind id : Nat) : List Nat :=
  match kind with
  | 0 => match logicalOf s (scopeCell s id) with | some l => holdersOfBlock s (blockOf l) | none => []
  | 1 => holdersOfBlock s id
  | 2 => holdersInRegion s id
  | 3 => holdersOfStack s id
  | 4 => (residents s).filter (fun c => (linkPorts s c).any (fun p => p / 4 == id) ||
      (List.range 4).any (fun i =>
        let t := portAt s (4 * id + i)
        (t.waiting ++ t.unacked).any (fun f => f.own && f.ctx == c)))
  | _ => distinct (if id < 4 then (linkEnds id).flatMap (holdersInRegion s) else holdersInRegion s (id - 4))

def quarantineActs (j : Job) (s : State) : State :=
  let kind := j.field 0 1
  let id := j.field 2 2
  updJob j.id (fun j => { j with phase := 2 })
    (raiseFault { code := 0x0312, unit := kind, arg := id } (holdersOfScope s kind id) s)

/-! ### At the guard point, and at the boundary that follows -/

/-- The urgent commands in progress, in the order of acceptance. -/
def urgentJobs (s : State) : List Job := s.jobs.filter (fun j => decide (classOf j.opcode = .urgent))

/-- The urgent commands whose guard point this is act. -/
def guardActs (s : State) : State :=
  (urgentJobs s).foldl (fun s j =>
    if j.phase = 1 then updJob j.id (fun j => { j with phase := 0 }) s
    else if j.phase = 0 then
      match j.opcode with
      | 0x0F01 => stopActs j s
      | 0x0F02 => fenceActs j s
      | _ => quarantineActs j s
    else s) s

/-- A quarantined scope goes out of service; an engine's ports stop. -/
def takeOut (kind id : Nat) (s : State) : State :=
  let s := { s with flt := { s.flt with
    quarantined := if s.flt.quarantined.contains (kind, id) then s.flt.quarantined else s.flt.quarantined ++ [(kind, id)] } }
  let ports := match kind with
    | 2 => (List.range 8).map (fun i => 8 * id + i)
    | 4 => (List.range 4).map (fun i => 4 * id + i)
    | _ => []
  ports.foldl (fun s p => if (portAt s p).state = 0 ∨ (portAt s p).state = 3 then s else portDown p 4 s) s

/-- FENCE_CELL and QUARANTINE complete at the boundary; the fences themselves have been applied with the others. -/
def endUrgent (s : State) : State :=
  (urgentJobs s).foldl (fun s j =>
    if j.phase = 2 then
      if j.opcode = 0x0F02 then endJob j stOk (s.beat.gnum + 1) j.vals s
      else endJob j stOk (s.beat.gnum + 1) [] (takeOut (j.field 0 1) (j.field 2 2) s)
    else s) s

end Sys2Proof.Machine
end

