-- ==== Sys2Proof/Machine/Muster.lean ====
section
/-! DEFINITION. Muster: when a run is allowed, what it brings about, its repairs, its reply, and the return of units to
service (R152 to R154, R252, R503, R573 to R585). -/

namespace Sys2Proof.Machine

/-! ### Scopes (R573, R574) -/

/-- An instance lies in a scope; of a cell scope the number is that of the physical cell. -/
def scopeHolds (kind id k i : Nat) : Bool :=
  let cell : Nat := if k = 2 then i / 4 else i
  match kind, k with
  | 0, 1 | 0, 2 => cell == id
  | 1, 1 | 1, 2 => cell / 17 == id
  | 2, 1 | 2, 2 => cell / 17 / 64 == id
  | 1, 3 | 2, 4 | 3, 5 | 4, 6 | 5, 7 => i == id
  | 2, 3 => i / 64 == id
  | 6, 8 => i == 0
  | _, _ => false

/-- A memory lies in a scope. -/
def scopeHoldsMem (kind id : Nat) (m : MusterMem) : Bool :=
  match m with
  | .cell p => scopeHolds kind id 1 p.toNat
  | .block g => scopeHolds kind id 3 g.toNat
  | .bells r | .xlate r => scopeHolds kind id 4 r.toNat
  | .square n _ | .training n | .row n _ => scopeHolds kind id 5 n.toNat
  | .engine k => scopeHolds kind id 6 k.toNat
  | .link l => scopeHolds kind id 7 l.toNat
  | .hall => kind == 6

/-- The first instance of a scope. -/
def firstInstance (kind id : Nat) : Nat × Nat :=
  match kind with
  | 0 => (1, id)
  | 1 => (1, 17 * id)
  | 2 => (1, 1088 * id)
  | 3 => (5, id)
  | 4 => (6, id)
  | 5 => (7, id)
  | _ => (8, 0)

/-- The physical cells of a scope. -/
def scopeCells (kind id : Nat) : List Nat :=
  match kind with
  | 0 => [id]
  | 1 => (List.range 17).map (fun i => 17 * id + i)
  | 2 => (List.range 1088).map (fun i => 1088 * id + i)
  | _ => []

/-- The blocks that a scope holds whole. -/
def scopeBlocks (kind id : Nat) : List Nat :=
  match kind with
  | 1 => [id]
  | 2 => (List.range 64).map (fun i => 64 * id + i)
  | _ => []

/-- The ports that a run takes down. -/
def scopePorts (kind id : Nat) : List Nat :=
  match kind with
  | 2 => (List.range 8).map (fun i => 8 * id + i)
  | 4 => (List.range 4).map (fun i => 4 * id + i)
  | _ => []

/-- A physical cell that holds no logical number: fenced, or the spare (R575). -/
def idleCell (s : State) (p : Nat) : Bool := (logicalOf s p).isNone

/-- The golden signature of a kind (R579). -/
def goldenOf (s : State) (k : Nat) : Nat := factoryNat s (0x9C00 + 16 * k + 8) 8

/-! ### When a run is allowed (R29, R575) -/

/-- A block's owner is unparked or in a transfer. -/
def blockBusy (s : State) (g : Nat) : Bool := match ownerOf s g with | some c => ctxPinned s c | none => false

/-- A run on a scope is refused. -/
def musterBusy (s : State) (kind tests id : Nat) : Bool :=
  tests == 0 || (match kind with
    | 0 => !idleCell s id && blockBusy s (id / 17)
    | 1 => blockBusy s id
    | 2 => (scopeBlocks 2 id).any (blockBusy s) ||
        (unparked s).any (fun c => (holdersOfStack s (2 * id)).contains c || (holdersOfStack s (2 * id + 1)).contains c)
    | 3 => stackBusy s id || (tests / 2 % 2 == 1 && (List.range 16).any (fun u => (unitOf s id u).1 != 0))
    | 4 => (unparked s).any (fun c => (linkPorts s c).any (fun p => p / 4 == id)) || (marginJob s id).isSome
    | _ => !(unparked s).isEmpty)

/-- What a run's start brings about: ports go down, and a Hall run clears LOCKED (R577). -/
def musterStarts (kind id : Nat) (s : State) : State :=
  let s := (scopePorts kind id).foldl (fun s p => if (portAt s p).state = 0 ∨ (portAt s p).state = 3 then s else portDown p 4 s) s
  if kind = 6 then updBeat (fun b => { b with locked := false, good := 0 }) s else s

/-- What holds when a run starts, and may be lifted by its pass: quarantines accepted before, and fenced cells. -/
def musterBefore (s : State) (kind id : Nat) : List Nat :=
  let waiting := (s.jobs.filter (fun j => j.opcode == 0x0F03)).map (fun j => (j.field 0 1, j.field 2 2))
  (s.flt.quarantined ++ waiting).map (fun q => q.1 * 65536 + q.2) ++
    ((scopeCells kind id).filter (fun p => (cellAt s p).fenced)).map (fun p => 2 ^ 40 + p)

def musterRun (c : Cmd) (s : State) : State :=
  let kind := c.field 0 1
  let tests := c.field 1 1
  let raw := c.field 2 2
  -- a logical number that no physical cell holds names no scope
  if kind = 0 ∧ raw < 4096 ∧ isVacant s raw = true then refuseCmd c stReserved [0x22] s
  else
    let id := if kind = 0 then scopeCell s raw else raw
    if musterBusy s kind tests id then refuseCmd c stScopeActive [] s
    else musterStarts kind id (acceptCmd c 0 0 (id :: musterBefore s kind id) s)

def execMusterRun (r : Route) (s : State) : Host.Outcome State Fault Refusal := .next (command 0x0701 r musterRun s)

/-! ### Repair analysis (R122, R152, R582, R584) -/

/-- The map that spares a faulty row, a faulty column or both, where the spares are free. -/
def repairMap (m : MatrixArray) (a : MusterArray) : Option (Nat × Nat) :=
  let old := match m.nextMap with | some n => n | none => (m.badRow, m.badCol)
  let one (bad : Nat) (l : List Nat) : Option Nat :=
    match l with
    | [] => some bad
    | [x] => if bad = 0x1F then some x else none
    | _ => none
  if a.rows = [] ∧ a.cols = [] then none
  else match one old.1 a.rows, one old.2 a.cols with
    | some r, some c => some (r, c)
    | _, _ => none

/-- An array takes a map: at once in a cell that holds no logical number, else when its partition is next unparked. -/
def setMap (arr : Nat) (m : Nat × Nat) (s : State) : State :=
  let p := arr / 4
  let now := idleCell s p
  let s := updCell s p (fun x =>
    let arrays := sUpd {} x.arrays (arr % 4) (fun a =>
      if now then { a with badRow := m.1, badCol := m.2, nextMap := none } else { a with nextMap := some m })
    { x with arrays := arrays })
  let s := if now ∧ m.2 ≠ 0x1F then tallyGauge s 0x08 0x09 arr 1 else s
  let id := tallyId 0x04 0x09 arr
  let f := freeDetail s
  let s := logAppend f.2 4 0 (natLe 8 0 ++ natLe 8 id ++ natLe 8 0 ++ [1#8, BitVec.ofNat 8 m.1, BitVec.ofNat 8 m.2] ++
    f.1.drop 3 ++ natLe 8 0)
  noteLast [1, arr, m.1, m.2] (tallyAdd s 0x04 0x09 arr 1)

/-- A physical cell is to be fenced by Muster, with no fault (R582, R584). -/
def musterFence (p : Nat) (s : State) : State :=
  if toFence s p then s
  else commitFence (p / 17) (queueFence p ((logicalOf s p).getD 0xFFFF) 0 s)

/-- What the failure of a memory brings about, and whether it could not be repaired. -/
def memFailure (m : MusterMem) (s : State) : Bool × State :=
  let bar (r : Nat) (s : State) : State :=
    { s with flt := { s.flt with barred := if s.flt.barred.contains r then s.flt.barred else s.flt.barred ++ [r] } }
  match m with
  | .cell p => (true, musterFence p.toNat s)
  | .block g => (true, failBlock g.toNat s)
  | .bells r | .xlate r => (true, bar r.toNat s)
  | .square n u => (true, { s with flt := { s.flt with badUnits := s.flt.badUnits ++ [16 * n.toNat + u.toNat] } })
  | .training n => (true, raiseStackFault n.toNat s)
  | .row st la =>
    let s := rowFails s st.toNat la.toNat 0 false
    let r := (sGet {} s.mem.rows (rowKey st.toNat la.toNat)).state
    (decide (r ≠ .remapped1 ∧ r ≠ .remapped2), s)
  | .engine k => (true, { s with flt := { s.flt with badEngines := s.flt.badEngines ++ [k.toNat] } })
  | .link l => (true, { s with flt := { s.flt with linksDown := s.flt.linksDown ++ [l.toNat] } })
  | .hall => (true, { s with flt := { s.flt with unparkBarred := true } })

/-- What the failure of a logic instance brings about. -/
def logicFailure (k i : Nat) (s : State) : State :=
  (match k with
    | 1 | 2 => (true, musterFence (if k = 2 then i / 4 else i) s)
    | 3 => memFailure (.block (BitVec.ofNat 8 i)) s
    | 4 => memFailure (.bells (BitVec.ofNat 2 i)) s
    | 5 => memFailure (.training (BitVec.ofNat 3 i)) s
    | 6 => memFailure (.engine (BitVec.ofNat 3 i)) s
    | 7 => memFailure (.link (BitVec.ofNat 3 i)) s
    | _ => memFailure .hall s).2

/-! ### The end of a run (R577, R581) -/

/-- Tested memories hold zero. -/
def zeroTested (kind id : Nat) (s : State) : State :=
  let s := (scopeCells kind id).foldl (fun s p => updCell s p (fun x =>
    { x with store := [], imem := [], acc := [], units := { x.units with bufs := [] } })) s
  let s := (scopeBlocks kind id).foldl (fun s g => updBlk s g (fun b => { b with store := [] })) s
  let s := if kind = 2 then { s with sync := { s.sync with bells := sClear s.sync.bells (16384 * id) (16384 * (id + 1)) } } else s
  if kind = 3 then
    { s with mem := { s.mem with
        scratch := sClear s.mem.scratch (2 ^ 27 * id) (2 ^ 27 * (id + 1))
        cache := sClear s.mem.cache (cacheKey id 0 0) (cacheKey (id + 1) 0 0) } }
  else s

/-- The carve-out copies that a run kept out of use are rewritten. -/
def musterCopies (kind id : Nat) (s : State) : State :=
  [0, 4].foldl (fun s n =>
    if (kind, id) = (2, n / 2) ∨ (kind, id) = (3, n) ∨ (kind, id) = (5, 4 + n / 2) then rewriteCopy n s else s) s

/-- Ports that a run took down train again, with AUTO_RETRAIN. -/
def retrainPorts (kind id : Nat) (s : State) : State :=
  (scopePorts kind id).foldl (fun s p =>
    if portEnabled s p && (portAt s p).state == 3 && lnkCtl s p 2 2 == 1 && !engineOut s (p / 4) then
      updPort p (fun t => t.fresh 1 s.cycle) s
    else s) s

/-- The region of a stop or port, by the key of R251's counts. -/
def stopRegion (k : Nat) : Nat := if k < 256 then k / 64 else (k - 256) / 32

/-- What a pass returns to service: unit kinds by SCOPE_KIND, and quarantined scopes as 8 + SCOPE_KIND. -/
def returned (s : State) (kind id : Nat) (before : List Nat) : List (Nat × Nat) :=
  let cells := ((scopeCells kind id).filter (fun p => before.contains (2 ^ 40 + p))).map (fun p => (0, p))
  let blocks := ((scopeBlocks kind id).filter (fun g => decide ((blk s g).health = .failed))).map (fun g => (1, g))
  let stops : Bool := s.flt.failedStops.any (fun e => stopRegion e.1 == id)
  let own := match kind with
    | 2 => if s.flt.barred.contains id || stops || s.flt.linksDown.any (fun l => (linkEnds l).contains id) then [(2, id)] else []
    | 3 => if (dieAt s id).state = 2 then [(3, id)] else []
    | 4 => if s.flt.badEngines.contains id then [(4, id)] else []
    | 5 => if s.flt.linksDown.contains id then [(5, id)] else []
    | 6 => if s.flt.unparkBarred then [(6, 0)] else []
    | _ => []
  let inScope (q : Nat × Nat) : Bool :=
    match q.1 with
    | 0 => (scopeCells kind id).contains (scopeCell s q.2)
    | 1 => (scopeBlocks kind id).contains q.2
    | k => k == kind && q.2 == id
  let quar := (s.flt.quarantined.filter (fun q => inScope q && before.contains (q.1 * 65536 + q.2))).map (fun q => (8 + q.1, q.2))
  cells ++ blocks ++ own ++ quar

/-- Two instances in ascending kind and number. -/
def instBefore (a b : Nat × Nat × Nat) : Bool := decide (a.1 < b.1) || (a.1 == b.1 && decide (a.2.1 ≤ b.2.1))

/-- A run ends: its effects, and the detail words of its reply. -/
def musterEnds (kind id tests : Nat) (before : List Nat) (r : MusterResult) (s : State) : List Nat × State :=
  let doLogic : Bool := tests % 2 == 1
  let doMem : Bool := tests / 2 % 2 == 1
  let repair : Bool := tests / 4 % 2 == 1
  let logic := if doLogic then r.logic.filter (fun e => e.1 != 2 && scopeHolds kind id e.1 e.2.1 && e.2.2.toNat != goldenOf s e.1) else []
  let arrays := if doLogic then r.arrays.filter (fun a => scopeHolds kind id 2 a.arr.toNat && a.sig.toNat != goldenOf s 2) else []
  let mems := r.mems.filter (fun m => scopeHoldsMem kind id m &&
    (match m with | .training _ => doLogic | _ => doMem))
  let failing := (logic.map (fun (e : Nat × Nat × BitVec 64) => (e.1, e.2.1, e.2.2.toNat)) ++ arrays.map (fun (a : MusterArray) => (2, a.arr.toNat, a.sig.toNat))).mergeSort instBefore
  let mapFor (s : State) (a : MusterArray) : Option (Nat × Nat) := repairMap (sGet {} (cellAt s (a.arr.toNat / 4)).arrays (a.arr.toNat % 4)) a
  let mended := if repair then arrays.filter (fun a => (mapFor s a).isSome) else []
  let stuck := arrays.filter (fun a => (mapFor s a).isNone)
  let s1 := mended.foldl (fun s a => match mapFor s a with | some m => setMap a.arr.toNat m s | none => s) s
  let s1 := stuck.foldl (fun s a => logicFailure 2 a.arr.toNat s) (logic.foldl (fun s e => logicFailure e.1 e.2.1 s) s1)
  let ms := mems.foldl (fun a m => let x := memFailure m a.2; (a.1 || x.1, x.2)) (false, s1)
  let pass : Bool := logic.isEmpty && decide (mended.length = arrays.length) && !ms.1
  let back := if pass && doLogic && doMem then returned ms.2 kind id before else []
  let s2 := { ms.2 with flt := { ms.2.flt with restores := ms.2.flt.restores ++ back } }
  let s2 := retrainPorts kind id (musterCopies kind id (if doMem then zeroTested kind id s2 else s2))
  let bit (i : Nat) (b : Bool) : Nat := if b then 2 ^ i else 0
  let d0 := bit 0 pass + bit 1 (!failing.isEmpty) + bit 2 (!mems.isEmpty) +
    bit 3 (repair && (!logic.isEmpty || !stuck.isEmpty || ms.1)) + bit 4 (!mended.isEmpty) + bit 5 (!back.isEmpty) +
    2 ^ 16 * min (failing.length + mems.length) 0xFFFF + 2 ^ 32 * min r.time.toNat (2 ^ 32 - 1)
  match failing with
  | f :: _ => ([d0, f.2.2, goldenOf s f.1, f.1 * 2 ^ 16 + f.2.1], s2)
  | [] =>
    let f := firstInstance kind id
    let g := goldenOf s f.1
    let d3 := f.1 * 2 ^ 16 + f.2
    if doLogic then ([d0, g, g, d3], s2)
    else
      -- without the logic test there is no signature to report
      let v := takeFree s2
      ([d0, v.1 % 2 ^ 64, g, d3], v.2)

def execMusterRunDone (r : MusterResult) (s : State) : Host.Outcome State Fault Refusal :=
  .next (match s.jobs.find? (fun j => j.opcode == 0x0701) with
    | none => s
    | some j =>
      let e := musterEnds (j.field 0 1) (j.vals.headD 0) (j.field 1 1) (j.vals.drop 1) r (dropJob j.id s)
      flushOut (endJob j stOk s.beat.gnum e.1 e.2))

/-! ### Return to service (R252, R503, R583, R584) -/

/-- A return to service is logged as a REPAIR record that names the unit's DEGRADED entry. -/
def logReturn (strct unit : Nat) (note : List Nat) (s : State) : State :=
  let id := tallyId 0x08 strct unit
  let f := freeDetail (tallyGauge s 0x08 strct unit 0)
  noteLast note (logAppend f.2 4 0 (natLe 8 0 ++ natLe 8 id ++ natLe 8 0 ++ [2#8] ++ f.1.drop 1 ++ natLe 8 0))

/-- The health of a block from the roles that are filled. -/
def healthOf (b : Block) : BlockHealth :=
  if b.lost15 then .degraded else if b.spare.isSome && b.awaiting.isEmpty then .healthy else .committed

/-- A cell returns in the first vacant role of its block: logical cell 15 of a degraded block, else the spare, else in a
block out of partitions a number that awaits takeover. -/
def returnRole (b : Block) (i : Nat) : Block :=
  if b.lost15 then { b with pos := sSet 0 b.pos 15 (i + 1), lost15 := false, awaiting := b.awaiting.filter (fun l => l % 16 != 15) }
  else if b.spare.isNone then { b with spare := some i }
  else match b.awaiting with
    | l :: t => { b with pos := sSet 0 b.pos (l % 16) (i + 1), awaiting := t }
    | [] => b

/-- A fenced cell returns. -/
def returnCell (p : Nat) (s : State) : State :=
  let s := updBlk s (p / 17) (fun b =>
    let b := returnRole b (p % 17)
    { b with health := if b.health = .failed then .failed else healthOf b })
  let s := updCell s p (fun x => { x with fenced := false })
  let s := if decide ((blk s (p / 17)).health = .healthy) || decide ((blk s (p / 17)).health = .committed) then
    tallyGauge s 0x08 0x06 (p / 17) 0 else s
  logReturn 0x05 p [p] s

/-- A cell waits for its role while a takeover of its block is outstanding, unless the block is out of partitions. -/
def roleVacant (s : State) (p : Nat) : Bool :=
  let b := blk s (p / 17)
  decide (b.health = .failed) || (b.awaiting.filter (fun l => l % 16 != 15 || !b.lost15)).isEmpty

/-- A region's pass: its failed stops, and ring links of which the other end region has passed too. -/
def returnRegion (r : Nat) (s : State) : State :=
  let ends := (s.flt.linksDown.filter (fun l => decide (l < 4) && (linkEnds l).contains r)).map (fun l => 4 * l + r)
  let passed := distinct (s.flt.endsPassed ++ ends)
  let up : Nat → Bool := fun l => decide (l < 4) && (linkEnds l).all (fun e => passed.contains (4 * l + e))
  { s with flt := { s.flt with
      barred := s.flt.barred.filter (fun x => x != r)
      failedStops := s.flt.failedStops.filter (fun e => stopRegion e.1 != r)
      linksDown := s.flt.linksDown.filter (fun l => !up l)
      endsPassed := passed.filter (fun v => !up (v / 4)) } }

/-- One unit returns to service, if it may now. -/
def returnUnit (u : Nat × Nat) (s : State) : State :=
  match u.1 with
  | 0 => returnCell u.2 s
  | 1 =>
    let s := { s with flt := { s.flt with failedStops := s.flt.failedStops.filter (fun e => e.1 != u.2) } }
    logReturn 0x06 u.2 [] (updBlk s u.2 (fun b => { b with health := healthOf b }))
  | 2 => returnRegion u.2 s
  | 3 => updDie s u.2 (fun d => { d with state := 1 })
  | 4 => retrainPorts 4 u.2 { s with flt := { s.flt with badEngines := s.flt.badEngines.filter (fun k => k != u.2) } }
  | 5 => { s with flt := { s.flt with linksDown := s.flt.linksDown.filter (fun l => l != u.2) } }
  | 6 => { s with flt := { s.flt with unparkBarred := false } }
  | k =>
    let s := { s with flt := { s.flt with quarantined := s.flt.quarantined.filter (fun q => q != (k - 8, u.2)) } }
    retrainPorts (k - 8) u.2 s

/-- The returns of action 2. -/
def applyReturns (s : State) : State :=
  let due := s.flt.restores
  due.foldl (fun s u =>
    if u.1 = 0 ∧ roleVacant s u.2 = false then { s with flt := { s.flt with restores := s.flt.restores ++ [u] } }
    else returnUnit u s) { s with flt := { s.flt with restores := [] } }

end Sys2Proof.Machine
end

