-- ==== Sys2Proof/Machine/Boundary.lean ====
section
/-! DEFINITION. The beat boundary: what happens at the guard point, the actions of R30 in their order, and the opening of the
next beat (R30, R31, R45 to R52, R56, R59, R63 to R67, R72, R82, R166, R191, R315, R326 to R334, R340, R357, R383 to R389,
R437, R449, R450, R496 to R500). -/

namespace Sys2Proof.Machine

/-- The number of the beat that the boundary opens. -/
def nextBeat (s : State) : Nat := s.beat.gnum + 1

/-! ### At the guard point (R56, R59, R65) -/

/-- A time of the clock on the timebase, in whole ns. -/
def cycleNs (s : State) (cycle : Nat) : Nat := (timebaseAt s cycle / 65536).toNat

/-- FLT_BEAT_OVERRUN, once for a partition, in its first cell that has not yielded (R493). -/
def raiseOverrun (c : Nat) (s : State) : State :=
  match notYielded s c with
  | [] => s
  | l :: rest =>
    let f : FaultRec := {
      code := 0x0130, pc := (cellAt s (physOf s l)).seq.pc % 65536, unit := (ctxAt s c).run.frame
      arg := rest.length + 1, d2 := cycleNs s s.beat.deadline }
    raiseCellFault f l (tallyAdd (updBeat (fun b => { b with overruns := satAdd 64 b.overruns 1 }) s) 0x43 0x20 c 1)

/-- A follower in the step's last beat has no LEN_SET for the next one; it goes by its own ADAPT_EN (DESIGN CHOICE). -/
def lenSetMissed (s : State) : Bool :=
  beatRole s == 2 && !s.beat.joining && regField s aBeatCtl 41 41 == 1 && inLastBeat s &&
    !s.beat.changes.any (fun c => c.effective == nextBeat s)

def guardChecks (s : State) : State :=
  let s := (unparked s).foldl (fun s c => raiseOverrun c s) s
  if lenSetMissed s then raiseBeatAlign s else s

/-! ### 1: the beat closes (R49, R52, R64, R191) -/

/-- The cells of a partition that count as yielded, each with the cycles from the beat's opening (R46, R48). -/
def yields (s : State) (c : Nat) : List (Nat × Nat) :=
  if (ctxAt s c).run.inFrame then
    (partCells s c).filterMap (fun l =>
      let q := (cellAt s (physOf s l)).seq
      if q.yielded then some (l, q.yieldedAt - s.beat.openAt) else none)
  else (partCells s c).map (fun l => (l, 0))

/-- A partition is closed: every one of its cells has yielded. -/
def partitionClosed (s : State) (c : Nat) : Bool := (yields s c).length == (partCells s c).length

/-- LAST_YIELD and LAST_CELL. Which of several cells yielded last in one cycle, and what stands there when none did, the spec
does not say: free values. -/
def lastYield (s : State) (c : Nat) : Nat × Nat × State :=
  let ys := yields s c
  let t := largest (ys.map (fun y => y.2))
  match ys.filter (fun y => y.2 == t) with
  | [] => let f := takeFree s; let g := takeFree f.2; (f.1, g.1, g.2)
  | [y] => (t, y.1, s)
  | ties => let f := takeFree s; (t, (ties.getD (f.1 % ties.length) (0, 0)).1, f.2)

/-- The stall cycles of a cell in the beat, which depend on timing that the model leaves out: free values. The answer holds
the largest port and ring stalls so far. -/
def countStalls (a : Nat × Nat × State) (l : Nat) : Nat × Nat × State :=
  let port := takeFree a.2.2
  let ring := takeFree port.2
  let wait := takeFree ring.2
  (max a.1 port.1, max a.2.1 ring.1, updCell wait.2 (physOf a.2.2 l) (fun x => { x with cnt := { x.cnt with
    portStall := satAdd 64 x.cnt.portStall port.1
    ringStall := satAdd 64 x.cnt.ringStall ring.1
    vecAccWait := satAdd 64 x.cnt.vecAccWait wait.1 } }))

/-- The 64 bytes of a beat record. -/
def beatRecord (s : State) (c events flags last cell overs port ring : Nat) : List Byte :=
  let r := (ctxAt s c).run
  let b := natLe 8 s.beat.gnum ++ natLe 8 s.beat.count ++ natLe 2 c ++ natLe 2 (if r.inFrame then r.frame else 0xFFFF) ++
    natLe 2 events ++ natLe 1 s.beat.k ++ natLe 1 0 ++ natLe 4 flags ++ natLe 4 last ++ natLe 2 cell ++ natLe 2 overs ++
    natLe 4 port ++ natLe 4 ring ++ natLe 16 0
  b ++ natLe 4 (crc32c b)

/-- A record goes to a context's beat record ring (R321). -/
def putBeatRecord (c : Nat) (bs : List Byte) (s : State) : State :=
  let x := ctxAt s c
  if x.desc.beatSlots = 0 then s
  else
    let s := poke s (x.desc.beatRing + 64 * (x.kept.beatCount % x.desc.beatSlots)) bs
    updKept s c (fun k => { k with beatCount := satAdd 64 k.beatCount 1 })

/-- A context ran a frame in the beat. -/
def countRun (c : Nat) (s : State) : State :=
  let k := (ctxAt s c).kept
  let carry : Nat := if k.runBeats = 2 ^ 64 - 1 then 2 else 0
  tallyAdd (updKept s c (fun k => { k with runBeats := satAdd 64 k.runBeats 1, acct := k.acct ||| carry })) 0x45 0x20 c 1

/-- The ring report of a cell (R191). -/
def ringReport (x : Cell) : List Byte :=
  (List.range 8).flatMap (fun r => natLe 1 (ringAt x r).hwmBeat) ++ (List.range 8).flatMap (fun r => natLe 1 (ringAt x r).hwmStep)

def reportRings (c : Nat) (s : State) : State :=
  let a := (ctxAt s c).desc.ringReport
  if a = 0 then s
  else (partCells s c).foldl (fun s l => poke s (a + 16 * partNumber s c l) (ringReport (cellAt s (physOf s l)))) s

/-- The pacing context ran a frame other than the last of its step: the beat joins the window (R63, R64). -/
def closeWindowBeat (c last : Nat) (s : State) : State :=
  let r := (ctxAt s c).run
  if c ≠ paceCtx s ∨ r.inFrame = false ∨ r.step.isNone = true ∨ r.flags % 2 = 1 then s
  else
    let slack := if s.beat.k ≠ 0 then 0 else guardPoint s - (s.beat.openAt + last)
    updBeat (fun b => { b with
      winBeats := b.winBeats + 1, winStretched := b.winStretched + (if b.k ≠ 0 then 1 else 0)
      winSlack := some (match b.winSlack with | some v => min v slack | none => slack) }) s

/-- The window's last beat closes: a follower sends SLACK to the leader (R64). -/
def sendSlack (s : State) : State :=
  let c := paceCtx s
  let x := ctxAt s c
  let b := s.beat
  let next : Bool := x.st == .unparked && x.run.inFrame && x.run.step.isSome && x.run.flags % 2 == 0 &&
    frameFlags s (planOf x) (x.run.frame + 1) % 2 == 1
  match b.leader with
  | some n =>
    if beatRole s = 2 ∧ b.joining = false ∧ next = true then
      sendCtl n 0 2 (beatMsg s 6 (natLe 4 (b.winSlack.getD 0 / 3) ++ natLe 2 b.winStretched ++ natLe 2 b.winBeats ++
        natLe 8 b.winFirst ++ natLe 2 (planFloor s))) s
    else s
  | none => s

/-- One partition closes: its record, its counts and its ring report. `over` counts the cells that overran. -/
def closePartition (early : Bool) (overs c : Nat) (s : State) : State :=
  let x := ctxAt s c
  let bit (b : Bool) (n : Nat) : Nat := if b then n else 0
  let stretched : Bool := s.beat.k != 0
  let flags := (flagsOr ((partCells s c).map (fun l => (cellAt s (physOf s l)).flags))).toNat
  let stalls := if x.run.inFrame then (partCells s c).foldl countStalls (0, 0, s) else (0, 0, s)
  let y := lastYield stalls.2.2 c
  let s := y.2.2
  let events := bit stretched 1 + bit (overs != 0) 2 + bit early 4 + bit (x.run.inFrame && x.run.flags % 2 == 1) 8
  let s := if stretched ∨ overs ≠ 0 ∨ flags ≠ 0 ∨ x.desc.mode / 8 % 2 = 1 then
      putBeatRecord c (beatRecord s c events flags y.1 y.2.1 overs stalls.1 stalls.2.1) s
    else s
  let s := if x.run.inFrame then countRun c s else s
  let s := if stretched then tallyAdd s 0x44 0x20 c 1 else s
  updRun (reportRings c (closeWindowBeat c y.1 s)) c (fun r => { r with ranFrame := r.inFrame })

/-- A ring as the next beat finds it: its mark starts from what it holds. -/
def Ring.nextBeat (g : Ring) : Ring := { g with hwmLast := g.hwmBeat, hwmBeat := g.filled.length }

/-- What a beat leaves in a cell: no program counter, loop stack, queue or tile buffer, and no flags (R49, R157, R206). -/
def Cell.closed (x : Cell) : Cell :=
  { x with seq := { passSerial := x.seq.passSerial }, units := {}, flags := 0#8
           rings := x.rings.map (fun (e : Nat × Ring) => (e.1, e.2.nextBeat)) }

/-- Requests held for a collective that never issued are discarded at the end of the beat they name (R437). -/
def dropHeld (s : State) : State :=
  let late (e : Nat × InMsg) : Bool := decide ((CollHead.ofBytes e.2.bytes).gnum ≤ s.beat.gnum)
  let s := (s.gate.held.filter late).foldl (fun s e =>
    gateCount (parRegion s e.1) (fun g => { g with held := satAdd 64 g.held 1 }) s) s
  { s with gate := { s.gate with held := s.gate.held.filter (fun e => !late e) } }

/-- The control registers whose writes take effect at a boundary (R156, R197, R232, R297, R318, R428, R457, R572). -/
def boundaryRegs : List Nat :=
  [aBellCtl, aPwrCtl] ++ [aGateCtl, aArrCtl, aCellCtl, aVecCtl].flatMap (fun a => (List.range 4).map (regInst a)) ++
    [aSqCtl, aLnkCtl].flatMap (fun a => (List.range 8).map (regInst a))

/-- Commands whose settings take effect at the boundary end (R480, R565, R566). -/
def settleSettings (s : State) : State :=
  let due := s.jobs.filter (fun j => [0x0501, 0x0502, 0x0901, 0x0902].contains j.opcode && decide (j.at_ ≤ nextBeat s))
  let s := due.foldl (fun s j =>
    let s := match j.opcode with
      | 0x0901 => setField s aPwrCtl 11 0 (j.vals.headD 0)
      | 0x0902 => updCtx s j.ctx (fun x => { x with desc := { x.desc with power := putBits x.desc.power 7 0 (j.vals.headD 0) } })
      | _ => s
    endJob j stOk (nextBeat s) [] s) s
  boundaryRegs.foldl (fun s a => regEffSet s a (regGet s a)) s

/-- Action 1. `overs` counts for each context the cells that had not yielded at the final guard point. -/
def closeBeat (early : Bool) (overs : List (Nat × Nat)) (s : State) : State :=
  let s := (unparked s).foldl (fun s c =>
    closePartition early (((overs.find? (fun e => e.1 == c)).map (fun e => e.2)).getD 0) c s) s
  let s := sendSlack s
  let cells := (s.cells.map (fun (e : Nat × Cell) => (e.1, e.2.closed))).filter (fun e => decide (e.2 ≠ ({} : Cell)))
  let dies := (s.mem.dies.map (fun (e : Nat × Die) => (e.1, { e.2 with ueBanks := [] }))).filter (fun e => decide (e.2 ≠ ({} : Die)))
  let s := { s with cells := cells, mem := { s.mem with dies := dies }, flt := { s.flt with replays := [] } }
  let s := updBeat (fun b => { b with stretched := satAdd 64 b.stretched (if b.k ≠ 0 then 1 else 0), quanta := satAdd 64 b.quanta b.k }) s
  let ctxs := s.ctxs.map (fun (e : Nat × Ctx) => (e.1, { e.2 with run := { e.2.run with inFrame := false } }))
  dropHeld { s with ctxs := ctxs.filter (fun e => decide (e.2 ≠ ({} : Ctx))) }

/-! ### 2: fences, spare lanes, FEC modes, ports (R399, R401, R422, R499) -/

/-- The cells that are to be fenced are fenced. -/
def applyFences (s : State) : State :=
  s.flt.fences.foldl (fun s e =>
    if (cellAt s e.1).fenced then s
    else logAppend (tallyGauge (applyFence e.1 s) 0x08 0x05 e.1 1) 6 0 (natLe 2 e.1 ++ natLe 2 e.2.1 ++ natLe 2 e.2.2 ++ natLe 10 0))
    { s with flt := { s.flt with fences := [] } }

/-- What the spare of a direction carries after a switch: the lane plus one, and whether it is only borrowed. -/
def SpareSwitch.result (w : SpareSwitch) : Nat × Bool := if w.action = 2 then (0, false) else (w.lane + 1, w.action == 3)

/-- A switch-in is counted at its engine, and in the Tally with its record. -/
def countSpare (k : Nat) (w : SpareSwitch) (s : State) : State :=
  if w.action = 2 then s
  else
    let p := 4 * k + w.lane / 4
    let s := tallyAdd (updEngine k (fun e => { e with spares := satAdd 64 e.spares 1 }) s) 0x04 0x11 p 1
    logRepair s 3 (tallyId 0x04 0x11 p) 0

/-- The switches of an engine that are due; one that the far end has not acknowledged is asked for again. -/
def switchLanes (k : Nat) (s : State) : State :=
  let s := match (engineAt s k).switchTx with
    | some w =>
      if w.at_ ≤ nextBeat s then
        countSpare k w (updEngine k (fun e => { e with spareTx := w.result.1, lentTx := w.result.2, switchTx := none }) s)
      else s
    | none => s
  match (engineAt s k).switchRx with
  | some w =>
    if nextBeat s < w.at_ then s
    else if !w.acked then askSpare k w.lane w.action s
    else
      let s := countSpare k w (updEngine k (fun e => { e with spareRx := w.result.1, lentRx := w.result.2, switchRx := none }) s)
      let s := match s.jobs.find? (fun j => j.opcode == 0x0503 && j.field 0 1 == k && j.field 1 1 == w.action && j.field 2 1 == w.lane) with
        | some j => endJob j stOk (nextBeat s) [] s
        | none => s
      if w.action = 3 then
        match marginJob s k with
        | some j => updJob j.id (fun j => { j with phase := 1 }) s
        | none => s
      else s
  | none => s

/-- A port takes the FEC mode that is due; one that has trained comes up. -/
def settlePort (p : Nat) (s : State) : State :=
  let t := portAt s p
  let s := match t.nextReach with
    | some r =>
      let s := updPort p (fun t => { t with reach := r, nextReach := none, quiet := 0 }) s
      if r = t.reach then s
      else
        let s := updEngine (p / 4) (fun e => { e with fecSwitches := satAdd 64 e.fecSwitches 1 }) s
        logRepair (tallyAdd s 0x18 0x11 p 1) 4 (tallyId 0x18 0x11 p) 0
    | none => s
  if t.state = 1 ∧ t.phase = 7 then pump p (updPort p (fun t => { t with state := 2, phase := 0 }) s) else s

/-- Action 2, with the units and scopes that leave service or return to it (R485, R503, R583). -/
def settleUnits (s : State) : State :=
  let s := applyReturns (endUrgent (applyFences s))
  let s := (List.range 8).foldl (fun s k => switchLanes k s) s
  (List.range 32).foldl (fun s p => settlePort p s) s

/-! ### 3: commit flips (R341, R342, R386 to R389, R449 to R451) -/

/-- A flip of a context: a snapshot whose copy is not done is torn, and one that waits for the step starts. -/
def flipSnapshots (c t : Nat) (s : State) : State :=
  (jobsOf s 0x0605 c).foldl (fun s j =>
    if j.phase = 1 then endJob j stSnapshotTorn (nextBeat s) [] s
    else if j.phase = 0 ∧ j.field 0 8 = t then updJob j.id (fun j => { j with phase := 1, vals := [t] }) s
    else s) s

/-- CB turns and STEP becomes t. -/
def flip (c t : Nat) (s : State) : State :=
  let s := updAlm c (fun a => { a with cb := 1 - a.cb, step := t, lastFlip := nextBeat s, upd := 0, passSince := false }) s
  flipSnapshots c t (writeAlmanac c (regCount aAlmCommits 1 s))

/-- The committed area of coded state turns with a refresh, and CSTEP becomes t. -/
def flipCode (c t : Nat) (s : State) : State :=
  updCode c (fun d => { d with
    ccb := 1 - d.ccb, before := d.cstep, validBefore := d.valid, cstep := t, valid := true, ready := false }) s

/-- FLT_UPDATE_LATE or FLT_UPDATE_DOUBT of a context (R391). -/
def raiseUpdate (code c : Nat) (s : State) : State := raiseFault { code := code } [c] s

/-- An update window closes; the answer is the status of the step and whether a flip took place. -/
def closeUpdate (c : Nat) (s : State) : Nat × Bool × State :=
  let s := updateDeadline c s
  match (ctxAt s c).upd with
  | none => (stOk, false, s)
  | some u =>
    let drop (s : State) : State := updCtx s c (fun x => { x with upd := none })
    let quiet (s : State) : State :=
      regCount aAlmAborts 1 (writeAlmanac c (updCode c (fun d => { d with op := d.op.filter (fun o => o.job.isSome) })
        (updAlm c (fun a => { a with upd := 0 }) (drop s))))
    if u.commit then
      let s := updAlm c (fun a => { a with refreshed := u.refresh }) (drop s)
      (stOk, true, flip c u.t (if u.refresh then flipCode c u.t s else s))
    else match u.abort with
      | some 1 => (stUpdateNonfinite, false, quiet s)
      | some _ => (stFaulted, false, quiet s)
      | none =>
        if u.doneSent then
          let s := updAlm c (fun a => { a with upd := 4, refreshed := u.refresh }) (drop s)
          (stFaulted, false, raiseUpdate 0x030B c (regCount aAlmDoubts 1 (regCount aAlmAborts 1 (writeAlmanac c s))))
        else (stFaulted, false, raiseUpdate 0x030A c (quiet s))

/-- The fused pass of a context has ended on every Mill: it flips, or it is discarded. -/
def closeFused (c : Nat) (s : State) : State :=
  let x := ctxAt s c
  match x.upd, jobsOf s 0x0304 c with
  | some u, j :: _ =>
    if u.fused = false ∨ u.mills ≠ [] then s
    else
      let s := updCtx s c (fun x => { x with upd := none })
      match u.abort with
      | some _ =>
        let s := writeAlmanac c (updAlm c (fun a => { a with upd := 0 }) s)
        endJob j stUpdateNonfinite (nextBeat s) [x.alm.step] s
      | none =>
        let t := if u.apply_ then u.t else x.alm.step
        let s := flip c t (updAlm c (fun a => { a with refreshed := false }) s)
        let s := if u.apply_ && x.code.valid && decide (t - x.code.cstep ≥ x.code.n) then clearValid c s else s
        endJob j stOk (nextBeat s) [t] s
  | _, _ => s

/-- STEP_RESOLVE FORWARD or DISCARD. -/
def applyResolve (j : Job) (s : State) : State :=
  let c := j.ctx
  let a := (ctxAt s c).alm
  let s :=
    if a.upd ≠ 4 then s
    else if j.field 0 1 = 1 then flip c (a.step + 1) (if a.refreshed then flipCode c (a.step + 1) s else s)
    else writeAlmanac c (updAlm c (fun a => { a with upd := 0, refreshed := false }) s)
  endJob j stOk (nextBeat s) [(ctxAt s c).alm.step] s

/-- CODE_COMMIT. -/
def applyCodeCommit (j : Job) (s : State) : State :=
  let x := ctxAt s j.ctx
  if x.code.ready = false then endJobWith j stCodeStale (nextBeat s) [] [] false s
  else endJob j stOk (nextBeat s) [x.alm.step] (flipCode j.ctx x.alm.step s)

/-! ### Steps (R45, R383, R496) -/

/-- The update window opens after frame UPD_FRAME: pass A starts on every Mill. -/
def openUpdate (c : Nat) (j : Job) (s : State) : State :=
  let blk := j.data.take 512
  let t := (ctxAt s c).alm.step + 1
  let u : Update := { t := t, frame := j.field 0x0A 2, blk := blk, grp := j.data.drop 512, mills := List.range 8 }
  updAlm c (fun a => { a with upd := 1, passSince := true, sched := schedule blk t }) (updCtx s c (fun x => { x with upd := some u }))

/-- The closed frame of a context's step: it ends the step, opens the window, or is followed by the next. `status` and
`flipped` say how the window closed. -/
def afterFrame (c status : Nat) (flipped : Bool) (s : State) : State :=
  let x := ctxAt s c
  let r := x.run
  let plan := planOf x
  let job := r.step.bind (jobById s)
  if r.step.isNone ∨ r.ranFrame = false then s
  else if stepEnd s plan r.frame = r.frame then
    let s := match job with
      | some j => endJob j status (if flipped then nextBeat s else s.beat.gnum) [x.alm.step] s
      | none => s
    skipStep c s
  else
    let s := match job with
      | some j => if j.field 8 2 = 1 ∧ j.field 0x0A 2 = r.frame then openUpdate c j s else s
      | none => s
    updRun s c (fun r => { r with frame := r.frame + 1 })

/-- Commands that own work of a context (R497). -/
def workOps : List Nat := [0x0301, 0x0303, 0x0304, 0x0602, 0x0604, 0x0605]

/-- A command ends with its context's work. -/
def endWork (j : Job) (s : State) : State :=
  let s := if j.opcode = 0x0303 then freeItems j.ctx (reshardItems s j.ctx) s else s
  let s := { s with oz := { s.oz with xfers := s.oz.xfers.filter (fun x => x.job != j.id) } }
  endJob j stFaulted (nextBeat s) (if j.opcode = 0x0301 ∨ j.opcode = 0x0304 then [(ctxAt s j.ctx).alm.step] else []) s

/-- The resets of R315 and R357 at a discard, and those of rings (R192). Messages of lines across devices are refused until
the next epoch; operations of the context on their way to the bell stores go. -/
def resetWork (c : Nat) (s : State) : State :=
  let s := resetLines c true (resetBells c s)
  let s := (ctxLineIds (ctxAt s c)).foldl (fun s l => updLine l (fun n => { n with refused := decide (n.members ≥ 2) }) s) s
  let s := clearLanes c (resetResidency c s)
  let s := (partCells s c).foldl (fun s l => updCell s (physOf s l) (fun x => { x with rings := [], handles := [] })) s
  { s with sync := { s.sync with ops := s.sync.ops.filter (fun o => o.ctx != c) } }

/-- The discard boundary of a context: its step ends, its partition is idle, and the commands that owned its work end. -/
def discardBoundary (c : Nat) (s : State) : State :=
  let had := (ctxAt s c).run.step.isSome
  let s := (s.jobs.filter (fun j => j.ctx == c && workOps.contains j.opcode)).foldl (fun s j => endWork j s) s
  let s := updCtx (skipStep c s) c (fun x => { x with upd := none, alm := { x.alm with upd := if x.alm.upd = 4 then 4 else 0 } })
  updRun (resetWork c s) c (fun r => { r with discarding := false, discarded := had })

/-- What the closed beat leaves of one context's step and update: the discard, or the flip and the next frame. -/
def settleStep (discards : List Nat) (c : Nat) (s : State) : State :=
  let x := ctxAt s c
  let open_ : Bool := (match x.upd with | some u => !u.fused | none => false)
  let gone := discards.contains c
  let r := if open_ && (gone || (x.run.ranFrame && x.run.flags % 2 == 1)) then closeUpdate c s else (stOk, false, s)
  if gone then discardBoundary c r.2.2 else afterFrame c r.1 r.2.1 (closeFused c r.2.2)

/-- Action 3, and the ends of steps that come with it. -/
def commitFlips (discards : List Nat) (s : State) : State :=
  let s := (residents s).foldl (fun s c => settleStep discards c s) s
  let s := (s.jobs.filter (fun j => j.opcode == 0x0302)).foldl (fun s j => applyResolve j s) s
  (s.jobs.filter (fun j => j.opcode == 0x0603 && decide (j.at_ ≤ nextBeat s))).foldl (fun s j => applyCodeCommit j s) s

/-! ### 4 to 6: swaps, granaries, length (R77 to R82, R340, R67) -/

/-- The step in progress is abandoned, with no fault record (R82, R327). -/
def abandonStep (c : Nat) (s : State) : State :=
  let s := match (ctxAt s c).run.step.bind (jobById s) with
    | some j => endJob j stStepAbandoned (nextBeat s) [(ctxAt s c).alm.step] s
    | none => s
  updKept (skipStep c s) c (fun k => { k with resume := 0xFFFF })

/-- A swap is due: its boundary has come, and no update window of its context is open where it swaps the plan. -/
def swapDue (s : State) (j : Job) : Bool :=
  j.opcode == 0x0202 && decide (j.at_ ≤ nextBeat s) && !(j.field 0 1 == 0 && (ctxAt s j.ctx).upd.isSome)

/-- One swap; a plan swap abandons the step in progress after a frame that does not end it, and clears the partition's
rings (R82, R192). -/
def swapOne (j : Job) (s : State) : State :=
  let r := (ctxAt s j.ctx).run
  let s :=
    if j.field 0 1 ≠ 0 then s
    else if r.step.isSome ∧ r.ranFrame = true then resetWork j.ctx (abandonStep j.ctx s)
    else (partCells s j.ctx).foldl (fun s l => updCell s (physOf s l) (fun x => { x with rings := [], handles := [] })) s
  applySwap j s

/-- Action 4: device scopes first, then contexts ascending. -/
def applySwaps (s : State) : State :=
  let rank (j : Job) : Nat := if j.field 0 1 ≥ 2 then j.field 0 1 else 8 * (j.ctx + 1) + j.field 0 1
  let due := (s.jobs.filter (swapDue s)).mergeSort (fun a b => decide (rank a ≤ rank b))
  due.foldl (fun s j => swapOne j s) s

/-- The closing beat of a context ended a step or ran no frame. -/
def betweenSteps (s : State) (c : Nat) : Bool :=
  let r := (ctxAt s c).run
  !r.ranFrame || r.flags % 2 == 1

/-- Action 5. -/
def applyGranaries (s : State) : State :=
  (s.jobs.filter (fun j => j.opcode == 0x0108)).foldl (fun s j =>
    if (ctxAt s j.ctx).st = .unparked ∧ betweenSteps s j.ctx = false then s
    else endJob j stOk (nextBeat s) [] (updKept s j.ctx (fun k => { k with gsel := !k.gsel }))) s

/-- Action 6. -/
def applyLength (s : State) : State :=
  let s := applyLen (nextBeat s) s
  (s.jobs.filter (fun j => j.opcode == 0x0203 && decide (j.at_ ≤ nextBeat s))).foldl (fun s j => endJob j stOk j.at_ [] s) s

/-! ### 7: parks, then unparks (R326, R327, R333, R388) -/

/-- A park takes effect at this boundary; inside an update window or a fused pass it waits for the end. -/
def parkDue (s : State) (j : Job) : Bool :=
  let at_ := j.field 0 8
  j.opcode == 0x0102 && j.phase == 0 && (ctxAt s j.ctx).upd.isNone &&
    (if at_ ≠ 0 then decide (at_ ≤ nextBeat s) else j.field 8 4 % 2 == 0 || betweenSteps s j.ctx)

/-- The cache of a context is written back and invalidated on every base die (R278). -/
def flushCaches (c : Nat) (s : State) : State :=
  (List.range 8).foldl (fun s n =>
    { s with mem := { s.mem with cache := sClear s.mem.cache (cacheKey n c 0) (cacheKey n c 0 + 65536) } }) s

/-- A context parks; its save begins. -/
def parkCtx (j : Job) (s : State) : State :=
  let c := j.ctx
  let s := if (ctxAt s c).run.discarding then discardBoundary c s else s
  let s :=
    if (ctxAt s c).run.step.isNone then updKept s c (fun k => { k with resume := 0xFFFF })
    else if j.field 8 4 / 2 % 2 = 1 then updKept s c (fun k => { k with resume := (ctxAt s c).run.frame })
    else abandonStep c s
  let s := dropKept c (flushCaches c s)
  let s := updCtx s c (fun x => { x with st := .parked, run := { x.run with ranFrame := false, needLoad := false, loadLeft := 0 } })
  writeAlmanac c (updKept (updJob j.id (fun j => { j with phase := 1 }) s) c (fun k => { k with parkGnum := nextBeat s }))

/-- An unpark whose preparation is done takes effect; one that is not ready at its beat fails. -/
def unparkCtx (j : Job) (s : State) : State :=
  let c := j.ctx
  if j.at_ ≠ 0 ∧ nextBeat s < j.at_ then s
  else if j.phase = 1 then
    let x := ctxAt s c
    let mid := x.run.step.isSome ∧ x.kept.resume ≠ 0xFFFF
    let s := updCtx s c (fun x => { x with
      st := .unparked
      run := { x.run with frame := if mid then x.kept.resume else x.run.nextStart, needLoad := true, loadLeft := 0, ranFrame := false }
      kept := { x.kept with resume := 0xFFFF, parkGnum := nextBeat s } })
    endJob j stOk (nextBeat s) [] s
  else if j.at_ ≠ 0 then failUnpark j stCtxLate [] s
  else s

/-- Action 7. -/
def parkAndUnpark (s : State) : State :=
  let s := (s.jobs.filter (parkDue s)).foldl (fun s j => parkCtx j s) s
  (s.jobs.filter (fun j => j.opcode == 0x0103)).foldl (fun s j => unparkCtx j s) s

/-! ### 8: the next beat opens (R45 to R47, R72, R166, R314, R315, R357) -/

/-- The segments of a program image that name a cell. -/
def segmentsOf (s : State) (prog b n : Nat) : List Segment :=
  ((List.range (segmentCount s prog)).map (segmentAt s prog)).filter (fun g =>
    decide (g.first ≤ b) && decide (b ≤ g.last) && g.cells / 2 ^ n % 2 == 1)

/-- The instruction memory of a cell: its segments in table order, and zero elsewhere. -/
def loadedImem (s : State) (prog b n : Nat) : Sparse InsnWord :=
  (segmentsOf s prog b n).foldl (fun m g => sSetAll 0#128 m g.start (segmentWords s prog g)) []

/-- The cells of a partition are loaded. -/
def loadCells (c : Nat) (s : State) : State :=
  let prog := planProg s (planOf (ctxAt s c))
  (partCells s c).foldl (fun s l =>
    let m := loadedImem s prog (partIndex s c (blockOf l)) (l % 16)
    updCell s (physOf s l) (fun x =>
      let arrays := (x.arrays.map (fun (e : Nat × MatrixArray) => (e.1, { e.2 with loader := none }))).filter
        (fun e => decide (e.2 ≠ ({} : MatrixArray)))
      { x with imem := m, arrays := arrays })) s

/-- The bound in cycles on the load of a region: 3,000 and one for each 512 bytes of the segments that name a cell there. -/
def regionLoad (s : State) (c r : Nat) : Nat :=
  let prog := planProg s (planOf (ctxAt s c))
  let here := (partBlocks s c).zipIdx.filter (fun e => e.1 / 64 == r)
  let segs := ((List.range (segmentCount s prog)).map (segmentAt s prog)).filter (fun g =>
    g.cells != 0 && here.any (fun e => decide (g.first ≤ e.2) && decide (e.2 ≤ g.last)))
  3000 + (segs.foldl (fun a g => a + 16 * g.count) 0 + 511) / 512

/-- A load begins: its whole beats, and what CELL_LOAD reports. The cycles that a load takes are not stated below their
bound: a free value. -/
def startLoad (c : Nat) (s : State) : State :=
  let regions := (List.range 4).filter (fun r => blocksIn s c r != 0)
  let most := largest (regions.map (regionLoad s c))
  let beat := (beatLen s - 1) * 3000
  let n := (most + beat - 1) / beat
  let s := regions.foldl (fun s r =>
    let f := takeFree s
    regSet f.2 (regInst aCellLoad r) (BitVec.ofNat 64 (n % 256 * 2 ^ 32 + f.1 % (regionLoad s c r + 1)))) s
  updRun (loadCells c s) c (fun r => { r with needLoad := false, loadLeft := n })

/-- Marks of rings since the step began start from what the rings hold. -/
def restartMarks (c : Nat) (s : State) : State :=
  (partCells s c).foldl (fun s l => updCell s (physOf s l) (fun x =>
    { x with rings := x.rings.map (fun (e : Nat × Ring) => (e.1, { e.2 with hwmStep := e.2.filled.length })) })) s

/-- A step begins: the resets of R315 and R357, the lines' epoch, and the window of adaptation. -/
def startStep (c : Nat) (j : Job) (s : State) : State :=
  let epoch := j.field 0x0C 2
  let s := restartMarks c (clearLanes c (resetResidency c (resetLines c false (resetBells c s))))
  let s := (ctxLineIds (ctxAt s c)).foldl (fun s l =>
    updLine l (fun n => { n with epoch := BitVec.ofNat 16 epoch, refused := false }) s) s
  let s := updRun s c (fun r => { r with
    step := some j.id, frame := r.nextStart, epoch := epoch, firstBeat := s.beat.gnum, discarded := false, lastFault := none })
  if c = paceCtx s then
    updBeat (fun b => { b with winBeats := 0, winStretched := 0, winSlack := none, winFirst := b.gnum, reports := [] }) s
  else s

/-- A frame begins: each active cell issues from its entry point, and the others count as yielded. -/
def runFrame (c : Nat) (s : State) : State :=
  let x := ctxAt s c
  let plan := planOf x
  let f := x.run.frame
  let flags := frameFlags s plan f
  let s := updRun s c (fun r => { r with inFrame := true, flags := flags })
  (partCells s c).foldl (fun s l =>
    let e := cellEntry s plan f (partIndex s c (blockOf l)) (l % 16)
    updCell s (physOf s l) (fun x => { x with seq :=
      if e.1 then { running := true, pc := e.2, passSerial := x.seq.passSerial }
      else { yielded := true, yieldedAt := s.beat.openAt, passSerial := x.seq.passSerial } })) s

/-- The STEP that may begin in the open beat. -/
def dueStep (s : State) (c : Nat) : Option Job := (jobsOf s 0x0301 c).find? (fun j => decide (j.at_ ≤ s.beat.gnum))

/-- One context in the open beat: a load beat, a frame, or idle. -/
def openPartition (c : Nat) (s : State) : State :=
  let s := if (ctxAt s c).run.needLoad then startLoad c s
    else updRun s c (fun r => { r with loadLeft := r.loadLeft - 1 })
  let r := (ctxAt s c).run
  if r.loadLeft ≠ 0 ∨ r.discarding = true then s
  else if r.step.isSome then runFrame c s
  else match dueStep s c with
    | some j => runFrame c (startStep c j s)
    | none => s

/-- Action 8: the beat of the next number opens at a cycle. -/
def openBeat (at_ : Nat) (s : State) : State :=
  let s := { s with cycle := max s.cycle at_ }
  let s := updBeat (fun b => { b with
    count := b.count + 1, gnum := b.gnum + 1, openAt := at_, deadline := at_ + 3000 * beatLen s, k := 0, decided := false }) s
  let s := (unparked s).foldl (fun s c => openPartition c s) s
  if beatRole s ≠ 0 ∧ s.beat.joining = false ∧ syncInt s ≠ 0 ∧ s.beat.gnum % syncInt s = 0 then sendSyncs s else s

/-! ### The rows -/

/-- The actions of R30 from 1 to 7. A fault raised among them has its discard boundary at the next one. -/
def boundaryActions (early : Bool) (s : State) : State :=
  let overs := (unparked s).map (fun c => (c, (notYielded s c).length))
  let s := guardChecks s
  let discards := (residents s).filter (fun c => (ctxAt s c).run.discarding)
  let s := settleUnits (settleSettings (closeBeat early overs s))
  parkAndUnpark (applyLength (applyGranaries (applySwaps (commitFlips discards s))))

/-- Boundaries pass: the device is not in reset and no Muster runs on the Hall (R577). -/
def beatsRun (s : State) : Bool :=
  !s.pins.inReset && (match musterScope s with | some k => k.1 != 6 | none => true)

/-- The guard point of the open beat, the boundary, and the next beat at D. In Safe-Hold the beat alone goes on. -/
def execBeatBoundary (s : State) : Host.Outcome State Fault Refusal :=
  .next (
    if !beatsRun s then s
    else
      let s := { s with cycle := max s.cycle (guardPoint s) }
      if s.flt.safeHold then openBeat s.beat.deadline s
      else
        let s := boundaryActions false (guardActs s)
        flushOut (openBeat s.beat.deadline s))

/-- An early boundary: its beginning stands for the guard point, and the next beat opens when its processing ends, at most
1 µs on: a free value (R51). -/
def execEarlyBoundary (s : State) : Host.Outcome State Fault Refusal :=
  .next (
    if !beatsRun s || s.flt.safeHold || beatRole s != 0 || regField s aBeatCtl 40 40 == 0 || decide (guardPoint s ≤ s.cycle) ||
        !(unparked s).all (partitionClosed s) then s
    else
      let s := boundaryActions true (guardActs s)
      let f := takeFree s
      flushOut (openBeat (f.2.cycle + f.1 % 3001) f.2))

end Sys2Proof.Machine
end

