-- ==== Sys2Proof/Machine/Memory.lean ====
section
/-! DEFINITION. Events of the memories and the ring road: replays, refresh, patrol scrub, repair copies, hPPR, frames and
units (R249 to R251, R271, R274, R286 to R293). -/

namespace Sys2Proof.Machine

/-! ### The ring road (R249, R250) -/

/-- Keys of the replay table for a link and direction: events in the open beat, failures of one flit, and whether a negative
acknowledgement is outstanding. Links 0 to 3 are ring links, 4 to 7 the spokes of regions 0 to 3. -/
def replayKey (link : Nat) (dir : Bool) (what : Nat) : Nat := 3 * (2 * link + (if dir then 1 else 0)) + what

def updReplay (k : Nat) (f : Nat → Nat) (s : State) : State :=
  { s with flt := { s.flt with replays := sUpd 0 s.flt.replays k f } }

/-- A receiver finds a bad CRC or a sequence gap; `again` says that the flit had failed before. -/
def execRingNak (link : BitVec 3) (dir again : Bool) (s : State) : Host.Outcome State Fault Refusal :=
  .next (
    if s.flt.linksDown.contains link.toNat then s
    else
      let s := updReplay (replayKey link.toNat dir 1) (fun n => if again then n + 1 else 1) s
      updReplay (replayKey link.toNat dir 2) (fun _ => 1) s)

/-- A ring link or a spoke is declared down (R251). -/
def linkDown (link : Nat) (s : State) : State :=
  let s := { s with flt := { s.flt with linksDown := s.flt.linksDown ++ [link] } }
  if link < 4 then raiseFault { code := 0x0303, unit := link } (distinct ((linkEnds link).flatMap (holdersInRegion s))) s
  else raiseDeviceFault { code := 0x0401, unit := link - 4 } s

/-- The sender replays from the flit that a negative acknowledgement named; a flit that failed three times, or a fifth
event in a beat, takes the link down. -/
def execRingReplay (link : BitVec 3) (dir : Bool) (e : NetErr) (s : State) : Host.Outcome State Fault Refusal :=
  .next (
    let l := link.toNat
    let unit := 2 * l + (if dir then 1 else 0)
    if sGet 0 s.flt.replays (replayKey l dir 2) = 0 ∨ s.flt.linksDown.contains l = true then netError e s
    else
      let s := updReplay (replayKey l dir 2) (fun _ => 0) (updReplay (replayKey l dir 0) (fun n => n + 1) s)
      let s := tallyAdd s 0x03 0x0F unit 1
      let s := if l < 4 then logRepair s 10 (tallyId 0x03 0x0F unit) 0 else s
      let s := if sGet 0 s.flt.replays (replayKey l dir 1) ≥ 3 ∨ sGet 0 s.flt.replays (replayKey l dir 0) ≥ 5 then
          linkDown l (tallyAdd s 0x19 0x0F unit 1)
        else s
      netError e s)

/-! ### Stacks -/

/-- Per-bank refresh visits a bank: it takes the bank's time and changes nothing that is held (R271). -/
def execRefresh (_stack : BitVec 3) (_pc : BitVec 6) (_bank : BitVec 6) (s : State) : Host.Outcome State Fault Refusal :=
  .next s

/-- The resident contexts that map a frame (R610). -/
def mappers (s : State) (frame : Nat) : List Nat :=
  (residents s).filter (fun c => (ctxAt s c).xlate.any (fun e => e.2.frame == frame))

/-- Lines of a stack. -/
def stackLines : Nat := 96 * 2 ^ 24

/-- FLT_CARVEOUT_UE: both copies of a line are poisoned (R254). -/
def raiseCarveUe (la pa : Nat) (s : State) : State :=
  raiseDeviceFault { code := 0x0402, arg := pa } { s with mem := { s.mem with
    poison := sSet false (sSet false s.mem.poison (hbmKey 0 la / 64) true) (hbmKey 4 la / 64) true } }

/-- A scrub read of a carve-out line finds one copy uncorrectable: it is rewritten from the other, unless that one is
lost as well. -/
def scrubCarve (stack la : Nat) (s : State) : State :=
  let other := 4 - stack
  if sGet false s.mem.poison (hbmKey other la / 64) then raiseCarveUe la (0xBC00000000 + (la - 88 * 2 ^ 30)) s
  else logRepair (hbmPut s stack la (hbmBytes s other la 64)) 9 (tallyId 0x02 0x0C (64 * stack + pcOf la)) 0

/-- Patrol scrub reads its next line of a stack (R286). -/
def execHbmPatrolScrub (stack : BitVec 3) (e : Ecc) (s : State) : Host.Outcome State Fault Refusal :=
  .next (
    let n := stack.toNat
    if effField s (regInst aSqCtl n) 0 0 = 0 then s
    else
      let la := 64 * (dieAt s n).scrubLine
      let s := updDie s n (fun d => { d with scrubLine := (d.scrubLine + 1) % stackLines })
      if sGet false s.mem.poison (hbmKey n la / 64) then s
      else match e with
        | .clean => s
        | .corrected => correctedAt s n la
        | .uncorrectable =>
          let s := uncorrectableAt s n la
          if 88 * 2 ^ 30 ≤ la ∧ n % 4 = 0 then scrubCarve n la s
          else match paOf s n la with
            | some pa => raiseHbmUe n la pa (mappers s (pa / 2 ^ 21)) s
            | none => s)

def rowAt (s : State) (k : Nat) : Row := sGet {} s.mem.rows k

def updRow (k : Nat) (f : Row → Row) (s : State) : State := { s with mem := { s.mem with rows := sUpd {} s.mem.rows k f } }

/-- A repair copy finishes and its slot serves the row (R290). -/
def execRepairCopyDone (stack : BitVec 3) (la : BitVec 37) (s : State) : Host.Outcome State Fault Refusal :=
  .next (
    let k := rowKey stack.toNat la.toNat
    if (rowAt s k).copying then updRow k (fun r => { r with copying := false }) s else s)

/-- A REMAPPED_1 row of an idle stack is converted (R291); `ok` says whether its verification passed. -/
def execHpprConversion (stack : BitVec 3) (la : BitVec 37) (ok : Bool) (s : State) : Host.Outcome State Fault Refusal :=
  .next (
    let n := stack.toNat
    let k := rowKey n la.toNat
    let pc := 64 * n + pcOf la.toNat
    let bank := pcOf la.toNat * 64 + bankOfBlock (la.toNat / 65536)
    let busy := (holdersOfStack s n).any (fun c => decide ((ctxAt s c).st = .unparked))
    if (rowAt s k).state ≠ .remapped1 ∨ (rowAt s k).copying = true ∨ effField s (regInst aSqCtl n) 2 2 = 0 ∨ busy = true ∨
        sGet 0 (dieAt s n).hpprUsed bank ≥ 2 ∨ ok = false then s
    else
      let s := updRow k (fun r => { r with state := .fused, slot := false }) s
      let s := updDie s n (fun d => { d with slots := d.slots - 1, hppr := satAdd 16 d.hppr 1
                                             hpprUsed := sUpd 0 d.hpprUsed bank (fun v => v + 1) })
      noteLast [k, 2] (logRepair (tallyAdd s 0x06 0x0C pc 1) 7 (tallyId 0x06 0x0C pc) 0))

/-- A retiring frame that no resident context maps is retired (R292); the row is one that lies in it. -/
def execFrameRetire (stack : BitVec 3) (la : BitVec 37) (s : State) : Host.Outcome State Fault Refusal :=
  .next (match paOf s stack.toNat la.toNat with
    | none => s
    | some pa =>
      let f := pa / 2 ^ 21
      if sGet false s.mem.retiring f && (mappers s f).isEmpty && decide ((rowAt s (rowKey stack.toNat la.toNat)).state = .retired) then
        retireFrame (updDie s stack.toNat (fun d => { d with pending := d.pending - 1 })) f stack.toNat la.toNat
      else s)

/-- A Square unit finishes clearing (R274). -/
def execSquareClearDone (die : BitVec 3) (unit : BitVec 4) (s : State) : Host.Outcome State Fault Refusal :=
  .next (
    let n := die.toNat
    if !(dieAt s n).clearing.contains unit.toNat then s
    else
      let a := n * 2 ^ 27 + unit.toNat * 2 ^ 23
      updDie { s with mem := { s.mem with scratch := sClear s.mem.scratch a (a + 2 ^ 23) } } n
        (fun d => { d with clearing := d.clearing.filter (fun u => u != unit.toNat) }))

end Sys2Proof.Machine
end

