-- ==== Sys2Proof/Machine/Regs.lean ====
section
/-! DEFINITION. Register accesses: what each register reads as, what a write of it does, and who may make them (R6 to R13,
R83, R84, R155, R156, R197, R198, R232, R233, R297, R318, R392, R428, R429, R440, R457, R462, R488, R530, R555, R556, R572,
R612). -/

namespace Sys2Proof.Machine

/-- A word with the given fields: high bit, low bit, value. -/
def packFields (fs : List (Nat × Nat × Nat)) : Nat := fs.foldl (fun w f => putBits w f.1 f.2.1 f.2.2) 0

/-- A flag bit. -/
def flagBit (b : Bool) : Nat := if b then 1 else 0

/-! ### Windows: registers computed from the state -/

/-- Commands that wait in the queue of a class. -/
def classQueued (s : State) (k : CmdClass) : Nat :=
  (s.oz.queue.filter (fun q => decide (classOf (pktField q.packet 0 2) = k))).length

/-- CMD_STAT and the counts of the ring set that CMD_RING_SEL selects. -/
def cmdWindow (s : State) (off : Nat) : Nat :=
  let r := ringSet s (regField s aCmdRingSel 13 0)
  match off with
  | 0x08 => packFields [(36, 36, flagBit s.oz.running), (35, 27, classQueued s .report), (26, 18, classQueued s .bulk),
      (17, 9, classQueued s .control), (8, 0, classQueued s .urgent)]
  | 0x18 => packFields [(63, 32, r.sqTail), (31, 0, r.sqHead)]
  | 0x20 => packFields [(63, 32, r.uqTail), (31, 0, r.uqHead)]
  | 0x28 => packFields [(63, 32, r.cqTail), (31, 0, r.cqHead)]
  | _ => (regGet s (aCmdDoorbell + off)).toNat

/-- LEN, STRETCH_MAX and NOTICE as last written: those of the last change that a command or write has scheduled and that
waits, or those in force; a follower's are those in force (R13, R84). -/
def lenWritten (s : State) : Nat × Nat × Nat :=
  match (s.beat.changes.filter (fun c => c.byCommand)).getLast? with
  | some c => if beatRole s = 2 then (beatLen s, stretchMax s, beatNotice s) else (c.len, c.stretchMax, c.notice)
  | none => (beatLen s, stretchMax s, beatNotice s)

/-- The BEAT page (R84). A boundary is one event of the model, so IN_BOUNDARY always reads 0. -/
def beatWindow (s : State) (off : Nat) : Nat :=
  let b := s.beat
  let w := lenWritten s
  match off with
  | 0x00 => b.count
  | 0x08 => b.gnum
  | 0x10 => putBits (putBits (putBits (regGet s aBeatCtl).toNat 8 0 w.1) 24 16 w.2.1) 35 32 w.2.2
  | 0x20 => putBits (regGet s aBeatGroup).toNat 53 50 b.depth
  | 0x28 => packFields [(4, 4, flagBit b.syncLost), (3, 3, flagBit b.alignWarn), (2, 2, flagBit b.locked),
      (1, 1, flagBit (b.k != 0))]
  | 0x30 => signedWord b.offset
  | 0x38 => b.delay % 2 ^ 32
  | 0x40 => (timebaseAt s b.deadline / 65536).toNat
  | 0x48 => timeNs s
  | 0x50 => b.stretched
  | 0x58 => b.quanta
  | 0x60 => b.overruns
  | _ => (regGet s (aBeatCount + off)).toNat

/-- The BELL page (R318). -/
def bellWindow (s : State) (off : Nat) : Nat :=
  let b := regField s aBellSel 15 0
  let l := regField s aBellLineSel 4 0
  let n := lineAt s l
  match off with
  | 0x10 => packFields [(60, 48, (bellAt s b).waiters.length), (47, 47, flagBit (bellOwner s b).isSome),
      (45, 32, (bellOwner s b).getD 0), (31, 0, (bellAt s b).count.toNat)]
  | 0x20 => packFields [(63, 48, n.phase.toNat), (47, 47, flagBit (lineOwner s l).isSome), (46, 46, flagBit (decide (n.members ≥ 2))),
      (45, 32, (lineOwner s l).getD 0), (28, 16, n.mask.length), (12, 0, n.arrived.length)]
  | _ => (regGet s (aBellCtl + off)).toNat

/-- Watts of a power in units of 10^-3 W, as a 12-bit field holds them. -/
def wattField (mw : Nat) : Nat := min (mw / 1000) 0xFFF

/-- The PWR page (R572). -/
def pwrWindow (s : State) (off : Nat) : Nat :=
  let r := regField s aPwrSel 1 0
  let d := sGet {} s.pwr.domains (regField s aPwrSel 7 2)
  match off with
  | 0x08 => packFields [(7, 4, (List.range 4).foldl (fun v i => v + (if s.pwr.hot.contains i then 2 ^ i else 0)) 0),
      (3, 3, flagBit s.pwr.overCap), (2, 2, flagBit s.flt.safeHold), (1, 1, flagBit s.pwr.setB), (0, 0, flagBit s.pins.pwrgd)]
  | 0x18 => packFields [(47, 44, s.pwr.paceMax.getD r 0), (43, 32, wattField (s.pwr.measured.getD r 0)),
      (11, 0, wattField (s.pwr.budget.getD r 0))]
  | 0x20 => ((sGet ({} : Sensor) s.pwr.sensors (regField s aPwrSel 9 8)).value % 2 ^ 32).toNat
  | 0x28 => packFields [(2, 2, flagBit d.droop), (1, 1, flagBit d.running), (0, 0, flagBit d.locked)]
  | _ => (regGet s (aPwrCtl + off)).toNat

/-- The TLY page (R530). -/
def tlyWindow (s : State) (off : Nat) : Nat :=
  let id := regField s aTlySel 31 0
  match off with
  | 0x08 => packFields [(63, 32, s.tly.boots), (7, 7, flagBit s.tly.ready), (6, 6, flagBit s.tly.unclean), (5, 5, flagBit (anySat s)),
      (4, 4, flagBit (s.tly.ckptLeft != 0))]
  | 0x18 => if tallyExists s id then tallyValue s id else 0
  | 0x20 => if tallyExists s id then 16 + tallyFlags s id else 0
  | _ => (regGet s (aTlyCtl + off)).toNat

/-- The BOOT page (R556). The Boot Record has been read once stage 2 has ended. -/
def bootWindow (s : State) (off : Nat) : Nat :=
  let b := s.boot
  match off with
  | 0x00 => packFields [(23, 16, b.error), (15, 14, b.status), (13, 13, flagBit b.writing.isSome), (12, 12, flagBit b.fallback),
      (11, 11, flagBit (decide (b.stage = 8) && bootTrial s && bootActive s == b.slot)), (10, 10, b.slot), (9, 9, flagBit b.osRun),
      (8, 8, flagBit b.idOk), (7, 7, flagBit b.secret.isSome), (3, 0, b.stage)]
  | 0x08 => packFields [(63, 32, if b.stage ≤ 2 then 0 else bootFloor s), (31, 0, b.version)]
  | _ => (regGet s (aBootStat + off)).toNat

/-- The MGMT page (R488). -/
def mgmtWindow (s : State) (off : Nat) : Nat :=
  match off with
  | 0x08 => packFields [(15, 8, (openSessions s).length), (3, 2, s.pins.mgmtSpeed), (0, 0, flagBit (s.pins.mgmtSpeed != 0))]
  | _ => (regGet s (aMgmtCtl + off)).toNat

/-- The ALM page (R392). -/
def almWindow (s : State) (off : Nat) : Nat :=
  let a := (ctxAt s (regField s aAlmSel 13 0)).alm
  match off with
  | 0x08 => a.step
  | 0x10 => packFields [(11, 8, a.upd), (0, 0, a.cb)]
  | 0x18 => a.sched
  | _ => (regGet s (aAlmSel + off)).toNat

/-- The pass that the Mill of a die runs, if any: its context, and 1 pass A, 2 pass B, 3 a fused pass. -/
def millPass (s : State) (n : Nat) : Option (Nat × Nat) :=
  s.ctxs.findSome? (fun e => match e.2.upd with
    | some u => if u.mills.contains n then some (e.1, if u.fused then 3 else if e.2.alm.upd = 2 then 2 else 1) else none
    | none => none)

/-- The page of base die n (R297, R392). Refresh runs at the doubled rate above 85 °C (R271). -/
def dieWindow (s : State) (n off : Nat) : Nat :=
  let d := dieAt s n
  let u := regField s (regInst aSqUnitSel n) 3 0
  let m := sGet {} d.margins (64 * regField s (regInst aSqMarginSel n) 9 8 + regField s (regInst aSqMarginSel n) 5 0)
  match off with
  | 0x08 => packFields [(47, 40, d.temp), (7, 7, flagBit (decide (85 < d.temp))), (6, 6, flagBit s.mem.strong), (5, 4, d.state)]
  | 0x18 => if d.clearing.contains u then packFields [(17, 16, 3)]
      else packFields [(17, 16, (unitOf s n u).1), (13, 0, (unitOf s n u).2)]
  | 0x20 => d.ce
  | 0x28 => d.ue
  | 0x30 => d.rowFails
  | 0x38 => packFields [(28, 16, d.slots), (15, 0, d.hppr)]
  | 0x40 => packFields [(31, 16, d.pending), (15, 0, d.retired)]
  | 0x48 => d.degraded
  | 0x50 => d.sramCe
  | 0x58 => d.hits
  | 0x60 => d.misses
  | 0x68 => d.atomics
  | 0x78 => packFields [(16, 16, flagBit m.valid), (15, 8, m.high), (7, 0, m.low)]
  | 0x8000 => match millPass s n with
      | some p => packFields [(17, 16, p.2), (13, 0, p.1)]
      | none => 0
  | _ => (regGet s (regInst aSqCtl n + off)).toNat

/-- STATE of GATE_CODE: 0 none, 1 ready, 2 refreshing, 3 rebuilding. -/
def codeState (d : Coding) : Nat :=
  if d.present then (match d.op with | none => 1 | some o => if o.rebuild then 3 else 2) else 0

/-- The GATE page of region r (R457). -/
def gateWindow (s : State) (r off : Nat) : Nat :=
  let d := (ctxAt s (regField s (regInst aGateSel r) 13 0)).code
  let g := sGet {} s.gate.count r
  match off with
  | 0x10 => d.cstep
  | 0x18 => packFields [(31, 28, d.self), (27, 24, d.k), (23, 16, d.n), (3, 2, codeState d), (1, 1, flagBit d.valid), (0, 0, d.ccb)]
  | 0x20 => g.redBytes
  | 0x28 => g.crcRetry
  | 0x30 => g.crcFatal
  | 0x38 => g.peerLost
  | 0x40 => g.timeouts
  | 0x48 => g.held
  | _ => (regGet s (regInst aGateCtl r + off)).toNat

/-- Arrays of the region's logical arrays whose spare column is in service (R155). -/
def checksLost (s : State) (r : Nat) : Nat :=
  ((List.range 1024).map (fun i =>
    let x := cellAt s (physOf s (1024 * r + i))
    (x.arrays.filter (fun e => decide (e.1 < 4 ∧ e.2.badCol ≠ 0x1F))).length)).foldl (fun a b => a + b) 0

/-- The ARR page of region r (R156). -/
def arrWindow (s : State) (r off : Nat) : Nat :=
  let sel := regInst aArrSel r
  let l := 1024 * r + regField s sel 11 2
  let p := physOf s l
  let a := regField s sel 1 0
  let m := arrayAt (cellAt s p) a
  match off with
  | 0x10 => packFields [(23, 23, flagBit (checkActive s l p a)), (22, 22, flagBit (m.badCol == 0x1F)), (21, 21, flagBit (m.badCol != 0x1F)),
      (20, 16, m.badCol), (13, 13, flagBit (m.badRow != 0x1F)), (12, 8, m.badRow), (4, 0, p % 17)]
  | 0x18 => m.passes
  | 0x20 => m.chkFail
  | 0x28 => m.chkSkip
  | 0x30 => m.accCe
  | 0x38 => checksLost s r
  | _ => (regGet s (regInst aArrCtl r + off)).toNat

/-- The CELL page of region r (R198). -/
def cellWindow (s : State) (r off : Nat) : Nat :=
  let sel := regInst aCellSel r
  let l := 1024 * r + regField s sel 9 0
  let p := physOf s l
  let x := cellAt s p
  let g := sGet {} x.rings (regField s sel 12 10)
  match off with
  | 0x10 => packFields [(43, 30, (ctxOfCell s l).getD 0), (29, 29, flagBit (ctxOfCell s l).isSome), (28, 28, flagBit x.fenced),
      (27, 27, flagBit x.seq.running), (26, 26, flagBit (x.seq.yielded && x.seq.yieldIssued)), (25, 21, p % 17), (11, 0, x.seq.pc)]
  | 0x18 => x.cnt.portStall
  | 0x20 => x.cnt.ringStall
  | 0x28 => x.cnt.storeCe
  | 0x30 => x.cnt.imemCe
  | 0x38 => packFields [(32, 32, flagBit g.defined), (31, 24, g.hwmLast), (23, 16, g.hwmMax), (15, 8, g.filled.length), (7, 0, g.slots)]
  | 0x40 => x.cnt.faults
  | _ => (regGet s (regInst aCellCtl r + off)).toNat

/-- The cell that VEC_SEL of region r selects. -/
def vecSelected (s : State) (r : Nat) : Nat := physOf s (1024 * r + regField s (regInst aVecSel r) 9 0)

/-- The next vector instruction waits for a finished-tile entry (R232). -/
def waitsEntry (u : Units) : Bool :=
  match u.vector with
  | [] => false
  | o :: _ => u.ftq.isEmpty && (vOp o.word == 0x39 || (vSources o.word).any (fun sp => sp / 16 == 3))

/-- The VEC page of region r but for BUSY (R233). -/
def vecWindow (s : State) (r off : Nat) : Nat :=
  let x := cellAt s (vecSelected s r)
  match off with
  | 0x10 => packFields [(11, 10, min x.units.ftq.length 2), (8, 8, flagBit (waitsEntry x.units)),
      (5, 0, (x.units.bufs.filter (fun e => e.2.valid && decide (e.1 < 6))).foldl (fun v e => v + 2 ^ e.1) 0)]
  | 0x18 => x.cnt.vecInsns
  | 0x20 => x.cnt.vecElems
  | 0x28 => x.cnt.vecAccWait
  | 0x30 => x.cnt.vecBufCe
  | 0x38 => x.cnt.vecFlags.toNat
  | _ => (regGet s (regInst aVecCtl r + off)).toNat

/-- The logical lane that a physical lane of an engine carries in a direction; 0x1F for none. -/
def laneCarried (spare lane : Nat) : Nat :=
  if lane = 16 then (if spare = 0 then 0x1F else spare - 1) else if spare = lane + 1 then 0x1F else lane

/-- The LNK page of engine k (R429). -/
def lnkWindow (s : State) (k off : Nat) : Nat :=
  let sel := regInst aLnkSel k
  let q := regField s sel 7 6
  let receive : Bool := regField s sel 5 5 == 1
  let lane := regField s sel 4 0
  let e := engineAt s k
  let p := 4 * k + q
  let t := portAt s p
  let spared (v : Nat) : Nat := flagBit (v != 0 && (v - 1) / 4 == q)
  match off with
  | 0x10 => packFields [(63, 48, t.peerNode), (44, 40, t.peerPort), (7, 7, flagBit (portIsPartner s p)), (6, 6, spared e.spareTx),
      (5, 5, spared e.spareRx), (4, 4, flagBit t.reach), (3, 3, flagBit t.laser), (2, 0, t.state)]
  | 0x18 => packFields [(63, 32, (t.asym % 2 ^ 32).toNat), (31, 0, min (t.rtt / 2) (2 ^ 32 - 1))]
  | 0x20 => t.txBytes
  | 0x28 => queuedBytes s p
  | 0x30 => t.replays
  | 0x38 => t.downs
  | 0x40 => t.drops
  | 0x48 =>
    if receive then packFields [(63, 48, sGet 0 e.eye lane), (39, 35, laneCarried e.spareRx lane), (31, 0, sGet 0 e.ber lane)]
    else packFields [(39, 35, laneCarried e.spareTx lane)]
  | 0x50 => if receive then sGet 0 e.margins lane else 0
  | 0x58 => e.spares
  | 0x60 => e.fecSwitches
  | _ => (regGet s (regInst aLnkCtl k + off)).toNat

/-- What the register at an 8-byte-aligned address of a register page holds; zero where none is assigned (R612). -/
def regValue (s : State) (a : Nat) : Nat :=
  match regDescAt a with
  | none => 0
  | some _ =>
    let off := a % 0x10000
    if a < aBeatCount then cmdWindow s off
    else if a < aBellCtl then beatWindow s off
    else if a < aPwrCtl then bellWindow s off
    else if a < aTlyCtl then pwrWindow s off
    else if a < aBootStat then tlyWindow s off
    else if a < aMgmtCtl then bootWindow s off
    else if a < aAlmSel then mgmtWindow s off
    else if a < aSqCtl then almWindow s off
    else if a < aGateCtl then dieWindow s ((a - aSqCtl) / 0x10000) off
    else if a < aArrCtl then gateWindow s ((a - aGateCtl) / 0x10000) off
    else if a < aCellCtl then arrWindow s ((a - aArrCtl) / 0x10000) off
    else if a < aVecCtl then cellWindow s ((a - aCellCtl) / 0x10000) off
    else if a < aLnkCtl then vecWindow s ((a - aVecCtl) / 0x10000) off
    else lnkWindow s ((a - aLnkCtl) / 0x10000) off

/-- Bits of a register that are always read as zero: the WO fields and the reserved bits (R9, R13). -/
def readable (a v : Nat) : Nat :=
  match regDescAt a with
  | none => 0
  | some r => r.fields.foldl (fun w f => if f.acc = .wo then w else putBits w f.hi f.lo (bitsOf v f.hi f.lo)) 0

/-- A read of a register. The model gives a vector instruction no time in its engine, so VEC_STATE.BUSY is a free value. -/
def readReg (s : State) (a : Nat) : Nat × State :=
  let v := readable a (regValue s a)
  if isRegAddr a ∧ aVecCtl ≤ a ∧ a < aLnkCtl ∧ a % 0x10000 = 0x10 then
    let f := takeFree s
    (putBits v 9 9 f.1, f.2)
  else (v, s)

/-! ### Writes -/

/-- The word that a write leaves where each bit could be written: the bits of the half not reached stay (R8). -/
def mergePart (part : RegPart) (old v : Nat) : Nat :=
  match part with
  | .whole => v % 2 ^ 64
  | .low => old / 2 ^ 32 * 2 ^ 32 + v % 2 ^ 32
  | .high => v % 2 ^ 32 * 2 ^ 32 + old % 2 ^ 32

/-- The word that a write carries: zeros in the half not reached. -/
def partWord (part : RegPart) (v : Nat) : Nat := mergePart part 0 v

/-- RW fields take their new values, from the high bit down: a reserved encoding leaves its field (R10), and so does one that
`ok` refuses, given the word so far. -/
def setRw (ok : Nat → RegField → Nat → Bool) (fields : List RegField) (old new : Nat) : Nat :=
  fields.foldl (fun w f =>
    let v := bitsOf new f.hi f.lo
    if f.acc = .rw ∧ f.least ≤ v ∧ v ≤ f.most ∧ ok w f v = true then putBits w f.hi f.lo v else w) old

/-- The RW fields of the register at an address are written. -/
def storeReg (ok : Nat → RegField → Nat → Bool) (a : Nat) (part : RegPart) (v : Nat) (s : State) : State :=
  match regDescAt a with
  | none => s
  | some r =>
    let old := (regGet s a).toNat
    regSet s a (BitVec.ofNat 64 (setRw ok r.fields old (mergePart part old v)))

/-- A write that no rule but R10 holds up. -/
def plainWrite (a : Nat) (part : RegPart) (v : Nat) (s : State) : State := storeReg (fun _ _ _ => true) a part v s

/-- BEAT_CTL (R62, R84, R440): ADAPT_EN and EARLY at once; LEN, STRETCH_MAX and NOTICE as BEAT_SET schedules them, a field that
breaks R84, the timer order or the leader's condition on NOTICE staying as it is. -/
def writeBeatCtl (part : RegPart) (v : Nat) (s : State) : State :=
  let new := mergePart part (beatWindow s 0x10) v
  let s := if part = .low then s
    else setField (setField s aBeatCtl 41 41 (bitsOf new 41 41)) aBeatCtl 40 40 (bitsOf new 40 40)
  if beatRole s = 2 then s
  else
    let ahead := lenAhead s
    let notice := bitsOf new 35 32
    let stretch := bitsOf new 24 16
    let len := bitsOf new 8 0
    let notice := if part ≠ .low ∧ 1 ≤ notice ∧ notice ≤ 8 ∧ (beatRole s = 0 ∨ noticeFits s notice = true) then notice
      else ahead.2.2
    let stretch := if part ≠ .high ∧ 4 ≤ stretch ∧ stretch ≤ 256 ∧
        timersOrdered (collTimeout s) (engineMost s 12 8) (engineMost s 23 21) stretch (adaptMax s) = true then stretch
      else ahead.2.1
    let len := if part ≠ .high ∧ 4 ≤ len ∧ len ≤ 256 ∧ lenFits len (adaptMin s) (adaptMax s) = true ∧ planFloor s ≤ len then len
      else ahead.1
    commandLen len stretch notice s

/-- BEAT_ADAPT (R84, R440): MAX and MIN stay where LEN would lie outside them or they would cross, and MAX where the timer order
would break. -/
def writeBeatAdapt (part : RegPart) (v : Nat) (s : State) : State :=
  let len := (lenAhead s).1
  storeReg (fun w f n =>
    if f.lo = 32 then lenFits len (bitsOf w 24 16) n &&
      timersOrdered (collTimeout s) (engineMost s 12 8) (engineMost s 23 21) (lenAhead s).2.1 n
    else if f.lo = 16 then lenFits len n (bitsOf w 40 32)
    else true) aBeatAdapt part v s

/-- BEAT_GROUP changes only while no context is unparked (R84). -/
def writeBeatGroup (part : RegPart) (v : Nat) (s : State) : State :=
  if unparked s = [] then plainWrite aBeatGroup part v s else s

/-- GATE_CTL: the four gates always hold the same COLL_TIMEOUT, within the timer order (R440). -/
def writeGateCtl (part : RegPart) (v : Nat) (s : State) : State :=
  let ok (_ : Nat) (_ : RegField) (n : Nat) : Bool :=
    timersOrdered n (engineMost s 12 8) (engineMost s 23 21) (lenAhead s).2.1 (adaptMax s)
  (List.range 4).foldl (fun s r => storeReg ok (regInst aGateCtl r) part v s) s

/-- LNK_CTL of engine k: LLR_WINDOW and MAX_HOPS stay where the timer order would break (R440). -/
def writeLnkCtl (k : Nat) (part : RegPart) (v : Nat) (s : State) : State :=
  let others (hi lo : Nat) : Nat :=
    largest (((List.range 8).filter (fun i => i != k)).map (fun i => regField s (regInst aLnkCtl i) hi lo))
  storeReg (fun w f n =>
    let window := max (others 12 8) (if f.lo = 8 then n else bitsOf w 12 8)
    let hops := max (others 23 21) (if f.lo = 21 then n else bitsOf w 23 21)
    if f.lo = 8 ∨ f.lo = 21 then timersOrdered (collTimeout s) window hops (lenAhead s).2.1 (adaptMax s) else true)
    (regInst aLnkCtl k) part v s

/-- CMD_DOORBELL (R462); the half that a 32-bit write does not reach counts as zeros. -/
def ringDoorbell (part : RegPart) (v : Nat) (s : State) : State :=
  let w := partWord part v
  match bitsOf w 31 30 with
  | 0 => publishTail (bitsOf w 13 0) false (bitsOf w 63 32) s
  | 1 => publishTail (bitsOf w 13 0) true (bitsOf w 63 32) s
  | 2 => publishHead (bitsOf w 13 0) (bitsOf w 63 32) s
  | _ => s

/-- TLY_CTL: CKPT_NOW acts at once (R524, R530). -/
def writeTlyCtl (part : RegPart) (v : Nat) (s : State) : State :=
  let s := plainWrite aTlyCtl part v s
  if bitsOf (partWord part v) 16 16 = 1 then askCheckpoint s else s

/-- BOOT_CTL: RELEASE, then COMMIT, from the high bit down (R556). -/
def writeBootCtl (part : RegPart) (v : Nat) (s : State) : State :=
  let w := partWord part v
  let s := if bitsOf w 1 1 = 1 then releaseOwner s else s
  if bitsOf w 0 0 = 1 then commitOwner s else s

/-- BOOT_OWN_DATA i: the bytes of a half not reached keep what is staged (R8, R556). -/
def writeOwnData (i : Nat) (part : RegPart) (v : Nat) (s : State) : State :=
  let old := (stagedItem s.boot.staged (regField s aBootOwnSel 3 0)).getD i 0
  stageWord i (BitVec.ofNat 64 (mergePart part old v)) s

/-- A write of MGMT_CTL or an address register closes every session (R488). -/
def writeMgmt (a : Nat) (part : RegPart) (v : Nat) (s : State) : State := closeSessions (plainWrite a part v s)

/-- VEC_FLAGS of the selected cell: each 1 clears its bit (R13, R233). -/
def clearVecFlags (r : Nat) (part : RegPart) (v : Nat) (s : State) : State :=
  let w := BitVec.ofNat 8 (partWord part v)
  updCell s (vecSelected s r) (fun x => { x with cnt := { x.cnt with vecFlags := x.cnt.vecFlags &&& ~~~w } })

/-- PWR_DOMAIN of the selected domain: a 1 clears DROOP (R13, R572). -/
def clearDroop (part : RegPart) (v : Nat) (s : State) : State :=
  if bitsOf (partWord part v) 2 2 = 1 then
    { s with pwr := { s.pwr with domains := sUpd {} s.pwr.domains (regField s aPwrSel 7 2) (fun d => { d with droop := false }) } }
  else s

/-- A permitted write of the register at an 8-byte-aligned address. -/
def writeReg (a : Nat) (part : RegPart) (v : Nat) (s : State) : State :=
  if a = aCmdDoorbell then ringDoorbell part v s
  else if a = aBeatCtl then writeBeatCtl part v s
  else if a = aBeatAdapt then writeBeatAdapt part v s
  else if a = aBeatGroup then writeBeatGroup part v s
  else if a = aTlyCtl then writeTlyCtl part v s
  else if a = aBootCtl then writeBootCtl part v s
  else if aBootOwnData0 ≤ a ∧ a ≤ aBootOwnData3 then writeOwnData ((a - aBootOwnData0) / 8) part v s
  else if a = aMgmtCtl ∨ a = aMgmtAddrHi ∨ a = aMgmtAddrLo then writeMgmt a part v s
  else if a = aPwrDomain then clearDroop part v s
  else if isRegAddr a then
    let off := a % 0x10000
    if aGateCtl ≤ a ∧ a < aArrCtl ∧ off = 0 then writeGateCtl part v s
    else if aLnkCtl ≤ a ∧ off = 0 then writeLnkCtl ((a - aLnkCtl) / 0x10000) part v s
    else if aVecCtl ≤ a ∧ a < aLnkCtl ∧ off = 0x38 then clearVecFlags ((a - aVecCtl) / 0x10000) part v s
    else plainWrite a part v s
  else s

/-! ### Who may write (R83, R462, R555) -/

/-- Firmware cores 32 to 35 write every page, the OS cores only CMD_DOORBELL. -/
def coreAdmitted (core a : Nat) : Bool := decide (32 ≤ core) || a == aCmdDoorbell

/-- The debug owner writes BOOT_CTL, BOOT_OWN_SEL and BOOT_OWN_DATA0 to 3, while the part is unclaimed. -/
def debugAdmitted (s : State) (a : Nat) : Bool :=
  s.boot.secret.isNone && (a == aBootCtl || a == aBootOwnSel || decide (aBootOwnData0 ≤ a ∧ a ≤ aBootOwnData3))

/-- A Hall core runs: the device is out of reset, and the OS cores have been released (R548). -/
def coreRuns (s : State) (core : Nat) : Bool := !s.pins.inReset && decide (core < 36) && (decide (32 ≤ core) || s.boot.osRun)

/-- The part of a register that an access of a size at an address reaches; none for a size or alignment that R6 does not
allow. -/
def accessPart (a n : Nat) : Option RegPart :=
  if n = 8 ∧ a % 8 = 0 then some .whole
  else if n = 4 ∧ a % 8 = 0 then some .low
  else if n = 4 ∧ a % 8 = 4 then some .high
  else none

/-- A Hall core writes n bytes in a register page (R6, R7, R83, R612). -/
def coreWrite (core a n v : Nat) (s : State) : State :=
  match accessPart a n with
  | none => raiseRegAccess core a n true s
  | some part => if coreAdmitted core (a - a % 8) then writeReg (a - a % 8) part v s else raiseRegAccess core a n true s

/-- The bytes of a register word that an access reaches. -/
def partBytes (part : RegPart) (v : Nat) : List Byte :=
  match part with
  | .whole => natLe 8 v
  | .low => natLe 4 v
  | .high => natLe 4 (v / 2 ^ 32)

/-- A Hall core reads n bytes in a register page (R6, R7). -/
def coreRead (core a n : Nat) (s : State) : List Byte × State :=
  match accessPart a n with
  | none => (List.replicate n 0#8, raiseRegAccess core a n false s)
  | some part => let r := readReg s (a - a % 8); (partBytes part r.1, r.2)

/-! ### The commands -/

/-- A write by a running core, at the address of a register. -/
def regCommand (core : Nat) (a : Nat) (part : RegPart) (v : Nat) (s : State) : State :=
  if coreRuns s core then
    flushOut (coreWrite core (a + (if part = .high then 4 else 0)) (if part = .whole then 8 else 4) v s)
  else s

def execBeatCtlWrite (core : Fin 36) (part : RegPart) (v : Word) (s : State) : Host.Outcome State Fault Refusal :=
  .next (regCommand core.val aBeatCtl part v.toNat s)

/-- MGMT_CTL, MGMT_ADDR_HI or MGMT_ADDR_LO. -/
def mgmtConfigAddr (reg : BitVec 2) : Nat :=
  match reg.toNat with
  | 0 => aMgmtCtl
  | 1 => aMgmtAddrHi
  | _ => aMgmtAddrLo

def execMgmtConfigWrite (core : Fin 36) (reg : BitVec 2) (part : RegPart) (v : Word) (s : State) :
    Host.Outcome State Fault Refusal :=
  .next (regCommand core.val (mgmtConfigAddr reg) part v.toNat s)

/-- A write of TLY_CTL with CKPT_NOW, of all 64 bits or of the low half. -/
def execCkptNow (core : Fin 36) (wide : Bool) (v : Word) (s : State) : Host.Outcome State Fault Refusal :=
  .next (regCommand core.val aTlyCtl (if wide then .whole else .low) (putBits v.toNat 16 16 1) s)

def execBootCommit (core : Fin 36) (s : State) : Host.Outcome State Fault Refusal :=
  .next (regCommand core.val aBootCtl .whole 1 s)

def execBootRelease (core : Fin 36) (s : State) : Host.Outcome State Fault Refusal :=
  .next (regCommand core.val aBootCtl .whole 2 s)

def execBootOwnData (core : Fin 36) (i : BitVec 2) (part : RegPart) (v : Word) (s : State) : Host.Outcome State Fault Refusal :=
  .next (regCommand core.val (aBootOwnData0 + 8 * i.toNat) part v.toNat s)

/-! ### Hall accesses (R28, R253, R254, R287, R549) -/

/-- A poisoned or uncorrectable line that a Hall access meets: FLT_CARVEOUT_UE of the carve-out, FLT_HBM_UE of job space for the
contexts that map its frame. -/
def hallUe (pa : Nat) (s : State) : State :=
  match physAt s pa with
  | .carve off => raiseCarveUe (carveLa off) pa s
  | .hbm st la => raiseHbmUe st la pa (mappers s (pa / 2 ^ 21)) s
  | _ => s

/-- Bytes that the spec gives no value. -/
def freeBytes (n : Nat) (s : State) : List Byte × State :=
  let f := takeFree s
  (natLe n f.1, f.2)

/-- A Hall core loads n bytes: a register page by R6 and R7, a reserved range as zeros, memory as it stands. In Safe-Hold, and from
an uncorrectable line, the bytes of memory are free values (R287, R507). -/
def hallLoad (core a n : Nat) (h : LineHit) (s : State) : List Byte × State :=
  match physAt s a with
  | .reg => coreRead core a n s
  | .reserved => (List.replicate n 0#8, tallyAdd s 0x47 0 0 1)
  | _ =>
    if s.flt.safeHold then freeBytes n s
    else
      let r := physRead s a n h.ecc h.which
      match r.bad with
      | some pa => freeBytes n (hallUe pa r.st)
      | none => (r.bytes, r.st)

/-- A Hall core stores bytes. A partial write of a poisoned line must read it, and fails (R254, R287). -/
def hallStore (core a : Nat) (bs : List Byte) (s : State) : State :=
  match physAt s a with
  | .reg => coreWrite core a bs.length (leNat bs) s
  | .reserved => tallyAdd s 0x47 0 0 1
  | _ =>
    if s.flt.safeHold then s
    else
      let r := physWrite s a bs
      match r.2 with
      | some pa => hallUe pa r.1
      | none => r.1

/-- A Hall core loads, stores, or reaches for a unit that answers only the firmware cores: for an OS core that does nothing and
reads zero (R549). -/
def execHallAccess (core : Fin 36) (addr : BitVec 40) (op : HallOp) (h : LineHit) (s : State) : Host.Outcome State Fault Refusal :=
  .next (
    if !coreRuns s core.val then s
    else flushOut (match op with
      | .load n =>
        let r := hallLoad core.val addr.toNat (n.toNat + 1) h s
        { r.2 with readOut := r.1 }
      | .store n data => hallStore core.val addr.toNat (natLe (n.toNat + 1) data.toNat) s
      | .inner => if core.val < 32 then { s with readOut := List.replicate 8 0#8 } else s))

/-- A write of n + 1 bytes at an address of a register page (R7). -/
def execRegisterWrite (core : Fin 36) (addr : BitVec 40) (n : BitVec 6) (v : BitVec 512) (s : State) :
    Host.Outcome State Fault Refusal :=
  .next (
    if coreRuns s core.val = true ∧ isRegAddr addr.toNat = true then
      flushOut (coreWrite core.val addr.toNat (n.toNat + 1) (v.toNat % 2 ^ (8 * (n.toNat + 1))) s)
    else s)

/-! ### MEM_READ and MEM_WRITE (R475, R477, R482) -/

/-- The bytes of a range that lie in a register page are words of registers: ADDR and LEN must be multiples of 8. The answer is the
packet offset of the field at fault. -/
def rangeFault (a n : Nat) : Option Nat :=
  if (pieces a n).any (fun p => isRegAddr (a + p.1)) then
    (if a % 8 ≠ 0 then some 0x20 else if n % 8 ≠ 0 then some 0x28 else none)
  else none

/-- Registers read one after another, as the firmware cores read them. -/
def readRegs : Nat → Nat → State → List Byte × State
  | 0, _, s => ([], s)
  | n + 1, a, s =>
    let r := readReg s a
    let q := readRegs n (a + 8) r.2
    (natLe 8 r.1 ++ q.1, q.2)

/-- The pieces of a range read one after another: the address of an uncorrectable line, if any, and the bytes. -/
def memPieces (a : Nat) (h : LineHit) : List (Nat × Nat) → Nat → State → ReadOut
  | [], _, s => ⟨s, none, []⟩
  | (o, l) :: t, i, s =>
    let r : ReadOut := if isRegAddr (a + o) then let q := readRegs (l / 8) (a + o) s; ⟨q.2, none, q.1⟩
      else readPiece s (a + o) l (if h.which = i then h.ecc else .clean)
    match r.bad with
    | some _ => r
    | none => let q := memPieces a h t (i + 1) r.st; ⟨q.st, q.bad, r.bytes ++ q.bytes⟩

/-- What an uncorrectable line that a command's transfer meets brings about (R254, R609). -/
def transferUe (c : Cmd) (pa : Nat) (s : State) : State :=
  match physAt s pa with
  | .carve off => raiseCarveUe (carveLa off) pa s
  | _ => recordUe c.ctx pa s

/-- MEM_READ; in Safe-Hold it reaches register pages alone (R508). -/
def memRead (h : LineHit) (c : Cmd) (s : State) : State :=
  let a := c.field 0 8
  let n := c.field 8 4
  let out := c.field 0x10 8
  if deniedOut c out then refuseCmd c stDenied [] s
  else match rangeFault a n with
    | some off => refuseCmd c stReserved [off] s
    | none =>
      let r := memPieces a h (pieces a n) 0 s
      match r.bad with
      | some pa => completeCmd c stFaulted r.st.beat.gnum [] [] (transferUe c pa r.st)
      | none => answerOut c out [n] r.bytes r.st

def execMemRead (r : Route) (h : LineHit) (s : State) : Host.Outcome State Fault Refusal := .next (command 0x0403 r (memRead h) s)

/-- Registers written one after another, as the firmware cores write them. -/
def writeRegs : Nat → Nat → List Byte → State → State
  | 0, _, _, s => s
  | n + 1, a, bs, s => writeRegs n (a + 8) (bs.drop 8) (writeReg a .whole (leNat (bs.take 8)) s)

/-- The pieces of a range written one after another, up to a poisoned line that a partial write meets. -/
def putPieces (a : Nat) (bs : List Byte) : List (Nat × Nat) → State → Option Nat × State
  | [], s => (none, s)
  | (o, l) :: t, s =>
    let part := (bs.drop o).take l
    if isRegAddr (a + o) then putPieces a bs t (writeRegs (l / 8) (a + o) part s)
    else
      let r := writePiece s (a + o) part
      match r.2 with
      | some pa => (some pa, r.1)
      | none => putPieces a bs t r.1

/-- MEM_WRITE, of bytes at SRC or inline. -/
def memWrite (h : LineHit) (c : Cmd) (s : State) : State :=
  let a := c.field 0 8
  let n := c.field 8 4
  let src := c.field 0x10 8
  if src = 0 ∧ c.fromRing = true then refuseCmd c stDenied [] s
  else match rangeFault a n with
    | some off => refuseCmd c stReserved [off] s
    | none =>
      let put (bs : List Byte) (s : State) : State :=
        let r := putPieces a bs (pieces a n) s
        match r.1 with
        | some pa => completeCmd c stFaulted r.2.beat.gnum [] [] (transferUe c pa r.2)
        | none => completeCmd c stOk r.2.beat.gnum [n] [] r.2
      if src = 0 then put ((c.payload.drop 0x18).take n) s
      else
        let q := memPieces src h (pieces src n) 0 s
        match q.bad with
        | some pa => completeCmd c stFaulted q.st.beat.gnum [] [] (transferUe c pa q.st)
        | none => put q.bytes q.st

def execMemWrite (r : Route) (h : LineHit) (s : State) : Host.Outcome State Fault Refusal := .next (command 0x0404 r (memWrite h) s)

end Sys2Proof.Machine
end

