-- ==== Sys2Proof/Machine/Pins.lean ====
section
/-! DEFINITION. The debug ports: the TAP and the I3C target, debug ownership, and what its owner may do (R29, R555, R586, R587,
R606 to R608). -/

namespace Sys2Proof.Machine

def updPins (f : PinState → PinState) (s : State) : State := { s with pins := f s.pins }

/-! ### Access by the debug owner (R555, R587, R608) -/

/-- An address lies in the BOOT page. -/
def inBootPage (a : Nat) : Bool := decide (aBootStat ≤ a ∧ a < aBootStat + 0x10000)

/-- A debug port (1 JTAG, 2 I3C) may access registers: it is the owner, out of reset, and boot has reached stage 3; or it reads the
BOOT page while boot has stopped. -/
def debugOpen (s : State) (port : Nat) (a : Nat) (write : Bool) : Bool :=
  s.pins.owner == port && !s.pins.inReset &&
    (decide (3 ≤ s.boot.stage) || (s.boot.status == 2 && !write && inBootPage a))

/-- The owner reads a register; an address outside the register pages reads zero. -/
def debugRead (a : Nat) (s : State) : Nat × State := if isRegAddr a then readReg s a else (0, s)

/-- The owner writes a register, where R555 permits it. -/
def debugWrite (a v : Nat) (s : State) : State :=
  if debugAdmitted s a then flushOut (writeReg a .whole v s) else s

/-! ### The TAP (R586, R587, R606) -/

/-- An instruction is loaded; its data register shifts out the given bytes. -/
def loadTap (code : Nat) (out : List Byte) (s : State) : State := updPins (fun p => { p with tapInsn := code, tapOut := out }) s

/-- BYPASS, whose data register is one bit that captures zero. -/
def loadBypass (s : State) : State := loadTap 0xFF [0#8] s

/-- The boundary-scan register, of which the spec gives neither length nor cells: a free value. -/
def scanCells (s : State) : List Byte × State :=
  let f := takeFree s
  freeBytes (f.1 % 256) f.2

/-- EXTEST is accepted in reset alone, and loads as BYPASS at any other time. -/
def execExtest (s : State) : Host.Outcome State Fault Refusal :=
  .next (if s.pins.inReset then (let r := scanCells s; loadTap 0x00 r.1 r.2) else loadBypass s)

def execSamplePreload (s : State) : Host.Outcome State Fault Refusal :=
  .next (let r := scanCells s; loadTap 0x01 r.1 r.2)

/-- The identification code: version 0x1, part 0xB400, manufacturer 0x62F. -/
def idCode : Nat := 0x1B400C5F

def execIdcode (s : State) : Host.Outcome State Fault Refusal := .next (loadTap 0x02 (natLe 4 idCode) s)

/-- BYPASS, by its own code or any that R606 does not list. -/
def execBypass (s : State) : Host.Outcome State Fault Refusal := .next (loadBypass s)

/-- CLAIM asks for ownership; while I3C is the owner it loads as BYPASS. What its one bit shifts out is a free value. -/
def execJtagClaim (s : State) : Host.Outcome State Fault Refusal :=
  .next (
    if s.pins.owner = 2 then loadBypass s
    else
      let f := takeFree s
      loadTap 0x20 (natLe 1 (f.1 % 2)) (updPins (fun p => { p with owner := 1 }) f.2))

/-- MUSTER is accepted from the owner, out of reset, while no context is resident or when boot has stopped (R547). -/
def tapMusterOpen (s : State) : Bool :=
  s.pins.owner == 1 && !s.pins.inReset && ((residents s).isEmpty || s.boot.status == 2)

/-- The run that a MUSTER_RUN payload names: its scope and tests, unless the payload or the device refuses it. -/
def tapScope (payload : Word) (s : State) : Option (Nat × Nat × Nat) :=
  let bs := natLe 8 payload.toNat
  let kind := fieldAt bs 0 1
  let raw := fieldAt bs 2 2
  let id := if kind = 0 then scopeCell s raw else raw
  if (payloadChecks 0x0701 bs).any (fun e => !e.2) || (kind == 0 && decide (raw < 4096) && isVacant s raw) ||
      musterBusy s kind (fieldAt bs 1 1) id || (musterScope s).isSome then none
  else some (kind, id, fieldAt bs 1 1)

/-- A self-test run from the TAP, and the four detail words of its reply; a run that is refused returns zeros. -/
def execMusterTap (payload : Word) (r : MusterResult) (s : State) : Host.Outcome State Fault Refusal :=
  .next (
    if !tapMusterOpen s then loadBypass s
    else match tapScope payload s with
      | none => loadTap 0x21 (List.replicate 32 0#8) s
      | some (kind, id, tests) =>
        let before := musterBefore s kind id
        let e := musterEnds kind id tests before r (musterStarts kind id s)
        flushOut (loadTap 0x21 (e.1.flatMap (natLe 8)) e.2))

/-- The 106 bits of REGACC: address, data, write and done. -/
def regaccWord (a v : Nat) (write done : Bool) : Nat :=
  packFields [(105, 105, flagBit done), (104, 104, flagBit write), (103, 40, v), (39, 0, a)]

/-- REGACC reads or writes a register by the rules of I3C transfers; where they do not permit it, done stays clear. -/
def execRegacc (addr : BitVec 40) (v : Word) (write : Bool) (s : State) : Host.Outcome State Fault Refusal :=
  .next (
    let a := addr.toNat
    if s.pins.owner = 2 then loadBypass s
    else if !debugOpen s 1 a write || decide (a % 8 ≠ 0) then loadTap 0x22 (natLe 14 (regaccWord a v.toNat write false)) s
    else if write then loadTap 0x22 (natLe 14 (regaccWord a v.toNat true true)) (debugWrite a v.toNat s)
    else
      let r := debugRead a s
      loadTap 0x22 (natLe 14 (regaccWord a r.1 false true)) r.2)

/-- Test-Logic-Reset selects IDCODE and ends JTAG's ownership. -/
def execTestLogicReset (s : State) : Host.Outcome State Fault Refusal :=
  .next (loadTap 0x02 (natLe 4 idCode) (updPins (fun p => { p with owner := if p.owner = 1 then 0 else p.owner }) s))

/-! ### The I3C target (R586, R587, R607, R608) -/

/-- A transfer ends: what it returned, or none where it was not acknowledged. -/
def i3cAnswer (out : Option (List Byte)) (s : State) : State := updPins (fun p => { p with i3cOut := out }) s

/-- The claim register: 1 claims and 0 releases; while JTAG is the owner the write is not acknowledged. -/
def execI3cClaim (v : BitVec 8) (s : State) : Host.Outcome State Fault Refusal :=
  .next (
    if s.pins.owner = 1 then i3cAnswer none s
    else i3cAnswer (some []) (updPins (fun p => { p with
      owner := if v.toNat = 1 then 2 else if v.toNat = 0 then 0 else p.owner }) s))

/-- A private command other than CLAIM, on a register address. -/
def i3cPrivate (a : Nat) (write : Bool) (go : State → State) (s : State) : State :=
  if debugOpen s 2 a write then go s else i3cAnswer none s

/-- SETADDR takes an 8-byte-aligned address; another leaves the register address as it is. -/
def execSetaddr (addr : BitVec 40) (s : State) : Host.Outcome State Fault Refusal :=
  .next (i3cPrivate addr.toNat false (fun s =>
    i3cAnswer (some []) (if addr.toNat % 8 = 0 then updPins (fun p => { p with i3cReg := addr.toNat }) s else s)) s)

/-- The register address advances by 8. -/
def i3cAdvance (s : State) : State := updPins (fun p => { p with i3cReg := (p.i3cReg + 8) % 2 ^ 40 }) s

def execI3cRead (s : State) : Host.Outcome State Fault Refusal :=
  .next (i3cPrivate s.pins.i3cReg false (fun s =>
    let r := debugRead s.pins.i3cReg s
    i3cAnswer (some (natLe 8 r.1)) (i3cAdvance r.2)) s)

def execI3cWrite (v : Word) (s : State) : Host.Outcome State Fault Refusal :=
  .next (i3cPrivate s.pins.i3cReg true (fun s => i3cAnswer (some []) (i3cAdvance (debugWrite s.pins.i3cReg v.toNat s))) s)

/-- Events that an I3C target has enabled after a reset of its interface. -/
def i3cEventsReset : Nat := 0

/-- A bus reset ends I3C's ownership; the target takes the action that RSTACT named, the reset of its interface by default. -/
def execI3cBusReset (s : State) : Host.Outcome State Fault Refusal :=
  .next (updPins (fun p =>
    let p := { p with owner := if p.owner = 2 then 0 else p.owner, i3cOut := none }
    if p.i3cRst = 0 then { p with i3cRst := 1 }
    else { p with i3cAddr := 0, i3cReg := 0, i3cEvents := i3cEventsReset, i3cRst := 1 }) s)

/-- The identifier with the characteristics, as ENTDAA returns them. -/
def i3cIdentity : List Byte := natLe 6 (Config.i3cPid % 2 ^ 48) ++ natLe 1 (Config.i3cBcr % 256) ++ natLe 1 (Config.i3cDcr % 256)

/-- ENTDAA: a target without a dynamic address returns its identity and takes the address given. -/
def execEntdaa (addr : BitVec 7) (s : State) : Host.Outcome State Fault Refusal :=
  .next (
    if s.pins.i3cAddr ≠ 0 then i3cAnswer none s
    else i3cAnswer (some i3cIdentity) (updPins (fun p => { p with i3cAddr := addr.toNat }) s))

/-- The static address: 0x3A or 0x3B by STRAP2 (R603). -/
def staticAddr (s : State) : Nat := 0x3A + s.pins.straps / 4 % 2

/-- SETDASA to the static address gives the dynamic one. -/
def execSetdasa (static addr : BitVec 7) (s : State) : Host.Outcome State Fault Refusal :=
  .next (
    if static.toNat = staticAddr s ∧ s.pins.i3cAddr = 0 then
      i3cAnswer (some []) (updPins (fun p => { p with i3cAddr := addr.toNat }) s)
    else i3cAnswer none s)

def execRstdaa (s : State) : Host.Outcome State Fault Refusal :=
  .next (i3cAnswer (some []) (updPins (fun p => { p with i3cAddr := 0 }) s))

/-- A CCC directed to the target, which must have a dynamic address. -/
def i3cDirect (go : State → State) (s : State) : State := if s.pins.i3cAddr = 0 then i3cAnswer none s else go s

def execGetpid (s : State) : Host.Outcome State Fault Refusal :=
  .next (i3cDirect (i3cAnswer (some (natLe 6 (Config.i3cPid % 2 ^ 48)))) s)

def execGetbcr (s : State) : Host.Outcome State Fault Refusal :=
  .next (i3cDirect (i3cAnswer (some (natLe 1 (Config.i3cBcr % 256)))) s)

def execGetdcr (s : State) : Host.Outcome State Fault Refusal :=
  .next (i3cDirect (i3cAnswer (some (natLe 1 (Config.i3cDcr % 256)))) s)

/-- GETSTATUS returns two bytes that the spec does not lay out: a free value. -/
def execGetstatus (s : State) : Host.Outcome State Fault Refusal :=
  .next (i3cDirect (fun s => let r := freeBytes 2 s; i3cAnswer (some r.1) r.2) s)

/-- ENEC enables events; the target raises none. -/
def execEnec (events : BitVec 8) (s : State) : Host.Outcome State Fault Refusal :=
  .next (i3cAnswer (some []) (updPins (fun p => { p with i3cEvents := p.i3cEvents ||| events.toNat }) s))

/-- DISEC disables events. -/
def execDisec (events : BitVec 8) (s : State) : Host.Outcome State Fault Refusal :=
  .next (i3cAnswer (some []) (updPins (fun p => { p with i3cEvents := p.i3cEvents &&& (255 - events.toNat) }) s))

/-- RSTACT names the action of the next bus reset. -/
def execRstact (action : BitVec 8) (s : State) : Host.Outcome State Fault Refusal :=
  .next (if action.toNat ≤ 2 then i3cAnswer (some []) (updPins (fun p => { p with i3cRst := action.toNat }) s)
    else i3cAnswer none s)

end Sys2Proof.Machine
end

