-- ==== Sys2Proof/Machine/Dispatch.lean ====
section
/-! DEFINITION. One arm for each command or event: the meaning it calls. -/

namespace Sys2Proof.Machine

/-- What a command does to everything but the queue. -/
def exec (i : Instr) (s : State) : Host.Outcome State Fault Refusal :=
  match i with
  | .beatBoundary => Sys2Proof.Machine.execBeatBoundary s
  | .earlyBoundary => Sys2Proof.Machine.execEarlyBoundary s
  | .stretchCheck => Sys2Proof.Machine.execStretchCheck s
  | .stretch idx => Sys2Proof.Machine.execStretch idx s
  | .slack idx => Sys2Proof.Machine.execSlack idx s
  | .adaptDecide => Sys2Proof.Machine.execAdaptDecide s
  | .lenSet idx => Sys2Proof.Machine.execLenSet idx s
  | .syncMsg idx => Sys2Proof.Machine.execSync idx s
  | .delayReq idx => Sys2Proof.Machine.execDelayReq idx s
  | .delayResp idx => Sys2Proof.Machine.execDelayResp idx s
  | .syncTimeout => Sys2Proof.Machine.execSyncTimeout s
  | .nop c m => Sys2Proof.Machine.execNop c m s
  | .yield c m => Sys2Proof.Machine.execYield c m s
  | .yieldRetire c => Sys2Proof.Machine.execYieldRetire c s
  | .li c m => Sys2Proof.Machine.execLi c m s
  | .add c m => Sys2Proof.Machine.execAdd c m s
  | .sub c m => Sys2Proof.Machine.execSub c m s
  | .andOp c m => Sys2Proof.Machine.execAnd c m s
  | .orOp c m => Sys2Proof.Machine.execOr c m s
  | .xorOp c m => Sys2Proof.Machine.execXor c m s
  | .shl c m => Sys2Proof.Machine.execShl c m s
  | .shr c m => Sys2Proof.Machine.execShr c m s
  | .mul c m => Sys2Proof.Machine.execMul c m s
  | .ldx c m => Sys2Proof.Machine.execLdx c m s
  | .stx c m => Sys2Proof.Machine.execStx c m s
  | .ldd c m => Sys2Proof.Machine.execLdd c m s
  | .dadd c m => Sys2Proof.Machine.execDadd c m s
  | .br c m => Sys2Proof.Machine.execBr c m s
  | .loop c m => Sys2Proof.Machine.execLoop c m s
  | .rdinfo c m => Sys2Proof.Machine.execRdinfo c m s
  | .fence c m => Sys2Proof.Machine.execFence c m s
  | .trap c m => Sys2Proof.Machine.execTrap c m s
  | .dqpush c m => Sys2Proof.Machine.execDqpush c m s
  | .dqpop c m => Sys2Proof.Machine.execDqpop c m s
  | .btest c m => Sys2Proof.Machine.execBtest c m s
  | .mpass c m => Sys2Proof.Machine.execMpass c m s
  | .weightLoadStart c idx h => Sys2Proof.Machine.execWeightLoadStart c idx h s
  | .passFeedStart c idx h => Sys2Proof.Machine.execPassFeedStart c idx h s
  | .accumulatorWrite c idx h u => Sys2Proof.Machine.execAccumulatorWrite c idx h u s
  | .finishedTileEntry c => Sys2Proof.Machine.execFinishedTileEntry c s
  | .move c m => Sys2Proof.Machine.execMove c m s
  | .rdef c m => Sys2Proof.Machine.execRdef c m s
  | .rconn c m => Sys2Proof.Machine.execRconn c m s
  | .rpush c m => Sys2Proof.Machine.execRpush c m s
  | .rwait c m => Sys2Proof.Machine.execRwait c m s
  | .rfree c m => Sys2Proof.Machine.execRfree c m s
  | .imload c m => Sys2Proof.Machine.execImload c m s
  | .moveStart c h lh e => Sys2Proof.Machine.execMoveStart c h lh e s
  | .moveComplete c idx lh e => Sys2Proof.Machine.execMoveComplete c idx lh e s
  | .ringSlotFill c idx => Sys2Proof.Machine.execRingSlotFill c idx s
  | .creditReturn c idx => Sys2Proof.Machine.execCreditReturn c idx s
  | .atomAdd c m => Sys2Proof.Machine.execAtomAdd c m s
  | .atomMin c m => Sys2Proof.Machine.execAtomMin c m s
  | .atomMax c m => Sys2Proof.Machine.execAtomMax c m s
  | .atomSwap c m => Sys2Proof.Machine.execAtomSwap c m s
  | .atomCas c m => Sys2Proof.Machine.execAtomCas c m s
  | .atomVadd c m => Sys2Proof.Machine.execAtomVadd c m s
  | .atomicApply c idx e => Sys2Proof.Machine.execAtomicApply c idx e s
  | .gather c m => Sys2Proof.Machine.execGather c m s
  | .gatherApply c idx lh => Sys2Proof.Machine.execGatherApply c idx lh s
  | .rscat c m => Sys2Proof.Machine.execRscat c m s
  | .reduce c m => Sys2Proof.Machine.execReduce c m s
  | .allgath c m => Sys2Proof.Machine.execAllgath c m s
  | .post c m => Sys2Proof.Machine.execPost c m s
  | .wait c m => Sys2Proof.Machine.execWait c m s
  | .take c m => Sys2Proof.Machine.execTake c m s
  | .arrive c m => Sys2Proof.Machine.execArrive c m s
  | .lwait c m => Sys2Proof.Machine.execLwait c m s
  | .bellOpApply idx e => Sys2Proof.Machine.execBellOpApply idx e s
  | .bellRelease idx => Sys2Proof.Machine.execBellRelease idx s
  | .waitTimeout c => Sys2Proof.Machine.execWaitTimeout c s
  | .cancelApply idx => Sys2Proof.Machine.execCancelApply idx s
  | .lineLatch l => Sys2Proof.Machine.execLineLatch l s
  | .arrived idx => Sys2Proof.Machine.execArrived idx s
  | .cellLend c => Sys2Proof.Machine.execCellLend c s
  | .vmov c m => Sys2Proof.Machine.execVmov c m s
  | .neg c m => Sys2Proof.Machine.execNeg c m s
  | .abs c m => Sys2Proof.Machine.execAbs c m s
  | .csgn c m => Sys2Proof.Machine.execCsgn c m s
  | .vecAnd c m => Sys2Proof.Machine.execVecAnd c m s
  | .vecOr c m => Sys2Proof.Machine.execVecOr c m s
  | .vecXor c m => Sys2Proof.Machine.execVecXor c m s
  | .sel c m => Sys2Proof.Machine.execSel c m s
  | .vecAdd c m => Sys2Proof.Machine.execVecAdd c m s
  | .vecSub c m => Sys2Proof.Machine.execVecSub c m s
  | .vecMul c m => Sys2Proof.Machine.execVecMul c m s
  | .fma c m => Sys2Proof.Machine.execFma c m s
  | .vecMax c m => Sys2Proof.Machine.execVecMax c m s
  | .vecMin c m => Sys2Proof.Machine.execVecMin c m s
  | .cmp c m => Sys2Proof.Machine.execCmp c m s
  | .div c m => Sys2Proof.Machine.execDiv c m s
  | .sqrt c m => Sys2Proof.Machine.execSqrt c m s
  | .rsqrt c m => Sys2Proof.Machine.execRsqrt c m s
  | .rcp c m => Sys2Proof.Machine.execRcp c m s
  | .exp2 c m => Sys2Proof.Machine.execExp2 c m s
  | .log2 c m => Sys2Proof.Machine.execLog2 c m s
  | .tanh c m => Sys2Proof.Machine.execTanh c m s
  | .rred c m => Sys2Proof.Machine.execRred c m s
  | .cred c m => Sys2Proof.Machine.execCred c m s
  | .trans c m => Sys2Proof.Machine.execTrans c m s
  | .cvt c m => Sys2Proof.Machine.execCvt c m s
  | .rand c m => Sys2Proof.Machine.execRand c m s
  | .drop c m => Sys2Proof.Machine.execDrop c m s
  | .venq c m => Sys2Proof.Machine.execVenq c m s
  | .adrop c m => Sys2Proof.Machine.execAdrop c m s
  | .vecStart c h => Sys2Proof.Machine.execVecStart c h s
  | .cellScrub p h => Sys2Proof.Machine.execCellScrub p h s
  | .ringNak link dir again => Sys2Proof.Machine.execRingNak link dir again s
  | .ringReplay link dir e => Sys2Proof.Machine.execRingReplay link dir e s
  | .refresh stack pc bank => Sys2Proof.Machine.execRefresh stack pc bank s
  | .hbmPatrolScrub stack e => Sys2Proof.Machine.execHbmPatrolScrub stack e s
  | .repairCopyDone stack la => Sys2Proof.Machine.execRepairCopyDone stack la s
  | .hpprConversion stack la ok => Sys2Proof.Machine.execHpprConversion stack la ok s
  | .frameRetire stack la => Sys2Proof.Machine.execFrameRetire stack la s
  | .squareClearDone die unit => Sys2Proof.Machine.execSquareClearDone die unit s
  | .memMarginDone stack lows highs => Sys2Proof.Machine.execMemMarginDone stack lows highs s
  | .memEccDone => Sys2Proof.Machine.execMemEccDone s
  | .parkSaveDone ctx hit => Sys2Proof.Machine.execParkSaveDone ctx hit s
  | .unparkPrepDone ctx h => Sys2Proof.Machine.execUnparkPrepDone ctx h s
  | .snapshotStageEnd ctx h => Sys2Proof.Machine.execSnapshotStageEnd ctx h s
  | .snapshotShipDone ctx => Sys2Proof.Machine.execSnapshotShipDone ctx s
  | .reshardDone ctx received served fails h => Sys2Proof.Machine.execReshardDone ctx received served fails h s
  | .millPassADone ctx h => Sys2Proof.Machine.execMillPassADone ctx h s
  | .millPassBDone ctx h => Sys2Proof.Machine.execMillPassBDone ctx h s
  | .millFusedDone ctx h => Sys2Proof.Machine.execMillFusedDone ctx h s
  | .norms idx => Sys2Proof.Machine.execNorms idx s
  | .normsSum idx => Sys2Proof.Machine.execNormsSum idx s
  | .vote idx => Sys2Proof.Machine.execVote idx s
  | .voteSum idx => Sys2Proof.Machine.execVoteSum idx s
  | .doneMsg idx => Sys2Proof.Machine.execDone idx s
  | .commitMsg idx => Sys2Proof.Machine.execCommit idx s
  | .abortMsg idx => Sys2Proof.Machine.execAbort idx s
  | .updateDeadline ctx => Sys2Proof.Machine.execUpdateDeadline ctx s
  | .fetch idx lh => Sys2Proof.Machine.execFetch idx lh s
  | .shard idx => Sys2Proof.Machine.execShard idx s
  | .pull idx => Sys2Proof.Machine.execPull idx s
  | .partMsg idx => Sys2Proof.Machine.execPart idx s
  | .doneAck idx => Sys2Proof.Machine.execDoneAck idx s
  | .collRefuse idx => Sys2Proof.Machine.execCollRefuse idx s
  | .collTimeout idx => Sys2Proof.Machine.execCollTimeout idx s
  | .jobFault idx => Sys2Proof.Machine.execJobFault idx s
  | .piece idx => Sys2Proof.Machine.execPiece idx s
  | .pieceAck idx => Sys2Proof.Machine.execPieceAck idx s
  | .pieceReq idx lh => Sys2Proof.Machine.execPieceReq idx lh s
  | .symbol idx => Sys2Proof.Machine.execSymbol idx s
  | .parRefuse idx => Sys2Proof.Machine.execParRefuse idx s
  | .codeRebuildDone ctx => Sys2Proof.Machine.execCodeRebuildDone ctx s
  | .codeRefreshDone ctx => Sys2Proof.Machine.execCodeRefreshDone ctx s
  | .dataFlit port raw rs => Sys2Proof.Machine.execDataFlit port raw rs s
  | .idleFlit port raw rs => Sys2Proof.Machine.execIdleFlit port raw rs s
  | .nakFlit port raw rs => Sys2Proof.Machine.execNakFlit port raw rs s
  | .ackTimeout port => Sys2Proof.Machine.execAckTimeout port s
  | .llrWindowExpiry port => Sys2Proof.Machine.execLlrWindowExpiry port s
  | .bulkData idx => Sys2Proof.Machine.execBulkData idx s
  | .bulkAck idx => Sys2Proof.Machine.execBulkAck idx s
  | .laneFail engine lane all => Sys2Proof.Machine.execLaneFail engine lane all s
  | .spareReq idx => Sys2Proof.Machine.execSpareReq idx s
  | .spareAck idx => Sys2Proof.Machine.execSpareAck idx s
  | .berWindowEnd engine ber eye ce ue => Sys2Proof.Machine.execBerWindowEnd engine ber eye ce ue s
  | .trainingFrame port lane raw => Sys2Proof.Machine.execTrainingFrame port lane raw s
  | .trainingPhaseTimeout port => Sys2Proof.Machine.execTrainingPhaseTimeout port s
  | .hello idx => Sys2Proof.Machine.execHello idx s
  | .echoInterval port => Sys2Proof.Machine.execEchoInterval port s
  | .echo idx turn => Sys2Proof.Machine.execEcho idx turn s
  | .echoReply idx => Sys2Proof.Machine.execEchoReply idx s
  | .unreach idx => Sys2Proof.Machine.execUnreach idx s
  | .normalTail ctx tail => Sys2Proof.Machine.execNormalTail ctx tail s
  | .urgentTail ctx tail => Sys2Proof.Machine.execUrgentTail ctx tail s
  | .completionHead ctx head => Sys2Proof.Machine.execCompletionHead ctx head s
  | .replyPost ctx => Sys2Proof.Machine.execReplyPost ctx s
  | .mgmtDatagram p => Sys2Proof.Machine.execMgmtDatagram p s
  | .xferResend num tag => Sys2Proof.Machine.execXferResend num tag s
  | .xferTimeout num tag => Sys2Proof.Machine.execXferTimeout num tag s
  | .sessionIdleExpiry num => Sys2Proof.Machine.execSessionIdleExpiry num s
  | .sessionLifetimeExpiry num => Sys2Proof.Machine.execSessionLifetimeExpiry num s
  | .ctxCreate r h => Sys2Proof.Machine.execCtxCreate r h s
  | .ctxPark r => Sys2Proof.Machine.execCtxPark r s
  | .ctxUnpark r => Sys2Proof.Machine.execCtxUnpark r s
  | .ctxResize r => Sys2Proof.Machine.execCtxResize r s
  | .ctxDestroy r => Sys2Proof.Machine.execCtxDestroy r s
  | .ctxQuery r => Sys2Proof.Machine.execCtxQuery r s
  | .ringSet r => Sys2Proof.Machine.execRingSet r s
  | .granarySwap r => Sys2Proof.Machine.execGranarySwap r s
  | .cfgWrite r h => Sys2Proof.Machine.execCfgWrite r h s
  | .cfgSwap r h => Sys2Proof.Machine.execCfgSwap r h s
  | .beatSet r => Sys2Proof.Machine.execBeatSet r s
  | .beatJoin r => Sys2Proof.Machine.execBeatJoin r s
  | .stepCmd r h => Sys2Proof.Machine.execStep r h s
  | .stepResolve r => Sys2Proof.Machine.execStepResolve r s
  | .reshard r h => Sys2Proof.Machine.execReshard r h s
  | .millFused r h => Sys2Proof.Machine.execMillFused r h s
  | .memMap r h => Sys2Proof.Machine.execMemMap r h s
  | .memEcc r => Sys2Proof.Machine.execMemEcc r s
  | .memRead r h => Sys2Proof.Machine.execMemRead r h s
  | .memWrite r h => Sys2Proof.Machine.execMemWrite r h s
  | .lnkConfig r => Sys2Proof.Machine.execLnkConfig r s
  | .lnkFec r => Sys2Proof.Machine.execLnkFec r s
  | .lnkSpare r => Sys2Proof.Machine.execLnkSpare r s
  | .codeSet r h => Sys2Proof.Machine.execCodeSet r h s
  | .codeRefresh r h => Sys2Proof.Machine.execCodeRefresh r h s
  | .codeCommit r => Sys2Proof.Machine.execCodeCommit r s
  | .codeRebuild r h => Sys2Proof.Machine.execCodeRebuild r h s
  | .snapshot r h => Sys2Proof.Machine.execSnapshot r h s
  | .musterRun r => Sys2Proof.Machine.execMusterRun r s
  | .musterRunDone r => Sys2Proof.Machine.execMusterRunDone r s
  | .memMargin r => Sys2Proof.Machine.execMemMargin r s
  | .lnkMargin r => Sys2Proof.Machine.execLnkMargin r s
  | .lnkMarginDone engine phLow phHigh vLow vHigh => Sys2Proof.Machine.execLnkMarginDone engine phLow phHigh vLow vHigh s
  | .reportGet r => Sys2Proof.Machine.execReportGet r s
  | .pwrCap r => Sys2Proof.Machine.execPwrCap r s
  | .pwrShare r => Sys2Proof.Machine.execPwrShare r s
  | .sessionHello r => Sys2Proof.Machine.execSessionHello r s
  | .sessionOpen r => Sys2Proof.Machine.execSessionOpen r s
  | .sessionClose r => Sys2Proof.Machine.execSessionClose r s
  | .fwWrite r h => Sys2Proof.Machine.execFwWrite r h s
  | .fwActivate r => Sys2Proof.Machine.execFwActivate r s
  | .attestQuote r => Sys2Proof.Machine.execAttestQuote r s
  | .ticketFloor r => Sys2Proof.Machine.execTicketFloor r s
  | .xferAck r => Sys2Proof.Machine.execXferAck r s
  | .stop r => Sys2Proof.Machine.execStop r s
  | .fenceCell r => Sys2Proof.Machine.execFenceCell r s
  | .quarantine r => Sys2Proof.Machine.execQuarantine r s
  | .beatCtlWrite core part v => Sys2Proof.Machine.execBeatCtlWrite core part v s
  | .mgmtConfigWrite core reg part v => Sys2Proof.Machine.execMgmtConfigWrite core reg part v s
  | .ckptNow core wide v => Sys2Proof.Machine.execCkptNow core wide v s
  | .bootCommit core => Sys2Proof.Machine.execBootCommit core s
  | .bootRelease core => Sys2Proof.Machine.execBootRelease core s
  | .bootOwnData core idx part v => Sys2Proof.Machine.execBootOwnData core idx part v s
  | .ownerRecordWritten => Sys2Proof.Machine.execOwnerRecordWritten s
  | .registerWrite core addr n v => Sys2Proof.Machine.execRegisterWrite core addr n v s
  | .sensePeriodEnd => Sys2Proof.Machine.execSensePeriodEnd s
  | .dieTempRead die temp => Sys2Proof.Machine.execDieTempRead die temp s
  | .senseReadSkip osc unit => Sys2Proof.Machine.execSenseReadSkip osc unit s
  | .droopEvent domain => Sys2Proof.Machine.execDroopEvent domain s
  | .ageRead unit hz => Sys2Proof.Machine.execAgeRead unit hz s
  | .checkpoint => Sys2Proof.Machine.execCheckpoint s
  | .logProgram => Sys2Proof.Machine.execLogProgram s
  | .powerInterval m => Sys2Proof.Machine.execPowerInterval m s
  | .envSensorSample sensor value => Sys2Proof.Machine.execEnvSensorSample sensor value s
  | .refclockLoss => Sys2Proof.Machine.execRefclockLoss s
  | .thermtrip die => Sys2Proof.Machine.execThermtrip die s
  | .pllLockLoss domain => Sys2Proof.Machine.execPllLockLoss domain s
  | .inputQualified => Sys2Proof.Machine.execInputQualified s
  | .inputProtect => Sys2Proof.Machine.execInputProtect s
  | .perstNAssert => Sys2Proof.Machine.execPerstNAssert s
  | .resetRelease straps => Sys2Proof.Machine.execResetRelease straps s
  | .bootStage fails torn => Sys2Proof.Machine.execBootStage fails torn s
  | .ozminRestart => Sys2Proof.Machine.execOzminRestart s
  | .fltHallFw => Sys2Proof.Machine.execFltHallFw s
  | .trialConfirm => Sys2Proof.Machine.execTrialConfirm s
  | .extest => Sys2Proof.Machine.execExtest s
  | .samplePreload => Sys2Proof.Machine.execSamplePreload s
  | .idcode => Sys2Proof.Machine.execIdcode s
  | .bypass => Sys2Proof.Machine.execBypass s
  | .jtagClaim => Sys2Proof.Machine.execJtagClaim s
  | .musterTap payload r => Sys2Proof.Machine.execMusterTap payload r s
  | .regacc addr v write => Sys2Proof.Machine.execRegacc addr v write s
  | .testLogicReset => Sys2Proof.Machine.execTestLogicReset s
  | .i3cClaim v => Sys2Proof.Machine.execI3cClaim v s
  | .setaddr addr => Sys2Proof.Machine.execSetaddr addr s
  | .i3cRead => Sys2Proof.Machine.execI3cRead s
  | .i3cWrite v => Sys2Proof.Machine.execI3cWrite v s
  | .i3cBusReset => Sys2Proof.Machine.execI3cBusReset s
  | .entdaa addr => Sys2Proof.Machine.execEntdaa addr s
  | .setdasa static addr => Sys2Proof.Machine.execSetdasa static addr s
  | .rstdaa => Sys2Proof.Machine.execRstdaa s
  | .getpid => Sys2Proof.Machine.execGetpid s
  | .getbcr => Sys2Proof.Machine.execGetbcr s
  | .getdcr => Sys2Proof.Machine.execGetdcr s
  | .getstatus => Sys2Proof.Machine.execGetstatus s
  | .enec events => Sys2Proof.Machine.execEnec events s
  | .disec events => Sys2Proof.Machine.execDisec events s
  | .rstact action => Sys2Proof.Machine.execRstact action s
  | .syncStart c => Sys2Proof.Machine.execSyncStart c s
  | .fltCellInternal c => Sys2Proof.Machine.execFltCellInternal c s
  | .fltGateInternal region => Sys2Proof.Machine.execFltGateInternal region s
  | .fltBeatMaster => Sys2Proof.Machine.execFltBeatMaster s
  | .fltPowerManager => Sys2Proof.Machine.execFltPowerManager s
  | .hallAccess core addr op h => Sys2Proof.Machine.execHallAccess core addr op h s
  | .mgmtLinkUp speed => Sys2Proof.Machine.execMgmtLinkUp speed s
  | .imageProgrammingDone => Sys2Proof.Machine.execImageProgrammingDone s

end Sys2Proof.Machine
end

