-- ==== Sys2Proof/Machine/Tick.lean ====
section
/-! DEFINITION. The clock: what a cycle that passes brings about. -/

namespace Sys2Proof.Machine

/-- One cycle of the 3.0 GHz clock passes; messages handed to the links go to their ports (DESIGN CHOICE, log entry 1). -/
def tick (s : State) : State := flushOut { s with cycle := s.cycle + 1 }

end Sys2Proof.Machine
end

