-- ==== Sys2Proof/WellFormed.lean ====
section
/-! DEFINITION. Commands that can occur: the operands name units that the part has, and facts that come together. The
machine gives every command a meaning; an ill-formed one names no event of the part. -/

namespace Sys2Proof

/-- A check that shows in a cell: a store of 8 MiB at most (that of a block), an instruction memory of 4,096 words, four arrays
of 16,384 accumulator entries, and six buffers (R19, R157, R201, R208). -/
def Hit.wf (h : Hit) : Bool :=
  match h.mem with
  | .store => decide (h.loc < 2 ^ 23)
  | .imem => decide (h.loc < 4096)
  | .acc => decide (h.unit < 4 ∧ h.loc < 16384)
  | .buf => decide (h.unit < 6)

/-- An array of the part: 4,352 physical cells with four arrays each (R17, R122), whose rows and columns are 0 to 16. -/
def MusterArray.wf (a : MusterArray) : Bool :=
  decide (a.arr.toNat < 17408) && a.rows.all (fun r => decide (r < 17)) && a.cols.all (fun c => decide (c < 17))

/-- A memory of the part (R579). -/
def MusterMem.wf (m : MusterMem) : Bool :=
  match m with
  | .cell p => decide (p.toNat < 4352)
  | .row _ la => decide (la.toNat < 96 * 2 ^ 30)
  | _ => true

/-- What a self-test can find. -/
def MusterResult.wf (r : MusterResult) : Bool := r.arrays.all (fun a => a.wf) && r.mems.all (fun m => m.wf)

/-- One figure for each region, base die and engine, and no part larger than its whole (R567). -/
def PowerReading.wf (m : PowerReading) : Bool :=
  decide (m.regions.length = 4 ∧ m.dies.length = 8 ∧ m.engines.length = 8) &&
    (m.regions ++ m.dies ++ m.engines).all (fun x => decide (x.2 ≤ x.1)) &&
    m.shares.all (fun x => decide (x.1 < 16384 ∧ x.2.1 < 4))

/-- A datagram that fits the command port: what RFC 768 lets a UDP payload hold. -/
def Datagram.wf (d : Datagram) : Bool := decide (d.bytes.length ≤ 65527)

/-- A way of a command that can occur. -/
def Route.wf (r : Route) : Bool :=
  match r with
  | .session d => d.wf
  | _ => true

/-- A command that can occur on the part. -/
def Instr.wf (i : Instr) : Bool :=
  match i with
  | .weightLoadStart _ _ h | .passFeedStart _ _ h | .accumulatorWrite _ _ h _ | .vecStart _ h => h.wf
  | .moveStart _ h _ _ => h.wf
  | .cellScrub p h => decide (p.toNat < 4352) && h.wf
  | .refresh _ _ bank => decide (bank.toNat < 48)
  | .repairCopyDone _ la | .hpprConversion _ la _ | .frameRetire _ la => decide (la.toNat < 96 * 2 ^ 30)
  | .laneFail _ lane _ | .trainingFrame _ lane _ => decide (lane.toNat ≤ 16)
  | .powerInterval m => m.wf
  | .dieTempRead die _ | .thermtrip die => decide (die.toNat < 29)
  | .senseReadSkip osc unit => decide (unit.toNat < if osc then 60 else 29)
  | .ageRead unit _ => decide (unit.toNat < 60)
  | .mgmtConfigWrite _ reg _ _ => decide (reg.toNat < 3)
  | .mgmtLinkUp speed => decide (speed.toNat < 3)
  | .musterRunDone r => r.wf
  | .musterTap _ r => r.wf
  | .entdaa addr => decide (addr.toNat ≠ 0)
  | .setdasa _ addr => decide (addr.toNat ≠ 0)
  | .rstact action => decide (action.toNat ≤ 2)
  | .mgmtDatagram (.udp d) => d.wf
  | .ctxPark r | .ctxUnpark r | .ctxResize r | .ctxDestroy r | .ctxQuery r | .ringSet r | .granarySwap r | .beatSet r
  | .beatJoin r | .stepResolve r | .memEcc r | .lnkConfig r | .lnkFec r | .lnkSpare r | .codeCommit r | .musterRun r
  | .memMargin r | .lnkMargin r | .reportGet r | .pwrCap r | .pwrShare r | .sessionHello r | .sessionOpen r
  | .sessionClose r | .fwActivate r | .attestQuote r | .ticketFloor r | .xferAck r | .stop r | .fenceCell r
  | .quarantine r => r.wf
  | .ctxCreate r _ | .cfgWrite r _ | .cfgSwap r _ | .stepCmd r _ | .reshard r _ | .millFused r _ | .memMap r _
  | .memRead r _ | .memWrite r _ | .codeSet r _ | .codeRefresh r _ | .codeRebuild r _ | .snapshot r _
  | .fwWrite r _ => r.wf
  | _ => true

end Sys2Proof
end

