-- ==== Sys2Proof/Safety.lean ====
section
/-! DEFINITION. What counts as a good state, and the words that claims about the machine are stated in. -/

namespace Sys2Proof.Machine

/-! ### Good states -/

/-- Every table of device memory is in canonical form. -/
def Mem.wf (m : Mem) : Bool :=
  sWf 0#8 m.hbm && sWf false m.poison && sWf 0#8 m.scratch && sWf {} m.dies && sWf {} m.rows && sWf false m.retired &&
    sWf false m.retiring && sWf false m.carveFailed && sWf [] m.cache

/-- A table of registers lists addresses in rising order, and no register at its reset value. -/
def regsWf (m : Sparse Word) : Bool := sRising m && m.all (fun e => decide (e.2 ≠ regResetAt e.1))

/-- Memory and registers are in canonical form, so that equal contents are equal data. -/
def State.wf (s : State) : Bool := s.mem.wf && regsWf s.regs && regsWf s.regsEff

/-! ### A cell issues an instruction -/

/-- The physical cell that holds a logical number. -/
abbrev cellOfL (s : State) (c : LCell) : Nat := physOf s c.toNat

/-- The word at the cell's program counter. -/
def wordAt (s : State) (c : LCell) : InsnWord :=
  sGet 0#128 (cellAt s (cellOfL s c)).imem (cellAt s (cellOfL s c)).seq.pc

/-- Cell c is about to issue the word w, of class k and operation op: it runs and waits for nothing, its program counter
lies in instruction memory, the word there is w, no IMLOAD is writing it, and no RWAIT still has to write a register that it
names (R47, R48, R161, R163, R185). -/
structure Issues (s : State) (c : LCell) (w : InsnWord) (k op : Nat) : Prop where
  issuing : issuing s c.toNat = true
  inMem : (cellAt s (cellOfL s c)).seq.pc < 4096
  loaded : imloadCovers (cellAt s (cellOfL s c)).units (cellAt s (cellOfL s c)).seq.pc = false
  word : wordAt s c = w
  op : classOp w = (k, op)
  free : interlocked (cellAt s (cellOfL s c)) w = false

/-- The state once the instruction word has been read: a corrected error of instruction memory is counted in the cell and in
the Tally (R160). -/
def fetched (s : State) (c : LCell) (m : Meet) : State :=
  if m.imem = .corrected then
    tallyAdd (updCell s (cellOfL s c) (fun x => { x with cnt := { x.cnt with imemCe := satAdd 64 x.cnt.imemCe 1 } }))
      0x01 0x02 (cellOfL s c) 1
  else s

/-- The state once the word has been read and the cell itself has changed. -/
def issued (s : State) (c : LCell) (m : Meet) (f : Cell → Cell) : State := updCell (fetched s c m) (cellOfL s c) f

/-- The cell that issues. -/
abbrev issuer (s : State) (c : LCell) : Cell := cellAt s (cellOfL s c)

/-! ### Frames -/

/-- Nothing but physical cell p and the Tally differs between two states. -/
def OnlyCell (p : Nat) (s t : State) : Prop :=
  t = { s with cells := t.cells, tly := t.tly } ∧ ∀ q, q ≠ p → cellAt t q = cellAt s q

/-! ### Commands -/

/-- What a route does once its command has been decided: a ring passes over the reserved opcodes that stand behind it. -/
def routeAfter (r : Route) (t : State) : State :=
  match r with
  | .normal c => refuseReserved c.toNat false 4096 t
  | .urgent c => refuseReserved c.toNat true 16 t
  | .session _ => t
  | .queued _ => t

/-- The command c of opcode op reaches Ozmin by the route r in state s, and is decided in state s₁: whatever its own rule
makes of it is what the row does. -/
def Reaches (op : Nat) (r : Route) (s s₁ : State) (c : Cmd) : Prop :=
  ∀ go : Cmd → State → State, command op r go s = flushOut (routeAfter r (go c s₁))

/-- The row answers the state t, its messages handed to their ports and the reserved opcodes behind it passed over. -/
def RowGives (i : Instr) (r : Route) (s t : State) : Prop := exec i s = .next (flushOut (routeAfter r t))

end Sys2Proof.Machine
end

