-- ==== Sys2Proof/Certificates/Slice0/Obligations.lean ====
section
/-! DEFINITION. What is claimed of the machine, as statements for the provers. -/

open Sys2Proof Sys2Proof.Machine

/-! ### The queue of commands -/

/-- The command at the front of the queue runs on the queue's rest; on an empty queue one cycle of the clock passes (the model's
own choice, log entry 1). -/
def Obligations.StepRunsTheFront : Prop :=
  (∀ (s : State) (i : Instr), step { s with pending := i :: s.pending } = exec i s) ∧
  (∀ s : State, s.pending = [] → step s = .next (tick s)) ∧ (∀ s : State, s.out = [] → tick s = { s with cycle := s.cycle + 1 })

/-! ### Cells: the control class (R171) -/

/-- LI, ADD, SUB, AND, OR, XOR, SHL, SHR and MUL write what R171 gives to x[RD], discard it where RD is 0, go on to the next
instruction, and change nothing else of the machine. -/
def Obligations.ScalarResults : Prop :=
  ∀ (s : State) (c : LCell) (m : Meet) (w : InsnWord), m.imem ≠ .uncorrectable → controlLegal w = true →
    let a := raOf (issuer s c) w
    let b := rbOf (issuer s c) w
    let gives : Instr → Nat → Word → Prop := fun i op v => Issues s c w 0 op →
      exec i s = .next (issued s c m (fun x => { x with x := xSet x.x (wf w 115 112) v }.next))
    gives (.li c m) 0x03 (immOf w) ∧ gives (.add c m) 0x04 (a + b + immOf w) ∧ gives (.sub c m) 0x05 (a - b) ∧
    gives (.andOp c m) 0x06 (a &&& b) ∧ gives (.orOp c m) 0x07 (a ||| b) ∧ gives (.xorOp c m) 0x08 (a ^^^ b) ∧
    gives (.shl c m) 0x09 (a <<< ((immOf w).toNat % 64)) ∧ gives (.shr c m) 0x0A (a >>> ((immOf w).toNat % 64)) ∧
    gives (.mul c m) 0x0B (a * b)

/-- LDX, STX and LDD move 8, 8 and 16 bytes between the cell store at x[RA] + IMM, aligned to their size and inside the store,
and a register; a load adds to the count of corrected errors where its line shows one. DADD adds x[RA] + IMM to BASE modulo
2^40. Each goes on and changes nothing else. -/
def Obligations.StoreAccess : Prop :=
  ∀ (s : State) (c : LCell) (m : Meet) (w : InsnWord) (a : Nat), m.imem ≠ .uncorrectable → controlLegal w = true →
    let x := issuer s c
    let at_ := (raOf x w + immOf w).toNat
    (Issues s c w 0 0x0C → m.data ≠ .uncorrectable → at_ = a → a % 8 = 0 → a + 8 ≤ 0x80000 →
      exec (.ldx c m) s = .next (updCell (storeMeets (cellOfL s c) m.data (fetched s c m)) (cellOfL s c) (fun y =>
        { y with x := xSet y.x (wf w 115 112) (BitVec.ofNat 64 (leNat (storeBytes x a 8))) }.next))) ∧
    (Issues s c w 0 0x0D → at_ = a → a % 8 = 0 → a + 8 ≤ 0x80000 →
      exec (.stx c m) s = .next (issued s c m (fun y => (y.putStore a (natLe 8 (rbOf x w).toNat)).next))) ∧
    (Issues s c w 0 0x0E → m.data ≠ .uncorrectable → at_ = a → a % 16 = 0 → a + 16 ≤ 0x80000 →
      exec (.ldd c m) s = .next (updCell (storeMeets (cellOfL s c) m.data (fetched s c m)) (cellOfL s c) (fun y =>
        { y with d := dSet y.d (wf w 103 100) (BitVec.ofNat 128 (leNat (storeBytes x a 16))) }.next))) ∧
    (Issues s c w 0 0x0F →
      exec (.dadd c m) s = .next (issued s c m (fun y => { y with d := dSet y.d (wf w 103 100) (BitVec.ofNat 128
        (putBits (dGet x.d (wf w 103 100)).toNat 39 0
          ((bitsOf (dGet x.d (wf w 103 100)).toNat 39 0 + (raOf x w).toNat + (immOf w).toNat) % 2 ^ 40))) }.next)))

/-- NOP goes on; BR goes to its target where its condition holds, and on where it does not; LOOP pushes a level for x[RA] ≥ 1
repeats, skips its body for none; RDINFO writes its item; FENCE goes on once the units it names are done, and stays until
then; YIELD issues nothing further. -/
def Obligations.ControlFlow : Prop :=
  ∀ (s : State) (c : LCell) (m : Meet) (w : InsnWord), m.imem ≠ .uncorrectable → controlLegal w = true →
    let x := issuer s c
    (Issues s c w 0 0x01 → exec (.nop c m) s = .next (issued s c m Cell.next)) ∧
    (Issues s c w 0 0x10 → exec (.br c m) s = .next (issued s c m (fun y =>
      if branchHolds (wf w 63 60) (raOf x w) (rbOf x w) then { y with seq := { y.seq with pc := wf w 11 0 } } else y.next))) ∧
    (Issues s c w 0 0x11 → (raOf x w).toNat = 0 → x.seq.pc + 1 ≤ wf w 11 0 →
      exec (.loop c m) s = .next (issued s c m (fun y => { y with seq := y.seq.advance (wf w 11 0) }))) ∧
    (Issues s c w 0 0x11 → 0 < (raOf x w).toNat → x.seq.pc + 1 ≤ wf w 11 0 → x.seq.loops.length < 4 →
      exec (.loop c m) s = .next (issued s c m (fun y => { y with seq := { y.seq with
        pc := y.seq.pc + 1, loops := ⟨y.seq.pc + 1, wf w 11 0, (raOf x w).toNat⟩ :: y.seq.loops } }))) ∧
    (Issues s c w 0 0x12 → exec (.rdinfo c m) s = .next (issued s c m (fun y =>
      { y with x := xSet y.x (wf w 115 112) (BitVec.ofNat 64 (rdinfoItem s c.toNat (wf w 7 0))) }.next))) ∧
    (Issues s c w 0 0x13 → exec (.fence c m) s = .next (
      if fenceOpen s c.toNat (wf w 3 0) then issued s c m Cell.next else fetched s c m)) ∧
    (Issues s c w 0 0x02 → exec (.yield c m) s = .next (issued s c m (fun y =>
      { y with seq := { y.seq with yieldIssued := true } })))

/-! ### Cells: issue into the unit queues (R161, R615) -/

/-- Every vector operation, with room in the vector queue of 8, joins it with its word, its index and the registers as they
stand at issue; the cell goes on and nothing else changes. -/
def Obligations.VectorIssue : Prop :=
  ∀ (s : State) (c : LCell) (m : Meet) (w : InsnWord), m.imem ≠ .uncorrectable → vecLegal w = true →
    (issuer s c).units.vector.length < 8 →
    let joins : Instr → Nat → Prop := fun i op => Issues s c w 2 op → exec i s = .next (issued s c m (fun x =>
      Cell.next { x with units := { x.units with vector := x.units.vector ++ [x.capture w] } }))
    (joins (.vmov c m) 0x01 ∧ joins (.neg c m) 0x02 ∧ joins (.abs c m) 0x03 ∧ joins (.csgn c m) 0x04 ∧
    joins (.vecAnd c m) 0x05 ∧ joins (.vecOr c m) 0x06 ∧ joins (.vecXor c m) 0x07 ∧ joins (.sel c m) 0x08) ∧
    (joins (.vecAdd c m) 0x10 ∧ joins (.vecSub c m) 0x11 ∧ joins (.vecMul c m) 0x12 ∧ joins (.fma c m) 0x13 ∧
    joins (.vecMax c m) 0x14 ∧ joins (.vecMin c m) 0x15 ∧ joins (.cmp c m) 0x16 ∧ joins (.div c m) 0x18) ∧
    (joins (.sqrt c m) 0x19 ∧ joins (.rsqrt c m) 0x1A ∧ joins (.rcp c m) 0x1B ∧ joins (.exp2 c m) 0x1C ∧
    joins (.log2 c m) 0x1D ∧ joins (.tanh c m) 0x1E ∧ joins (.rred c m) 0x20 ∧ joins (.cred c m) 0x21) ∧
    (joins (.trans c m) 0x22 ∧ joins (.cvt c m) 0x28 ∧ joins (.rand c m) 0x30 ∧ joins (.drop c m) 0x31 ∧
    joins (.venq c m) 0x38 ∧ joins (.adrop c m) 0x39)

/-- Every move-class operation, with room in the move queue of 8, joins it with the registers it captures; the cell goes on
and nothing else changes. ATOM's rows differ by OPC and COLL's by FN. -/
def Obligations.MoveIssue : Prop :=
  ∀ (s : State) (c : LCell) (m : Meet) (w : InsnWord), m.imem ≠ .uncorrectable → moveLegal w = true →
    (issuer s c).units.move.length < 8 →
    let joins : Instr → Nat → (InsnWord → Bool) → Prop := fun i op mine => Issues s c w 4 op → mine w = true →
      exec i s = .next (issued s c m (fun x =>
        Cell.next { x with units := { x.units with move := x.units.move ++ [x.capture w] } }))
    let any : InsnWord → Bool := fun _ => true
    let opc : Nat → InsnWord → Bool := fun k v => wf v 23 20 == k
    let fn : Nat → InsnWord → Bool := fun k v => wf v 80 79 == k
    (joins (.move c m) 1 any ∧ joins (.rdef c m) 2 any ∧ joins (.rconn c m) 3 any ∧ joins (.rpush c m) 4 any ∧
    joins (.rwait c m) 5 any ∧ joins (.rfree c m) 6 any ∧ joins (.imload c m) 7 any ∧ joins (.gather c m) 9 any) ∧
    (joins (.atomAdd c m) 8 (opc 0) ∧ joins (.atomMin c m) 8 (opc 1) ∧ joins (.atomMax c m) 8 (opc 2) ∧
    joins (.atomSwap c m) 8 (opc 3) ∧ joins (.atomCas c m) 8 (opc 4) ∧ joins (.atomVadd c m) 8 (opc 5)) ∧
    (joins (.rscat c m) 10 (fn 0) ∧ joins (.reduce c m) 10 (fn 1) ∧ joins (.allgath c m) 10 (fn 2))

/-- An MPASS that passes the checks of R180, with room in the matrix queue of 4, joins it; where it loads weights it becomes the
loading pass of every array that it holds. One that fails a check raises the fault that the check names. -/
def Obligations.MatrixIssue : Prop :=
  ∀ (s : State) (c : LCell) (m : Meet) (w : InsnWord), m.imem ≠ .uncorrectable → mpassLegal w = true → Issues s c w 1 1 →
    (∀ code, mpassCheck (issuer s c) w = .inl code →
      exec (.mpass c m) s = .next (faultHere code c.toNat w (fetched s c m))) ∧
    (∀ k n integer, mpassCheck (issuer s c) w = .inr (k, n, integer) → (issuer s c).units.matrix.length < 4 →
      exec (.mpass c m) s = .next (issued s c m (fun y =>
        let serial := y.seq.passSerial + 1
        let z := if mpKeep w then y else (arraysHeld w).foldl (fun z a => z.updArray a (fun r =>
          { r with loader := some ⟨serial, mpMode w, k, n, integer⟩ })) y
        Cell.next { z with seq := { y.seq with passSerial := serial }
                           units := { y.units with matrix := y.units.matrix ++ [⟨y.capture w, false⟩] } })))

/-- POST and ARRIVE join the sync queue of 4 and the cell goes on; WAIT, TAKE and LWAIT join it and block the cell, with the
bell or line and the target that they name, from the cycle of issue (R304) until the timeout of R305: their own TIMEOUT, else
that of the context, else that of BELL_CTL. -/
def Obligations.SyncIssue : Prop :=
  ∀ (s : State) (c : LCell) (m : Meet) (w : InsnWord), m.imem ≠ .uncorrectable → syncLegal w = true →
    (issuer s c).units.sync.length < 4 →
    let x := issuer s c
    let own := (ctxAt s ((ownerOf s (blockOf c.toNat)).getD 0)).desc.timeout
    let us := if wf w 57 38 ≠ 0 then wf w 57 38 else if own ≠ 0 then own else effField s aBellCtl 19 0
    let bell := if wf w 111 111 = 1 then (xGet x.x (wf w 115 112)).toNat % 65536 else wf w 110 95
    let joins : Instr → Nat → Option PendingWait → Prop := fun i op wait => Issues s c w 5 op →
      exec i s = .next (issued s c m (fun y =>
        let z := Cell.next { y with units := { y.units with sync := y.units.sync ++ [y.capture w] } }
        match wait with | none => z | some _ => { z with seq := { z.seq with wait := wait } }))
    let waits : Bool → Bool → Nat → Option PendingWait := fun line take id =>
      some ⟨line, take, id, BitVec.ofNat 32 (wf w 89 58), s.cycle, s.cycle + 3000 * us, false, s.cycle, x.seq.pc, w⟩
    joins (.post c m) 1 none ∧ joins (.arrive c m) 4 none ∧ joins (.wait c m) 2 (waits false false bell) ∧
    joins (.take c m) 3 (waits false true bell) ∧ joins (.lwait c m) 5 (waits true false (wf w 94 90))

/-! ### The matrix arrays (chapter 04) -/

/-- A queued pass whose arrays no earlier queued pass is still to load loads its weights into the standby registers of every
array that it holds, sets the flags of its expansion, and is marked loaded (R123, R129). Nothing else of the machine changes,
but for the count of a corrected error. -/
def Obligations.WeightLoad : Prop :=
  ∀ (s : State) (c : LCell) (i : BitVec 2) (h : Hit) (o : MatrixOp), h.ecc ≠ .uncorrectable →
    (issuer s c).units.matrix[i.toNat]? = some o → mpKeep o.op.word = false → o.loaded = false →
    (∀ e ∈ (issuer s c).units.matrix.take i.toNat, mpKeep e.op.word = true ∨ shareArray e.op.word o.op.word = false) →
    let d := o.op.tile (mpWd o.op.word)
    let rd := readStore (issuer s c)
    ∃ t, exec (.weightLoadStart c i h) s = .next t ∧ OnlyCell (cellOfL s c) s t ∧
      (∀ a ∈ arraysHeld o.op.word, (arrayAt (issuer t c) a).standby = loadWeights o.op.word d rd a ∧
        (arrayAt (issuer t c) a).active = (arrayAt (issuer s c) a).active) ∧
      (∀ a, a ∉ arraysHeld o.op.word → arrayAt (issuer t c) a = arrayAt (issuer s c) a) ∧
      (issuer t c).units = { (issuer s c).units with
        matrix := updAt (issuer s c).units.matrix i.toNat (fun o => { o with loaded := true }) } ∧
      (issuer t c).flags = (issuer s c).flags ||| loadFlags o.op.word d rd ∧
      (issuer t c).x = (issuer s c).x ∧ (issuer t c).d = (issuer s c).d ∧ (issuer t c).store = (issuer s c).store ∧
      (issuer t c).acc = (issuer s c).acc

/-- A pass whose weights stand ready begins to feed: it leaves the queue with its activation vectors as they stand, its arrays
turn their standby weights active (a KEEP pass keeps those that are), and every array that it feeds counts it (R123, R130). -/
def Obligations.PassFeed : Prop :=
  ∀ (s : State) (c : LCell) (i : BitVec 2) (h : Hit) (o : MatrixOp), h.ecc ≠ .uncorrectable →
    (issuer s c).units.matrix[i.toNat]? = some o → (mpKeep o.op.word = true ∨ o.loaded = true) →
    (∀ e ∈ (issuer s c).units.matrix.take i.toNat, shareArray e.op.word o.op.word = false) →
    let w := o.op.word
    let d := o.op.tile (mpAd w)
    let from_ : Nat → Weights := fun a => if mpKeep w then (arrayAt (issuer s c) a).active else (arrayAt (issuer s c) a).standby
    (mpFinish w = true → entriesDue (issuer s c).units < 2) →
    (∀ e ∈ (issuer s c).units.ftq,
      rectsMeet (entryRects e) (tileRects (mpMode w) (mpArray w) (mpBase w) d.rows (from_ (mpArray w)).n) = false) →
    ∃ t q, exec (.passFeedStart c i h) s = .next t ∧ OnlyCell (cellOfL s c) s t ∧
      (issuer t c).units.passes = (issuer s c).units.passes ++ [q] ∧
      (issuer t c).units.matrix = (issuer s c).units.matrix.eraseIdx i.toNat ∧
      q.op = o.op ∧ q.next = 0 ∧ q.fmt = d.code ∧
      q.acts = (List.range d.rows).map (fun m => (List.range d.cols).map (fun k => d.scaledElem (readStore (issuer s c)) m k)) ∧
      (∀ a ∈ arraysHeld w, (arrayAt (issuer t c) a).active = from_ a) ∧
      (issuer t c).acc = (issuer s c).acc ∧ (issuer t c).x = (issuer s c).x ∧ (issuer t c).store = (issuer s c).store

/-- The next vector of the first pass of a cell is accumulated and written in every array that it reaches: where the check finds
no mismatch, the accumulators hold what R100 to R103 give for its groups, and the pass goes on to its next vector (R125, R131
to R134, R147). A FINISH pass that has written its last vector then places its entry in the finished-tile queue (R143). -/
def Obligations.Accumulate : Prop :=
  (∀ (s : State) (c : LCell) (h : Hit) (u : Option Upset) (q : Pass) (rest : List Pass), h.ecc = .clean →
    (issuer s c).units.passes = q :: rest →
    let s₁ := (q.targets q.next).foldl (fun s v => updCell s (cellOfL s c) (fun x => accumulateVector q u x v)) s
    (checkAll c.toNat (cellOfL s c) q u s₁).2 = none →
    ∃ t, exec (.accumulatorWrite c 0 h u) s = .next t ∧ OnlyCell (cellOfL s c) s t ∧
      (issuer t c).acc = ((q.targets q.next).foldl (accumulateVector q u) (issuer s c)).acc ∧
      (issuer t c).flags = ((q.targets q.next).foldl (accumulateVector q u) (issuer s c)).flags ∧
      (issuer t c).units = passWritten 0 { (issuer s c).units with passes := { q with next := q.next + 1 } :: rest } ∧
      (issuer t c).x = (issuer s c).x ∧ (issuer t c).store = (issuer s c).store) ∧
  (∀ (s : State) (c : LCell) (e : Word) (rest : List Word), (issuer s c).units.finishing = e :: rest →
    exec (.finishedTileEntry c) s = .next (updCell s (cellOfL s c) (fun x =>
      { x with units := { x.units with finishing := rest, ftq := x.units.ftq ++ [e] } })))

/-! ### The vector engine (chapter 06) -/

/-- The instruction at the head of the vector queue runs whole: VENQ places its entry where there is room, ADROP removes the
head entry, and one with operands, whose sources, formats and destination are well formed, writes what R214 to R224 give for
its operation, sets the flags it raises, counts itself and its elements, and removes the head entry where it says so. The
cell's registers and accumulators, and everything outside the cell, stay as they were. -/
def Obligations.VectorStart : Prop :=
  ∀ (s : State) (c : LCell) (h : Hit) (o : UnitOp) (rest : List UnitOp), h.ecc = .clean →
    (issuer s c).units.vector = o :: rest →
    let p := cellOfL s c
    let x := issuer (popVector p s) c
    let counted : Cell → Nat → CellCounters := fun y n =>
      { y.cnt with vecInsns := satAdd 64 y.cnt.vecInsns 1, vecElems := satAdd 64 y.cnt.vecElems n }
    (vOp o.word = 0x38 → venqOk (xGet o.x (wf o.word 55 52)) = true → entriesDue (issuer s c).units < 2 →
      ∃ t, exec (.vecStart c h) s = .next t ∧ OnlyCell p s t ∧
        issuer t c = { x with cnt := counted x 0
                              units := { x.units with ftq := x.units.ftq ++ [xGet o.x (wf o.word 55 52)] } }) ∧
    (vOp o.word = 0x39 → (issuer s c).units.ftq ≠ [] →
      ∃ t, exec (.vecStart c h) s = .next t ∧ OnlyCell p s t ∧
        issuer t c = { x with cnt := counted x 0, units := { x.units with ftq := x.units.ftq.tail } }) ∧
    (∀ n ct1 vs d, vecShape (vOp o.word) = some (n, ct1) → vOp o.word ≠ 0x38 → vOp o.word ≠ 0x39 →
      vecSourceList x o (vSources o.word) = .inr vs → (vCt o.word = 1 → ct1 = true) →
      vs.all (sourceFormatOk (vOp o.word) (vCt o.word)) = true → vecDest x o vs = .inr d →
      ((vSources o.word).any (fun sp => sp / 16 == 3) = true → (issuer s c).units.ftq ≠ []) →
      let ctx := ctxAt s ((ownerOf s (blockOf c.toNat)).getD 0)
      let r := vecCompute (ctx.desc.mode / 4 % 2 == 1) ctx.desc.seed o vs d
      let y := issuer (vecWrite p d r (popVector p s)) c
      Nat.land r.allFlags.toNat (effField s (regInst aVecCtl (regionOf c.toNat)) 7 0) = 0 →
      ∃ t, exec (.vecStart c h) s = .next t ∧ OnlyCell p s t ∧
        issuer t c = { y with flags := y.flags ||| r.allFlags
                              cnt := { counted y (d.rows * d.cols) with vecFlags := y.cnt.vecFlags ||| r.allFlags }
                              units := { y.units with ftq := if vPop o.word then y.units.ftq.tail else y.units.ftq } } ∧
        (issuer t c).x = (issuer s c).x ∧ (issuer t c).d = (issuer s c).d ∧ (issuer t c).acc = (issuer s c).acc)

/-! ### The move engine (R181 to R192, R614) -/

/-- With fewer than four operations in flight, the head of the move queue starts and is in flight: RDEF and RWAIT, RFREE of a
slot returned, RPUSH with a credit, which it takes with the consumer's next slot, and a MOVE inside the cell, which captures
the bytes that it is to write. -/
def Obligations.MoveStart : Prop :=
  ∀ (s : State) (c : LCell) (h : Hit) (lh : LineHit) (ctx : Nat) (o : UnitOp) (rest : List UnitOp), h.ecc = .clean →
    ownerOf s (blockOf c.toNat) = some ctx → (issuer s c).units.move = o :: rest → (issuer s c).units.flights.length < 4 →
    postBell o.word = none →
    let p := cellOfL s c
    let w := o.word
    let x := issuer s c
    let flies : Flight → Prop := fun f => ∃ t, exec (.moveStart c h lh .none) s = .next t ∧ OnlyCell p s t ∧
      issuer t c = { x with units := { x.units with move := rest, flights := x.units.flights ++ [f] } }
    (classOp w = (4, 2) → (ringAt x (wf w 54 52)).defined = false → wf w 51 44 ≠ 0 →
      (xGet o.x (wf w 43 40)).toNat + wf w 51 44 * wf w 39 24 * 64 ≤ storeSize →
      flies ⟨o, .rdef, 0x30000 + wf w 54 52, [], none⟩) ∧
    (classOp w = (4, 5) → (ringAt x (wf w 54 52)).defined = true →
      flies ⟨o, .rwait (wf w 54 52) (wf w 43 40), 0x30000 + wf w 54 52, [], none⟩) ∧
    (classOp w = (4, 6) → freesDue x (wf w 54 52) < (ringAt x (wf w 54 52)).returned →
      flies ⟨o, .rfree (wf w 54 52) none, 0x30000 + wf w 54 52, [], none⟩) ∧
    (classOp w = (4, 1) → wf w 107 105 = 0 → wf w 104 102 = 0 → wf w 81 81 = 0 →
      let a := o.tile (wf w 115 112)
      let b := o.tile (wf w 111 108)
      a.ok (spaceSize 0) = true → b.destOk (spaceSize 0) = true → a.rows = b.rows → a.cols = b.cols → a.code = b.code →
      ((a.scale == 0) = (b.scale == 0)) → (a.fmt.scaled = true → a.phase = b.phase) → a.overlaps b = false →
      routeDown s (regionOf c.toNat) (Space.region ⟨0, p⟩) = false →
      flies ⟨o, .copy, 1 + p, copyWrites s a b ⟨0, p⟩ ⟨0, p⟩, none⟩) ∧
    (classOp w = (4, 4) → wf w 81 81 = 0 →
      let hd := handleAt x (wf w 54 52)
      let q := physOf s hd.peer
      let g := ringAt (cellAt s q) hd.ring
      let bs := packedBytes (o.tile (wf w 115 112)) (readStore x)
      hd.bound = true → hd.credits ≠ 0 → (o.tile (wf w 115 112)).ok storeSize = true → bs.length ≤ 64 * g.slotSz →
      routeDown s (regionOf c.toNat) (regionOf hd.peer) = false → q ≠ p →
      ∃ t, exec (.moveStart c h lh .none) s = .next t ∧
        (handleAt (issuer t c) (wf w 54 52)).credits = hd.credits - 1 ∧
        (ringAt (cellAt t q) hd.ring).nextFill = (g.nextFill + 1) % g.slots ∧
        (issuer t c).units = { x.units with move := rest, flights := x.units.flights ++
          [⟨o, .push hd.peer hd.ring g.nextFill false, 1 + q, (bs.zipIdx).map (fun e =>
            byteWrite (.store q) (g.base + 64 * g.slotSz * g.nextFill + e.2) e.1.toNat), none⟩] } ∧
        (cellAt t q).store = (cellAt s q).store ∧ (issuer t c).store = x.store ∧ t.mem = s.mem)

/-- An operation in flight that no earlier one to its destination holds back completes: a copy outside the context space and
IMLOAD write their bytes, RWAIT returns the oldest filled and unreturned slot to its register, RDEF defines its ring, and RFREE
releases the oldest slot and sends its credit. All but RFREE leave the unit, and a bell named with POST gets its operation
(R184 to R189). -/
def Obligations.MoveComplete : Prop :=
  ∀ (s : State) (c : LCell) (i : BitVec 2) (lh : LineHit) (ctx : Nat) (f : Flight),
    ownerOf s (blockOf c.toNat) = some ctx → (issuer s c).units.flights[i.toNat]? = some f →
    heldBack (issuer s c).units.flights i.toNat = false →
    let p := cellOfL s c
    let done : State → State := fun t => postAfter f.post c.toNat ctx f.op (dropFlight p i.toNat t)
    let gives : State → Prop := fun t => exec (.moveComplete c i lh .none) s = .next t
    (f.kind = .copy → f.dest ≠ 0x20000 → gives (done (applyWrites f.writes s))) ∧
    (∀ a n, f.kind = .imload a n → gives (done (applyWrites f.writes s))) ∧
    (∀ r ra, f.kind = .rwait r ra → (ringAt (issuer s c) r).returned < (ringAt (issuer s c) r).filled.length →
      let g := ringAt (issuer s c) r
      gives (done (updRing p r (fun g => { g with returned := g.returned + 1 }) (updCell s p (fun x =>
        { x with x := xSet x.x ra (BitVec.ofNat 64 (g.base + 64 * g.slotSz * ((g.nextFree + g.returned) % g.slots))) }))))) ∧
    (∀ r, f.kind = .rfree r none →
      gives (updFlight p i.toNat (fun f => { f with kind := .rfree r (ringAt (issuer s c) r).filled.head? })
        (updRing p r (fun g => { g with filled := g.filled.drop 1, returned := g.returned - 1
                                        nextFree := (g.nextFree + 1) % g.slots }) s))) ∧
    (f.kind = .rdef → wf f.op.word 51 44 ≠ 0 →
      gives (done (updRing p (wf f.op.word 54 52) (fun _ => { defined := true, base := (xGet f.op.x (wf f.op.word 43 40)).toNat
                                                              slots := wf f.op.word 51 44, slotSz := wf f.op.word 39 24 }) s)))

/-- A push whose last byte is written fills its slot, where the ring has room, and raises the ring's high-water marks; a credit
that returns adds one to the producer's handle; RCONN's credits bind an unbound handle with one credit for each slot of a ring
that is defined (R187 to R189, R614). -/
def Obligations.RingsAndCredits : Prop :=
  ∀ (s : State) (c : LCell) (i : BitVec 2) (f : Flight), (issuer s c).units.flights[i.toNat]? = some f →
    let p := cellOfL s c
    (∀ peer r slot, f.kind = .push peer r slot false →
      let q := physOf s peer
      let g := ringAt (cellAt s q) r
      let n := g.filled.length + 1
      g.filled.length < g.slots →
      ∃ t, exec (.ringSlotFill c i) s = .next t ∧
        t = updRing q r (fun g => { g with filled := g.filled ++ [(c.toNat, wf f.op.word 54 52)], hwmBeat := max g.hwmBeat n
                                           hwmStep := max g.hwmStep n, hwmMax := max g.hwmMax n })
          (applyWrites f.writes (updFlight p i.toNat (fun f => { f with kind := .push peer r slot true }) s))) ∧
    (∀ r peer h, f.kind = .rfree r (some (peer, h)) →
      exec (.creditReturn c i) s = .next (updHandle (physOf s peer) h (fun d => { d with credits := d.credits + 1 })
        (dropFlight p i.toNat s))) ∧
    (∀ h peer r, f.kind = .rconn h peer r →
      (ringAt (cellAt s (physOf s peer)) r).defined = true → (handleAt (issuer s c) h).bound = false →
      exec (.creditReturn c i) s = .next (updHandle p h (fun _ =>
        ⟨true, peer, r, (ringAt (cellAt s (physOf s peer)) r).slots⟩) (dropFlight p i.toNat s)))

/-- The next element or row of an ATOM whose turn it is at its Square is applied there at once: the new value is that of
R282 from the old one, the old value and the flags join the operation's, and the Square counts it. A GATHER that arrives at the
residency table has each of its shards treated in turn (R281, R352). -/
def Obligations.AtomicApply : Prop :=
  ∀ (s : State) (c : LCell) (i : BitVec 2) (ctx : Nat) (f : Flight), (issuer s c).units.flights[i.toNat]? = some f →
    ownerOf s (blockOf c.toNat) = some ctx →
    (∀ src cmp old flags, f.kind = .atom src cmp old flags → old.length < atomUnits f.op →
      let die := atomDie s ctx f.op old.length
      atomWaits s ctx ((issuer s c).units.flights.take i.toNat) die = false →
      let r := atomApplyUnit ctx f.op src cmp old.length s
      ∃ t, exec (.atomicApply c i .clean) s = .next t ∧ t.mem.scratch = r.2.2.mem.scratch ∧ t.mem.hbm = s.mem.hbm ∧
        ((issuer t c).units.flights[i.toNat]?).map (fun g => g.kind) =
          some (.atom src cmp (old ++ if atomOpc f.op.word = 5 then [0] else r.1) (flags ||| r.2.1)) ∧
        (dieAt t die).atomics = satAdd 64 (dieAt s die).atomics 1 ∧ t.ctxs = s.ctxs ∧ t.regs = s.regs) ∧
    (∀ id o lh, f.kind = .gate id → gateOp s id = some o → o.fn = 3 →
      exec (.gatherApply c i lh) s =
        .next ((o.items.map (fun t => t.index)).foldl (fun s n => gatherShard id n lh s) s))

/-! ### Bells and lines (chapter 09) -/

/-- The sync unit starts the operation at its head: one on a bell of the context's run, over links that are up, is on its way
to the bell's store; LWAIT whose latch is set clears it and the cell resumes; the last ARRIVE of a line without other members
completes it (R193, R299, R303, R311). -/
def Obligations.SyncStart : Prop :=
  ∀ (s : State) (c : LCell) (ctx : Nat) (o : UnitOp) (rest : List UnitOp), ownerOf s (blockOf c.toNat) = some ctx →
    (issuer s c).units.sync = o :: rest →
    let s₁ := popSync (cellOfL s c) s
    let gives : State → Prop := fun t => exec (.syncStart c) s = .next t
    let v := BitVec.ofNat 32 (wf o.word 89 58)
    let sends : Nat → BellOpKind → Prop := fun op k => classOp o.word = (5, op) → ownsBell s ctx (syncBell o) = true →
      routeDown s (regionOf c.toNat) (syncBell o / 16384) = false →
      gives (sendBellOp ⟨syncBell o, k, some c.toNat, ctx, o.pc, o.word⟩ s₁)
    let l := wf o.word 94 90
    let b := lineBit s ctx c.toNat
    sends 1 (.post v) ∧ sends 2 (.wait v) ∧ sends 3 .take ∧
    (classOp o.word = (5, 4) → ownsLine s ctx l = true → sGet false (lineAt s l).mask b = true →
      sGet false (lineAt s l).arrived b = false → sGet false (lineAt s l).latch b = false → (lineAt s l).latchDue = false →
      gives (completeLine l (tellPeers ctx l (updLine l (fun n => { n with arrived := sSet false n.arrived b true }) s₁)))) ∧
    (classOp o.word = (5, 5) → ownsLine s ctx l = true → sGet false (lineAt s l).mask b = true →
      sGet false (lineAt s l).latch b = true →
      gives (resumeCell c.toNat (updLine l (fun n => { n with latch := sSet false n.latch b false }) s₁)))

/-- The store of a bell applies the operation that arrives whole: a POST below 2^31 adds to the count and releases the waiters
that it reaches; a WAIT that is reached releases its cell at once and one that is not is registered; a TAKE takes one from a
count that reaches 1 and releases its cell, and is registered otherwise (R299 to R302). -/
def Obligations.BellApply : Prop :=
  ∀ (s : State) (i : BitVec 16) (o : BellOp), s.sync.ops[i.toNat]? = some o →
    (s.sync.ops.take i.toNat).any (fun q => q.cell == o.cell && q.bell == o.bell) = false → (bellAt s o.bell).bad = false →
    let b := o.bell
    let n := (bellAt s b).count
    let s₁ : State := { s with sync := { s.sync with ops := s.sync.ops.eraseIdx i.toNat } }
    let gives : State → Prop := fun t => exec (.bellOpApply i .clean) s = .next t
    (∀ k, o.kind = .post k → k.toNat < 2 ^ 31 → gives (regCount aBellPosts 1 (bellPost b k s₁))) ∧
    (∀ v l, o.kind = .wait v → o.cell = some l → reached n v = true → gives (release l s₁)) ∧
    (∀ v l, o.kind = .wait v → o.cell = some l → reached n v = false → (v - n).toNat ≠ 2 ^ 31 →
      gives (registerWaiter b ⟨l, false, v⟩ s₁)) ∧
    (∀ l, o.kind = .take → o.cell = some l → reached n 1#32 = true →
      gives (release l (updBell s₁ b (fun x => { x with count := x.count - 1#32 })))) ∧
    (∀ l, o.kind = .take → o.cell = some l → reached n 1#32 = false → gives (registerWaiter b ⟨l, true, 0#32⟩ s₁))

/-- What a POST leaves at a bell: every WAIT waiter whose target the new count reaches is released and leaves; the TAKE waiters
take one each, earliest first, while the count reaches 1; and no waiter that stays could have been released (R300, R302). -/
def Obligations.PostServesWaiters : Prop :=
  ∀ (s : State) (b : Nat) (k : BitVec 32),
    let t := bellPost b k s
    (∀ w ∈ (bellAt t b).waiters, w ∈ (bellAt s b).waiters) ∧
    (∀ w ∈ (bellAt t b).waiters, w.isTake = false → reached ((bellAt s b).count + k) w.target = false) ∧
    (∀ w ∈ (bellAt t b).waiters, w.isTake = true → reached (bellAt t b).count 1#32 = false) ∧
    (bellAt t b).count = (bellAt s b).count + k - BitVec.ofNat 32
      (((bellAt s b).waiters.filter (fun w => w.isTake)).length - ((bellAt t b).waiters.filter (fun w => w.isTake)).length) ∧
    t.sync.releases.length + (bellAt t b).waiters.length = s.sync.releases.length + (bellAt s b).waiters.length ∧
    (∀ d, d ≠ b → bellAt t d = bellAt s d)

/-- A release that reaches a cell that is not gated ends its wait; a wait that expires sends a cancel with the count as it
stands, and the clock stands no earlier than the expiry; a cancel of a wait that has been served is ignored; a wait of
LEND_THRESH with nothing in flight gates the cell and lends its power (R303, R306, R308). -/
def Obligations.WaitsEnd : Prop :=
  (∀ (s : State) (i : BitVec 16) (l : Nat) (w : PendingWait), s.sync.releases[i.toNat]? = some l →
    (cellAt s (physOf s l)).seq.wait = some w → w.gated = false → s.pwr.loans.find? (fun e => e.1 == l) = none →
    exec (.bellRelease i) s = .next (updCell { s with sync := { s.sync with releases := s.sync.releases.eraseIdx i.toNat } }
      (physOf s l) (fun x => { x with seq := { x.seq with wait := none } }))) ∧
  (∀ (s : State) (c : LCell) (w : PendingWait), (issuer s c).seq.wait = some w →
    s.sync.cancels.any (fun e => e.1 == c.toNat) = false →
    exec (.waitTimeout c) s = .next { s with
      cycle := max s.cycle w.expires
      sync := { s.sync with cancels := s.sync.cancels ++ [(c.toNat, waitCount s w)] } }) ∧
  (∀ (s : State) (i : BitVec 16) (l n : Nat) (w : PendingWait), s.sync.cancels[i.toNat]? = some (l, n) →
    (cellAt s (physOf s l)).seq.wait = some w → w.isLine = false → syncQuiet s l = true →
    (bellAt s w.id).waiters.any (fun v => v.cell == l) = false →
    exec (.cancelApply i) s = .next { s with sync := { s.sync with cancels := s.sync.cancels.eraseIdx i.toNat } }) ∧
  (∀ (s : State) (c : LCell) (w : PendingWait), (issuer s c).seq.wait = some w → w.gated = false →
    effField s aBellCtl 47 40 ≠ 0 → (issuer s c).units.sync = [] →
    (∀ o ∈ s.sync.ops, o.cell = some c.toNat → ∀ n, o.kind ≠ .post n) → matrixQuiet (issuer s c).units = true →
    (issuer s c).units.vector = [] → moveQuiet (issuer s c).units = true →
    let now := max s.cycle (w.since + 300 * effField s aBellCtl 47 40)
    exec (.cellLend c) s = .next (regCount aBellLends 1 (lendPower c.toNat (updCell { s with cycle := now } (cellOfL s c)
      (fun x => { x with seq := { x.seq with wait := some { w with gated := true, since := now } } })))))

/-- A line that has completed sets the latch of every participant that does not wait for it; those that wait resume, and no
latch is due any longer. An ARRIVED message of the line's phase joins PEERS and one of the next phase joins PEERS_NEXT (R312,
R313). -/
def Obligations.LineMessages : Prop :=
  (∀ (s : State) (l : BitVec 5) (ctx : Nat), lineOwner s l.toNat = some ctx → (lineAt s l.toNat).latchDue = true →
    (∀ k ∈ lineCells s ctx (lineAt s l.toNat), (cellAt s (physOf s k)).seq.wait = none) →
    ∃ t, exec (.lineLatch l) s = .next t ∧ (lineAt t l.toNat).latchDue = false ∧
      (∀ k ∈ lineCells s ctx (lineAt s l.toNat), sGet false (lineAt t l.toNat).latch (lineBit s ctx k) = true) ∧
      (lineAt t l.toNat).phase = (lineAt s l.toNat).phase ∧ t.cells = s.cells ∧ t.mem = s.mem ∧ t.sync.bells = s.sync.bells) ∧
  (∀ (s : State) (i : BitVec 16) (msg : InMsg) (l : Nat), ctlMsg s i.toNat 3 1 = some msg →
    let bs := msg.bytes
    let m := fieldAt bs 2 2
    let phase := BitVec.ofNat 16 (fieldAt bs 0xA 2)
    let s₁ := freeMsg i.toNat msg s
    (List.range 32).find? (fun l => decide ((lineAt s l).members ≥ 2 ∧ (lineAt s l).key.toNat = fieldAt bs 4 4) &&
      (match lineOwner s l with | some c => decide ((ctxAt s c).st = .unparked) | none => false)) = some l →
    (lineAt s l).refused = false → fieldAt bs 8 2 = (lineAt s l).epoch.toNat →
    (phase = (lineAt s l).phase → exec (.arrived i) s =
      .next (completeLine l (updLine l (fun n => { n with peers := sSet false n.peers m true }) s₁))) ∧
    (phase = (lineAt s l).phase + 1#16 → exec (.arrived i) s =
      .next (updLine l (fun n => { n with peersNext := sSet false n.peersNext m true }) s₁)))

/-! ### Maintenance of memories and of the ring road (chapters 05, 07, 08) -/

/-- Patrol scrub of a cell counts the corrected error of the line it reads; a ring receiver that finds a bad flit asks for it
again; the sender replays it and counts the replay, and stays up below three failures of one flit and five replays of the
beat; refresh changes nothing that is held; patrol scrub of a stack goes on to the next line (R158, R249, R250, R271, R286). -/
def Obligations.Scrubbing : Prop :=
  (∀ (s : State) (p : BitVec 13) (h : Hit), p.toNat < 4352 → effField s (regInst aCellCtl (p.toNat / 17 / 64)) 16 16 = 1 →
    h.ecc ≠ .uncorrectable → (h.mem = .store → exec (.cellScrub p h) s = .next (storeMeets p.toNat h.ecc s)) ∧
    (h.mem = .imem → h.ecc = .corrected → exec (.cellScrub p h) s = .next (tallyAdd (updCell s p.toNat (fun x =>
      { x with cnt := { x.cnt with imemCe := satAdd 64 x.cnt.imemCe 1 } })) 0x01 0x02 p.toNat 1))) ∧
  (∀ (s : State) (l : BitVec 3) (dir again : Bool), l.toNat ∉ s.flt.linksDown →
    exec (.ringNak l dir again) s = .next (updReplay (replayKey l.toNat dir 2) (fun _ => 1)
      (updReplay (replayKey l.toNat dir 1) (fun n => if again then n + 1 else 1) s))) ∧
  (∀ (s : State) (l : BitVec 3) (dir : Bool), l.toNat < 4 → l.toNat ∉ s.flt.linksDown →
    sGet 0 s.flt.replays (replayKey l.toNat dir 2) ≠ 0 → sGet 0 s.flt.replays (replayKey l.toNat dir 1) < 3 →
    sGet 0 s.flt.replays (replayKey l.toNat dir 0) + 1 < 5 →
    let unit := 2 * l.toNat + (if dir then 1 else 0)
    exec (.ringReplay l dir .none) s = .next (logRepair (tallyAdd (updReplay (replayKey l.toNat dir 2) (fun _ => 0)
      (updReplay (replayKey l.toNat dir 0) (fun n => n + 1) s)) 0x03 0x0F unit 1) 10 (tallyId 0x03 0x0F unit) 0)) ∧
  (∀ (s : State) (n : BitVec 3) (pc bank : BitVec 6), exec (.refresh n pc bank) s = .next s) ∧
  (∀ (s : State) (n : BitVec 3) (e : Ecc), effField s (regInst aSqCtl n.toNat) 0 0 = 1 →
    (e = .clean ∨ sGet false s.mem.poison (hbmKey n.toNat (64 * (dieAt s n.toNat).scrubLine) / 64) = true) →
    exec (.hbmPatrolScrub n e) s = .next (updDie s n.toNat (fun d =>
      { d with scrubLine := (d.scrubLine + 1) % stackLines })))

/-- A repair copy that is running ends; a row in REMAPPED_1 of an idle stack whose conversion verifies becomes FUSED and gives
its slot back; a retiring frame that no resident context maps is retired; a Square unit that finishes clearing reads as zero
and is clearing no longer, and the other units keep their bytes (R274, R289 to R292). -/
def Obligations.MemoryRepair : Prop :=
  (∀ (s : State) (n : BitVec 3) (la : BitVec 37), (rowAt s (rowKey n.toNat la.toNat)).copying = true →
    exec (.repairCopyDone n la) s = .next (updRow (rowKey n.toNat la.toNat) (fun r => { r with copying := false }) s)) ∧
  (∀ (s : State) (n : BitVec 3) (la : BitVec 37), (rowAt s (rowKey n.toNat la.toNat)).state = .remapped1 →
    (rowAt s (rowKey n.toNat la.toNat)).copying = false → effField s (regInst aSqCtl n.toNat) 2 2 = 1 →
    (∀ c ∈ holdersOfStack s n.toNat, (ctxAt s c).st ≠ .unparked) →
    sGet 0 (dieAt s n.toNat).hpprUsed (pcOf la.toNat * 64 + bankOfBlock (la.toNat / 65536)) < 2 →
    ∃ t, exec (.hpprConversion n la true) s = .next t ∧
      rowAt t (rowKey n.toNat la.toNat) = { rowAt s (rowKey n.toNat la.toNat) with state := .fused, slot := false } ∧
      (dieAt t n.toNat).slots = (dieAt s n.toNat).slots - 1 ∧ (dieAt t n.toNat).hppr = satAdd 16 (dieAt s n.toNat).hppr 1 ∧
      t.mem.hbm = s.mem.hbm ∧ t.mem.poison = s.mem.poison ∧ t.ctxs = s.ctxs) ∧
  (∀ (s : State) (n : BitVec 3) (la : BitVec 37) (pa : Nat), paOf s n.toNat la.toNat = some pa →
    sGet false s.mem.retiring (pa / 2 ^ 21) = true → mappers s (pa / 2 ^ 21) = [] →
    (rowAt s (rowKey n.toNat la.toNat)).state = .retired →
    ∃ t, exec (.frameRetire n la) s = .next t ∧ sGet false t.mem.retired (pa / 2 ^ 21) = true ∧
      sGet false t.mem.retiring (pa / 2 ^ 21) = false ∧ (dieAt t n.toNat).pending = (dieAt s n.toNat).pending - 1 ∧
      (dieAt t n.toNat).retired = satAdd 16 (dieAt s n.toNat).retired 1 ∧ t.mem.hbm = s.mem.hbm ∧ t.ctxs = s.ctxs) ∧
  (∀ (s : State) (die : BitVec 3) (u : BitVec 4), u.toNat ∈ (dieAt s die.toNat).clearing →
    let lo := die.toNat * 2 ^ 27 + u.toNat * 2 ^ 23
    ∃ t, exec (.squareClearDone die u) s = .next t ∧ u.toNat ∉ (dieAt t die.toNat).clearing ∧
      (∀ a, lo ≤ a → a < lo + 2 ^ 23 → sGet 0#8 t.mem.scratch a = 0#8) ∧
      (∀ a, a < lo ∨ lo + 2 ^ 23 ≤ a → sGet 0#8 t.mem.scratch a = sGet 0#8 s.mem.scratch a) ∧
      t.mem.hbm = s.mem.hbm ∧ t.ctxs = s.ctxs)

/-- A margining run of a stack that is no carve-out stack ends with ST_OK, its stack back in the state that it had, and with the
margins of every pseudo-channel named, no step above 64; a change of the ECC mode ends with ST_OK once job space reads as zero,
the carve-out as it was (R254, R285, R294, R295). -/
def Obligations.MemoryService : Prop :=
  (∀ (s : State) (n : BitVec 3) (lows highs : BitVec 512) (j : Job), n.toNat % 4 ≠ 0 →
    (jobsOf s 0x0702 0).find? (fun j => j.field 0 1 == n.toNat) = some j →
    ∃ s₁ det, exec (.memMarginDone n lows highs) s = .next (endJob j stOk s₁.beat.gnum det s₁) ∧
      (dieAt s₁ n.toNat).state = j.vals.headD 1 ∧ s₁.jobs = s.jobs ∧
      (∀ i, i < 64 → j.field 8 8 / 2 ^ i % 2 = 1 →
        sGet {} (dieAt s₁ n.toNat).margins (64 * j.field 1 1 + i) =
          ⟨true, min 64 (lows.toNat / 256 ^ i % 256), min 64 (highs.toNat / 256 ^ i % 256)⟩) ∧
      s₁.mem.hbm = s.mem.hbm ∧ s₁.ctxs = s.ctxs) ∧
  (∀ (s : State) (j : Job) (rest : List Job), jobsOf s 0x0402 0 = j :: rest →
    ∃ s₁, exec .memEccDone s = .next (endJob j stOk s.beat.gnum [] s₁) ∧
      (∀ n la, la < 2 ^ 37 → sGet 0#8 s₁.mem.hbm (hbmKey n la) =
        if n % 4 = 0 ∧ 88 * 2 ^ 30 ≤ la then sGet 0#8 s.mem.hbm (hbmKey n la) else 0#8) ∧
      s₁.mem.scratch = s.mem.scratch ∧ s₁.jobs = s.jobs ∧ s₁.ctxs = s.ctxs ∧ s₁.oz = s.oz)

/-! ### Commands: how they reach Ozmin, and the end of one (R459 to R473) -/

/-- A command reaches Ozmin by each of the four routes: at the head of a ring with its SEQ in order, in a session's
datagram that verifies with a fresh SEQ, or from the queue of its class, wherever no check of its header, TAG and class
holds it up; and then its own rule decides it. -/
def Obligations.RoutesDeliver : Prop :=
  (∀ (s : State) (op : Nat) (x : BitVec 14) (bs : List Byte), ringPacket s x.toNat false = some bs → pktField bs 0 2 = op →
    let c := cmdOf (.ring x.toNat false) bs
    let s₁ := popRing x.toNat false c.seq s
    c.seq = (ringSet s x.toNat).sqSeq → tagCheck c s₁ = none → headerFault s₁ c (pktField bs 6 2) bs = none →
    mustWait c s₁.oz.queue s₁ = false → Reaches op (.normal x) s s₁ c) ∧
  (∀ (s : State) (op : Nat) (x : BitVec 14) (bs : List Byte), ringPacket s x.toNat true = some bs → pktField bs 0 2 = op →
    let c := cmdOf (.ring x.toNat true) bs
    let s₁ := popRing x.toNat true c.seq s
    c.seq = (ringSet s x.toNat).uqSeq → tagCheck c s₁ = none → headerFault s₁ c (pktField bs 6 2) bs = none →
    mustWait c s₁.oz.queue s₁ = false → Reaches op (.urgent x) s s₁ c) ∧
  (∀ (s : State) (op : Nat) (d : Datagram), mgmtOn s = true → datagramOk d = true → datagramAuth s d = true →
    let n := fieldAt d.bytes 0 4
    let bs := datagramBody d true
    let c := cmdOf (.session n d.addr.toNat d.port.toNat) bs
    let s₁ := noteSeq n c.seq (regCount aMgmtRx 1 s)
    c.opcode = op → seqFresh (sessionAt s n) c.seq = true → tagCheck c s₁ = none →
    headerFault s₁ c (pktField bs 6 2) bs = none → mustWait c s₁.oz.queue s₁ = false → Reaches op (.session d) s s₁ c) ∧
  (∀ (s : State) (op : Nat) (i : BitVec 16) (q : Queued), s.oz.running = true → s.oz.queue[i.toNat]? = some q →
    let c := cmdOf q.origin q.packet
    c.opcode = op → mustWait c (s.oz.queue.take i.toNat) s = false →
    (∀ k x, s.oz.queue[k]? = some x → (classOf (pktField x.packet 0 2)).rank < (classOf op).rank →
      mustWait (cmdOf x.origin x.packet) (s.oz.queue.take k) s = true) →
    Reaches op (.queued i) s { s with oz := { s.oz with queue := s.oz.queue.eraseIdx i.toNat } } c)

/-- A doorbell publishes a submission tail no further than the ring's size past the head, or a completion head no further than
the replies written; commands with reserved opcodes that then stand at a head are refused. The oldest reply held goes into
the slot of the completion ring at its tail, which moves on by one (R462 to R464). -/
def Obligations.RingDoorbells : Prop :=
  ∀ (s : State) (c : BitVec 14), (ringSet s c.toNat).slots ≠ 0 →
    let r := ringSet s c.toNat
    (∀ v : BitVec 32, (v.toNat + 2 ^ 32 - r.sqHead) % 2 ^ 32 ≤ r.slots → exec (.normalTail c v) s =
      .next (refuseReserved c.toNat false r.slots (updRingSet c.toNat (fun r => { r with sqTail := v.toNat }) s))) ∧
    (∀ v : BitVec 32, (v.toNat + 2 ^ 32 - r.uqHead) % 2 ^ 32 ≤ 16 → exec (.urgentTail c v) s =
      .next (refuseReserved c.toNat true 16 (updRingSet c.toNat (fun r => { r with uqTail := v.toNat }) s))) ∧
    (∀ v : BitVec 32, (v.toNat + 2 ^ 32 - r.cqHead) % 2 ^ 32 ≤ (r.cqTail + 2 ^ 32 - r.cqHead) % 2 ^ 32 →
      exec (.completionHead c v) s = .next (refuseReserved c.toNat false r.slots (refuseReserved c.toNat true 16
        (updRingSet c.toNat (fun r => { r with cqHead := v.toNat }) s)))) ∧
    (∀ p rest, s.oz.running = true → s.flt.safeHold = false → r.held = p :: rest →
      (r.cqTail + 2 ^ 32 - r.cqHead) % 2 ^ 32 < r.slots + 16 →
      exec (.replyPost c) s = .next (updRingSet c.toNat (fun r => { r with held := rest, cqTail := (r.cqTail + 1) % 2 ^ 32 })
        (poke s (r.cqBase + 64 * (r.cqTail % (r.slots + 16))) p.bytes)))

/-- The command at the head of a ring is consumed; one whose SEQ is out of order is refused with ST_SEQ, one whose header or
payload draws a refusal is refused with it, one that nothing holds up is decided by its own rule, and so is a session's whose
datagram verifies with a SEQ not seen. A reply is kept for RETRY among the last 1,024 of its ring set, with any earlier one of
its TAG gone; a copy with RETRY of a command whose reply is kept answers that reply again with DUP set and the copy's SEQ, and
decides nothing (R461, R465, R467, R470, R473). -/
def Obligations.CommandsAreAdmitted : Prop :=
  (∀ (s : State) (c : BitVec 14) (bs : List Byte), ringPacket s c.toNat false = some bs →
    let m := cmdOf (.ring c.toNat false) bs
    let s₁ := popRing c.toNat false m.seq s
    (m.seq ≠ (ringSet s c.toNat).sqSeq → ∀ go, command m.opcode (.normal c) go s =
      flushOut (routeAfter (.normal c) (refuseCmd m stSeq [] s₁))) ∧
    (m.seq = (ringSet s c.toNat).sqSeq → tagCheck m s₁ = none →
      (∀ e, headerFault s₁ m (pktField bs 6 2) bs = some e → ∀ go, command m.opcode (.normal c) go s =
        flushOut (routeAfter (.normal c) (refuseCmd m e.1 e.2 s₁))) ∧
      (headerFault s₁ m (pktField bs 6 2) bs = none → mustWait m s₁.oz.queue s₁ = false →
        Reaches m.opcode (.normal c) s s₁ m))) ∧
  (∀ (s : State) (d : Datagram),
    let bs := datagramBody d true
    let n := fieldAt d.bytes 0 4
    let m := cmdOf (.session n d.addr.toNat d.port.toNat) bs
    let s₁ := noteSeq n m.seq (regCount aMgmtRx 1 s)
    mgmtOn s = true → datagramOk d = true → datagramAuth s d = true → seqFresh (sessionAt s n) m.seq = true →
      tagCheck m s₁ = none → headerFault s₁ m (pktField bs 6 2) bs = none → mustWait m s₁.oz.queue s₁ = false →
        Reaches m.opcode (.session d) s s₁ m) ∧
  (∀ (l : List Reply) (r : Reply), (keepIn l r).getLast? = some r ∧ (keepIn l r).length ≤ 1024 ∧
    (∀ x ∈ keepIn l r, x = r ∨ (x ∈ l ∧ x.tag ≠ r.tag))) ∧
  (∀ (s : State) (c : Cmd) (r : Reply), (keptReplies s c.origin).find? (fun x => x.tag == c.tag) = some r →
    (c.flags / 2 % 2 = 1 → tagCheck c s = some (sendReply c.origin { r with dup := true, seq := c.seq } [] s)) ∧
    (c.flags / 2 % 2 = 0 → tagCheck c s = some (refuseCmd c stTagBusy [] s)))

/-! ### Contexts (chapter 10) -/

/-- Commands that act on contexts, where their rules admit them. CTX_CREATE makes a PARKED context; CTX_PARK stores a
parked one, or waits for its boundary; CTX_UNPARK starts its preparation; CTX_RESIZE gives up the save; CTX_DESTROY
leaves the number FREE; CTX_QUERY returns the descriptor; RING_SET removes a ring set; GRANARY_SWAP and MEM_MAP of a context
that is not unparked are accepted (R320 to R340, R461). -/
def Obligations.ContextCommands : Prop :=
  ∀ (r : Route) (s s₁ : State) (c : Cmd),
    let x := ctxAt s₁ c.ctx
    (∀ h d, Reaches 0x0101 r s s₁ c → x.st = .free → (claimants s₁).length < 256 →
      readRegions h [(c.field 0 8, 256), (peekNat s₁ (c.field 0 8 + 0x68) 8, 0x40)] 0 s₁ = (none, d) →
      let bs := peek d (c.field 0 8) 256
      descFail d c.ctx bs = none → almCreateFail d (fieldAt bs 0x68 8) = none → bellsMeet d c.ctx (descOf bs) = false →
      linesMeet d c.ctx (descOf bs) = false →
      RowGives (.ctxCreate r h) r s (completeCmd c stOk d.beat.gnum [] [] (createCtx c.ctx bs d)) ∧
        (ctxAt (createCtx c.ctx bs d) c.ctx).st = .parked ∧
        (ctxAt (createCtx c.ctx bs d) c.ctx).kept = { resume := 0xFFFF }) ∧
    (Reaches 0x0102 r s s₁ c → c.field 8 4 = 4 → x.st = .parked → transferring s₁ c.ctx = false →
      RowGives (.ctxPark r) r s (completeCmd c stOk x.kept.parkGnum [0] []
        (updCtx s₁ c.ctx (fun x => { x with st := .stored, xlate := [] })))) ∧
    (Reaches 0x0102 r s s₁ c → c.field 8 4 ≠ 4 → x.st = .unparked → (c.field 0 8 = 0 ∨ s₁.beat.gnum < c.field 0 8) →
      resharding s₁ c.ctx = false → jobsOf s₁ 0x0102 c.ctx = [] →
      saveTooSmall s₁ c.ctx (c.field 8 4 / 2 % 2 == 1) = false →
      RowGives (.ctxPark r) r s (acceptCmd c (c.field 0 8) 0 [c.field 8 4] s₁)) ∧
    (Reaches 0x0103 r s s₁ c → unparkFault s₁ c = none →
      RowGives (.ctxUnpark r) r s (acceptCmd c (c.field 0 8) 0 [] s₁)) ∧
    (Reaches 0x0104 r s s₁ c → x.st = .parked → transferring s₁ c.ctx = false →
      let t := clearValid c.ctx (clearLanes c.ctx (resetResidency c.ctx (abandonParked c.ctx stStepAbandoned s₁)))
      RowGives (.ctxResize r) r s (completeCmd c stOk t.beat.gnum [] [] (updCtx t c.ctx (fun x => { x with saved := false })))) ∧
    (Reaches 0x0105 r s s₁ c → (x.st = .parked ∨ x.st = .stored) → transferring s₁ c.ctx = false → holdsAny s₁ c.ctx = false →
      ∃ t, RowGives (.ctxDestroy r) r s (completeCmd c stOk t.beat.gnum
          [x.kept.energy, x.kept.runBeats, x.kept.gated, x.kept.acct] [] t) ∧ (ctxAt t c.ctx).st = .free ∧
        ctxAt t c.ctx = {} ∧ (∀ k, k ≠ c.ctx → ctxAt t k = ctxAt s₁ k)) ∧
    (Reaches 0x0106 r s s₁ c → deniedOut c (c.field 0 8) = false →
      RowGives (.ctxQuery r) r s (answerOut c (c.field 0 8) [256] (descBytes s₁ c.ctx) s₁)) ∧
    (Reaches 0x0107 r s s₁ c → s₁.jobs = [] → s₁.oz.queue = [] → c.field 0x18 4 = 0 →
      RowGives (.ringSet r) r s (updRingSet c.ctx (fun _ => {}) (completeCmd c stOk s₁.beat.gnum [] [] s₁))) ∧
    (Reaches 0x0108 r s s₁ c → x.st.resident = true → x.desc.gwCount ≠ 0 → jobsOf s₁ 0x0108 c.ctx = [] →
      (∀ op ∈ writingOps, jobsOf s₁ op c.ctx = []) → (∀ j ∈ jobsOf s₁ 0x0102 c.ctx, j.phase ≠ 1) →
      RowGives (.granarySwap r) r s (acceptCmd c 0 0 [] s₁)) ∧
    (∀ h d m, Reaches 0x0401 r s s₁ c → (x.st = .parked ∨ x.st = .stored) →
      let ps := (List.range (c.field 8 4)).map (fun k =>
        512 * granaryIndex x ((c.field 0 8 / 2 ^ 21 + k) / 512) + (c.field 0 8 / 2 ^ 21 + k) % 512)
      readRegions h (xlateRegions s₁ c.ctx (distinct (ps.map (fun p => p / 512)))) 0 s₁ = (none, d) →
      readPages d c.ctx ps = .inr m → m.any (fun e => e.2.kind != 2 && frameShared d c.ctx e.2.frame) = false →
      RowGives (.memMap r h) r s (completeCmd c stOk d.beat.gnum [c.field 8 4] [] d))

/-- A park whose save is complete answers ST_OK with the beat it parked at and the bytes saved, and a usable save then lies in
the save area; preparation for an unpark waits for the clearing of the context's units, and then is done for its job (R328,
R329, R333). -/
def Obligations.ParkAndPrepare : Prop :=
  (∀ (s : State) (ctx : BitVec 14) (j : Job), (jobsOf s 0x0102 ctx.toNat).find? (fun j => j.phase == 1) = some j →
    let c := ctx.toNat
    let stores : Bool := j.field 8 4 / 2 % 2 == 1
    let t := updCtx (writeSave c stores false s) c (fun x => { x with saved := true })
    exec (.parkSaveDone ctx none) s = .next (endJob j stOk (ctxAt t c).kept.parkGnum
      [savedBytes (ctxBells (ctxAt t c)).length (ctxLineIds (ctxAt t c)).length (partBlocks t c).length stores] t) ∧
    (ctxAt t c).saved = true ∧ (ctxAt t c).st = (ctxAt s c).st) ∧
  (∀ (s : State) (ctx : BitVec 14) (h : LineHit) (j : Job),
    (jobsOf s 0x0103 ctx.toNat).find? (fun j => j.phase == 0) = some j →
    (∀ n, n < 8 → (dieAt s n).clearing = []) → exec (.unparkPrepDone ctx h) s = .next (prepareUnpark j h s))

/-! ### Sessions and the management port (R470 to R475, R601) -/

/-- SESSION_HELLO leaves a half-open session with two fresh nonces, of which no more than eight stay; SESSION_OPEN with a good
ticket and key opens its session; SESSION_CLOSE closes it after its reply; XFER_ACK of the last byte ends its transfer. A
session that is idle or past its lifetime closes, at no earlier cycle than that (R471, R472, R475). -/
def Obligations.Sessions : Prop :=
  (∀ (s : State) (d : Datagram), mgmtOn s = true → datagramOk d = true → fieldAt d.bytes 0 4 = 0 →
    let bs := datagramBody d false
    let c := cmdOf (.session 0 d.addr.toNat d.port.toNat) bs
    c.opcode = 0x0A01 → openFault c bs 16 = none →
    ∃ t n nonce, exec (.sessionHello (.session d)) s = .next t ∧ t.oz.half.getLast? = some ⟨n, c.payload.take 16, nonce⟩ ∧
      t.oz.half.length ≤ 8 ∧ t.oz.sent.length = s.oz.sent.length + 1 ∧ t.oz.sessions = s.oz.sessions ∧ t.mem = s.mem) ∧
  (∀ (s : State) (d : Datagram) (h : HalfOpen) (secret : List Byte), mgmtOn s = true → datagramOk d = true →
    let n := fieldAt d.bytes 0 4
    let bs := datagramBody d true
    let c := cmdOf (.session n d.addr.toNat d.port.toNat) bs
    s.oz.half.find? (fun h => h.num == n) = some h → c.opcode = 0x0A02 → openFault c bs 128 = none →
    s.boot.secret = some secret → ticketGood (regCount aMgmtRx 1 s) c.payload = true →
    datagramTagged d (sessionKey secret c.payload h) = true → (openSessions s).length < 16 →
    ∃ t, exec (.sessionOpen (.session d)) s = .next t ∧ (sessionAt t n).isOpen = true ∧
      (sessionAt t n).key = sessionKey secret c.payload h ∧ (sessionAt t n).rights = fieldAt c.payload 8 4 ∧
      (sessionAt t n).openedAt = s.cycle ∧ (∀ g ∈ t.oz.half, g.num ≠ n) ∧ t.mem = s.mem) ∧
  (∀ (r : Route) (s s₁ : State) (c : Cmd), Reaches 0x0A03 r s s₁ c →
    RowGives (.sessionClose r) r s (closeSession c.sessionNum (completeCmd c stOk s₁.beat.gnum [] [] s₁))) ∧
  (∀ (r : Route) (s s₁ : State) (c : Cmd) (x : Xfer), Reaches 0x0A08 r s s₁ c →
    let t := completeCmd c stOk s₁.beat.gnum [] [] s₁
    xferOf t c.sessionNum (c.field 0 4) = some x → x.acked < c.field 8 8 → c.field 8 8 ≤ x.sent →
    c.field 8 8 = x.data.length → x.kind ≠ 3 → RowGives (.xferAck r) r s (endXfer x x.status t)) ∧
  (∀ (s : State) (n : BitVec 32), (sessionAt s n.toNat).isOpen = true →
    let idle := (sessionAt s n.toNat).lastAt + 3000000000 * regField s aMgmtCtl 31 16
    let life := (sessionAt s n.toNat).openedAt + 3000000000 * (sessionAt s n.toNat).lifetime
    (∃ t, exec (.sessionIdleExpiry n) s = .next t ∧ (sessionAt t n.toNat).isOpen = false ∧ t.cycle = max s.cycle idle ∧
      (∀ k, k ≠ n.toNat → sessionAt t k = sessionAt s k)) ∧
    (∃ t, exec (.sessionLifetimeExpiry n) s = .next t ∧ (sessionAt t n.toNat).isOpen = false ∧ t.cycle = max s.cycle life ∧
      (∀ k, k ≠ n.toNat → sessionAt t k = sessionAt s k)))

/-- The management port answers a neighbour solicitation with its address and an echo request with its bytes, and counts a
fragment as dropped; a transfer without progress is sent again from the byte acknowledged, and ends with ST_XFER_TIMEOUT
after ten seconds; the lane comes up at a speed that its straps allow (R475, R488, R601, R603). -/
def Obligations.ManagementPort : Prop :=
  (∀ (s : State), mgmtOn s = true →
    (∀ a, exec (.mgmtDatagram (.solicit a)) s = .next { s with oz := { s.oz with
      sent := s.oz.sent ++ [⟨a.toNat, 0, true, natLe 6 (regGet s aMgmtMac).toNat⟩] } }) ∧
    (∀ a bs, exec (.mgmtDatagram (.echo a bs)) s = .next { s with oz := { s.oz with
      sent := s.oz.sent ++ [⟨a.toNat, 0, true, bs⟩] } }) ∧
    exec (.mgmtDatagram .fragment) s = .next (regCount aMgmtDrops 1 s)) ∧
  (∀ (s : State) (n tag : BitVec 32) (x : Xfer), xferOf s n.toNat tag.toNat = some x →
    (let r := pushXfer 256 { x with sent := x.acked } { s with cycle := max s.cycle (x.at_ + 3000000000) }
     exec (.xferResend n tag) s = .next (putXfer r.1 r.2)) ∧
    exec (.xferTimeout n tag) s = .next (endXfer x stXferTimeout { s with cycle := max s.cycle (x.at_ + 30000000000) })) ∧
  (∀ (s : State) (v : BitVec 2), v.toNat < 3 → s.pins.straps % 4 = 0 →
    exec (.mgmtLinkUp v) s = .next { s with pins := { s.pins with mgmtSpeed := v.toNat } })


/-! ### Deferred lanes, YIELD and TRAP (R48, R171, R358 to R361, R494 to R496) -/

/-- DQPUSH appends an entry to the cell's lane where there is room; DQPOP goes on from a frame without DEFER and from an empty
lane, and otherwise takes the head entry, within the fill limit, to x[RD] and to the entry's index; BTEST writes whether the
count has reached x[RB] and leaves the bell; YIELD retires once the units are quiet (R48, R358 to R361). -/
def Obligations.DeferredLanes : Prop :=
  ∀ (s : State) (c : LCell) (m : Meet) (w : InsnWord), m.imem ≠ .uncorrectable → controlLegal w = true →
    let x := issuer s c
    let ctx := (ownerOf s (blockOf c.toNat)).getD 0
    let lane := laneOf s ctx c.toNat
    let at_ : Nat → Nat := fun k => lane.2 + 64 + 16 * (k % lane.1)
    (Issues s c w 0 0x15 → lane.1 ≠ 0 → laneCount s lane.2 < lane.1 →
      let tail := peekNat s (lane.2 + 4) 4
      let t := poke (poke (fetched s c m) (at_ tail) (natLe 2 (wf w 11 0) ++ natLe 2 (wf w 31 16) ++ natLe 4 0 ++
        natLe 8 (raOf x w).toNat)) (lane.2 + 4) (natLe 4 (tail + 1))
      exec (.dqpush c m) s = .next (updCell (if laneCount s lane.2 + 1 > peekNat t (lane.2 + 8) 2 then
        poke t (lane.2 + 8) (natLe 2 (laneCount s lane.2 + 1)) else t) (cellOfL s c) Cell.next)) ∧
    (Issues s c w 0 0x16 → ((ctxAt s ctx).run.flags / 2 % 2 = 0 ∨ lane.1 = 0 ∨ laneCount s lane.2 = 0) →
      exec (.dqpop c m) s = .next (issued s c m Cell.next)) ∧
    (Issues s c w 0 0x16 → (ctxAt s ctx).run.flags / 2 % 2 = 1 → lane.1 ≠ 0 → laneCount s lane.2 ≠ 0 →
      let head := peekNat s lane.2 4
      let r := physRead (fetched s c m) (at_ head) 16 m.data 0
      r.bad = none → r.st.cycle - r.st.beat.openAt + 16 * leNat ((r.bytes.drop 2).take 2) ≤ fillLimit r.st →
      exec (.dqpop c m) s = .next (updCell (poke r.st lane.2 (natLe 4 (head + 1))) (cellOfL s c) (fun _ =>
        let y := issuer (fetched s c m) c
        { y with x := xSet y.x (wf w 115 112) (BitVec.ofNat 64 (leNat (r.bytes.drop 8)))
                 seq := { y.seq with pc := leNat (r.bytes.take 2) % 4096 } }))) ∧
    (Issues s c w 0 0x17 →
      let b := (raOf x w).toNat % 65536
      ownsBell s ctx b = true → (bellAt s b).bad = false → m.data ≠ .uncorrectable →
      let v : Word := if reached (bellAt s b).count ((rbOf x w).setWidth 32) then 1#64 else 0#64
      ∃ t, exec (.btest c m) s = .next t ∧ OnlyCell (cellOfL s c) s t ∧ (issuer t c).x = xSet x.x (wf w 115 112) v ∧
        (issuer t c).seq = x.next.seq ∧ (issuer t c).store = x.store) ∧
    (x.seq.running = true → x.seq.yieldIssued = true → x.seq.yielded = false → matrixQuiet x.units = true →
      x.units.vector = [] → moveQuiet x.units = true → syncQuiet s c.toNat = true →
      ((ctxAt s ctx).run.flags % 2 = 0 ∨ lane.1 = 0 ∨ laneCount s lane.2 = 0) →
      exec (.yieldRetire c) s = .next (updCell s (cellOfL s c) (fun x =>
        { x with seq := { x.seq with running := false, yielded := true, yieldedAt := s.cycle } })))

/-- TRAP raises FLT_TRAP in its cell: the cell stops and counts the fault; the context's work is discarded: all its cells stop,
the discard boundary is awaited, its waits at bells and its requests at gates are gone, and one fault is counted for it. A
second fault before the discard boundary adds no record and no count (R32, R171, R307, R494, R496). -/
def Obligations.TrapDiscards : Prop :=
  ∀ (s : State) (c : LCell) (m : Meet) (w : InsnWord) (ctx : Nat), m.imem ≠ .uncorrectable → controlLegal w = true →
    Issues s c w 0 0x14 → ownerOf s (blockOf c.toNat) = some ctx → (ctxAt s ctx).st = .unparked →
    let p := cellOfL s c
    let x := ctxAt s ctx
    ∃ t, exec (.trap c m) s = .next t ∧
      (cellAt t p).seq.running = false ∧ (cellAt t p).cnt.faults = satAdd 64 (issuer s c).cnt.faults 1 ∧
      (cellAt t p).seq.pc = (issuer s c).seq.pc ∧ t.beat = s.beat ∧ t.cycle = s.cycle ∧
      (x.run.discarded = false →
        (∀ l ∈ partCells s ctx, (cellAt t (physOf s l)).seq.running = false ∧ (cellAt t (physOf s l)).seq.wait = none) ∧
        (ctxAt t ctx).run.discarding = true ∧ (ctxAt t ctx).run.discarded = true ∧
        (ctxAt t ctx).run.lastFault = some (s.cycle, 0x010C, x.kept.faultCount) ∧
        (ctxAt t ctx).kept.faultCount = satAdd 64 x.kept.faultCount 1 ∧ (∀ o ∈ t.gate.ops, o.ctx ≠ ctx)) ∧
      (x.run.discarded = true → (ctxAt t ctx).kept.faultCount = x.kept.faultCount ∧ t.sync = s.sync ∧ t.gate = s.gate)

/-! ### The beat (chapters 01 and 02) -/

/-- A beat boundary of a device out of reset, with no Muster on the Hall, comes no earlier than the guard point, does the
actions of R30 in their order, and opens the next beat at the deadline of the last: in Safe-Hold the beat alone goes on. The
beat so opened has the next number and LEN µs to its own deadline (R30, R46, R59, R490). An early boundary, where EARLY_EN is
set and every partition has yielded, does the same actions; the cycle at which the next beat then opens the spec leaves open,
within 1 µs (R51). -/
def Obligations.BeatBoundary : Prop :=
  ∀ s : State, beatsRun s = true →
    let s₁ : State := { s with cycle := max s.cycle (guardPoint s) }
    (s.flt.safeHold = true → exec .beatBoundary s = .next (openBeat s.beat.deadline s₁)) ∧
    (s.flt.safeHold = false → ∃ t, exec .beatBoundary s = .next (flushOut (openBeat t.beat.deadline t)) ∧
      t = boundaryActions false (guardActs s₁)) ∧
    (∀ d, unparked s = [] → beatRole s = 0 → ∃ t, openBeat d s = t ∧ t.beat.gnum = s.beat.gnum + 1 ∧
      t.beat.count = s.beat.count + 1 ∧ t.beat.openAt = d ∧ t.beat.deadline = d + 3000 * beatLen s ∧ t.beat.k = 0 ∧
      t.cycle = max s.cycle d) ∧
    (s.flt.safeHold = false → beatRole s = 0 → regField s aBeatCtl 40 40 = 1 → s.cycle < guardPoint s →
      (∀ c ∈ unparked s, partitionClosed s c = true) →
      let t := boundaryActions true (guardActs s)
      ∃ n, n ≤ 3000 ∧ exec .earlyBoundary s = .next (flushOut (openBeat (t.cycle + n) (takeFree t).2)))

/-- The length of the beat: at the check point an Elastic partition that has not yielded moves the deadline of a standalone
device by 1 µs while the limit allows it, and nothing else moves it; a follower takes the leader's STRETCH of the open beat; a
leader takes SLACK reports; in the last beat of a step the length that R64 decides is scheduled for the next beat; a follower
schedules a LEN_SET of a later beat (R57 to R67). -/
def Obligations.BeatLength : Prop :=
  (∀ s : State, s.pins.inReset = false → s.cycle < guardPoint s → beatRole s = 0 →
    let now := max s.cycle (s.beat.deadline - 3000 * beatNotice s)
    ((∃ c ∈ unparked s, isElastic s c = true ∧ notYielded s c ≠ []) →
      s.beat.deadline + 3000 ≤ s.beat.openAt + 3000 * stretchLimit s →
      exec .stretchCheck s = .next { s with cycle := now, beat := { s.beat with
        deadline := s.beat.deadline + 3000, k := s.beat.k + 1 } }) ∧
    ((∀ c ∈ unparked s, isElastic s c = false ∨ notYielded s c = []) →
      exec .stretchCheck s = .next { s with cycle := now })) ∧
  (∀ (s : State) (i : BitVec 16) (m : InMsg), fieldAt m.bytes 1 1 = 1 → fieldAt m.bytes 2 2 = beatGroupId s →
    let f := fieldAt m.bytes
    let s₁ := freeMsg i.toNat m s
    (ctlMsg s i.toNat 2 4 = some m → beatRole s ≠ 0 → f 8 8 = s.beat.gnum → s.cycle ≤ guardPoint s → exec (.stretch i) s =
      .next (flushOut (updBeat (fun b => { b with
        deadline := max b.deadline (b.openAt + 3000 * (beatLen s + f 0x10 1)), k := max b.k (f 0x10 1) }) s₁))) ∧
    (ctlMsg s i.toNat 2 6 = some m → beatRole s = 1 → exec (.slack i) s = .next (flushOut (updBeat (fun b => { b with
      reports := b.reports.filter (fun r => r.node != f 4 4) ++ [⟨f 4 4, f 0x10 4, f 0x18 8⟩]
      floors := sSet 0 b.floors (f 4 4) (f 0x20 2) }) s₁))) ∧
    (ctlMsg s i.toNat 2 5 = some m → beatRole s = 2 → s.beat.gnum < f 0x18 8 → exec (.lenSet i) s =
      .next (flushOut (updBeat (fun b => { b with
        leader := some (f 4 4)
        changes := b.changes ++ [⟨f 0x10 2, f 0x12 2, f 0x14 1, f 0x18 8, f 0x15 1 == 1⟩] }) s₁)))) ∧
  (∀ (s : State), beatRole s ≠ 2 → regField s aBeatCtl 41 41 = 1 → s.beat.decided = false → inLastBeat s = true →
    let c : LenChange := ⟨adaptedLen s, stretchMax s, beatNotice s, s.beat.gnum + 1, false⟩
    let t := updBeat (fun b => { b with decided := true, changes := b.changes ++ [c] }) s
    (beatRole s = 0 → exec .adaptDecide s = .next t) ∧
    (beatRole s = 1 → exec .adaptDecide s = .next (flushOut (tellGroup 5 (lenSetBody c) t))))

/-- Alignment: a follower that receives SYNC from its parent notes t1 and t2 and answers with DELAY_REQ; a parent answers that
with the time of its arrival; the answer ends the exchange, with the offset and the delay of R70, a timebase steered by the
offset, and LOCKED from the second exchange in a row within 100 ns on; eight SYNC intervals without a SYNC raise FLT_BEAT_ALIGN
and unlock the follower (R69 to R73). -/
def Obligations.BeatAlignment : Prop :=
  (∀ (s : State) (i : BitVec 16) (m : InMsg), fieldAt m.bytes 1 1 = 1 → fieldAt m.bytes 2 2 = beatGroupId s →
    let f := fieldAt m.bytes
    let s₁ := freeMsg i.toNat m s
    (ctlMsg s i.toNat 2 1 = some m → beatRole s = 2 → m.port = parentPort s → s.beat.joining = false → f 0x1F 1 ≠ 0 →
      let asym := (portAt s₁ m.port).asym
      let t := updBeat (fun b => { b with
        exchange := some ⟨f 0x2A 2, msgTime m.bytes 0x10, timebaseAt s m.at_ + asym, timebase s + asym⟩
        lastSync := b.gnum, timedOut := false }) s₁
      exec (.syncMsg i) s = .next (flushOut (queueAt m.port ⟨(portAt t m.port).peerNode, 0, 2, 0,
        beatMsg t 2 (natLe 2 (f 0x2A 2))⟩ t))) ∧
    (ctlMsg s i.toNat 2 2 = some m → beatRole s ≠ 0 → m.port < 32 → exec (.delayReq i) s =
      .next (flushOut (queueAt m.port ⟨(portAt s₁ m.port).peerNode, 0, 2, 0,
        beatMsg s₁ 3 (timeBytes (timebaseAt s m.at_) ++ natLe 2 (f 0x10 2))⟩ s₁))) ∧
    (∀ x, ctlMsg s i.toNat 2 3 = some m → beatRole s = 2 → s.beat.exchange = some x → m.port = parentPort s → f 0x1A 2 = x.seq →
      let t4 := msgTime m.bytes 0x10
      let off := ((x.t2 - x.t1) - (t4 - x.t3)) / 2
      off.natAbs ≤ 500 * 65536 →
      let t := endExchange x t4 s₁
      exec (.delayResp i) s = .next (flushOut t) ∧ t.beat.offset = off ∧
        t.beat.delay = (((x.t2 - x.t1) + (t4 - x.t3)) / 2).toNat ∧ t.beat.adjust = s.beat.adjust - off ∧
        t.beat.exchange = none ∧ (s.beat.locked = true → t.beat.locked = true) ∧
        (off.natAbs ≤ 100 * 65536 → 1 ≤ s.beat.good → t.beat.locked = true))) ∧
  (∀ s : State, beatRole s = 2 → s.beat.joining = false → s.beat.timedOut = false →
    s.beat.lastSync + 8 * syncInt s ≤ s.beat.gnum →
    let t := raiseBeatAlign (updBeat (fun b => { b with syncLost := true, timedOut := true, good := 0 }) s)
    exec .syncTimeout s = .next (flushOut t) ∧ (unparked s = [] → t.beat.locked = false ∧ t.beat.syncLost = true))


/-! ### Commands on sets, the beat, steps and updates (chapters 02, 11, 12, 15) -/

/-- CFG_WRITE gives a context's shadow pointer its value, and a device scope's shadow set its bytes, with ST_OK; CFG_SWAP of a
partition map, interleave map, power policy or route set that passes its checks, and of a plan that passes them, is accepted for
the beat it names, the next one for zero; BEAT_SET of LEN on a device that is no follower schedules it for the next
boundary, on a leader four beats on; BEAT_JOIN sets the role and the group, a follower's reply waiting for SYNC (R66 to R68,
R76 to R81, R84, R480). -/
def Obligations.ConfigCommands : Prop :=
  ∀ (r : Route) (h : LineHit) (s s₁ : State) (c : Cmd),
    let scope := c.field 0 1
    let at_ := c.field 8 8
    let x := ctxAt s₁ c.ctx
    let swaps : State → Prop := fun t => RowGives (.cfgSwap r h) r s (acceptCmd c (if at_ = 0 then t.beat.gnum + 1 else at_) 0 [] t)
    (Reaches 0x0201 r s s₁ c → scope ≤ 1 → x.st ≠ .free → swapPending s₁ scope c.ctx = false →
      resharding s₁ c.ctx = false → x.upd = none →
      RowGives (.cfgWrite r h) r s (completeCmd c stOk s₁.beat.gnum [] [] (writePointer c.ctx scope at_ s₁))) ∧
    (∀ t, Reaches 0x0201 r s s₁ c → 2 ≤ scope → swapPending s₁ scope c.ctx = false →
      readRegions h (setRuns s₁ scope at_ (c.field 0x10 8)) 0 s₁ = (none, t) →
      RowGives (.cfgWrite r h) r s (completeCmd c stOk t.beat.gnum [] [] (writeSet scope at_ (c.field 0x10 8) t))) ∧
    (Reaches 0x0202 r s s₁ c → swapPending s₁ scope c.ctx = false → (at_ = 0 ∨ s₁.beat.gnum < at_) →
      (∀ bs, scope = 2 → s₁.sets.partShadow = some bs → partFail s₁ bs = none → partBusy s₁ (partOf bs) = false →
        assignsUnderTest s₁ (partOf bs) = false → swaps s₁) ∧
      (∀ bs, scope = 3 → s₁.sets.imapShadow = some bs → imapFail s₁ bs = none → imapBusy s₁ (imapOf bs) = false → swaps s₁) ∧
      (∀ bs, scope = 4 → s₁.sets.powerShadow = some bs → policyFail bs = none → swaps s₁) ∧
      (∀ a b, scope = 5 → s₁.sets.routeShadow = some (a, b) → routeFail a b = none → routeBusy s₁ (tablesOf a b) = false →
        swaps s₁) ∧
      (∀ t, scope = 0 → x.st ≠ .free → resharding s₁ c.ctx = false →
        let plan := shadowPlan x
        readRegions h (planRegions s₁ plan) 0 s₁ = (none, t) → planFail t c.ctx plan = none →
        slotConflict t c.ctx plan = false → linkConflict t c.ctx plan = false →
        (x.st ≠ .unparked ∨ planLenMin t plan ≤ beatLen t) → swaps t) ∧
      (∀ t, scope = 1 → x.st ≠ .free → resharding s₁ c.ctx = false →
        let map := shadowShard x
        readRegions h (shardRegions s₁ map) 0 s₁ = (none, t) → (map = 0 ∨ shardFail t c.ctx map = none) →
        (x.resharded = true ∨ layoutEqual t (shardMapOf x) map = true) → swaps t)) ∧
    (Reaches 0x0203 r s s₁ c → c.field 0x0C 2 = 1 → planFloor s₁ ≤ c.field 0 2 →
      lenFits (c.field 0 2) (adaptMin s₁) (adaptMax s₁) = true →
      let ahead := lenAhead s₁
      let t := setField (setField s₁ aBeatAdapt 24 16 (adaptMin s₁)) aBeatAdapt 40 32 (adaptMax s₁)
      (beatRole s₁ = 0 → RowGives (.beatSet r) r s (acceptCmd c (s₁.beat.gnum + 1) 0 []
        (addChange ⟨c.field 0 2, ahead.2.1, ahead.2.2, s₁.beat.gnum + 1, true⟩ t))) ∧
      (beatRole s₁ = 1 → let change : LenChange := ⟨c.field 0 2, ahead.2.1, ahead.2.2, s₁.beat.gnum + 4, true⟩
        RowGives (.beatSet r) r s (acceptCmd c (s₁.beat.gnum + 4) 0 [] (tellGroup 5 (lenSetBody change) (addChange change t))))) ∧
    (Reaches 0x0204 r s s₁ c → unparked s₁ = [] → (c.field 0 1 = 1 → noticeFits s₁ (beatNotice s₁) = true) →
      ∃ t, (c.field 0 1 = 2 → RowGives (.beatJoin r) r s (acceptCmd c 0 0 [] t)) ∧
        (c.field 0 1 ≠ 2 → RowGives (.beatJoin r) r s (completeCmd c stOk t.beat.gnum [0] [] t)) ∧
        t.beat.gnum = s₁.beat.gnum ∧ t.beat.joining = (c.field 0 1 == 2) ∧ t.beat.locked = (c.field 0 1 == 1) ∧
        t.beat.depth = 0 ∧ t.beat.changes = [] ∧ t.mem = s₁.mem ∧ t.ctxs = s₁.ctxs)

/-- STEP of an unparked context, with no update or reshard open and one step at most before it, is accepted for the beat that it
names, and one with UPDATE keeps the Almanac block and the group table that it read; MILL_FUSED opens an update in UPD 5 with its
pass on all eight Mills; STEP_RESOLVE BACK turns the committed buffer and lowers the step at once, and FORWARD or DISCARD of an
update in doubt awaits the next boundary; RESHARD of a context with a shadow map that it may move to is accepted (R45, R366,
R375, R387, R389). -/
def Obligations.StepCommands : Prop :=
  ∀ (r : Route) (h : LineHit) (s s₁ : State) (c : Cmd),
    let x := ctxAt s₁ c.ctx
    let at_ := c.field 0 8
    let due := if at_ = 0 then s₁.beat.gnum + 1 else at_
    (Reaches 0x0301 r s s₁ c → x.st = .unparked → resharding s₁ c.ctx = false → x.alm.upd = 0 →
      (jobsOf s₁ 0x0301 c.ctx).length < 2 → awaitingCells s₁ c.ctx = [] →
      (c.field 8 2 ≠ 1 → RowGives (.stepCmd r h) r s (acceptCmd c due 0 [] s₁)) ∧
      (∀ t, c.field 8 2 = 1 → nextStepStart s₁ c.ctx ≤ c.field 0x0A 2 →
        c.field 0x0A 2 < stepEnd s₁ (planOf x) (nextStepStart s₁ c.ctx) →
        readRegions h (almanacRegions s₁ c.ctx) 0 s₁ = (none, t) → updateFault t c.ctx = none →
        RowGives (.stepCmd r h) r s (acceptStep c true t))) ∧
    (∀ t, Reaches 0x0304 r s s₁ c → x.st = .unparked → x.alm.upd = 0 → stepInFlight s₁ c.ctx = false →
      readRegions h (almanacRegions s₁ c.ctx) 0 s₁ = (none, t) → updateFault t c.ctx = none →
      RowGives (.millFused r h) r s (startFused c t) ∧
        ((ctxAt (startFused c t) c.ctx).alm.upd = 5 ∧
        ((ctxAt (startFused c t) c.ctx).upd.map (fun u => (u.fused, u.apply_, u.mills, u.t))) =
          some (true, c.field 0 1 == 2, List.range 8, (ctxAt t c.ctx).alm.step + 1))) ∧
    (Reaches 0x0302 r s s₁ c → c.field 0 1 = 2 → x.alm.upd = 0 → x.alm.passSince = false →
      let t := stepBack c.ctx s₁
      RowGives (.stepResolve r) r s (completeCmd c stOk t.beat.gnum [(ctxAt t c.ctx).alm.step] [] t) ∧
        (ctxAt t c.ctx).alm.cb = 1 - x.alm.cb ∧ (ctxAt t c.ctx).alm.step = (x.alm.step + 2 ^ 64 - 1) % 2 ^ 64) ∧
    (Reaches 0x0302 r s s₁ c → c.field 0 1 ≠ 2 → x.alm.upd = 4 → jobsOf s₁ 0x0302 c.ctx = [] →
      RowGives (.stepResolve r) r s (acceptCmd c (s₁.beat.gnum + 1) 0 [] s₁)) ∧
    (∀ t, Reaches 0x0303 r s s₁ c → x.st = .unparked → x.alm.upd ≠ 4 → resharding s₁ c.ctx = false →
      stepInFlight s₁ c.ctx = false → shadowShard x ≠ 0 →
      readRegions h (shardRegions s₁ (shadowShard x)) 0 s₁ = (none, t) → shardFail t c.ctx (shadowShard x) = none →
      overlapFail t c.ctx (shardMapOf x) (shadowShard x) = none → reshardable t (shardMapOf x) (shadowShard x) = true →
      RowGives (.reshard r h) r s (acceptCmd c 0 0 [] t))

/-- A pass that ends on every Mill without a fault leaves no Mill busy; after pass A the norms go to the leader, after pass B
DONE, or on a refresh step the parity refresh, follows; a fused pass with a non-finite result is marked for its discard. A
reshard whose shards have all been written ends with ST_OK, the bytes received and served and whether the maps are equivalent.
A snapshot's copy stands in its staging area when staging ends, and its reply comes once the last byte is acknowledged (R341 to
R343, R366, R369, R384, R389, R449). -/
def Obligations.MillPasses : Prop :=
  (∀ (s : State) (ctx : BitVec 14) (h : LineHit) (u : Update) (t : State),
    let c := ctx.toNat
    let x := ctxAt s c
    let all := millTensors s c u
    let idle := updUpdate c (fun u => { u with mills := [] }) t
    x.upd = some u → u.mills ≠ [] → u.abort = none →
    (u.fused = false → x.alm.upd = 1 → overTensors (passA c x.alm.cb u h) all ⟨0, s⟩ = (true, t) →
      exec (.millPassADone ctx h) s = .next (flushOut (tellNorms c idle))) ∧
    (u.fused = false → x.alm.upd = 2 → overTensors (passB c x.alm.cb u h) all ⟨0, s⟩ = (true, t) →
      exec (.millPassBDone ctx h) s = .next (flushOut (if refreshStep (ctxAt idle c) u.t then
        settleRefresh c (startRefresh c none (1 - x.alm.cb) u.t
          (imageBytesOf (updUpdate c (fun u => { u with refresh := true }) idle) c (1 - x.alm.cb))
          (updUpdate c (fun u => { u with refresh := true }) idle))
        else sendDone c idle))) ∧
    (u.fused = true →
      overTensors (if u.apply_ then passApply c x.alm.cb u h else passRefresh c x.alm.cb u h) all ⟨0, s⟩ = (true, t) →
      exec (.millFusedDone ctx h) s = .next (updUpdate c (fun u =>
        { u with mills := [], abort := if u.nonfiniteB then some 1 else u.abort }) t))) ∧
  (∀ (s : State) (ctx : BitVec 14) (got : List Byte) (served : BitVec 64) (h : LineHit) (j : Job) (rest : List Job) (t : State),
    let c := ctx.toNat
    let x := ctxAt s c
    let here := ((reshardItems s c).filter (fun i => i.src.isNone)).map (fun i => i.size)
    let same := mapsEquivalent t (shardMapOf x) (shadowShard x)
    jobsOf s 0x0303 c = j :: rest → writeItems c h (reshardItems s c) 0 got s = (true, t) →
    exec (.reshardDone ctx got served false h) s = .next (endJob j stOk t.beat.gnum
      [here.foldl (fun a b => a + b) 0, served.toNat, if same then 1 else 0] (updCtx t c (fun x => { x with resharded := true })))) ∧
  (∀ (s : State) (ctx : BitVec 14) (h : LineHit) (j : Job) (image : List Byte) (t : State),
    let c := ctx.toNat
    (jobsOf s 0x0605 c).find? (fun j => j.phase == 1) = some j →
    ctxReadAll c h (j.extents.map (fun e => (e.1, e.2.2))) 0 s = (some image, t) →
    exec (.snapshotStageEnd ctx h) s = .next (flushOut (shipStaged j image (updJob j.id (fun j =>
      { j with phase := 2, vals := [j.vals.headD 0, image.length, crc32c image, 0] })
      (writeRuns c (j.extents.map (fun e => (e.2.1, e.2.2))) image t))))) ∧
  (∀ (s : State) (ctx : BitVec 14) (j : Job), (jobsOf s 0x0605 ctx.toNat).find? (fun j => j.phase == 2) = some j →
    j.field 0x12 1 = 1 → j.vals.getD 1 0 ≤ j.vals.getD 3 0 →
    exec (.snapshotShipDone ctx) s = .next (endJob j stOk s.beat.gnum [j.vals.getD 0 0, j.vals.getD 1 0, j.vals.getD 2 0]
      { s with oz := { s.oz with xfers := s.oz.xfers.filter (fun x => x.job != j.id) } }))


/-! ### The update of a step across its commit group (R384 to R386) -/

/-- What the messages of an update do at the member they reach. NORMS join what is known and are summed once every member's have
come; NORMS_SUM give the sums; with them a member votes. The leader takes VOTE and DONE: one with OK 0 makes it send ABORT with
CAUSE 1, and the last DONE, in time, makes it send COMMIT to every other member. VOTE_SUM with DECISION 1 begins pass B, COMMIT
commits, ABORT ends the passes with its CAUSE, and the leader's deadline sends ABORT with CAUSE 3. -/
def Obligations.CommitProtocol : Prop :=
  (∀ (s : State) (i : BitVec 16) (m : InMsg) (ctx : Nat) (u : Update),
    let s₁ := freeMsg i.toNat m s
    let f := fieldAt m.bytes
    let x := ctxAt s₁ ctx
    let comes : Nat → Prop := fun type => ctlMsg s i.toNat 4 type = some m ∧ updateFor s₁ m.bytes (decide (type ≤ 2)) = some ctx
    let gives : Instr → State → Prop := fun r t => exec r s = .next (flushOut t)
    x.upd = some u →
    (∀ e, comes 1 → groupByKey s₁ ctx (f 4 4) = some e →
      let es := normEntries m.bytes (groupTensors s₁ ctx e.1) (f 8 2)
      gives (.norms i) (castVote ctx (sumGroup ctx e.1 (updUpdate ctx (fun u => { u with norms := u.norms.filter (fun n =>
        !es.any (fun x => x.key == n.key && x.member == n.member && x.tensor == n.tensor)) ++ es }) s₁)))) ∧
    (∀ e, comes 2 → groupByKey s₁ ctx (f 4 4) = some e → e.2.self ≠ 0 →
      gives (.normsSum i) (castVote ctx
        ((normEntries m.bytes (groupTensors s₁ ctx e.1) 0).foldl (fun s n => takeSum ctx n s) s₁))) ∧
    (comes 3 → x.cSelf = 0 → gives (.vote i) (recordVote ctx (f 8 2) (f 0x20 1 == 1) (f 0x18 8) s₁)) ∧
    (comes 4 → x.cSelf ≠ 0 → u.voted = true → u.decision = none → u.abort = none → f 0x20 1 = 1 →
      gives (.voteSum i) (startPassB ctx (f 0x18 8) s₁)) ∧
    (comes 5 → x.cSelf = 0 → gives (.doneMsg i) (recordDone ctx (f 8 2) (f 0x20 1 == 1) s₁)) ∧
    (comes 6 → x.cSelf ≠ 0 →
      gives (.commitMsg i) (updUpdate ctx (fun u => { u with commit := true, settled := true }) s₁)) ∧
    (comes 7 → x.cSelf ≠ 0 → u.abort = none → ∃ t, gives (.abortMsg i) t ∧
      (ctxAt t ctx).upd = some { u with abort := some (f 0x20 1), settled := true, mills := [] })) ∧
  (∀ (s : State) (ctx member clip : Nat) (u : Update),
    let x := ctxAt s ctx
    x.upd = some u → u.settled = false →
    let told : Nat → List Byte → List OutMsg := fun type body => (otherMembers x).map (fun k =>
      ⟨x.cNodes.getD k 0, 0, 4, ctx, updateBytes type 0 x.cKey x.cSelf 0 u.t body⟩)
    ((recordDone ctx member false s).out = s.out ++ told 7 (natLe 8 0 ++ natLe 8 1) ∧
      (ctxAt (recordDone ctx member false s) ctx).upd.map (fun u => (u.abort, u.settled, u.mills)) = some (some 1, true, [])) ∧
    ((∀ k, k < x.cNodes.length → k = member ∨ ∃ b, (k, b) ∈ u.dones) → commitLate s ctx = false →
      (recordDone ctx member true s).out = s.out ++ told 6 [] ∧
        (ctxAt (recordDone ctx member true s) ctx).upd.map (fun u => (u.commit, u.settled)) = some (true, true)) ∧
    (u.decision = none → (recordVote ctx member false clip s).out = s.out ++ told 7 (natLe 8 0 ++ natLe 8 1))) ∧
  (∀ (s : State) (ctx : BitVec 14) (u : Update), (ctxAt s ctx.toNat).upd = some u → u.fused = false → u.settled = false →
    (ctxAt s ctx.toNat).cSelf = 0 → (ctxAt s ctx.toNat).alm.upd ≠ 0 → (ctxAt s ctx.toNat).alm.upd ≠ 4 →
    (ctxAt s ctx.toNat).run.inFrame = true → (ctxAt s ctx.toNat).run.flags % 2 = 1 →
    exec (.updateDeadline ctx) s = .next (flushOut (sendAbort ctx.toNat 3
      { s with cycle := max s.cycle (guardPoint s - 3000 * beatNotice s) })))

/-! ### Exchanges between gates (R353, R431 to R443) -/

/-- Gate messages at the device that they reach. A FETCH is answered from the serving context with its shard's bytes in chunks,
or refused with STATUS 1 where no context holds its KEY and 3 where the device does not own the shard; a PULL is answered from
the operation of its TAG, held until it issues, or refused; SHARD and PART chunks join the item that they are for; DONE_ACK ends
one contribution due; a refused fetch raises FLT_SHARD_OWNER, and a deadline FLT_COLL_TIMEOUT no earlier than its time;
JOB_FAULT raises a fault in the contexts of its C_KEY and epoch alone. -/
def Obligations.GateExchanges : Prop :=
  (∀ (s : State) (i : BitVec 16) (m : InMsg) (lh : LineHit),
    let s₁ := freeMsg i.toNat m s
    let h := CollHead.ofBytes m.bytes
    let comes : Nat → Prop := fun op => gateMsg s i.toNat 1 op = some m
    let gives : Instr → State → Prop := fun r t => exec r s = .next (flushOut t)
    (comes 1 → servingCtx s₁ h.key = none → gives (.fetch i lh) (refuse 1 6 h 0 1 s₁)) ∧
    (∀ c bs t, comes 1 → servingCtx s₁ h.key = some c →
      let map := shardMapOf (ctxAt s₁ c)
      let e := smTensor s₁ map h.tensor
      let g := ctxGroup s₁ c map e.group
      let x := ctxAt s₁ c
      h.tensor < smTensors s₁ map → h.shard < e.shards → g.members ≠ 0 →
      (h.shard % g.members ≠ g.self → gives (.fetch i lh) (refuse 1 6 h c 3 s₁)) ∧
      (h.shard % g.members = g.self →
        ctxRead c (e.image x.alm.cb + e.slotOff (h.shard / g.members) e.gsize) (e.shardBytes e.gsize) lh s₁ = (some bs, t) →
        gives (.fetch i lh) (sendShard c { h with member := g.self } x.alm.step bs t))) ∧
    (∀ o, comes 2 → opOf s₁ true h.key h.tag = some o → h.tensor = o.tensor →
      let e := smTensor s₁ (shardMapOf (ctxAt s₁ o.ctx)) o.tensor
      gives (.shard i) (takeChunk o.id h.shard h (chunkData (e.shardBytes e.gsize) h m.bytes) s₁)) ∧
    (comes 3 → servingCtx s₁ h.key = none → gives (.pull i) (refuse 1 6 h 0 1 s₁)) ∧
    (∀ c o, comes 3 → servingCtx s₁ h.key = some c → opOf s₁ false h.key h.tag = some o → gives (.pull i) (servePull o h s₁)) ∧
    (∀ c, comes 3 → servingCtx s₁ h.key = some c → opOf s₁ false h.key h.tag = none → gives (.pull i) { s₁ with gate :=
      { s₁.gate with held := s₁.gate.held ++ [(c, ⟨32, 1, 0, m.bytes, s.cycle⟩)] } }) ∧
    (∀ o, comes 4 → opOf s₁ false h.key h.tag = some o →
      let item := if o.fn = 0 then h.shard else if o.fn = 2 then h.member else o.first
      gives (.partMsg i) (takeChunk o.id item h (chunkData (itemBytes o) h m.bytes) s₁)) ∧
    (∀ o, comes 5 → opOf s₁ false h.key h.tag = some o →
      let e := if o.fn = 0 then (h.shard, h.member) else if o.fn = 2 then (h.member, h.member) else (o.first, o.first)
      gives (.doneAck i) (updGateOp o.id (fun o => { o with serves := o.serves.filter (fun v => v != e) }) s₁)) ∧
    (∀ o x, comes 6 → opOf s₁ true h.key h.tag = some o → o.fn = 3 → o.item h.shard = some x → x.retried = [] →
      gives (.collRefuse i) (raiseFault { code := 0x0309 } [o.ctx] s₁))) ∧
  (∀ (s : State) (i : BitVec 16) (o : GateOp) (d : Nat), s.gate.ops[i.toNat]? = some o → o.deadline = some d →
    o.complete = false → exec (.collTimeout i) s = .next (flushOut (raiseFault { code := 0x030F } [o.ctx]
      (gateCount (regionOf o.cell) (fun g => { g with timeouts := satAdd 64 g.timeouts 1 })
        { s with cycle := max s.cycle d })))) ∧
  (∀ (s : State) (i : BitVec 16) (m : InMsg), ctlMsg s i.toNat 5 1 = some m →
    let s₁ := freeMsg i.toNat m s
    let hit := (unparked s₁).filter (fun c => (ctxAt s₁ c).cKey == fieldAt m.bytes 4 4 && !(ctxAt s₁ c).cNodes.isEmpty &&
      (ctxAt s₁ c).run.epoch == fieldAt m.bytes 0x10 2)
    (hit = [] → exec (.jobFault i) s = .next s₁) ∧
    (hit ≠ [] → exec (.jobFault i) s = .next (flushOut (raiseRemote { code := 0x0310, unit := fieldAt m.bytes 0x12 2, arg := fieldAt m.bytes 2 2, d0 := fieldAt m.bytes 0x10 2 } hit s₁))))

/-! ### Coded state (R437 to R439, R445 to R453) -/

/-- Messages of coded state. A PIECE for an own parity is taken in; PIECE_ACK ends one acknowledgement due; PIECE_REQ is answered
with the symbol that the device holds, or refused; a SYMBOL that a rebuild wants joins it; a refused one is lost and another takes
its place. A refresh or a rebuild that is complete ends with its reply. -/
def Obligations.CodedMessages : Prop :=
  (∀ (s : State) (i : BitVec 16) (m : InMsg) (lh : LineHit) (c : Nat),
    let s₁ := freeMsg i.toNat m s
    let h := CollHead.ofBytes m.bytes
    let d := (ctxAt s₁ c).code
    let comes : Nat → Prop := fun op => gateMsg s i.toNat 3 op = some m ∧ codingCtx s₁ h.key = some c
    let gives : Instr → State → Prop := fun r t => exec r s = .next (flushOut t)
    (comes 1 → h.shard < d.k → (h.tensor = d.ownStripe 0 ∨ h.tensor = d.ownStripe 1) →
      let r := takeParChunk c h m.bytes s₁
      gives (.piece i) (settleRefresh c (settlePiece c r.1 r.2))) ∧
    (comes 2 → gives (.pieceAck i) (settleRefresh c (updOp c (fun o => if o.cstep = h.gnum then
      { o with unacked := o.unacked.filter (fun e => e != (h.tensor, h.shard, h.member)) } else o) s₁))) ∧
    (∀ step runs bs t, comes 3 → symbolRuns s₁ c h = .inl (step, runs) → ctxReadAll c lh runs 0 s₁ = (some bs, t) →
      gives (.pieceReq i lh) (sendPiece 4 c h.src step h.tensor h.shard d.piece bs t)) ∧
    (∀ status, comes 3 → symbolRuns s₁ c h = .inr status → gives (.pieceReq i lh) (refuse 3 5 h c status s₁)) ∧
    (∀ o, d.op = some o → o.rebuild = true → (h.tensor, h.shard) ∈ o.want →
      (comes 4 → h.gnum = o.cstep →
        let n := (chunkData d.piece h m.bytes).length
        let r := takeParChunk c h m.bytes (updOp c (fun o => { o with bytes := o.bytes + n }) s₁)
        gives (.symbol i) (settleSymbol c r.1 r.2)) ∧
      (comes 5 → h.status ≠ 4 → gives (.parRefuse i) (loseSymbol c h.tensor h.shard s₁)))) ∧
  (∀ (s : State) (ctx : BitVec 14) (o : ParOp) (id : Nat) (j : Job),
    let c := ctx.toNat
    let x := ctxAt s c
    x.code.op = some o → o.job = some id → jobById s id = some j →
    (j.opcode = 0x0602 → x.code.refreshed = true → exec (.codeRefreshDone ctx) s =
      .next (endJob j stOk s.beat.gnum [o.cstep] (updCode c (fun d => { d with ready := true }) (finishRefresh c s)))) ∧
    (o.rebuild = true → o.fail = none → x.code.rebuilt = true → exec (.codeRebuildDone ctx) s =
      .next (endJob j stOk s.beat.gnum [o.cstep, o.bytes] (finishRebuild c (shardMapOf x) x.alm.cb s))))

/-- Commands on coded state and snapshots: CODE_SET takes a descriptor that passes its checks, and one of zero removes it;
CODE_REFRESH starts a refresh from the committed image; CODE_COMMIT of a refresh that is ready awaits its boundary; CODE_REBUILD
asks for symbols, and on a survivor rolls back and completes at once; SNAPSHOT is accepted with its extents (R341, R445, R450 to
R453). -/
def Obligations.CodeCommands : Prop :=
  ∀ (r : Route) (h : LineHit) (s s₁ : State) (c : Cmd),
    let x := ctxAt s₁ c.ctx
    let a := c.field 0 8
    let job : Job := ⟨s₁.nextJob, c.origin, c.opcode, c.tag, c.seq, c.ctx, c.payload, 0, 0, [], []⟩
    (Reaches 0x0601 r s s₁ c → x.st ≠ .free → x.alm.upd = 0 → codeBusy x = false →
      (a = 0 → RowGives (.codeSet r h) r s
        (completeCmd c stOk s₁.beat.gnum [] [] (updCode c.ctx (fun _ => {}) (clearValid c.ctx s₁)))) ∧
      (∀ t, a ≠ 0 → readRegions h [(a, 64), (peekNat s₁ (a + 0x10) 8, 4 * peekNat s₁ (a + 8) 2)] 0 s₁ = (none, t) →
        codingFail t c.ctx a = none → ∃ u, RowGives (.codeSet r h) r s (completeCmd c stOk u.beat.gnum [] [] u) ∧
          let old := (ctxAt (clearValid c.ctx t) c.ctx).code.renames
          (ctxAt u c.ctx).code = { codingOf (clearValid c.ctx t) a with renames := old })) ∧
    (∀ image t, x.st = .unparked → x.alm.upd = 0 → stepInFlight s₁ c.ctx = false → codeBusy x = false →
      x.code.present = true →
      (Reaches 0x0602 r s s₁ c → ctxReadAll c.ctx h (imageRuns (acceptCmd c 0 0 [] s₁) c.ctx (shardMapOf x) x.alm.cb) 0
          (acceptCmd c 0 0 [] s₁) = (some image, t) →
        RowGives (.codeRefresh r h) r s (startRefresh c.ctx (some s₁.nextJob) x.alm.cb x.alm.step image t)) ∧
      (Reaches 0x0604 r s s₁ c → c.field 1 1 ≤ 2 → (∀ i, i < c.field 1 1 → c.field (2 + 2 * i) 2 < x.code.members) →
        let lost := (List.range (c.field 1 1)).map (fun i => (c.field (2 + 2 * i) 2, c.field (8 + 2 * i) 2))
        let s₂ := lost.foldl (fun s e => renameNode c.ctx e.1 e.2 s) s₁
        (c.field 0 1 ≠ 1 → RowGives (.codeRebuild r h) r s
          (startRebuild c.ctx s₂.nextJob x.alm.step (lost.map (fun e => e.1)) (acceptCmd c 0 0 [] s₂))) ∧
        (∀ t, c.field 0 1 = 1 → x.code.valid = true → rollBack c.ctx h s₂ = (true, t) →
          RowGives (.codeRebuild r h) r s (completeCmd c stOk t.beat.gnum [x.code.cstep, 0] [] t)))) ∧
    (Reaches 0x0603 r s s₁ c → x.st ≠ .free → x.code.ready = true →
      RowGives (.codeCommit r) r s (acceptCmd c (if a = 0 then s₁.beat.gnum + 1 else a) 0 [] s₁)) ∧
    (∀ t, Reaches 0x0605 r s s₁ c → x.st.resident = true → ¬(c.field 0x12 1 = 2 ∧ c.fromRing = true) →
      (∀ j ∈ s₁.jobs, j.opcode = 0x0605 → j.phase = 0) →
      readRegions h [(c.field 8 8, 24 * c.field 0x10 2)] 0 s₁ = (none, t) →
      (∀ i, i < c.field 0x10 2 → extentFail t c.ctx (c.field 8 8) i = none) →
      ∃ u, RowGives (.snapshot r h) r s u ∧ u.jobs.getLast? = some { job with
        id := t.nextJob
        phase := if a = 0 then 1 else 0
        vals := [x.alm.step]
        data := peek (acceptCmd c 0 (if a = 0 then 1 else 0) [x.alm.step] t) (c.field 8 8) (24 * c.field 0x10 2) })


/-! ### Links (chapter 13) -/

/-- Flits on a port that is coded. A good DATA flit in sequence is accepted once its ACK and credits are taken; a bad one, or one
out of sequence, is answered with NAK; good IDLE and NAK flits give back ACK and credits, and a NAK demands a replay; so does a
wait for ACK that expires; an episode older than LLR_WINDOW takes the port down. A message for this device that fits one flit joins the
inbox; bytes of a bulk transfer are kept and the offset received goes back, and an acknowledgement advances a snapshot's transfer
(R403 to R409, R411). -/
def Obligations.LinkFlits : Prop :=
  (∀ (s : State) (port : BitVec 5) (raw : BitVec 2048) (rs : Bool),
    let p := port.toNat
    let bs := flitBytes raw
    let h := flitHead (fieldAt bs 0 8)
    let t := portAt s p
    let s₁ := takeReturn p h s
    t.coded = true →
    (flitGood bs rs = false → exec (.dataFlit port raw rs) s = .next (updPort p (fun t => { t with nakOut := true }) s) ∧
      exec (.idleFlit port raw rs) s = .next (updPort p (fun t => { t with drops := satAdd 64 t.drops 1 }) s) ∧
      exec (.nakFlit port raw rs) s = .next (updPort p (fun t => { t with drops := satAdd 64 t.drops 1 }) s)) ∧
    (flitGood bs rs = true →
      (h.kind = 0 → h.seq = t.expect → exec (.dataFlit port raw rs) s = .next (flushOut (acceptFlit p h ((bs.drop 8).take 240) s₁))) ∧
      (h.kind = 0 → 0 < seqAhead t.expect h.seq → seqAhead t.expect h.seq < 32768 →
        exec (.dataFlit port raw rs) s = .next (updPort p (fun t => { t with nakOut := true }) s₁)) ∧
      (h.kind = 1 → exec (.idleFlit port raw rs) s = .next s₁) ∧
      (h.kind = 2 → exec (.nakFlit port raw rs) s = .next (demandReplay p s₁)))) ∧
  (∀ (s : State) (p : Nat) (h : FlitHead) (body : List Byte), poolHeld s p h.cls < poolSize h.cls → h.dest = ownNode s →
    h.cls = 0 → h.sub ≠ 0 → h.sub ≤ 5 → ∃ t, acceptFlit p h body s = t ∧
      t.link.inbox = s.link.inbox ++ [⟨p, 0, h.sub, body, s.cycle⟩] ∧ (portAt t p).expect = ((portAt s p).expect + 1) % 65536 ∧
      t.ctxs = s.ctxs ∧ t.mem = s.mem) ∧
  (∀ (s : State) (port : BitVec 5), (portAt s port.toNat).coded = true →
    let t := portAt s port.toNat
    (t.unacked ≠ [] → exec (.ackTimeout port) s =
      .next (demandReplay port.toNat { s with cycle := max s.cycle (t.ackAt + ackWait t) })) ∧
    (∀ e, t.episode = some e → exec (.llrWindowExpiry port) s =
      .next (portDown port.toNat 1 { s with cycle := max s.cycle (e.t0 + 3000 * lnkCtl s port.toNat 12 8) }))) ∧
  (∀ (s : State) (i : BitVec 16) (m : InMsg),
    let s₁ := freeMsg i.toNat m s
    let f := fieldAt m.bytes
    (gateMsg s i.toNat 2 1 = some m →
      let mine : BulkIn → Bool := fun b => b.src == f 0 2 && b.transfer == f 0x10 4
      let parts := ((s₁.gate.bulk.find? mine).map (fun b => b.parts)).getD [] ++ [(f 0x18 8, m.bytes.drop 0x20)]
      exec (.bulkData i) s = .next (flushOut (sendBulk (f 0 2) 0 2 (f 0x10 4) (contiguous parts parts.length 0) []
        { s₁ with gate := { s₁.gate with bulk := s₁.gate.bulk.filter (fun b => !mine b) ++ [⟨f 0 2, f 0x10 4, parts⟩] } }))) ∧
    (∀ j, gateMsg s i.toNat 2 2 = some m → s₁.jobs.find? (fun j => j.opcode == 0x0605 && j.phase == 2 && j.field 0x12 1 == 1 &&
        j.field 0x14 2 == f 0 2 && j.field 0x18 4 == f 0x10 4) = some j →
      exec (.bulkAck i) s = .next (flushOut (updJob j.id (fun j =>
        { j with vals := updAt j.vals 3 (fun v => max v (f 0x18 8)) }) s₁))))

/-- Lanes and spares. A receiving lane that fails, where its port is up, a partner's, and the spare free, asks for the spare; the far
end agrees to a switch that is still to come and answers with STATUS 0; the answer marks the switch acknowledged, or ends it.
The window's error rates and eyes become the engine's, and the Tally's (R398 to R402, R424). -/
def Obligations.LinkLanes : Prop :=
  (∀ (s : State) (engine : BitVec 3) (lane : BitVec 5), marginJob s engine.toNat = none → lane.toNat < 16 →
    let k := engine.toNat
    let p := 4 * k + lane.toNat / 4
    let e := engineAt s k
    e.spareRx = 0 → e.switchRx = none → (portAt s p).state = 2 → portIsPartner s p = true → lnkCtl s p 1 1 = 1 →
    exec (.laneFail engine lane false) s = .next (flushOut (askSpare k lane.toNat 1 s)) ∧
    (engineAt (askSpare k lane.toNat 1 s) k).switchRx = some ⟨lane.toNat, 1, s.beat.gnum + 2, false⟩) ∧
  (∀ (s : State) (i : BitVec 16) (m : InMsg),
    let s₁ := freeMsg i.toNat m s
    let f := fieldAt m.bytes
    let k := m.port / 4
    let lane := 4 * (m.port % 4) + f 0x10 1 % 4
    (ctlMsg s i.toNat 1 4 = some m → f 0x11 1 = 1 → s.beat.gnum < f 0x18 8 → portIsPartner s m.port = true →
      (engineAt s k).spareTx = 0 → (engineAt s k).switchTx = none →
      exec (.spareReq i) s = .next (flushOut (sendOn m.port 5 (natLe 1 (f 0x10 1) ++ natLe 1 1 ++ natLe 1 0 ++ natLe 5 0 ++
        natLe 8 (f 0x18 8)) (updEngine k (fun e => { e with switchTx := some ⟨lane, 1, f 0x18 8, true⟩ }) s₁)))) ∧
    (∀ w, ctlMsg s i.toNat 1 5 = some m → (engineAt s k).switchRx = some w → w.lane % 4 = f 0x10 1 % 4 →
      w.lane / 4 = m.port % 4 → w.action = f 0x11 1 → w.at_ = f 0x18 8 →
      (f 0x12 1 = 0 → exec (.spareAck i) s =
        .next (flushOut (updEngine k (fun e => { e with switchRx := some { w with acked := true } }) s₁))) ∧
      (f 0x12 1 ≠ 0 → exec (.spareAck i) s = .next (flushOut (updEngine k (fun e => { e with switchRx := none }) s₁))))) ∧
  (∀ (s : State) (engine : BitVec 3) (ber : BitVec 544) (eye : BitVec 272) (ce ue : BitVec 544) (n : Nat), n < 17 →
    ∃ t, exec (.berWindowEnd engine ber eye ce ue) s = .next t ∧
      sGet 0 (engineAt t engine.toNat).ber n = ber.toNat / 2 ^ (32 * n) % 2 ^ 32 ∧
      sGet 0 (engineAt t engine.toNat).eye n = eye.toNat / 2 ^ (16 * n) % 2 ^ 16 ∧ t.ctxs = s.ctxs ∧ t.mem = s.mem ∧
      (∀ k, k ≠ engine.toNat → engineAt t k = engineAt s k))

/-- Training and measurement. A good training frame of the expected neighbour lifts the port to the phase that its state
names, and one of another neighbour leaves the port in MISWIRE; HELLO of the expected neighbour begins the measurement; ECHO is
answered, and a port that is up sends one each interval; the sixteenth reply of training brings the port to its last phase
where four waits for ACK fit LLR_WINDOW; a phase that lasts past its bound fails; UNREACH raises FLT_PEER_LOST of the operations
that name its node (R410, R420 to R424). -/
def Obligations.LinkTraining : Prop :=
  (∀ (s : State) (port lane : BitVec 5) (raw : BitVec 2048),
    let p := port.toNat
    let bs := flitBytes raw
    let t := portAt s p
    t.state = 1 → 1 ≤ t.phase → t.phase ≤ 4 → fieldAt bs 0 8 = 0x5A5AA5A50FF0C33C → crc32c (bs.take 0xFC) = fieldAt bs 0xFC 4 →
    (fieldAt bs 8 1 = farLane s p lane.toNat → fieldAt bs 9 1 = expectedPort s p → fieldAt bs 0xA 2 = expectedNode s p →
      let st := fieldAt bs 0xE 2
      (st / 4 % 2 = 1 → exec (.trainingFrame port lane raw) s =
        .next (sendHello p (updPort p (fun t => { t.fresh 5 s.cycle with peerNode := expectedNode s p }) s))) ∧
      (st / 4 % 2 = 0 → st / 2 % 2 = 1 → t.phase < 4 → exec (.trainingFrame port lane raw) s =
        .next (updPort p (fun t => if t.phase < 4 then { t with phase := 4, phaseAt := s.cycle } else t) s))) ∧
    (fieldAt bs 0xA 2 ≠ expectedNode s p →
      exec (.trainingFrame port lane raw) s = .next (updPort p (fun t => { t with state := 4 }) s))) ∧
  (∀ (s : State) (i : BitVec 16) (m : InMsg) (turn : BitVec 32),
    let s₁ := freeMsg i.toNat m s
    let f := fieldAt m.bytes
    let p := m.port
    let t := portAt s₁ p
    (ctlMsg s i.toNat 1 1 = some m → t.state = 1 → t.phase = 5 → f 2 2 = expectedNode s p → f 4 1 = expectedPort s p →
      exec (.hello i) s = .next (flushOut (sendEcho p (updPort p (fun t => { t with
        peerNode := f 2 2, peerPort := f 4 1, hello := true, farTx := f 0x14 4, farRx := f 0x18 4, phase := 6
        phaseAt := s.cycle }) s₁)))) ∧
    (ctlMsg s i.toNat 1 2 = some m → exec (.echo i turn) s =
      .next (flushOut (sendOn p 3 ((m.bytes.drop 0x10).take 10 ++ natLe 2 0 ++ natLe 4 turn.toNat) s₁))) ∧
    (ctlMsg s i.toNat 1 3 = some m → f 0x18 2 = t.echoSeq → t.state = 1 → t.phase = 6 → t.echoes = 15 →
      let rtt := m.at_ * 65536 / 3 - t.echoT1 * 65536 - f 0x1C 4
      4 * ((rtt + 65536 * 1000) * 3 / 65536) ≤ 3000 * lnkCtl s p 12 8 → ∃ u, exec (.echoReply i) s = .next (flushOut u) ∧
        (portAt u p).phase = 7 ∧ (portAt u p).rtt = rtt ∧ (portAt u p).echoes = 16 ∧ (portAt u p).asym =
          ((Config.txDelay p : Int) + (t.farRx : Int) - ((t.farTx : Int) + (Config.rxDelay p : Int))) / 2 + asymAdj s p)) ∧
  (∀ (s : State) (port : BitVec 5),
    let p := port.toNat
    let t := portAt s p
    (t.state = 2 → exec (.echoInterval port) s = .next (sendEcho p s)) ∧
    (t.state = 1 → 1 ≤ t.phase → t.phase < 7 → exec (.trainingPhaseTimeout port) s = .next
      (updPort p (fun t => { t with state := 3, laser := false, waiting := [], unacked := [] })
        { s with cycle := max s.cycle (t.phaseAt + phaseBound t.phase) }))) ∧
  (∀ (s : State) (i : BitVec 16) (m : InMsg) (o : GateOp), ctlMsg s i.toNat 1 6 = some m →
    let s₁ := freeMsg i.toNat m s
    let dest := fieldAt m.bytes 0x10 2
    s₁.gate.ops.filter (fun o => o.nodes.contains dest) = [o] → gateOp s₁ o.id = some o →
    let u := raisePeerLost (regionOf o.cell) o.ctx (if m.port < 32 then m.port else 0xFFFF) dest 5 (if o.fn = 3 then 1 else 3)
      o.key o.tag s₁
    parAwaiting u dest = [] → exec (.unreach i) s = .next (flushOut u))

/-! ### Commands on links and memory (chapters 08, 13, 15, 20) -/

/-- LNK_CONFIG writes the field it selects to every engine, for the next boundary; LNK_FEC fixes a port's mode, or releases it;
LNK_SPARE asks for the spare for a lane, or for a lane's return, and completes at once where the spare does not carry the
lane; LNK_MARGIN borrows the spare, or margins the spare itself, and its end reports the margins found (R399 to R402, R425, R440,
R480 to R482). -/
def Obligations.LinkCommands : Prop :=
  (∀ (r : Route) (s s₁ : State) (c : Cmd),
    let k := c.field 0 1
    let lane := c.field 2 1
    let e := engineAt s₁ k
    (Reaches 0x0501 r s s₁ c → c.field 0 2 = 2 → RowGives (.lnkConfig r) r s
      (acceptCmd c (s₁.beat.gnum + 1) 0 [] (setLinks 19 16 (c.field 3 1) s₁))) ∧
    (Reaches 0x0502 r s s₁ c → ∃ t, RowGives (.lnkFec r) r s (acceptCmd c (s₁.beat.gnum + 1) 0 [] t) ∧
      (portAt t k).fixed = (if c.field 1 1 = 0 then none else some (c.field 1 1 - 1)) ∧
      (c.field 1 1 = 0 → (portAt t k).nextReach = none) ∧ (∀ q, q ≠ k → portAt t q = portAt s₁ q) ∧ t.beat = s₁.beat ∧
      t.mem = s₁.mem ∧ t.ctxs = s₁.ctxs) ∧
    (Reaches 0x0503 r s s₁ c →
      (c.field 1 1 = 1 → e.spareRx = 0 → e.switchRx = none → marginJob s₁ k = none → portIsPartner s₁ (4 * k + lane / 4) = true →
        RowGives (.lnkSpare r) r s (askSpare k lane 1 (acceptCmd c 0 0 [] s₁))) ∧
      (c.field 1 1 ≠ 1 → e.spareRx = lane + 1 → marginJob s₁ k = none →
        RowGives (.lnkSpare r) r s (askSpare k lane 2 (acceptCmd c 0 0 [] s₁))) ∧
      (c.field 1 1 ≠ 1 → e.spareRx ≠ lane + 1 → RowGives (.lnkSpare r) r s (completeCmd c stOk s₁.beat.gnum [] [] s₁))) ∧
    (Reaches 0x0703 r s s₁ c → e.spareRx = 0 → e.switchRx = none → marginJob s₁ k = none → musterScope s₁ ≠ some (4, k) →
      (c.field 1 1 = 16 → RowGives (.lnkMargin r) r s (acceptCmd c 0 1 [] s₁)) ∧
      (c.field 1 1 ≠ 16 → portIsPartner s₁ (4 * k + c.field 1 1 / 4) = true →
        RowGives (.lnkMargin r) r s (askSpare k (c.field 1 1) 3 (acceptCmd c 0 0 [] s₁))))) ∧
  (∀ (s : State) (engine : BitVec 3) (pl ph vl vh : BitVec 8) (j : Job), marginJob s engine.toNat = some j → j.phase ≠ 0 →
    let k := engine.toNat
    let lane := j.field 1 1
    let v := 2 ^ 32 + pl.toNat * 2 ^ 24 + ph.toNat * 2 ^ 16 + vl.toNat * 2 ^ 8 + vh.toNat
    let t := tallyMargin 0x10 (17 * k + lane) 4 v (updEngine k (fun e => { e with margins := sSet 0 e.margins lane v }) s)
    exec (.lnkMarginDone engine pl ph vl vh) s =
      .next (flushOut (endJob j stOk s.beat.gnum [v] (if lane = 16 then t else askSpare k lane 2 t))))


/-- MEM_ECC with no resident context sets the mode and the default interleave map and clears job space afterwards; MEM_READ
returns the bytes of its range, and MEM_WRITE puts its own there; MEM_MARGIN of a stack that no unparked context uses takes
the stack out of use; MUSTER_RUN of a scope that nothing uses is accepted, and its end replies; REPORT_GET waits for the
sense period's end (R255, R285, R294, R527, R575 to R577). -/
def Obligations.MemoryAndTestCommands : Prop :=
  (∀ (r : Route) (h : LineHit) (s s₁ : State) (c : Cmd),
    let a := c.field 0 8
    let n := c.field 8 4
    let at_ := c.field 0x10 8
    (Reaches 0x0402 r s s₁ c → residents s₁ = [] → jobsOf s₁ 0x0402 0 = [] → RowGives (.memEcc r) r s (acceptCmd c 0 0 []
      { s₁ with mem := { s₁.mem with strong := c.field 0 1 == 1 }
                sets := { s₁.sets with imap := {}, imapRaw := none, imapShadow := none } })) ∧
    (Reaches 0x0403 r s s₁ c → deniedOut c at_ = false → rangeFault a n = none →
      let q := memPieces a h (pieces a n) 0 s₁
      q.bad = none → RowGives (.memRead r h) r s (answerOut c at_ [n] q.bytes q.st)) ∧
    (∀ t, Reaches 0x0404 r s s₁ c → rangeFault a n = none →
      (at_ = 0 → c.fromRing = false → putPieces a ((c.payload.drop 0x18).take n) (pieces a n) s₁ = (none, t) →
        RowGives (.memWrite r h) r s (completeCmd c stOk t.beat.gnum [n] [] t)) ∧
      (let q := memPieces at_ h (pieces at_ n) 0 s₁
       at_ ≠ 0 → q.bad = none → putPieces a q.bytes (pieces a n) q.st = (none, t) →
        RowGives (.memWrite r h) r s (completeCmd c stOk t.beat.gnum [n] [] t))) ∧
    (Reaches 0x0702 r s s₁ c → stackBusy s₁ (c.field 0 1) = false → musterScope s₁ ≠ some (3, c.field 0 1) →
      RowGives (.memMargin r) r s (updDie (acceptCmd c 0 0 [(dieAt s₁ (c.field 0 1)).state] s₁) (c.field 0 1)
        (fun d => { d with state := 3 }))) ∧
    (Reaches 0x0701 r s s₁ c → ¬(c.field 0 1 = 0 ∧ c.field 2 2 < 4096 ∧ isVacant s₁ (c.field 2 2) = true) →
      let kind := c.field 0 1
      let id := if kind = 0 then scopeCell s₁ (c.field 2 2) else c.field 2 2
      musterBusy s₁ kind (c.field 1 1) id = false →
      RowGives (.musterRun r) r s (musterStarts kind id (acceptCmd c 0 0 (id :: musterBefore s₁ kind id) s₁))) ∧
    (Reaches 0x0801 r s s₁ c → s₁.boot.idOk = true → deniedOut c (c.field 0x18 8) = false →
      (c.field 0x18 8 = 0 ∨ 96 + (reportBody s₁ (c.field 0 2) (c.field 2 2) c.ctx).1.length + 64 ≤ c.field 0x20 4) →
      RowGives (.reportGet r) r s (acceptCmd c 0 0 [] s₁))) ∧
  (∀ (s : State) (x : MusterResult) (j : Job), s.jobs.find? (fun j => j.opcode == 0x0701) = some j →
    let e := musterEnds (j.field 0 1) (j.vals.headD 0) (j.field 1 1) (j.vals.drop 1) x (dropJob j.id s)
    exec (.musterRunDone x) s = .next (flushOut (endJob j stOk s.beat.gnum e.1 e.2)))

/-- PWR_CAP within 1,500 to 3,600 W, or 0 for no cap, and PWR_SHARE take effect at the next boundary; STOP, FENCE_CELL and
QUARANTINE are accepted for the guard point of the open beat or, past it, of the next, and a STOP of a context that is not
unparked ends at once (R484, R485, R565, R566). -/
def Obligations.PowerAndUrgentCommands : Prop :=
  ∀ (r : Route) (s s₁ : State) (c : Cmd),
    let v := c.field 0 4
    let phase := if s₁.cycle < guardPoint s₁ then 0 else 1
    (Reaches 0x0901 r s s₁ c → (v = 0 ∨ (1500 ≤ v ∧ v ≤ 3600)) →
      RowGives (.pwrCap r) r s (acceptCmd c (s₁.beat.gnum + 1) 0 [if v = 0 then 3600 else v] s₁)) ∧
    (Reaches 0x0902 r s s₁ c → (ctxAt s₁ c.ctx).st ≠ .free →
      RowGives (.pwrShare r) r s (acceptCmd c (s₁.beat.gnum + 1) 0 [v] s₁)) ∧
    (Reaches 0x0F01 r s s₁ c →
      (c.field 0 1 ≠ 1 → (ctxAt s₁ c.ctx).st = .unparked → RowGives (.stop r) r s (acceptCmd c 0 phase [] s₁)) ∧
      (c.field 0 1 ≠ 1 → ((ctxAt s₁ c.ctx).st = .parked ∨ (ctxAt s₁ c.ctx).st = .stored) →
        let t := stopParked c.ctx s₁
        RowGives (.stop r) r s (completeCmd c stOk s₁.beat.gnum [] [] t)) ∧
      (c.field 0 1 = 1 → parkedOrStored s₁ = [] → RowGives (.stop r) r s (acceptCmd c 0 phase [] s₁))) ∧
    (Reaches 0x0F02 r s s₁ c → RowGives (.fenceCell r) r s (acceptCmd c 0 phase [] s₁)) ∧
    (Reaches 0x0F03 r s s₁ c → RowGives (.quarantine r) r s (acceptCmd c 0 phase [] s₁))

/-! ### Firmware, identity and boot (chapter 18) -/

/-- FW_WRITE of bytes that fit the shadow slot is accepted, and programming puts them there; FW_ACTIVATE of an image that checks
and does not roll back makes it the active one on trial, and a confirmed trial ends it; ATTEST_QUOTE answers a signed quote;
TICKET_FLOOR raises a floor and never lowers one; a new owner record, once programmed, is no longer being written, and
every session closes (R483, R540, R550, R551, R553, R554, R556). -/
def Obligations.FirmwareCommands : Prop :=
  (∀ (r : Route) (h : LineHit) (s s₁ : State) (c : Cmd),
    let len := c.field 4 4
    let base := slotOff (shadowSlot s₁)
    (Reaches 0x0A04 r s s₁ c → c.field 0 4 + len ≤ 0x1000000 → bootActive s₁ ≠ shadowSlot s₁ →
      (c.field 8 8 = 0 → c.fromRing = false →
        RowGives (.fwWrite r h) r s (acceptCmd { c with payload := c.payload.take (16 + len) } 0 0 [] s₁)) ∧
      (∀ t, c.field 8 8 ≠ 0 → readRegions h [(c.field 8 8, len)] 0 s₁ = (none, t) →
        RowGives (.fwWrite r h) r s
          (acceptCmd { c with payload := c.payload.take 16 ++ peek t (c.field 8 8) len } 0 0 [] t))) ∧
    (Reaches 0x0A05 r s s₁ c → flashNat s₁ (base + 0x10) 4 + 192 = c.field 0 4 → ozminImageOk s₁ (shadowSlot s₁) = true →
      bootFloor s₁ ≤ imageVersion s₁ base → (bootTrial s₁ = false ∨ bootActive s₁ ≠ s₁.boot.slot) → c.field 4 4 ≠ 1 →
      let t := rewriteBoot (shadowSlot s₁) true (bootFloor s₁) s₁
      let u : State := { t with boot := { t.boot with erased := [] } }
      RowGives (.fwActivate r) r s (completeCmd c stOk u.beat.gnum [imageVersion u base] [] u)) ∧
    (Reaches 0x0A06 r s s₁ c → s₁.boot.idOk = true → deniedOut c (c.field 0x20 8) = false →
      let q := quoteBytes s₁ (c.payload.take 32)
      RowGives (.attestQuote r) r s (answerOut c (c.field 0x20 8) [q.length] q s₁)) ∧
    (∀ k b, Reaches 0x0A07 r s s₁ c → s₁.boot.secret = some k → ownerRecord s₁ = some b →
      let floor := fieldAt b (0x160 + 8 * c.field 0 1) 8
      (c.field 8 8 ≤ floor → RowGives (.ticketFloor r) r s (completeCmd c stOk s₁.beat.gnum [] [] s₁)) ∧
      (floor < c.field 8 8 →
        let t := programOwner k (putBytes b (0x160 + 8 * c.field 0 1) (natLe 8 (c.field 8 8))) s₁
        RowGives (.ticketFloor r) r s
          (completeCmd c stOk t.beat.gnum [] [] { t with boot := { t.boot with ownerChanged := true } })))) ∧
  (∀ (s : State) (j : Job), s.jobs.find? (fun j => j.opcode == 0x0A04) = some j →
    let data := j.payload.drop 16
    let base := slotOff (shadowSlot s)
    let fresh := (sectorsOf (j.field 0 4) data.length).filter (fun k => !s.boot.erased.contains k)
    let t := fresh.foldl (fun s k => flashErase (base + 0x10000 * k) 0x10000 s) s
    exec .imageProgrammingDone s = .next (endJob j stOk s.beat.gnum [data.length] (flashPut (base + j.field 0 4) data
      { t with boot := { t.boot with erased := t.boot.erased ++ fresh } }))) ∧
  (∀ s : State, s.oz.running = true → bootTrial s = true → bootActive s = s.boot.slot → exec .trialConfirm s =
    .next (rewriteBoot (bootActive s) false (max (bootFloor s) (flashNat s (slotOff s.boot.slot + 0x0C) 4))
      { s with cycle := max s.cycle (s.oz.since + 180000000000) })) ∧
  (∀ (s : State) (w : OwnerWrite), s.boot.writing = some w → ∃ t, exec .ownerRecordWritten s = .next t ∧
    t.boot.writing = none ∧ t.boot.ownerChanged = true ∧ (∀ n, (sessionAt t n).isOpen = false) ∧ t.ctxs = s.ctxs ∧ t.mem = s.mem ∧
    (w = .release → ∀ o, 0x20000 ≤ o - ownerOff 0 → ownerOff 0 ≤ o → sGet 0xFF#8 t.boot.flash o = sGet 0xFF#8 s.boot.flash o))

/-- The boot sequence: release from reset, with the input qualified, samples the straps and starts boot at stage 1 with the
device as reset leaves it; stages 1 and 2 and 4 to 6 end in the next; stage 8 leaves Ozmin running; a device whose Boot Record does
not check stops with ALERT_N. PERST_N and a loss of the input leave every register and memory at its reset value, flash as it was.
A restart of Ozmin goes back to stage 7 with no command in progress (R509, R546 to R548, R552, R558 to R562). -/
def Obligations.BootSequence : Prop :=
  (∀ (s : State) (straps : BitVec 4), s.pins.inReset = true → s.pins.pwrgd = true → s.pins.alert = false →
    ∃ t, exec (.resetRelease straps) s = .next t ∧ t.pins.inReset = false ∧ t.pins.straps = straps.toNat ∧
      t.boot.stage = State.reset.boot.stage ∧ t.boot.status = 0 ∧ t.boot.flash = s.boot.flash ∧ t.regs = State.reset.regs ∧
      t.mem = State.reset.mem ∧ t.ctxs = [] ∧ t.jobs = [] ∧ t.oz = State.reset.oz) ∧
  (∀ s : State, (∃ t, exec .perstNAssert s = .next t ∧ t.pins.inReset = true ∧ t.pins.pwrgd = s.pins.pwrgd ∧
      t.boot.flash = s.boot.flash ∧ t.regs = State.reset.regs ∧ t.mem = State.reset.mem ∧ t.beat = State.reset.beat) ∧
    (∃ t, exec .inputProtect s = .next t ∧ t.pins.inReset = true ∧ t.pins.pwrgd = false ∧ t.boot.flash = s.boot.flash ∧
      t.mem = State.reset.mem) ∧
    (s.pins.inReset = true → exec .inputQualified s = .next { s with pins := { s.pins with pwrgd := true } })) ∧
  (∀ (s : State) (fails : BitVec 8) (torn : Option Nat), s.pins.inReset = false → s.boot.status = 0 →
    let on : Nat → State → State := fun k s => { s with boot := { s.boot with stage := k } }
    (s.boot.stage = 1 → s.pins.straps < 8 → exec (.bootStage fails torn) s = .next (on 2 s)) ∧
    (s.boot.stage = 2 → (bootCopy s).isSome = true → exec (.bootStage fails torn) s = .next (on 3 s)) ∧
    (s.boot.stage = 2 → bootCopy s = none → exec (.bootStage fails torn) s = .next { s with
      boot := { s.boot with status := 2, error := 1 }, pins := { s.pins with alert := true } }) ∧
    (s.boot.stage = 4 → ∃ t, exec (.bootStage fails torn) s = .next t ∧ t.boot.stage = 5 ∧
      (∀ n, n < 8 → (dieAt t n).state = if fails.getLsbD n then 2 else 1)) ∧
    (s.boot.stage = 6 → ∃ t, exec (.bootStage fails torn) s = .next t ∧ t.boot.stage = 7 ∧ t.mem.hbm = [] ∧
      t.mem.poison = [] ∧ t.mem.scratch = s.mem.scratch) ∧
    (s.boot.stage = 8 → ∃ t, exec (.bootStage fails torn) s = .next t ∧ t.oz.running = true ∧ t.boot.status = 1 ∧
      t.boot.booted = true ∧ t.ctxs = s.ctxs ∧ t.mem = s.mem)) ∧
  (∀ s : State, s.boot.restart = true → ∃ t, exec .ozminRestart s = .next t ∧ t.oz.running = false ∧ t.boot.stage = 7 ∧
    t.boot.status = 0 ∧ t.jobs = [] ∧ t.oz.queue = [] ∧ t.ctxs = s.ctxs ∧ t.cells = s.cells ∧ t.mem = s.mem) ∧
  (∀ s : State, s.oz.running = true → ∃ t, exec .fltHallFw s = .next t ∧ t.oz.running = false ∧ t.boot.stage = 7 ∧ t.jobs = [])

/-! ### Power, the environment and the Tally (chapters 17 and 19) -/

/-- The environment: a sample within its range ends its sensor's run, and one outside counts; the run that reaches its limit, a lost
reference clock after boot and a die past its trip temperature enter Safe-Hold, with ALERT_N asserted and power good
withdrawn. A failed check of the beat master or the power manager raises a device fault and bars unparks; a PLL that loses lock
stops its domain; a failed check of a cell or a gate raises its own fault (R490, R506, R507, R560 to R563, R571). -/
def Obligations.Environment : Prop :=
  (∀ (s : State) (k : BitVec 2) (v : Int), s.pins.inReset = false →
    let old := (sGet {} s.pwr.sensors k.toNat).outside
    let n := if (sensorRule k.toNat v).1 then old + 1 else 0
    ∃ t, t.pwr.sensors = sSet {} s.pwr.sensors k.toNat ⟨v, n⟩ ∧ t.flt = s.flt ∧ t.pins = s.pins ∧ t.ctxs = s.ctxs ∧ t.boot = s.boot ∧
      (n ≠ (sensorRule k.toNat v).2.1 → exec (.envSensorSample k v) s = .next t) ∧
      (n = (sensorRule k.toNat v).2.1 →
        exec (.envSensorSample k v) s = .next (flushOut (envTrigger (envFault (sensorRule k.toNat v).2.2 k.toNat v) t)))) ∧
  (∀ (s : State) (f : FaultRec), s.flt.safeHold = false → s.boot.booted = true → ∃ t, envTrigger f s = t ∧
    t.flt.safeHold = true ∧ t.pins.alert = true ∧ t.pins.pwrgd = false ∧ t.gate.ops = [] ∧ t.pwr.loans = []) ∧
  (∀ s : State, s.pins.inReset = false →
    exec .refclockLoss s = .next (flushOut (envTrigger (envFault 0x040A 3 (sGet {} s.pwr.sensors 3).value) s)) ∧
    (∀ die : BitVec 5, die.toNat < 29 → exec (.thermtrip die) s = .next (flushOut
      (enterSafeHold { code := 0x040B, unit := die.toNat } { s with pins := { s.pins with tripped := true } })))) ∧
  (∀ s : State,
    (∃ t, exec .fltBeatMaster s = .next t ∧ t = unitCheck { code := 0x0406 } s) ∧
    (∃ t, exec .fltPowerManager s = .next t ∧ t = unitCheck { code := 0x0407 } s) ∧
    (∀ c : LCell, isVacant s c.toNat = false →
      exec (.fltCellInternal c) s = .next (flushOut (raiseCellFault { code := 0x0131 } c.toNat s))) ∧
    (∀ r : BitVec 2, exec (.fltGateInternal r) s =
      .next (flushOut (raiseRegionFault { code := 0x0311, unit := r.toNat } r.toNat s))) ∧
    (∀ k : BitVec 6, (sensorRule 3 (sGet {} s.pwr.sensors 3).value).1 = false → exec (.pllLockLoss k) s =
      .next (unitCheck { code := 0x0407, unit := k.toNat } { s with pwr := { s.pwr with
        domains := sUpd {} s.pwr.domains k.toNat (fun d => { d with running := false, locked := false }) } })) ∧
    (s.out = [] → residents s = [] → ∀ f, (unitCheck f s).flt.unparkBarred = true))

/-- The Tally's samples: a die's first reading of a period stands, and a region at 100 °C is hot; a read that finds no slot is
counted; a droop is counted once for events within 1 µs of each other; a period's end applies TLY_CTL and starts the next period;
a checkpoint and the programming of the oldest record take their turn; an interval of the power manager divides its energy
(R517 to R520, R523, R524, R530, R563, R567). -/
def Obligations.TallyEvents : Prop :=
  (∀ (s : State) (die : BitVec 5) (temp : Int), die.toNat < 29 → die.toNat ∉ s.tly.tempsNew →
    ∃ t, exec (.dieTempRead die temp) s = .next t ∧ t.tly.temps = sPut s.tly.temps die.toNat temp ∧
      t.tly.tempsNew = die.toNat :: s.tly.tempsNew ∧ (die.toNat < 4 → (die.toNat ∈ t.pwr.hot ↔ 100 ≤ temp)) ∧
      (12 ≤ die.toNat → die.toNat < 20 → (dieAt t (die.toNat - 12)).temp = temp.toNat) ∧ t.ctxs = s.ctxs) ∧
  (∀ (s : State) (unit : BitVec 6), exec (.senseReadSkip false unit) s =
    .next (regCount aTlySkipped 1 (tallyAdd s 0x41 0 0 1))) ∧
  (∀ (s : State) (k : BitVec 6),
    let d := sGet {} s.pwr.domains k.toNat
    let t : State := { s with pwr := { s.pwr with
      domains := sSet {} s.pwr.domains k.toNat { d with droop := true, last := s.cycle + 1 } } }
    ((d.last ≠ 0 ∧ s.cycle + 1 < d.last + 3000) → exec (.droopEvent k) s = .next t) ∧
    (¬(d.last ≠ 0 ∧ s.cycle + 1 < d.last + 3000) → exec (.droopEvent k) s = .next (tallyAdd t 0x20 0x1A k.toNat 1))) ∧
  (∀ (s : State) (unit : BitVec 6) (hz : Nat) (f0 k : Int × Nat), unit.toNat < 60 → unit.toNat ∈ s.tly.ageLate →
    fp32Ratio (factoryNat s (0x9A00 + 8 * unit.toNat) 4) = some f0 →
    fp32Ratio (factoryNat s (0x9A00 + 8 * unit.toNat + 4) 4) = some k → 0 < f0.1 →
    exec (.ageRead unit hz) s = .next (tallyGauge
      { s with tly := { s.tly with ageLate := s.tly.ageLate.filter (fun v => v != unit.toNat) } } 0x21 0x1B unit.toNat
      (signedWord (agePpm hz f0 k ((sFind s.tly.temps (oscDie unit.toNat)).getD 60))))) ∧
  (∀ s : State, s.tly.temps = [] → s.tly.ready = false → (∀ j ∈ s.jobs, j.opcode ≠ 0x0801) →
    let at_ := s.tly.periodAt + 3000000 * s.tly.period
    ∃ t, exec .sensePeriodEnd s = .next t ∧ t.cycle = max s.cycle at_ ∧ t.tly.periodAt = at_ ∧ t.tly.tempsNew = [] ∧
      t.tly.period = (regField s aTlyCtl 15 0) ∧ t.ctxs = s.ctxs) ∧
  (∀ s : State, s.tly.ready = true → s.tly.ckptLeft = 0 → exec .checkpoint s =
    .next (startCheckpoint { s with cycle := max s.cycle (s.tly.ckptAt + 180000000000 * effField s aTlyCtl 31 24) })) ∧
  (∀ (s : State) (x : LogRec) (rest : List LogRec), s.oz.running = true → s.tly.queue = x :: rest → exec .logProgram s =
    .next (programRec x { s with tly := { s.tly with
      queue := rest, ckptLeft := if x.type = 2 then s.tly.ckptLeft - 1 else s.tly.ckptLeft } })) ∧
  (∀ (s : State) (m : PowerReading), s.pins.inReset = false → s.flt.safeHold = false → s.pwr.loans = [] →
    ∃ a t, exec (.powerInterval m) s = .next (divideInterval m (regCount aPwrPaced m.held t)) ∧
      ((List.range 4).foldl (paceRegion m) (false, { s with pwr := { s.pwr with other :=
        ((((m.dies.take 8).map (fun x => x.1)).foldl (fun a b => a + b) 0 +
          ((m.engines.take 8).map (fun x => x.1)).foldl (fun a b => a + b) 0 + m.hall + m.loss) :: s.pwr.other).take 100 } }) = a) ∧
      t = (if a.1 then regCount aPwrOver 1 { a.2 with pwr := { a.2.pwr with overCap := a.1 } }
        else { a.2 with pwr := { a.2.pwr with overCap := a.1 } }))

/-! ### Registers (chapters 00, 02, 15, 17, 18) -/

/-- An access of a size or alignment that R6 does not allow has no effect on the register, reads as zeros, and is recorded as
FLT_REG_ACCESS, in context 0's ring and the Tally. An allowed write of a firmware core is the write of its register: BEAT_CTL, the
management addresses, which closes every session, CKPT_NOW, COMMIT, RELEASE, BOOT_OWN_DATA and any other; that of an OS core is
recorded and has no effect, but for CMD_DOORBELL (R6, R7, R83, R462). -/
def Obligations.RegisterAccesses : Prop :=
  ∀ (s : State) (core : Fin 36), coreRuns s core.val = true →
    let gives : Instr → Nat → RegPart → State → Prop := fun i a part t =>
      (32 ≤ core.val → exec i s = .next (flushOut t)) ∧
      (core.val < 32 → exec i s = .next (flushOut (raiseRegAccess core (a + if part = .high then 4 else 0)
        (if part = .whole then 8 else 4) true s)))
    (∀ (addr : BitVec 40) (n : BitVec 6), isRegAddr addr.toNat = true →
      let a := addr.toNat
      let k := n.toNat + 1
      (¬(k = 8 ∧ a % 8 = 0) → ¬(k = 4 ∧ a % 4 = 0) →
        (∀ v h, exec (.hallAccess core addr (.store n v) h) s = .next (flushOut (raiseRegAccess core a k true s)) ∧
          exec (.registerWrite core addr n v) s = .next (flushOut (raiseRegAccess core a k true s))) ∧
        (∀ h, exec (.hallAccess core addr (.load n) h) s =
          .next (flushOut { raiseRegAccess core a k false s with readOut := List.replicate k 0#8 }))) ∧
      (∀ wr : Bool,
        let f : FaultRec := { code := 0x0403, unit := core, arg := a, d0 := k % 16 + if wr then 256 else 0 }
        let t := raiseRegAccess core a k wr s
        (∀ b, b ≠ aTlyLogDrops → regGet t b = regGet s b) ∧
        (logQueued s + 96 ≤ 192 * 1024 →
          t.tly.queue = s.tly.queue ++ [⟨3, 0, 0, s.beat.gnum, 0, f.bytes 0 s.beat.gnum, []⟩])) ∧
      (∀ part v, accessPart a k = some part → coreAdmitted core (a - a % 8) = true →
        exec (.registerWrite core addr n v) s =
          .next (flushOut (writeReg (a - a % 8) part (v.toNat % 2 ^ (8 * (n.toNat + 1))) s)))) ∧
    (∀ part v, gives (.beatCtlWrite core part v) aBeatCtl part (writeBeatCtl part v.toNat s)) ∧
    (∀ reg part v, gives (.mgmtConfigWrite core reg part v) (mgmtConfigAddr reg) part
      (closeSessions (plainWrite (mgmtConfigAddr reg) part v.toNat s))) ∧
    (∀ (wide : Bool) v, let part : RegPart := if wide then .whole else .low
      gives (.ckptNow core wide v) aTlyCtl part (askCheckpoint (plainWrite aTlyCtl part (putBits v.toNat 16 16 1) s))) ∧
    gives (.bootCommit core) aBootCtl .whole (commitOwner s) ∧ gives (.bootRelease core) aBootCtl .whole (releaseOwner s) ∧
    (∀ i part v, gives (.bootOwnData core i part v) (aBootOwnData0 + 8 * i.toNat) part (writeOwnData i.toNat part v.toNat s))

/-- A core loads what memory holds, and stores to it; a load from an uncorrectable line returns what the spec does not say, and the
fault of its line is raised; a reserved range reads as zeros, drops stores and counts each access; an allowed load of a
register page returns the register's bytes; a unit of the firmware cores reads as zeros to an OS core (R7, R253, R254, R287, R549). -/
def Obligations.HallAccesses : Prop :=
  ∀ (s : State) (core : Fin 36) (addr : BitVec 40) (n : BitVec 6) (v : BitVec 512) (h : LineHit), coreRuns s core.val = true →
    let a := addr.toNat
    let k := n.toNat + 1
    let load := exec (.hallAccess core addr (.load n) h) s
    let store := exec (.hallAccess core addr (.store n v) h) s
    let got := physRead s a k h.ecc h.which
    let put := physWrite s a (natLe k v.toNat)
    (physAt s a ≠ .reg → physAt s a ≠ .reserved → s.flt.safeHold = false →
      (got.bad = none → load = .next (flushOut { got.st with readOut := got.bytes })) ∧
      (∀ pa, got.bad = some pa → ∃ (bs : List Byte) (t : State), load = .next (flushOut { t with readOut := bs }) ∧ bs.length = k ∧
        t = { hallUe pa got.st with fresh := t.fresh }) ∧
      (put.2 = none → store = .next (flushOut put.1)) ∧
      (∀ pa, put.2 = some pa → store = .next (flushOut (hallUe pa put.1)))) ∧
    (physAt s a ≠ .reg → physAt s a ≠ .reserved → s.flt.safeHold = true → store = .next (flushOut s)) ∧
    (physAt s a = .reserved →
      load = .next (flushOut { tallyAdd s 0x47 0 0 1 with readOut := List.replicate k 0#8 }) ∧
      store = .next (flushOut (tallyAdd s 0x47 0 0 1))) ∧
    (∀ part, physAt s a = .reg → accessPart a k = some part →
      load = .next (flushOut { (readReg s (a - a % 8)).2 with readOut := partBytes part (readReg s (a - a % 8)).1 })) ∧
    (core.val < 32 → exec (.hallAccess core addr .inner h) s = .next (flushOut { s with readOut := List.replicate 8 0#8 })) ∧
    (32 ≤ core.val → exec (.hallAccess core addr .inner h) s = .next (flushOut s))

/-! ### The debug ports (chapters 20 and 21) -/

/-- The TAP's instructions and the I3C target's commands: what each loads or returns, who owns the debug interface after it, and
that a port that is not the owner gets nothing (R586, R587, R606 to R608). The I3C common commands' own rules are those of MIPI
I3C Basic (PRESUMED, log entry 26). -/
def Obligations.DebugPorts : Prop :=
  ∀ s : State,
    let pins : (PinState → PinState) → State → State := fun f t => { t with pins := f t.pins }
    let tap : Nat → List Byte → State → State := fun code out => pins (fun p => { p with tapInsn := code, tapOut := out })
    let bypass : Host.Outcome State Fault Refusal := .next (tap 0xFF [0#8] s)
    let i3c : Option (List Byte) → State → State := fun out => pins (fun p => { p with i3cOut := out })
    (exec .idcode s = .next (tap 0x02 (natLe 4 0x1B400C5F) s) ∧ exec .bypass s = bypass ∧
      (s.pins.inReset = false → exec .extest s = bypass) ∧
      (s.pins.inReset = true → ∃ (t : State) (out : List Byte), exec .extest s = .next t ∧ t = { tap 0x00 out s with fresh := t.fresh }) ∧
      (∃ (t : State) (out : List Byte), exec .samplePreload s = .next t ∧ t = { tap 0x01 out s with fresh := t.fresh }) ∧
      (s.pins.owner = 2 → exec .jtagClaim s = bypass) ∧
      (s.pins.owner ≠ 2 → ∃ (t : State) (out : List Byte), exec .jtagClaim s = .next t ∧
        t = { pins (fun p => { p with owner := 1 }) (tap 0x20 out s) with fresh := t.fresh }) ∧
      exec .testLogicReset s = .next (pins (fun p => { p with owner := if p.owner = 1 then 0 else p.owner })
        (tap 0x02 (natLe 4 0x1B400C5F) s))) ∧
    (∀ (payload : Word) (r : MusterResult), (tapMusterOpen s = false → exec (.musterTap payload r) s = bypass) ∧
      (tapMusterOpen s = true → ∀ kind id tests, tapScope payload s = some (kind, id, tests) →
        let e := musterEnds kind id tests (musterBefore s kind id) r (musterStarts kind id s)
        exec (.musterTap payload r) s = .next (flushOut (tap 0x21 (e.1.flatMap (natLe 8)) e.2)))) ∧
    (∀ (addr : BitVec 40) (v : Word),
      (s.pins.owner = 0 → exec (.regacc addr v true) s = .next (tap 0x22 (natLe 14 (regaccWord addr.toNat v.toNat true false)) s)) ∧
      (s.pins.owner = 1 → s.pins.inReset = false → 3 ≤ s.boot.stage → addr.toNat % 8 = 0 →
        (isRegAddr addr.toNat = true → exec (.regacc addr v false) s = .next (tap 0x22
          (natLe 14 (regaccWord addr.toNat (readReg s addr.toNat).1 false true)) (readReg s addr.toNat).2)) ∧
        (debugAdmitted s addr.toNat = true → exec (.regacc addr v true) s = .next (tap 0x22
          (natLe 14 (regaccWord addr.toNat v.toNat true true)) (flushOut (writeReg addr.toNat .whole v.toNat s)))) ∧
        (debugAdmitted s addr.toNat = false → exec (.regacc addr v true) s = .next (tap 0x22
          (natLe 14 (regaccWord addr.toNat v.toNat true true)) s)))) ∧
    (∀ v : BitVec 8, (s.pins.owner = 1 → exec (.i3cClaim v) s = .next (i3c none s)) ∧
      (s.pins.owner ≠ 1 → v = 1 → exec (.i3cClaim v) s = .next (i3c (some []) (pins (fun p => { p with owner := 2 }) s))) ∧
      (s.pins.owner ≠ 1 → v = 0 → exec (.i3cClaim v) s = .next (i3c (some []) (pins (fun p => { p with owner := 0 }) s)))) ∧
    (∀ (addr : BitVec 40) (v : Word),
      (s.pins.owner ≠ 2 → exec (.setaddr addr) s = .next (i3c none s) ∧ exec .i3cRead s = .next (i3c none s) ∧
        exec (.i3cWrite v) s = .next (i3c none s)) ∧
      (s.pins.owner = 2 → s.pins.inReset = false → 3 ≤ s.boot.stage →
        let on : State → State := pins (fun p => { p with i3cReg := (p.i3cReg + 8) % 2 ^ 40 })
        (addr.toNat % 8 = 0 →
          exec (.setaddr addr) s = .next (i3c (some []) (pins (fun p => { p with i3cReg := addr.toNat }) s))) ∧
        (isRegAddr s.pins.i3cReg = true → exec .i3cRead s =
          .next (i3c (some (natLe 8 (readReg s s.pins.i3cReg).1)) (on (readReg s s.pins.i3cReg).2))) ∧
        (debugAdmitted s s.pins.i3cReg = false → exec (.i3cWrite v) s = .next (i3c (some []) (on s))) ∧
        (debugAdmitted s s.pins.i3cReg = true → exec (.i3cWrite v) s =
          .next (i3c (some []) (on (flushOut (writeReg s.pins.i3cReg .whole v.toNat s))))))) ∧
    (∃ t, exec .i3cBusReset s = .next t ∧ t = { s with pins := t.pins } ∧ t.pins.i3cRst = 1 ∧ t.pins.i3cOut = none ∧
      t.pins.owner = (if s.pins.owner = 2 then 0 else s.pins.owner) ∧ (s.pins.i3cRst ≠ 0 → t.pins.i3cAddr = 0)) ∧
    (∀ addr static : BitVec 7, s.pins.i3cAddr = 0 →
      exec (.entdaa addr) s = .next (i3c (some i3cIdentity) (pins (fun p => { p with i3cAddr := addr.toNat }) s)) ∧
      (static.toNat = staticAddr s →
        exec (.setdasa static addr) s = .next (i3c (some []) (pins (fun p => { p with i3cAddr := addr.toNat }) s)))) ∧
    exec .rstdaa s = .next (i3c (some []) (pins (fun p => { p with i3cAddr := 0 }) s)) ∧
    (s.pins.i3cAddr ≠ 0 → exec .getpid s = .next (i3c (some (natLe 6 (Config.i3cPid % 2 ^ 48))) s) ∧
      exec .getbcr s = .next (i3c (some (natLe 1 (Config.i3cBcr % 256))) s) ∧
      exec .getdcr s = .next (i3c (some (natLe 1 (Config.i3cDcr % 256))) s) ∧
      ∃ (t : State) (out : List Byte), exec .getstatus s = .next t ∧ out.length = 2 ∧ t = { i3c (some out) s with fresh := t.fresh }) ∧
    (∀ e : BitVec 8,
      exec (.enec e) s = .next (i3c (some []) (pins (fun p => { p with i3cEvents := p.i3cEvents ||| e.toNat }) s)) ∧
      exec (.disec e) s = .next (i3c (some []) (pins (fun p => { p with i3cEvents := p.i3cEvents &&& (255 - e.toNat) }) s)) ∧
      (e.toNat ≤ 2 → exec (.rstact e) s = .next (i3c (some []) (pins (fun p => { p with i3cRst := e.toNat }) s))))

/-! ### The whole machine -/

/-- The machine after reset: every register at the value of its table, the beat at 16 µs with no stretch and its counts at zero,
no context resident, Ozmin not running, boot at its first stage, memory with nothing listed and in canonical form, and no
command waiting (R37, R83, R428, R462, R546, R555). What memory and the other state hold where the spec gives no value is the
model's choice (log entry 2). -/
def Obligations.ResetValues : Prop :=
  (∀ a, regGet State.reset a = regResetAt a ∧ regEff State.reset a = (regResetAt a).toNat) ∧
  beatLen State.reset = 16 ∧ State.reset.beat.count = 0 ∧ State.reset.beat.gnum = 0 ∧ State.reset.beat.k = 0 ∧
  residents State.reset = [] ∧ State.reset.oz.running = false ∧ State.reset.boot.stage = 1 ∧ State.reset.boot.osRun = false ∧
  State.reset.flt.safeHold = false ∧ State.reset.pins.owner = 0 ∧ (∀ st la n, hbmBytes State.reset st la n = List.replicate n 0#8) ∧
  State.reset.pending = [] ∧ State.reset.wf = true

/-- A run of bytes written to a stack or a cell store is read back as written and leaves every other byte alone; a write of a
register leaves each RW field at the bits written, or as it was where they are a reserved encoding, every other field as
it was, and every other register alone (R10, R13). -/
def Obligations.StorageKeepsWrites : Prop :=
  (∀ (s : State) (st la : Nat) (bs : List Byte), la + bs.length ≤ 2 ^ 37 →
    hbmBytes (hbmPut s st la bs) st la bs.length = bs ∧
    ∀ st' la', la' < 2 ^ 37 → (st' ≠ st ∨ la' < la ∨ la + bs.length ≤ la') →
      hbmBytes (hbmPut s st la bs) st' la' 1 = hbmBytes s st' la' 1) ∧
  (∀ (x : Cell) (a : Nat) (bs : List Byte),
    storeBytes (x.putStore a bs) a bs.length = bs ∧
    ∀ b, (b < a ∨ a + bs.length ≤ b) → storeBytes (x.putStore a bs) b 1 = storeBytes x b 1) ∧
  (∀ (s : State) (a v : Nat) (r : RegDesc), regDescAt a = some r →
    let t := plainWrite a .whole v s
    (∀ f ∈ r.fields,
      let new := bitsOf v f.hi f.lo
      bitsOf (regGet t a).toNat f.hi f.lo =
        if f.acc = .rw ∧ f.least ≤ new ∧ new ≤ f.most then new else bitsOf (regGet s a).toNat f.hi f.lo) ∧
    ∀ b, b ≠ a → regGet t b = regGet s b)

/-- Every step leaves the queue without the command that it took, and memory and registers in canonical form. -/
def Obligations.StepKeepsForm : Prop :=
  ∀ s t : State, s.wf = true → step s = .next t → t.wf = true ∧ t.pending = s.pending.tail

/-- Safe-Hold lasts: every command but a loss of input power, an assertion of PERST_N and a release from reset leaves a device out of
reset in Safe-Hold there, and so does the clock. The assertion of PERST_N ends it, with boot back at its first stage and memory
cleared (R509). -/
def Obligations.SafeHoldLasts : Prop :=
  (∀ (s t : State) (i : Instr), s.flt.safeHold = true → s.pins.inReset = false →
    i ≠ .perstNAssert → i ≠ .inputProtect → (∀ straps, i ≠ .resetRelease straps) → exec i s = .next t →
      t.flt.safeHold = true ∧ t.pins.inReset = false) ∧
  (∀ s : State, s.flt.safeHold = true → s.pins.inReset = false →
    (tick s).flt.safeHold = true ∧ (tick s).pins.inReset = false) ∧
  (∀ s : State, ∃ t, exec .perstNAssert s = .next t ∧ t.flt.safeHold = false ∧ t.boot.stage = State.reset.boot.stage ∧
    t.mem = State.reset.mem ∧ t.tly.sectors = s.tly.sectors)
end

