-- ==== Sys2Proof/Laws/Sparse.lean ====
section
/-! SUPPORT. Sparse tables: reading after writing, and that every operation keeps the canonical form. -/

namespace Sys2Proof.Machine

variable {α : Type}

/-- The keys of a table strictly rise, said of the list of keys. -/
theorem sRising_iff (m : Sparse α) : sRising m = true ↔ m.Pairwise (fun a b => a.1 < b.1) := by
  induction m with
  | nil => simp [sRising]
  | cons e t ih => obtain ⟨j, v⟩ := e; simp [sRising, ih]

theorem sWf_iff [DecidableEq α] (d : α) (m : Sparse α) :
    sWf d m = true ↔ m.Pairwise (fun a b => a.1 < b.1) ∧ ∀ e ∈ m, e.2 ≠ d := by
  simp [sWf, sRising_iff]

/-- Dropping entries keeps the form. -/
theorem sWf_filter [DecidableEq α] {d : α} {m : Sparse α} (p : Nat × α → Bool) (h : sWf d m = true) :
    sWf d (m.filter p) = true := by
  rw [sWf_iff] at h ⊢
  exact ⟨h.1.filter p, fun e he => h.2 e (List.mem_filter.mp he).1⟩

theorem sWf_erase [DecidableEq α] {d : α} {m : Sparse α} (k : Nat) (h : sWf d m = true) : sWf d (sErase m k) = true :=
  sWf_filter _ h

theorem sWf_clear [DecidableEq α] {d : α} {m : Sparse α} (lo hi : Nat) (h : sWf d m = true) :
    sWf d (sClear m lo hi) = true :=
  sWf_filter _ h

/-- An entry of a table after a write is the written one or was there before. -/
theorem mem_sPut {m : Sparse α} {k : Nat} {v : α} {e : Nat × α} (h : e ∈ sPut m k v) : e = (k, v) ∨ e ∈ m := by
  induction m with
  | nil => simpa [sPut] using h
  | cons f t ih =>
    obtain ⟨j, w⟩ := f
    simp only [sPut] at h
    split at h
    · rcases List.mem_cons.mp h with h | h
      · exact .inr (h ▸ List.mem_cons_self ..)
      · exact (ih h).imp_right (List.mem_cons_of_mem _)
    · split at h
      · rcases List.mem_cons.mp h with h | h
        · exact .inl h
        · exact .inr (List.mem_cons_of_mem _ h)
      · rcases List.mem_cons.mp h with h | h
        · exact .inl h
        · exact .inr h

theorem pairwise_sPut {m : Sparse α} {k : Nat} {v : α} (h : m.Pairwise (fun a b => a.1 < b.1)) :
    (sPut m k v).Pairwise (fun a b => a.1 < b.1) := by
  induction m with
  | nil => simp [sPut]
  | cons f t ih =>
    obtain ⟨j, w⟩ := f
    obtain ⟨h1, h2⟩ := List.pairwise_cons.mp h
    simp only [sPut]
    split
    · next hj =>
      refine List.pairwise_cons.mpr ⟨fun e he => ?_, ih h2⟩
      rcases mem_sPut he with rfl | he
      · exact hj
      · exact h1 e he
    · split
      · next hk => subst hk; exact List.pairwise_cons.mpr ⟨h1, h2⟩
      · next hj hk =>
        refine List.pairwise_cons.mpr ⟨fun e he => ?_, h⟩
        rcases List.mem_cons.mp he with rfl | he
        · exact Nat.lt_of_le_of_ne (Nat.le_of_not_lt hj) (Ne.symm hk)
        · exact Nat.lt_of_le_of_lt (Nat.le_of_not_lt hj) (h1 e he)

theorem sWf_put [DecidableEq α] {d : α} {m : Sparse α} (k : Nat) {v : α} (hv : v ≠ d) (h : sWf d m = true) :
    sWf d (sPut m k v) = true := by
  rw [sWf_iff] at h ⊢
  refine ⟨pairwise_sPut h.1, fun e he => ?_⟩
  rcases mem_sPut he with rfl | he
  · exact hv
  · exact h.2 e he

theorem sWf_set [DecidableEq α] {d : α} {m : Sparse α} (k : Nat) (v : α) (h : sWf d m = true) :
    sWf d (sSet d m k v) = true := by
  unfold sSet; split
  · exact sWf_erase k h
  · next hv => exact sWf_put k hv h

theorem sWf_upd [DecidableEq α] {d : α} {m : Sparse α} (k : Nat) (f : α → α) (h : sWf d m = true) :
    sWf d (sUpd d m k f) = true :=
  sWf_set k _ h

theorem sWf_setAll [DecidableEq α] {d : α} {m : Sparse α} (k : Nat) (vs : List α) (h : sWf d m = true) :
    sWf d (sSetAll d m k vs) = true := by
  induction vs generalizing m k with
  | nil => exact h
  | cons v t ih => exact ih (k + 1) (sWf_set k v h)

@[simp] theorem sWf_nil [DecidableEq α] (d : α) : sWf d ([] : Sparse α) = true := rfl

/-! ### Reading after writing -/

theorem sFind_eq_none {m : Sparse α} {k : Nat} (h : ∀ e ∈ m, e.1 ≠ k) : sFind m k = none := by
  induction m with
  | nil => rfl
  | cons f t ih =>
    obtain ⟨j, w⟩ := f
    have hj : j ≠ k := h (j, w) (List.mem_cons_self ..)
    simp [sFind, hj, ih (fun e he => h e (List.mem_cons_of_mem _ he))]

@[simp] theorem sFind_erase_same (m : Sparse α) (k : Nat) : sFind (sErase m k) k = none :=
  sFind_eq_none (fun e he => by simpa [sErase] using (List.mem_filter.mp he).2)

theorem sFind_erase_other (m : Sparse α) {k j : Nat} (h : j ≠ k) : sFind (sErase m k) j = sFind m j := by
  induction m with
  | nil => rfl
  | cons f t ih =>
    obtain ⟨i, w⟩ := f
    by_cases hi : i = k
    · subst hi
      have : sErase ((i, w) :: t) i = sErase t i := by simp [sErase]
      rw [this, ih]; simp [sFind, Ne.symm h]
    · have : sErase ((i, w) :: t) k = (i, w) :: sErase t k := by simp [sErase, hi]
      rw [this]; simp only [sFind, ih]

@[simp] theorem sFind_put_same (m : Sparse α) (k : Nat) (v : α) : sFind (sPut m k v) k = some v := by
  induction m with
  | nil => simp [sPut, sFind]
  | cons f t ih =>
    obtain ⟨i, w⟩ := f
    simp only [sPut]
    split
    · next h => simp [sFind, Nat.ne_of_lt h, ih]
    · split <;> simp [sFind]

theorem sFind_put_other (m : Sparse α) {k j : Nat} (v : α) (h : j ≠ k) : sFind (sPut m k v) j = sFind m j := by
  induction m with
  | nil => simp [sPut, sFind, Ne.symm h]
  | cons f t ih =>
    obtain ⟨i, w⟩ := f
    simp only [sPut]
    split
    · simp only [sFind, ih]
    · split
      · next hk => subst hk; simp [sFind, Ne.symm h]
      · simp [sFind, Ne.symm h]

@[simp] theorem sGet_nil (d : α) (k : Nat) : sGet d [] k = d := rfl

/-- A read after a write to the same key gives the value written. -/
@[simp] theorem sGet_set_same [DecidableEq α] (d : α) (m : Sparse α) (k : Nat) (v : α) : sGet d (sSet d m k v) k = v := by
  unfold sSet sGet; split
  · next h => simp [h]
  · simp

/-- A write leaves every other key alone. -/
theorem sGet_set_other [DecidableEq α] (d : α) (m : Sparse α) {k j : Nat} (v : α) (h : j ≠ k) :
    sGet d (sSet d m k v) j = sGet d m j := by
  unfold sSet sGet; split
  · rw [sFind_erase_other m h]
  · rw [sFind_put_other m v h]

@[simp] theorem sGet_upd_same [DecidableEq α] (d : α) (m : Sparse α) (k : Nat) (f : α → α) :
    sGet d (sUpd d m k f) k = f (sGet d m k) :=
  sGet_set_same d m k _

theorem sGet_upd_other [DecidableEq α] (d : α) (m : Sparse α) {k j : Nat} (f : α → α) (h : j ≠ k) :
    sGet d (sUpd d m k f) j = sGet d m j :=
  sGet_set_other d m _ h

/-- Writing a list of values leaves the keys outside the run alone. -/
theorem sGet_setAll_other [DecidableEq α] (d : α) (m : Sparse α) {k j : Nat} (vs : List α)
    (h : j < k ∨ k + vs.length ≤ j) : sGet d (sSetAll d m k vs) j = sGet d m j := by
  induction vs generalizing m k with
  | nil => rfl
  | cons v t ih =>
    simp only [List.length_cons] at h
    rw [sSetAll, ih _ (by omega), sGet_set_other d m v (by omega)]

/-- A run of values is read back as written. -/
theorem sGet_setAll_same [DecidableEq α] (d : α) (m : Sparse α) (k : Nat) (vs : List α) (i : Nat) (h : i < vs.length) :
    sGet d (sSetAll d m k vs) (k + i) = vs[i] := by
  induction vs generalizing m k i with
  | nil => simp at h
  | cons v t ih =>
    cases i with
    | zero => simp [sSetAll, sGet_setAll_other d _ (k := k + 1) (j := k) t (.inl (by omega))]
    | succ i =>
      have := ih (sSet d m k v) (k + 1) i (by simpa using h)
      simpa [sSetAll, Nat.add_assoc, Nat.add_comm 1 i] using this

end Sys2Proof.Machine
end

