-- ==== Sys2Proof/Laws/State.lean ====
section
/-! SUPPORT. The frames of the updates of a state: one lemma for each update and each field that it leaves, true by rfl, so that
no proof unfolds a record update. Generated from the list of updates. -/

namespace Sys2Proof.Machine

variable (s : State)


@[simp] theorem regSet_pending (a : Nat) (v : Word) : (regSet s a v).pending = s.pending := rfl
@[simp] theorem regSet_cycle (a : Nat) (v : Word) : (regSet s a v).cycle = s.cycle := rfl
@[simp] theorem regSet_fresh (a : Nat) (v : Word) : (regSet s a v).fresh = s.fresh := rfl
@[simp] theorem regSet_regsEff (a : Nat) (v : Word) : (regSet s a v).regsEff = s.regsEff := rfl
@[simp] theorem regSet_beat (a : Nat) (v : Word) : (regSet s a v).beat = s.beat := rfl
@[simp] theorem regSet_cells (a : Nat) (v : Word) : (regSet s a v).cells = s.cells := rfl
@[simp] theorem regSet_blocks (a : Nat) (v : Word) : (regSet s a v).blocks = s.blocks := rfl
@[simp] theorem regSet_sync (a : Nat) (v : Word) : (regSet s a v).sync = s.sync := rfl
@[simp] theorem regSet_mem (a : Nat) (v : Word) : (regSet s a v).mem = s.mem := rfl
@[simp] theorem regSet_ctxs (a : Nat) (v : Word) : (regSet s a v).ctxs = s.ctxs := rfl
@[simp] theorem regSet_jobs (a : Nat) (v : Word) : (regSet s a v).jobs = s.jobs := rfl
@[simp] theorem regSet_nextJob (a : Nat) (v : Word) : (regSet s a v).nextJob = s.nextJob := rfl
@[simp] theorem regSet_oz (a : Nat) (v : Word) : (regSet s a v).oz = s.oz := rfl
@[simp] theorem regSet_boot (a : Nat) (v : Word) : (regSet s a v).boot = s.boot := rfl
@[simp] theorem regSet_pwr (a : Nat) (v : Word) : (regSet s a v).pwr = s.pwr := rfl
@[simp] theorem regSet_pins (a : Nat) (v : Word) : (regSet s a v).pins = s.pins := rfl
@[simp] theorem regSet_readOut (a : Nat) (v : Word) : (regSet s a v).readOut = s.readOut := rfl
@[simp] theorem regSet_sets (a : Nat) (v : Word) : (regSet s a v).sets = s.sets := rfl
@[simp] theorem regSet_flt (a : Nat) (v : Word) : (regSet s a v).flt = s.flt := rfl
@[simp] theorem regSet_tly (a : Nat) (v : Word) : (regSet s a v).tly = s.tly := rfl
@[simp] theorem regSet_gate (a : Nat) (v : Word) : (regSet s a v).gate = s.gate := rfl
@[simp] theorem regSet_link (a : Nat) (v : Word) : (regSet s a v).link = s.link := rfl
@[simp] theorem regSet_out (a : Nat) (v : Word) : (regSet s a v).out = s.out := rfl

@[simp] theorem regEffSet_pending (a : Nat) (v : Word) : (regEffSet s a v).pending = s.pending := rfl
@[simp] theorem regEffSet_cycle (a : Nat) (v : Word) : (regEffSet s a v).cycle = s.cycle := rfl
@[simp] theorem regEffSet_fresh (a : Nat) (v : Word) : (regEffSet s a v).fresh = s.fresh := rfl
@[simp] theorem regEffSet_regs (a : Nat) (v : Word) : (regEffSet s a v).regs = s.regs := rfl
@[simp] theorem regEffSet_beat (a : Nat) (v : Word) : (regEffSet s a v).beat = s.beat := rfl
@[simp] theorem regEffSet_cells (a : Nat) (v : Word) : (regEffSet s a v).cells = s.cells := rfl
@[simp] theorem regEffSet_blocks (a : Nat) (v : Word) : (regEffSet s a v).blocks = s.blocks := rfl
@[simp] theorem regEffSet_sync (a : Nat) (v : Word) : (regEffSet s a v).sync = s.sync := rfl
@[simp] theorem regEffSet_mem (a : Nat) (v : Word) : (regEffSet s a v).mem = s.mem := rfl
@[simp] theorem regEffSet_ctxs (a : Nat) (v : Word) : (regEffSet s a v).ctxs = s.ctxs := rfl
@[simp] theorem regEffSet_jobs (a : Nat) (v : Word) : (regEffSet s a v).jobs = s.jobs := rfl
@[simp] theorem regEffSet_nextJob (a : Nat) (v : Word) : (regEffSet s a v).nextJob = s.nextJob := rfl
@[simp] theorem regEffSet_oz (a : Nat) (v : Word) : (regEffSet s a v).oz = s.oz := rfl
@[simp] theorem regEffSet_boot (a : Nat) (v : Word) : (regEffSet s a v).boot = s.boot := rfl
@[simp] theorem regEffSet_pwr (a : Nat) (v : Word) : (regEffSet s a v).pwr = s.pwr := rfl
@[simp] theorem regEffSet_pins (a : Nat) (v : Word) : (regEffSet s a v).pins = s.pins := rfl
@[simp] theorem regEffSet_readOut (a : Nat) (v : Word) : (regEffSet s a v).readOut = s.readOut := rfl
@[simp] theorem regEffSet_sets (a : Nat) (v : Word) : (regEffSet s a v).sets = s.sets := rfl
@[simp] theorem regEffSet_flt (a : Nat) (v : Word) : (regEffSet s a v).flt = s.flt := rfl
@[simp] theorem regEffSet_tly (a : Nat) (v : Word) : (regEffSet s a v).tly = s.tly := rfl
@[simp] theorem regEffSet_gate (a : Nat) (v : Word) : (regEffSet s a v).gate = s.gate := rfl
@[simp] theorem regEffSet_link (a : Nat) (v : Word) : (regEffSet s a v).link = s.link := rfl
@[simp] theorem regEffSet_out (a : Nat) (v : Word) : (regEffSet s a v).out = s.out := rfl

@[simp] theorem regCount_pending (a n : Nat) : (regCount a n s).pending = s.pending := rfl
@[simp] theorem regCount_cycle (a n : Nat) : (regCount a n s).cycle = s.cycle := rfl
@[simp] theorem regCount_fresh (a n : Nat) : (regCount a n s).fresh = s.fresh := rfl
@[simp] theorem regCount_regsEff (a n : Nat) : (regCount a n s).regsEff = s.regsEff := rfl
@[simp] theorem regCount_beat (a n : Nat) : (regCount a n s).beat = s.beat := rfl
@[simp] theorem regCount_cells (a n : Nat) : (regCount a n s).cells = s.cells := rfl
@[simp] theorem regCount_blocks (a n : Nat) : (regCount a n s).blocks = s.blocks := rfl
@[simp] theorem regCount_sync (a n : Nat) : (regCount a n s).sync = s.sync := rfl
@[simp] theorem regCount_mem (a n : Nat) : (regCount a n s).mem = s.mem := rfl
@[simp] theorem regCount_ctxs (a n : Nat) : (regCount a n s).ctxs = s.ctxs := rfl
@[simp] theorem regCount_jobs (a n : Nat) : (regCount a n s).jobs = s.jobs := rfl
@[simp] theorem regCount_nextJob (a n : Nat) : (regCount a n s).nextJob = s.nextJob := rfl
@[simp] theorem regCount_oz (a n : Nat) : (regCount a n s).oz = s.oz := rfl
@[simp] theorem regCount_boot (a n : Nat) : (regCount a n s).boot = s.boot := rfl
@[simp] theorem regCount_pwr (a n : Nat) : (regCount a n s).pwr = s.pwr := rfl
@[simp] theorem regCount_pins (a n : Nat) : (regCount a n s).pins = s.pins := rfl
@[simp] theorem regCount_readOut (a n : Nat) : (regCount a n s).readOut = s.readOut := rfl
@[simp] theorem regCount_sets (a n : Nat) : (regCount a n s).sets = s.sets := rfl
@[simp] theorem regCount_flt (a n : Nat) : (regCount a n s).flt = s.flt := rfl
@[simp] theorem regCount_tly (a n : Nat) : (regCount a n s).tly = s.tly := rfl
@[simp] theorem regCount_gate (a n : Nat) : (regCount a n s).gate = s.gate := rfl
@[simp] theorem regCount_link (a n : Nat) : (regCount a n s).link = s.link := rfl
@[simp] theorem regCount_out (a n : Nat) : (regCount a n s).out = s.out := rfl

@[simp] theorem takeFree_pending : (takeFree s).2.pending = s.pending := rfl
@[simp] theorem takeFree_cycle : (takeFree s).2.cycle = s.cycle := rfl
@[simp] theorem takeFree_regs : (takeFree s).2.regs = s.regs := rfl
@[simp] theorem takeFree_regsEff : (takeFree s).2.regsEff = s.regsEff := rfl
@[simp] theorem takeFree_beat : (takeFree s).2.beat = s.beat := rfl
@[simp] theorem takeFree_cells : (takeFree s).2.cells = s.cells := rfl
@[simp] theorem takeFree_blocks : (takeFree s).2.blocks = s.blocks := rfl
@[simp] theorem takeFree_sync : (takeFree s).2.sync = s.sync := rfl
@[simp] theorem takeFree_mem : (takeFree s).2.mem = s.mem := rfl
@[simp] theorem takeFree_ctxs : (takeFree s).2.ctxs = s.ctxs := rfl
@[simp] theorem takeFree_jobs : (takeFree s).2.jobs = s.jobs := rfl
@[simp] theorem takeFree_nextJob : (takeFree s).2.nextJob = s.nextJob := rfl
@[simp] theorem takeFree_oz : (takeFree s).2.oz = s.oz := rfl
@[simp] theorem takeFree_boot : (takeFree s).2.boot = s.boot := rfl
@[simp] theorem takeFree_pwr : (takeFree s).2.pwr = s.pwr := rfl
@[simp] theorem takeFree_pins : (takeFree s).2.pins = s.pins := rfl
@[simp] theorem takeFree_readOut : (takeFree s).2.readOut = s.readOut := rfl
@[simp] theorem takeFree_sets : (takeFree s).2.sets = s.sets := rfl
@[simp] theorem takeFree_flt : (takeFree s).2.flt = s.flt := rfl
@[simp] theorem takeFree_tly : (takeFree s).2.tly = s.tly := rfl
@[simp] theorem takeFree_gate : (takeFree s).2.gate = s.gate := rfl
@[simp] theorem takeFree_link : (takeFree s).2.link = s.link := rfl
@[simp] theorem takeFree_out : (takeFree s).2.out = s.out := rfl

@[simp] theorem updBlk_pending (g : Nat) (f : Block → Block) : (updBlk s g f).pending = s.pending := rfl
@[simp] theorem updBlk_cycle (g : Nat) (f : Block → Block) : (updBlk s g f).cycle = s.cycle := rfl
@[simp] theorem updBlk_fresh (g : Nat) (f : Block → Block) : (updBlk s g f).fresh = s.fresh := rfl
@[simp] theorem updBlk_regs (g : Nat) (f : Block → Block) : (updBlk s g f).regs = s.regs := rfl
@[simp] theorem updBlk_regsEff (g : Nat) (f : Block → Block) : (updBlk s g f).regsEff = s.regsEff := rfl
@[simp] theorem updBlk_beat (g : Nat) (f : Block → Block) : (updBlk s g f).beat = s.beat := rfl
@[simp] theorem updBlk_cells (g : Nat) (f : Block → Block) : (updBlk s g f).cells = s.cells := rfl
@[simp] theorem updBlk_sync (g : Nat) (f : Block → Block) : (updBlk s g f).sync = s.sync := rfl
@[simp] theorem updBlk_mem (g : Nat) (f : Block → Block) : (updBlk s g f).mem = s.mem := rfl
@[simp] theorem updBlk_ctxs (g : Nat) (f : Block → Block) : (updBlk s g f).ctxs = s.ctxs := rfl
@[simp] theorem updBlk_jobs (g : Nat) (f : Block → Block) : (updBlk s g f).jobs = s.jobs := rfl
@[simp] theorem updBlk_nextJob (g : Nat) (f : Block → Block) : (updBlk s g f).nextJob = s.nextJob := rfl
@[simp] theorem updBlk_oz (g : Nat) (f : Block → Block) : (updBlk s g f).oz = s.oz := rfl
@[simp] theorem updBlk_boot (g : Nat) (f : Block → Block) : (updBlk s g f).boot = s.boot := rfl
@[simp] theorem updBlk_pwr (g : Nat) (f : Block → Block) : (updBlk s g f).pwr = s.pwr := rfl
@[simp] theorem updBlk_pins (g : Nat) (f : Block → Block) : (updBlk s g f).pins = s.pins := rfl
@[simp] theorem updBlk_readOut (g : Nat) (f : Block → Block) : (updBlk s g f).readOut = s.readOut := rfl
@[simp] theorem updBlk_sets (g : Nat) (f : Block → Block) : (updBlk s g f).sets = s.sets := rfl
@[simp] theorem updBlk_flt (g : Nat) (f : Block → Block) : (updBlk s g f).flt = s.flt := rfl
@[simp] theorem updBlk_tly (g : Nat) (f : Block → Block) : (updBlk s g f).tly = s.tly := rfl
@[simp] theorem updBlk_gate (g : Nat) (f : Block → Block) : (updBlk s g f).gate = s.gate := rfl
@[simp] theorem updBlk_link (g : Nat) (f : Block → Block) : (updBlk s g f).link = s.link := rfl
@[simp] theorem updBlk_out (g : Nat) (f : Block → Block) : (updBlk s g f).out = s.out := rfl

@[simp] theorem updCell_pending (p : Nat) (f : Cell → Cell) : (updCell s p f).pending = s.pending := rfl
@[simp] theorem updCell_cycle (p : Nat) (f : Cell → Cell) : (updCell s p f).cycle = s.cycle := rfl
@[simp] theorem updCell_fresh (p : Nat) (f : Cell → Cell) : (updCell s p f).fresh = s.fresh := rfl
@[simp] theorem updCell_regs (p : Nat) (f : Cell → Cell) : (updCell s p f).regs = s.regs := rfl
@[simp] theorem updCell_regsEff (p : Nat) (f : Cell → Cell) : (updCell s p f).regsEff = s.regsEff := rfl
@[simp] theorem updCell_beat (p : Nat) (f : Cell → Cell) : (updCell s p f).beat = s.beat := rfl
@[simp] theorem updCell_blocks (p : Nat) (f : Cell → Cell) : (updCell s p f).blocks = s.blocks := rfl
@[simp] theorem updCell_sync (p : Nat) (f : Cell → Cell) : (updCell s p f).sync = s.sync := rfl
@[simp] theorem updCell_mem (p : Nat) (f : Cell → Cell) : (updCell s p f).mem = s.mem := rfl
@[simp] theorem updCell_ctxs (p : Nat) (f : Cell → Cell) : (updCell s p f).ctxs = s.ctxs := rfl
@[simp] theorem updCell_jobs (p : Nat) (f : Cell → Cell) : (updCell s p f).jobs = s.jobs := rfl
@[simp] theorem updCell_nextJob (p : Nat) (f : Cell → Cell) : (updCell s p f).nextJob = s.nextJob := rfl
@[simp] theorem updCell_oz (p : Nat) (f : Cell → Cell) : (updCell s p f).oz = s.oz := rfl
@[simp] theorem updCell_boot (p : Nat) (f : Cell → Cell) : (updCell s p f).boot = s.boot := rfl
@[simp] theorem updCell_pwr (p : Nat) (f : Cell → Cell) : (updCell s p f).pwr = s.pwr := rfl
@[simp] theorem updCell_pins (p : Nat) (f : Cell → Cell) : (updCell s p f).pins = s.pins := rfl
@[simp] theorem updCell_readOut (p : Nat) (f : Cell → Cell) : (updCell s p f).readOut = s.readOut := rfl
@[simp] theorem updCell_sets (p : Nat) (f : Cell → Cell) : (updCell s p f).sets = s.sets := rfl
@[simp] theorem updCell_flt (p : Nat) (f : Cell → Cell) : (updCell s p f).flt = s.flt := rfl
@[simp] theorem updCell_tly (p : Nat) (f : Cell → Cell) : (updCell s p f).tly = s.tly := rfl
@[simp] theorem updCell_gate (p : Nat) (f : Cell → Cell) : (updCell s p f).gate = s.gate := rfl
@[simp] theorem updCell_link (p : Nat) (f : Cell → Cell) : (updCell s p f).link = s.link := rfl
@[simp] theorem updCell_out (p : Nat) (f : Cell → Cell) : (updCell s p f).out = s.out := rfl

@[simp] theorem updCtx_pending (c : Nat) (f : Ctx → Ctx) : (updCtx s c f).pending = s.pending := rfl
@[simp] theorem updCtx_cycle (c : Nat) (f : Ctx → Ctx) : (updCtx s c f).cycle = s.cycle := rfl
@[simp] theorem updCtx_fresh (c : Nat) (f : Ctx → Ctx) : (updCtx s c f).fresh = s.fresh := rfl
@[simp] theorem updCtx_regs (c : Nat) (f : Ctx → Ctx) : (updCtx s c f).regs = s.regs := rfl
@[simp] theorem updCtx_regsEff (c : Nat) (f : Ctx → Ctx) : (updCtx s c f).regsEff = s.regsEff := rfl
@[simp] theorem updCtx_beat (c : Nat) (f : Ctx → Ctx) : (updCtx s c f).beat = s.beat := rfl
@[simp] theorem updCtx_cells (c : Nat) (f : Ctx → Ctx) : (updCtx s c f).cells = s.cells := rfl
@[simp] theorem updCtx_blocks (c : Nat) (f : Ctx → Ctx) : (updCtx s c f).blocks = s.blocks := rfl
@[simp] theorem updCtx_sync (c : Nat) (f : Ctx → Ctx) : (updCtx s c f).sync = s.sync := rfl
@[simp] theorem updCtx_mem (c : Nat) (f : Ctx → Ctx) : (updCtx s c f).mem = s.mem := rfl
@[simp] theorem updCtx_jobs (c : Nat) (f : Ctx → Ctx) : (updCtx s c f).jobs = s.jobs := rfl
@[simp] theorem updCtx_nextJob (c : Nat) (f : Ctx → Ctx) : (updCtx s c f).nextJob = s.nextJob := rfl
@[simp] theorem updCtx_oz (c : Nat) (f : Ctx → Ctx) : (updCtx s c f).oz = s.oz := rfl
@[simp] theorem updCtx_boot (c : Nat) (f : Ctx → Ctx) : (updCtx s c f).boot = s.boot := rfl
@[simp] theorem updCtx_pwr (c : Nat) (f : Ctx → Ctx) : (updCtx s c f).pwr = s.pwr := rfl
@[simp] theorem updCtx_pins (c : Nat) (f : Ctx → Ctx) : (updCtx s c f).pins = s.pins := rfl
@[simp] theorem updCtx_readOut (c : Nat) (f : Ctx → Ctx) : (updCtx s c f).readOut = s.readOut := rfl
@[simp] theorem updCtx_sets (c : Nat) (f : Ctx → Ctx) : (updCtx s c f).sets = s.sets := rfl
@[simp] theorem updCtx_flt (c : Nat) (f : Ctx → Ctx) : (updCtx s c f).flt = s.flt := rfl
@[simp] theorem updCtx_tly (c : Nat) (f : Ctx → Ctx) : (updCtx s c f).tly = s.tly := rfl
@[simp] theorem updCtx_gate (c : Nat) (f : Ctx → Ctx) : (updCtx s c f).gate = s.gate := rfl
@[simp] theorem updCtx_link (c : Nat) (f : Ctx → Ctx) : (updCtx s c f).link = s.link := rfl
@[simp] theorem updCtx_out (c : Nat) (f : Ctx → Ctx) : (updCtx s c f).out = s.out := rfl

@[simp] theorem updKept_pending (c : Nat) (f : Kept → Kept) : (updKept s c f).pending = s.pending := rfl
@[simp] theorem updKept_cycle (c : Nat) (f : Kept → Kept) : (updKept s c f).cycle = s.cycle := rfl
@[simp] theorem updKept_fresh (c : Nat) (f : Kept → Kept) : (updKept s c f).fresh = s.fresh := rfl
@[simp] theorem updKept_regs (c : Nat) (f : Kept → Kept) : (updKept s c f).regs = s.regs := rfl
@[simp] theorem updKept_regsEff (c : Nat) (f : Kept → Kept) : (updKept s c f).regsEff = s.regsEff := rfl
@[simp] theorem updKept_beat (c : Nat) (f : Kept → Kept) : (updKept s c f).beat = s.beat := rfl
@[simp] theorem updKept_cells (c : Nat) (f : Kept → Kept) : (updKept s c f).cells = s.cells := rfl
@[simp] theorem updKept_blocks (c : Nat) (f : Kept → Kept) : (updKept s c f).blocks = s.blocks := rfl
@[simp] theorem updKept_sync (c : Nat) (f : Kept → Kept) : (updKept s c f).sync = s.sync := rfl
@[simp] theorem updKept_mem (c : Nat) (f : Kept → Kept) : (updKept s c f).mem = s.mem := rfl
@[simp] theorem updKept_jobs (c : Nat) (f : Kept → Kept) : (updKept s c f).jobs = s.jobs := rfl
@[simp] theorem updKept_nextJob (c : Nat) (f : Kept → Kept) : (updKept s c f).nextJob = s.nextJob := rfl
@[simp] theorem updKept_oz (c : Nat) (f : Kept → Kept) : (updKept s c f).oz = s.oz := rfl
@[simp] theorem updKept_boot (c : Nat) (f : Kept → Kept) : (updKept s c f).boot = s.boot := rfl
@[simp] theorem updKept_pwr (c : Nat) (f : Kept → Kept) : (updKept s c f).pwr = s.pwr := rfl
@[simp] theorem updKept_pins (c : Nat) (f : Kept → Kept) : (updKept s c f).pins = s.pins := rfl
@[simp] theorem updKept_readOut (c : Nat) (f : Kept → Kept) : (updKept s c f).readOut = s.readOut := rfl
@[simp] theorem updKept_sets (c : Nat) (f : Kept → Kept) : (updKept s c f).sets = s.sets := rfl
@[simp] theorem updKept_flt (c : Nat) (f : Kept → Kept) : (updKept s c f).flt = s.flt := rfl
@[simp] theorem updKept_tly (c : Nat) (f : Kept → Kept) : (updKept s c f).tly = s.tly := rfl
@[simp] theorem updKept_gate (c : Nat) (f : Kept → Kept) : (updKept s c f).gate = s.gate := rfl
@[simp] theorem updKept_link (c : Nat) (f : Kept → Kept) : (updKept s c f).link = s.link := rfl
@[simp] theorem updKept_out (c : Nat) (f : Kept → Kept) : (updKept s c f).out = s.out := rfl

@[simp] theorem updRun_pending (c : Nat) (f : Run → Run) : (updRun s c f).pending = s.pending := rfl
@[simp] theorem updRun_cycle (c : Nat) (f : Run → Run) : (updRun s c f).cycle = s.cycle := rfl
@[simp] theorem updRun_fresh (c : Nat) (f : Run → Run) : (updRun s c f).fresh = s.fresh := rfl
@[simp] theorem updRun_regs (c : Nat) (f : Run → Run) : (updRun s c f).regs = s.regs := rfl
@[simp] theorem updRun_regsEff (c : Nat) (f : Run → Run) : (updRun s c f).regsEff = s.regsEff := rfl
@[simp] theorem updRun_beat (c : Nat) (f : Run → Run) : (updRun s c f).beat = s.beat := rfl
@[simp] theorem updRun_cells (c : Nat) (f : Run → Run) : (updRun s c f).cells = s.cells := rfl
@[simp] theorem updRun_blocks (c : Nat) (f : Run → Run) : (updRun s c f).blocks = s.blocks := rfl
@[simp] theorem updRun_sync (c : Nat) (f : Run → Run) : (updRun s c f).sync = s.sync := rfl
@[simp] theorem updRun_mem (c : Nat) (f : Run → Run) : (updRun s c f).mem = s.mem := rfl
@[simp] theorem updRun_jobs (c : Nat) (f : Run → Run) : (updRun s c f).jobs = s.jobs := rfl
@[simp] theorem updRun_nextJob (c : Nat) (f : Run → Run) : (updRun s c f).nextJob = s.nextJob := rfl
@[simp] theorem updRun_oz (c : Nat) (f : Run → Run) : (updRun s c f).oz = s.oz := rfl
@[simp] theorem updRun_boot (c : Nat) (f : Run → Run) : (updRun s c f).boot = s.boot := rfl
@[simp] theorem updRun_pwr (c : Nat) (f : Run → Run) : (updRun s c f).pwr = s.pwr := rfl
@[simp] theorem updRun_pins (c : Nat) (f : Run → Run) : (updRun s c f).pins = s.pins := rfl
@[simp] theorem updRun_readOut (c : Nat) (f : Run → Run) : (updRun s c f).readOut = s.readOut := rfl
@[simp] theorem updRun_sets (c : Nat) (f : Run → Run) : (updRun s c f).sets = s.sets := rfl
@[simp] theorem updRun_flt (c : Nat) (f : Run → Run) : (updRun s c f).flt = s.flt := rfl
@[simp] theorem updRun_tly (c : Nat) (f : Run → Run) : (updRun s c f).tly = s.tly := rfl
@[simp] theorem updRun_gate (c : Nat) (f : Run → Run) : (updRun s c f).gate = s.gate := rfl
@[simp] theorem updRun_link (c : Nat) (f : Run → Run) : (updRun s c f).link = s.link := rfl
@[simp] theorem updRun_out (c : Nat) (f : Run → Run) : (updRun s c f).out = s.out := rfl

@[simp] theorem updDie_pending (n : Nat) (f : Die → Die) : (updDie s n f).pending = s.pending := rfl
@[simp] theorem updDie_cycle (n : Nat) (f : Die → Die) : (updDie s n f).cycle = s.cycle := rfl
@[simp] theorem updDie_fresh (n : Nat) (f : Die → Die) : (updDie s n f).fresh = s.fresh := rfl
@[simp] theorem updDie_regs (n : Nat) (f : Die → Die) : (updDie s n f).regs = s.regs := rfl
@[simp] theorem updDie_regsEff (n : Nat) (f : Die → Die) : (updDie s n f).regsEff = s.regsEff := rfl
@[simp] theorem updDie_beat (n : Nat) (f : Die → Die) : (updDie s n f).beat = s.beat := rfl
@[simp] theorem updDie_cells (n : Nat) (f : Die → Die) : (updDie s n f).cells = s.cells := rfl
@[simp] theorem updDie_blocks (n : Nat) (f : Die → Die) : (updDie s n f).blocks = s.blocks := rfl
@[simp] theorem updDie_sync (n : Nat) (f : Die → Die) : (updDie s n f).sync = s.sync := rfl
@[simp] theorem updDie_ctxs (n : Nat) (f : Die → Die) : (updDie s n f).ctxs = s.ctxs := rfl
@[simp] theorem updDie_jobs (n : Nat) (f : Die → Die) : (updDie s n f).jobs = s.jobs := rfl
@[simp] theorem updDie_nextJob (n : Nat) (f : Die → Die) : (updDie s n f).nextJob = s.nextJob := rfl
@[simp] theorem updDie_oz (n : Nat) (f : Die → Die) : (updDie s n f).oz = s.oz := rfl
@[simp] theorem updDie_boot (n : Nat) (f : Die → Die) : (updDie s n f).boot = s.boot := rfl
@[simp] theorem updDie_pwr (n : Nat) (f : Die → Die) : (updDie s n f).pwr = s.pwr := rfl
@[simp] theorem updDie_pins (n : Nat) (f : Die → Die) : (updDie s n f).pins = s.pins := rfl
@[simp] theorem updDie_readOut (n : Nat) (f : Die → Die) : (updDie s n f).readOut = s.readOut := rfl
@[simp] theorem updDie_sets (n : Nat) (f : Die → Die) : (updDie s n f).sets = s.sets := rfl
@[simp] theorem updDie_flt (n : Nat) (f : Die → Die) : (updDie s n f).flt = s.flt := rfl
@[simp] theorem updDie_tly (n : Nat) (f : Die → Die) : (updDie s n f).tly = s.tly := rfl
@[simp] theorem updDie_gate (n : Nat) (f : Die → Die) : (updDie s n f).gate = s.gate := rfl
@[simp] theorem updDie_link (n : Nat) (f : Die → Die) : (updDie s n f).link = s.link := rfl
@[simp] theorem updDie_out (n : Nat) (f : Die → Die) : (updDie s n f).out = s.out := rfl

@[simp] theorem updRow_pending (k : Nat) (f : Row → Row) : (updRow k f s).pending = s.pending := rfl
@[simp] theorem updRow_cycle (k : Nat) (f : Row → Row) : (updRow k f s).cycle = s.cycle := rfl
@[simp] theorem updRow_fresh (k : Nat) (f : Row → Row) : (updRow k f s).fresh = s.fresh := rfl
@[simp] theorem updRow_regs (k : Nat) (f : Row → Row) : (updRow k f s).regs = s.regs := rfl
@[simp] theorem updRow_regsEff (k : Nat) (f : Row → Row) : (updRow k f s).regsEff = s.regsEff := rfl
@[simp] theorem updRow_beat (k : Nat) (f : Row → Row) : (updRow k f s).beat = s.beat := rfl
@[simp] theorem updRow_cells (k : Nat) (f : Row → Row) : (updRow k f s).cells = s.cells := rfl
@[simp] theorem updRow_blocks (k : Nat) (f : Row → Row) : (updRow k f s).blocks = s.blocks := rfl
@[simp] theorem updRow_sync (k : Nat) (f : Row → Row) : (updRow k f s).sync = s.sync := rfl
@[simp] theorem updRow_ctxs (k : Nat) (f : Row → Row) : (updRow k f s).ctxs = s.ctxs := rfl
@[simp] theorem updRow_jobs (k : Nat) (f : Row → Row) : (updRow k f s).jobs = s.jobs := rfl
@[simp] theorem updRow_nextJob (k : Nat) (f : Row → Row) : (updRow k f s).nextJob = s.nextJob := rfl
@[simp] theorem updRow_oz (k : Nat) (f : Row → Row) : (updRow k f s).oz = s.oz := rfl
@[simp] theorem updRow_boot (k : Nat) (f : Row → Row) : (updRow k f s).boot = s.boot := rfl
@[simp] theorem updRow_pwr (k : Nat) (f : Row → Row) : (updRow k f s).pwr = s.pwr := rfl
@[simp] theorem updRow_pins (k : Nat) (f : Row → Row) : (updRow k f s).pins = s.pins := rfl
@[simp] theorem updRow_readOut (k : Nat) (f : Row → Row) : (updRow k f s).readOut = s.readOut := rfl
@[simp] theorem updRow_sets (k : Nat) (f : Row → Row) : (updRow k f s).sets = s.sets := rfl
@[simp] theorem updRow_flt (k : Nat) (f : Row → Row) : (updRow k f s).flt = s.flt := rfl
@[simp] theorem updRow_tly (k : Nat) (f : Row → Row) : (updRow k f s).tly = s.tly := rfl
@[simp] theorem updRow_gate (k : Nat) (f : Row → Row) : (updRow k f s).gate = s.gate := rfl
@[simp] theorem updRow_link (k : Nat) (f : Row → Row) : (updRow k f s).link = s.link := rfl
@[simp] theorem updRow_out (k : Nat) (f : Row → Row) : (updRow k f s).out = s.out := rfl

@[simp] theorem hbmPut_pending (n la : Nat) (bs : List Byte) : (hbmPut s n la bs).pending = s.pending := rfl
@[simp] theorem hbmPut_cycle (n la : Nat) (bs : List Byte) : (hbmPut s n la bs).cycle = s.cycle := rfl
@[simp] theorem hbmPut_fresh (n la : Nat) (bs : List Byte) : (hbmPut s n la bs).fresh = s.fresh := rfl
@[simp] theorem hbmPut_regs (n la : Nat) (bs : List Byte) : (hbmPut s n la bs).regs = s.regs := rfl
@[simp] theorem hbmPut_regsEff (n la : Nat) (bs : List Byte) : (hbmPut s n la bs).regsEff = s.regsEff := rfl
@[simp] theorem hbmPut_beat (n la : Nat) (bs : List Byte) : (hbmPut s n la bs).beat = s.beat := rfl
@[simp] theorem hbmPut_cells (n la : Nat) (bs : List Byte) : (hbmPut s n la bs).cells = s.cells := rfl
@[simp] theorem hbmPut_blocks (n la : Nat) (bs : List Byte) : (hbmPut s n la bs).blocks = s.blocks := rfl
@[simp] theorem hbmPut_sync (n la : Nat) (bs : List Byte) : (hbmPut s n la bs).sync = s.sync := rfl
@[simp] theorem hbmPut_ctxs (n la : Nat) (bs : List Byte) : (hbmPut s n la bs).ctxs = s.ctxs := rfl
@[simp] theorem hbmPut_jobs (n la : Nat) (bs : List Byte) : (hbmPut s n la bs).jobs = s.jobs := rfl
@[simp] theorem hbmPut_nextJob (n la : Nat) (bs : List Byte) : (hbmPut s n la bs).nextJob = s.nextJob := rfl
@[simp] theorem hbmPut_oz (n la : Nat) (bs : List Byte) : (hbmPut s n la bs).oz = s.oz := rfl
@[simp] theorem hbmPut_boot (n la : Nat) (bs : List Byte) : (hbmPut s n la bs).boot = s.boot := rfl
@[simp] theorem hbmPut_pwr (n la : Nat) (bs : List Byte) : (hbmPut s n la bs).pwr = s.pwr := rfl
@[simp] theorem hbmPut_pins (n la : Nat) (bs : List Byte) : (hbmPut s n la bs).pins = s.pins := rfl
@[simp] theorem hbmPut_readOut (n la : Nat) (bs : List Byte) : (hbmPut s n la bs).readOut = s.readOut := rfl
@[simp] theorem hbmPut_sets (n la : Nat) (bs : List Byte) : (hbmPut s n la bs).sets = s.sets := rfl
@[simp] theorem hbmPut_flt (n la : Nat) (bs : List Byte) : (hbmPut s n la bs).flt = s.flt := rfl
@[simp] theorem hbmPut_tly (n la : Nat) (bs : List Byte) : (hbmPut s n la bs).tly = s.tly := rfl
@[simp] theorem hbmPut_gate (n la : Nat) (bs : List Byte) : (hbmPut s n la bs).gate = s.gate := rfl
@[simp] theorem hbmPut_link (n la : Nat) (bs : List Byte) : (hbmPut s n la bs).link = s.link := rfl
@[simp] theorem hbmPut_out (n la : Nat) (bs : List Byte) : (hbmPut s n la bs).out = s.out := rfl

@[simp] theorem updBeat_pending (f : Beat → Beat) : (updBeat f s).pending = s.pending := rfl
@[simp] theorem updBeat_cycle (f : Beat → Beat) : (updBeat f s).cycle = s.cycle := rfl
@[simp] theorem updBeat_fresh (f : Beat → Beat) : (updBeat f s).fresh = s.fresh := rfl
@[simp] theorem updBeat_regs (f : Beat → Beat) : (updBeat f s).regs = s.regs := rfl
@[simp] theorem updBeat_regsEff (f : Beat → Beat) : (updBeat f s).regsEff = s.regsEff := rfl
@[simp] theorem updBeat_cells (f : Beat → Beat) : (updBeat f s).cells = s.cells := rfl
@[simp] theorem updBeat_blocks (f : Beat → Beat) : (updBeat f s).blocks = s.blocks := rfl
@[simp] theorem updBeat_sync (f : Beat → Beat) : (updBeat f s).sync = s.sync := rfl
@[simp] theorem updBeat_mem (f : Beat → Beat) : (updBeat f s).mem = s.mem := rfl
@[simp] theorem updBeat_ctxs (f : Beat → Beat) : (updBeat f s).ctxs = s.ctxs := rfl
@[simp] theorem updBeat_jobs (f : Beat → Beat) : (updBeat f s).jobs = s.jobs := rfl
@[simp] theorem updBeat_nextJob (f : Beat → Beat) : (updBeat f s).nextJob = s.nextJob := rfl
@[simp] theorem updBeat_oz (f : Beat → Beat) : (updBeat f s).oz = s.oz := rfl
@[simp] theorem updBeat_boot (f : Beat → Beat) : (updBeat f s).boot = s.boot := rfl
@[simp] theorem updBeat_pwr (f : Beat → Beat) : (updBeat f s).pwr = s.pwr := rfl
@[simp] theorem updBeat_pins (f : Beat → Beat) : (updBeat f s).pins = s.pins := rfl
@[simp] theorem updBeat_readOut (f : Beat → Beat) : (updBeat f s).readOut = s.readOut := rfl
@[simp] theorem updBeat_sets (f : Beat → Beat) : (updBeat f s).sets = s.sets := rfl
@[simp] theorem updBeat_flt (f : Beat → Beat) : (updBeat f s).flt = s.flt := rfl
@[simp] theorem updBeat_tly (f : Beat → Beat) : (updBeat f s).tly = s.tly := rfl
@[simp] theorem updBeat_gate (f : Beat → Beat) : (updBeat f s).gate = s.gate := rfl
@[simp] theorem updBeat_link (f : Beat → Beat) : (updBeat f s).link = s.link := rfl
@[simp] theorem updBeat_out (f : Beat → Beat) : (updBeat f s).out = s.out := rfl

@[simp] theorem updPins_pending (f : PinState → PinState) : (updPins f s).pending = s.pending := rfl
@[simp] theorem updPins_cycle (f : PinState → PinState) : (updPins f s).cycle = s.cycle := rfl
@[simp] theorem updPins_fresh (f : PinState → PinState) : (updPins f s).fresh = s.fresh := rfl
@[simp] theorem updPins_regs (f : PinState → PinState) : (updPins f s).regs = s.regs := rfl
@[simp] theorem updPins_regsEff (f : PinState → PinState) : (updPins f s).regsEff = s.regsEff := rfl
@[simp] theorem updPins_beat (f : PinState → PinState) : (updPins f s).beat = s.beat := rfl
@[simp] theorem updPins_cells (f : PinState → PinState) : (updPins f s).cells = s.cells := rfl
@[simp] theorem updPins_blocks (f : PinState → PinState) : (updPins f s).blocks = s.blocks := rfl
@[simp] theorem updPins_sync (f : PinState → PinState) : (updPins f s).sync = s.sync := rfl
@[simp] theorem updPins_mem (f : PinState → PinState) : (updPins f s).mem = s.mem := rfl
@[simp] theorem updPins_ctxs (f : PinState → PinState) : (updPins f s).ctxs = s.ctxs := rfl
@[simp] theorem updPins_jobs (f : PinState → PinState) : (updPins f s).jobs = s.jobs := rfl
@[simp] theorem updPins_nextJob (f : PinState → PinState) : (updPins f s).nextJob = s.nextJob := rfl
@[simp] theorem updPins_oz (f : PinState → PinState) : (updPins f s).oz = s.oz := rfl
@[simp] theorem updPins_boot (f : PinState → PinState) : (updPins f s).boot = s.boot := rfl
@[simp] theorem updPins_pwr (f : PinState → PinState) : (updPins f s).pwr = s.pwr := rfl
@[simp] theorem updPins_readOut (f : PinState → PinState) : (updPins f s).readOut = s.readOut := rfl
@[simp] theorem updPins_sets (f : PinState → PinState) : (updPins f s).sets = s.sets := rfl
@[simp] theorem updPins_flt (f : PinState → PinState) : (updPins f s).flt = s.flt := rfl
@[simp] theorem updPins_tly (f : PinState → PinState) : (updPins f s).tly = s.tly := rfl
@[simp] theorem updPins_gate (f : PinState → PinState) : (updPins f s).gate = s.gate := rfl
@[simp] theorem updPins_link (f : PinState → PinState) : (updPins f s).link = s.link := rfl
@[simp] theorem updPins_out (f : PinState → PinState) : (updPins f s).out = s.out := rfl

@[simp] theorem updPort_pending (p : Nat) (f : Port → Port) : (updPort p f s).pending = s.pending := rfl
@[simp] theorem updPort_cycle (p : Nat) (f : Port → Port) : (updPort p f s).cycle = s.cycle := rfl
@[simp] theorem updPort_fresh (p : Nat) (f : Port → Port) : (updPort p f s).fresh = s.fresh := rfl
@[simp] theorem updPort_regs (p : Nat) (f : Port → Port) : (updPort p f s).regs = s.regs := rfl
@[simp] theorem updPort_regsEff (p : Nat) (f : Port → Port) : (updPort p f s).regsEff = s.regsEff := rfl
@[simp] theorem updPort_beat (p : Nat) (f : Port → Port) : (updPort p f s).beat = s.beat := rfl
@[simp] theorem updPort_cells (p : Nat) (f : Port → Port) : (updPort p f s).cells = s.cells := rfl
@[simp] theorem updPort_blocks (p : Nat) (f : Port → Port) : (updPort p f s).blocks = s.blocks := rfl
@[simp] theorem updPort_sync (p : Nat) (f : Port → Port) : (updPort p f s).sync = s.sync := rfl
@[simp] theorem updPort_mem (p : Nat) (f : Port → Port) : (updPort p f s).mem = s.mem := rfl
@[simp] theorem updPort_ctxs (p : Nat) (f : Port → Port) : (updPort p f s).ctxs = s.ctxs := rfl
@[simp] theorem updPort_jobs (p : Nat) (f : Port → Port) : (updPort p f s).jobs = s.jobs := rfl
@[simp] theorem updPort_nextJob (p : Nat) (f : Port → Port) : (updPort p f s).nextJob = s.nextJob := rfl
@[simp] theorem updPort_oz (p : Nat) (f : Port → Port) : (updPort p f s).oz = s.oz := rfl
@[simp] theorem updPort_boot (p : Nat) (f : Port → Port) : (updPort p f s).boot = s.boot := rfl
@[simp] theorem updPort_pwr (p : Nat) (f : Port → Port) : (updPort p f s).pwr = s.pwr := rfl
@[simp] theorem updPort_pins (p : Nat) (f : Port → Port) : (updPort p f s).pins = s.pins := rfl
@[simp] theorem updPort_readOut (p : Nat) (f : Port → Port) : (updPort p f s).readOut = s.readOut := rfl
@[simp] theorem updPort_sets (p : Nat) (f : Port → Port) : (updPort p f s).sets = s.sets := rfl
@[simp] theorem updPort_flt (p : Nat) (f : Port → Port) : (updPort p f s).flt = s.flt := rfl
@[simp] theorem updPort_tly (p : Nat) (f : Port → Port) : (updPort p f s).tly = s.tly := rfl
@[simp] theorem updPort_gate (p : Nat) (f : Port → Port) : (updPort p f s).gate = s.gate := rfl
@[simp] theorem updPort_out (p : Nat) (f : Port → Port) : (updPort p f s).out = s.out := rfl

@[simp] theorem updEngine_pending (k : Nat) (f : Engine → Engine) : (updEngine k f s).pending = s.pending := rfl
@[simp] theorem updEngine_cycle (k : Nat) (f : Engine → Engine) : (updEngine k f s).cycle = s.cycle := rfl
@[simp] theorem updEngine_fresh (k : Nat) (f : Engine → Engine) : (updEngine k f s).fresh = s.fresh := rfl
@[simp] theorem updEngine_regs (k : Nat) (f : Engine → Engine) : (updEngine k f s).regs = s.regs := rfl
@[simp] theorem updEngine_regsEff (k : Nat) (f : Engine → Engine) : (updEngine k f s).regsEff = s.regsEff := rfl
@[simp] theorem updEngine_beat (k : Nat) (f : Engine → Engine) : (updEngine k f s).beat = s.beat := rfl
@[simp] theorem updEngine_cells (k : Nat) (f : Engine → Engine) : (updEngine k f s).cells = s.cells := rfl
@[simp] theorem updEngine_blocks (k : Nat) (f : Engine → Engine) : (updEngine k f s).blocks = s.blocks := rfl
@[simp] theorem updEngine_sync (k : Nat) (f : Engine → Engine) : (updEngine k f s).sync = s.sync := rfl
@[simp] theorem updEngine_mem (k : Nat) (f : Engine → Engine) : (updEngine k f s).mem = s.mem := rfl
@[simp] theorem updEngine_ctxs (k : Nat) (f : Engine → Engine) : (updEngine k f s).ctxs = s.ctxs := rfl
@[simp] theorem updEngine_jobs (k : Nat) (f : Engine → Engine) : (updEngine k f s).jobs = s.jobs := rfl
@[simp] theorem updEngine_nextJob (k : Nat) (f : Engine → Engine) : (updEngine k f s).nextJob = s.nextJob := rfl
@[simp] theorem updEngine_oz (k : Nat) (f : Engine → Engine) : (updEngine k f s).oz = s.oz := rfl
@[simp] theorem updEngine_boot (k : Nat) (f : Engine → Engine) : (updEngine k f s).boot = s.boot := rfl
@[simp] theorem updEngine_pwr (k : Nat) (f : Engine → Engine) : (updEngine k f s).pwr = s.pwr := rfl
@[simp] theorem updEngine_pins (k : Nat) (f : Engine → Engine) : (updEngine k f s).pins = s.pins := rfl
@[simp] theorem updEngine_readOut (k : Nat) (f : Engine → Engine) : (updEngine k f s).readOut = s.readOut := rfl
@[simp] theorem updEngine_sets (k : Nat) (f : Engine → Engine) : (updEngine k f s).sets = s.sets := rfl
@[simp] theorem updEngine_flt (k : Nat) (f : Engine → Engine) : (updEngine k f s).flt = s.flt := rfl
@[simp] theorem updEngine_tly (k : Nat) (f : Engine → Engine) : (updEngine k f s).tly = s.tly := rfl
@[simp] theorem updEngine_gate (k : Nat) (f : Engine → Engine) : (updEngine k f s).gate = s.gate := rfl
@[simp] theorem updEngine_out (k : Nat) (f : Engine → Engine) : (updEngine k f s).out = s.out := rfl

@[simp] theorem takeMsg_pending (i : Nat) : (takeMsg i s).pending = s.pending := rfl
@[simp] theorem takeMsg_cycle (i : Nat) : (takeMsg i s).cycle = s.cycle := rfl
@[simp] theorem takeMsg_fresh (i : Nat) : (takeMsg i s).fresh = s.fresh := rfl
@[simp] theorem takeMsg_regs (i : Nat) : (takeMsg i s).regs = s.regs := rfl
@[simp] theorem takeMsg_regsEff (i : Nat) : (takeMsg i s).regsEff = s.regsEff := rfl
@[simp] theorem takeMsg_beat (i : Nat) : (takeMsg i s).beat = s.beat := rfl
@[simp] theorem takeMsg_cells (i : Nat) : (takeMsg i s).cells = s.cells := rfl
@[simp] theorem takeMsg_blocks (i : Nat) : (takeMsg i s).blocks = s.blocks := rfl
@[simp] theorem takeMsg_sync (i : Nat) : (takeMsg i s).sync = s.sync := rfl
@[simp] theorem takeMsg_mem (i : Nat) : (takeMsg i s).mem = s.mem := rfl
@[simp] theorem takeMsg_ctxs (i : Nat) : (takeMsg i s).ctxs = s.ctxs := rfl
@[simp] theorem takeMsg_jobs (i : Nat) : (takeMsg i s).jobs = s.jobs := rfl
@[simp] theorem takeMsg_nextJob (i : Nat) : (takeMsg i s).nextJob = s.nextJob := rfl
@[simp] theorem takeMsg_oz (i : Nat) : (takeMsg i s).oz = s.oz := rfl
@[simp] theorem takeMsg_boot (i : Nat) : (takeMsg i s).boot = s.boot := rfl
@[simp] theorem takeMsg_pwr (i : Nat) : (takeMsg i s).pwr = s.pwr := rfl
@[simp] theorem takeMsg_pins (i : Nat) : (takeMsg i s).pins = s.pins := rfl
@[simp] theorem takeMsg_readOut (i : Nat) : (takeMsg i s).readOut = s.readOut := rfl
@[simp] theorem takeMsg_sets (i : Nat) : (takeMsg i s).sets = s.sets := rfl
@[simp] theorem takeMsg_flt (i : Nat) : (takeMsg i s).flt = s.flt := rfl
@[simp] theorem takeMsg_tly (i : Nat) : (takeMsg i s).tly = s.tly := rfl
@[simp] theorem takeMsg_gate (i : Nat) : (takeMsg i s).gate = s.gate := rfl
@[simp] theorem takeMsg_out (i : Nat) : (takeMsg i s).out = s.out := rfl

@[simp] theorem updBell_pending (b : Nat) (f : Bell → Bell) : (updBell s b f).pending = s.pending := rfl
@[simp] theorem updBell_cycle (b : Nat) (f : Bell → Bell) : (updBell s b f).cycle = s.cycle := rfl
@[simp] theorem updBell_fresh (b : Nat) (f : Bell → Bell) : (updBell s b f).fresh = s.fresh := rfl
@[simp] theorem updBell_regs (b : Nat) (f : Bell → Bell) : (updBell s b f).regs = s.regs := rfl
@[simp] theorem updBell_regsEff (b : Nat) (f : Bell → Bell) : (updBell s b f).regsEff = s.regsEff := rfl
@[simp] theorem updBell_beat (b : Nat) (f : Bell → Bell) : (updBell s b f).beat = s.beat := rfl
@[simp] theorem updBell_cells (b : Nat) (f : Bell → Bell) : (updBell s b f).cells = s.cells := rfl
@[simp] theorem updBell_blocks (b : Nat) (f : Bell → Bell) : (updBell s b f).blocks = s.blocks := rfl
@[simp] theorem updBell_mem (b : Nat) (f : Bell → Bell) : (updBell s b f).mem = s.mem := rfl
@[simp] theorem updBell_ctxs (b : Nat) (f : Bell → Bell) : (updBell s b f).ctxs = s.ctxs := rfl
@[simp] theorem updBell_jobs (b : Nat) (f : Bell → Bell) : (updBell s b f).jobs = s.jobs := rfl
@[simp] theorem updBell_nextJob (b : Nat) (f : Bell → Bell) : (updBell s b f).nextJob = s.nextJob := rfl
@[simp] theorem updBell_oz (b : Nat) (f : Bell → Bell) : (updBell s b f).oz = s.oz := rfl
@[simp] theorem updBell_boot (b : Nat) (f : Bell → Bell) : (updBell s b f).boot = s.boot := rfl
@[simp] theorem updBell_pwr (b : Nat) (f : Bell → Bell) : (updBell s b f).pwr = s.pwr := rfl
@[simp] theorem updBell_pins (b : Nat) (f : Bell → Bell) : (updBell s b f).pins = s.pins := rfl
@[simp] theorem updBell_readOut (b : Nat) (f : Bell → Bell) : (updBell s b f).readOut = s.readOut := rfl
@[simp] theorem updBell_sets (b : Nat) (f : Bell → Bell) : (updBell s b f).sets = s.sets := rfl
@[simp] theorem updBell_flt (b : Nat) (f : Bell → Bell) : (updBell s b f).flt = s.flt := rfl
@[simp] theorem updBell_tly (b : Nat) (f : Bell → Bell) : (updBell s b f).tly = s.tly := rfl
@[simp] theorem updBell_gate (b : Nat) (f : Bell → Bell) : (updBell s b f).gate = s.gate := rfl
@[simp] theorem updBell_link (b : Nat) (f : Bell → Bell) : (updBell s b f).link = s.link := rfl
@[simp] theorem updBell_out (b : Nat) (f : Bell → Bell) : (updBell s b f).out = s.out := rfl

@[simp] theorem updLine_pending (l : Nat) (f : Line → Line) : (updLine l f s).pending = s.pending := rfl
@[simp] theorem updLine_cycle (l : Nat) (f : Line → Line) : (updLine l f s).cycle = s.cycle := rfl
@[simp] theorem updLine_fresh (l : Nat) (f : Line → Line) : (updLine l f s).fresh = s.fresh := rfl
@[simp] theorem updLine_regs (l : Nat) (f : Line → Line) : (updLine l f s).regs = s.regs := rfl
@[simp] theorem updLine_regsEff (l : Nat) (f : Line → Line) : (updLine l f s).regsEff = s.regsEff := rfl
@[simp] theorem updLine_beat (l : Nat) (f : Line → Line) : (updLine l f s).beat = s.beat := rfl
@[simp] theorem updLine_cells (l : Nat) (f : Line → Line) : (updLine l f s).cells = s.cells := rfl
@[simp] theorem updLine_blocks (l : Nat) (f : Line → Line) : (updLine l f s).blocks = s.blocks := rfl
@[simp] theorem updLine_mem (l : Nat) (f : Line → Line) : (updLine l f s).mem = s.mem := rfl
@[simp] theorem updLine_ctxs (l : Nat) (f : Line → Line) : (updLine l f s).ctxs = s.ctxs := rfl
@[simp] theorem updLine_jobs (l : Nat) (f : Line → Line) : (updLine l f s).jobs = s.jobs := rfl
@[simp] theorem updLine_nextJob (l : Nat) (f : Line → Line) : (updLine l f s).nextJob = s.nextJob := rfl
@[simp] theorem updLine_oz (l : Nat) (f : Line → Line) : (updLine l f s).oz = s.oz := rfl
@[simp] theorem updLine_boot (l : Nat) (f : Line → Line) : (updLine l f s).boot = s.boot := rfl
@[simp] theorem updLine_pwr (l : Nat) (f : Line → Line) : (updLine l f s).pwr = s.pwr := rfl
@[simp] theorem updLine_pins (l : Nat) (f : Line → Line) : (updLine l f s).pins = s.pins := rfl
@[simp] theorem updLine_readOut (l : Nat) (f : Line → Line) : (updLine l f s).readOut = s.readOut := rfl
@[simp] theorem updLine_sets (l : Nat) (f : Line → Line) : (updLine l f s).sets = s.sets := rfl
@[simp] theorem updLine_flt (l : Nat) (f : Line → Line) : (updLine l f s).flt = s.flt := rfl
@[simp] theorem updLine_tly (l : Nat) (f : Line → Line) : (updLine l f s).tly = s.tly := rfl
@[simp] theorem updLine_gate (l : Nat) (f : Line → Line) : (updLine l f s).gate = s.gate := rfl
@[simp] theorem updLine_link (l : Nat) (f : Line → Line) : (updLine l f s).link = s.link := rfl
@[simp] theorem updLine_out (l : Nat) (f : Line → Line) : (updLine l f s).out = s.out := rfl

@[simp] theorem sendBellOp_pending (o : BellOp) : (sendBellOp o s).pending = s.pending := rfl
@[simp] theorem sendBellOp_cycle (o : BellOp) : (sendBellOp o s).cycle = s.cycle := rfl
@[simp] theorem sendBellOp_fresh (o : BellOp) : (sendBellOp o s).fresh = s.fresh := rfl
@[simp] theorem sendBellOp_regs (o : BellOp) : (sendBellOp o s).regs = s.regs := rfl
@[simp] theorem sendBellOp_regsEff (o : BellOp) : (sendBellOp o s).regsEff = s.regsEff := rfl
@[simp] theorem sendBellOp_beat (o : BellOp) : (sendBellOp o s).beat = s.beat := rfl
@[simp] theorem sendBellOp_cells (o : BellOp) : (sendBellOp o s).cells = s.cells := rfl
@[simp] theorem sendBellOp_blocks (o : BellOp) : (sendBellOp o s).blocks = s.blocks := rfl
@[simp] theorem sendBellOp_mem (o : BellOp) : (sendBellOp o s).mem = s.mem := rfl
@[simp] theorem sendBellOp_ctxs (o : BellOp) : (sendBellOp o s).ctxs = s.ctxs := rfl
@[simp] theorem sendBellOp_jobs (o : BellOp) : (sendBellOp o s).jobs = s.jobs := rfl
@[simp] theorem sendBellOp_nextJob (o : BellOp) : (sendBellOp o s).nextJob = s.nextJob := rfl
@[simp] theorem sendBellOp_oz (o : BellOp) : (sendBellOp o s).oz = s.oz := rfl
@[simp] theorem sendBellOp_boot (o : BellOp) : (sendBellOp o s).boot = s.boot := rfl
@[simp] theorem sendBellOp_pwr (o : BellOp) : (sendBellOp o s).pwr = s.pwr := rfl
@[simp] theorem sendBellOp_pins (o : BellOp) : (sendBellOp o s).pins = s.pins := rfl
@[simp] theorem sendBellOp_readOut (o : BellOp) : (sendBellOp o s).readOut = s.readOut := rfl
@[simp] theorem sendBellOp_sets (o : BellOp) : (sendBellOp o s).sets = s.sets := rfl
@[simp] theorem sendBellOp_flt (o : BellOp) : (sendBellOp o s).flt = s.flt := rfl
@[simp] theorem sendBellOp_tly (o : BellOp) : (sendBellOp o s).tly = s.tly := rfl
@[simp] theorem sendBellOp_gate (o : BellOp) : (sendBellOp o s).gate = s.gate := rfl
@[simp] theorem sendBellOp_link (o : BellOp) : (sendBellOp o s).link = s.link := rfl
@[simp] theorem sendBellOp_out (o : BellOp) : (sendBellOp o s).out = s.out := rfl

@[simp] theorem updRingSet_pending (c : Nat) (f : RingSet → RingSet) : (updRingSet c f s).pending = s.pending := rfl
@[simp] theorem updRingSet_cycle (c : Nat) (f : RingSet → RingSet) : (updRingSet c f s).cycle = s.cycle := rfl
@[simp] theorem updRingSet_fresh (c : Nat) (f : RingSet → RingSet) : (updRingSet c f s).fresh = s.fresh := rfl
@[simp] theorem updRingSet_regs (c : Nat) (f : RingSet → RingSet) : (updRingSet c f s).regs = s.regs := rfl
@[simp] theorem updRingSet_regsEff (c : Nat) (f : RingSet → RingSet) : (updRingSet c f s).regsEff = s.regsEff := rfl
@[simp] theorem updRingSet_beat (c : Nat) (f : RingSet → RingSet) : (updRingSet c f s).beat = s.beat := rfl
@[simp] theorem updRingSet_cells (c : Nat) (f : RingSet → RingSet) : (updRingSet c f s).cells = s.cells := rfl
@[simp] theorem updRingSet_blocks (c : Nat) (f : RingSet → RingSet) : (updRingSet c f s).blocks = s.blocks := rfl
@[simp] theorem updRingSet_sync (c : Nat) (f : RingSet → RingSet) : (updRingSet c f s).sync = s.sync := rfl
@[simp] theorem updRingSet_mem (c : Nat) (f : RingSet → RingSet) : (updRingSet c f s).mem = s.mem := rfl
@[simp] theorem updRingSet_ctxs (c : Nat) (f : RingSet → RingSet) : (updRingSet c f s).ctxs = s.ctxs := rfl
@[simp] theorem updRingSet_jobs (c : Nat) (f : RingSet → RingSet) : (updRingSet c f s).jobs = s.jobs := rfl
@[simp] theorem updRingSet_nextJob (c : Nat) (f : RingSet → RingSet) : (updRingSet c f s).nextJob = s.nextJob := rfl
@[simp] theorem updRingSet_boot (c : Nat) (f : RingSet → RingSet) : (updRingSet c f s).boot = s.boot := rfl
@[simp] theorem updRingSet_pwr (c : Nat) (f : RingSet → RingSet) : (updRingSet c f s).pwr = s.pwr := rfl
@[simp] theorem updRingSet_pins (c : Nat) (f : RingSet → RingSet) : (updRingSet c f s).pins = s.pins := rfl
@[simp] theorem updRingSet_readOut (c : Nat) (f : RingSet → RingSet) : (updRingSet c f s).readOut = s.readOut := rfl
@[simp] theorem updRingSet_sets (c : Nat) (f : RingSet → RingSet) : (updRingSet c f s).sets = s.sets := rfl
@[simp] theorem updRingSet_flt (c : Nat) (f : RingSet → RingSet) : (updRingSet c f s).flt = s.flt := rfl
@[simp] theorem updRingSet_tly (c : Nat) (f : RingSet → RingSet) : (updRingSet c f s).tly = s.tly := rfl
@[simp] theorem updRingSet_gate (c : Nat) (f : RingSet → RingSet) : (updRingSet c f s).gate = s.gate := rfl
@[simp] theorem updRingSet_link (c : Nat) (f : RingSet → RingSet) : (updRingSet c f s).link = s.link := rfl
@[simp] theorem updRingSet_out (c : Nat) (f : RingSet → RingSet) : (updRingSet c f s).out = s.out := rfl

@[simp] theorem updSession_pending (n : Nat) (f : Session → Session) : (updSession n f s).pending = s.pending := rfl
@[simp] theorem updSession_cycle (n : Nat) (f : Session → Session) : (updSession n f s).cycle = s.cycle := rfl
@[simp] theorem updSession_fresh (n : Nat) (f : Session → Session) : (updSession n f s).fresh = s.fresh := rfl
@[simp] theorem updSession_regs (n : Nat) (f : Session → Session) : (updSession n f s).regs = s.regs := rfl
@[simp] theorem updSession_regsEff (n : Nat) (f : Session → Session) : (updSession n f s).regsEff = s.regsEff := rfl
@[simp] theorem updSession_beat (n : Nat) (f : Session → Session) : (updSession n f s).beat = s.beat := rfl
@[simp] theorem updSession_cells (n : Nat) (f : Session → Session) : (updSession n f s).cells = s.cells := rfl
@[simp] theorem updSession_blocks (n : Nat) (f : Session → Session) : (updSession n f s).blocks = s.blocks := rfl
@[simp] theorem updSession_sync (n : Nat) (f : Session → Session) : (updSession n f s).sync = s.sync := rfl
@[simp] theorem updSession_mem (n : Nat) (f : Session → Session) : (updSession n f s).mem = s.mem := rfl
@[simp] theorem updSession_ctxs (n : Nat) (f : Session → Session) : (updSession n f s).ctxs = s.ctxs := rfl
@[simp] theorem updSession_jobs (n : Nat) (f : Session → Session) : (updSession n f s).jobs = s.jobs := rfl
@[simp] theorem updSession_nextJob (n : Nat) (f : Session → Session) : (updSession n f s).nextJob = s.nextJob := rfl
@[simp] theorem updSession_boot (n : Nat) (f : Session → Session) : (updSession n f s).boot = s.boot := rfl
@[simp] theorem updSession_pwr (n : Nat) (f : Session → Session) : (updSession n f s).pwr = s.pwr := rfl
@[simp] theorem updSession_pins (n : Nat) (f : Session → Session) : (updSession n f s).pins = s.pins := rfl
@[simp] theorem updSession_readOut (n : Nat) (f : Session → Session) : (updSession n f s).readOut = s.readOut := rfl
@[simp] theorem updSession_sets (n : Nat) (f : Session → Session) : (updSession n f s).sets = s.sets := rfl
@[simp] theorem updSession_flt (n : Nat) (f : Session → Session) : (updSession n f s).flt = s.flt := rfl
@[simp] theorem updSession_tly (n : Nat) (f : Session → Session) : (updSession n f s).tly = s.tly := rfl
@[simp] theorem updSession_gate (n : Nat) (f : Session → Session) : (updSession n f s).gate = s.gate := rfl
@[simp] theorem updSession_link (n : Nat) (f : Session → Session) : (updSession n f s).link = s.link := rfl
@[simp] theorem updSession_out (n : Nat) (f : Session → Session) : (updSession n f s).out = s.out := rfl

@[simp] theorem updJob_pending (id : Nat) (f : Job → Job) : (updJob id f s).pending = s.pending := rfl
@[simp] theorem updJob_cycle (id : Nat) (f : Job → Job) : (updJob id f s).cycle = s.cycle := rfl
@[simp] theorem updJob_fresh (id : Nat) (f : Job → Job) : (updJob id f s).fresh = s.fresh := rfl
@[simp] theorem updJob_regs (id : Nat) (f : Job → Job) : (updJob id f s).regs = s.regs := rfl
@[simp] theorem updJob_regsEff (id : Nat) (f : Job → Job) : (updJob id f s).regsEff = s.regsEff := rfl
@[simp] theorem updJob_beat (id : Nat) (f : Job → Job) : (updJob id f s).beat = s.beat := rfl
@[simp] theorem updJob_cells (id : Nat) (f : Job → Job) : (updJob id f s).cells = s.cells := rfl
@[simp] theorem updJob_blocks (id : Nat) (f : Job → Job) : (updJob id f s).blocks = s.blocks := rfl
@[simp] theorem updJob_sync (id : Nat) (f : Job → Job) : (updJob id f s).sync = s.sync := rfl
@[simp] theorem updJob_mem (id : Nat) (f : Job → Job) : (updJob id f s).mem = s.mem := rfl
@[simp] theorem updJob_ctxs (id : Nat) (f : Job → Job) : (updJob id f s).ctxs = s.ctxs := rfl
@[simp] theorem updJob_nextJob (id : Nat) (f : Job → Job) : (updJob id f s).nextJob = s.nextJob := rfl
@[simp] theorem updJob_oz (id : Nat) (f : Job → Job) : (updJob id f s).oz = s.oz := rfl
@[simp] theorem updJob_boot (id : Nat) (f : Job → Job) : (updJob id f s).boot = s.boot := rfl
@[simp] theorem updJob_pwr (id : Nat) (f : Job → Job) : (updJob id f s).pwr = s.pwr := rfl
@[simp] theorem updJob_pins (id : Nat) (f : Job → Job) : (updJob id f s).pins = s.pins := rfl
@[simp] theorem updJob_readOut (id : Nat) (f : Job → Job) : (updJob id f s).readOut = s.readOut := rfl
@[simp] theorem updJob_sets (id : Nat) (f : Job → Job) : (updJob id f s).sets = s.sets := rfl
@[simp] theorem updJob_flt (id : Nat) (f : Job → Job) : (updJob id f s).flt = s.flt := rfl
@[simp] theorem updJob_tly (id : Nat) (f : Job → Job) : (updJob id f s).tly = s.tly := rfl
@[simp] theorem updJob_gate (id : Nat) (f : Job → Job) : (updJob id f s).gate = s.gate := rfl
@[simp] theorem updJob_link (id : Nat) (f : Job → Job) : (updJob id f s).link = s.link := rfl
@[simp] theorem updJob_out (id : Nat) (f : Job → Job) : (updJob id f s).out = s.out := rfl

@[simp] theorem dropJob_pending (id : Nat) : (dropJob id s).pending = s.pending := rfl
@[simp] theorem dropJob_cycle (id : Nat) : (dropJob id s).cycle = s.cycle := rfl
@[simp] theorem dropJob_fresh (id : Nat) : (dropJob id s).fresh = s.fresh := rfl
@[simp] theorem dropJob_regs (id : Nat) : (dropJob id s).regs = s.regs := rfl
@[simp] theorem dropJob_regsEff (id : Nat) : (dropJob id s).regsEff = s.regsEff := rfl
@[simp] theorem dropJob_beat (id : Nat) : (dropJob id s).beat = s.beat := rfl
@[simp] theorem dropJob_cells (id : Nat) : (dropJob id s).cells = s.cells := rfl
@[simp] theorem dropJob_blocks (id : Nat) : (dropJob id s).blocks = s.blocks := rfl
@[simp] theorem dropJob_sync (id : Nat) : (dropJob id s).sync = s.sync := rfl
@[simp] theorem dropJob_mem (id : Nat) : (dropJob id s).mem = s.mem := rfl
@[simp] theorem dropJob_ctxs (id : Nat) : (dropJob id s).ctxs = s.ctxs := rfl
@[simp] theorem dropJob_nextJob (id : Nat) : (dropJob id s).nextJob = s.nextJob := rfl
@[simp] theorem dropJob_oz (id : Nat) : (dropJob id s).oz = s.oz := rfl
@[simp] theorem dropJob_boot (id : Nat) : (dropJob id s).boot = s.boot := rfl
@[simp] theorem dropJob_pwr (id : Nat) : (dropJob id s).pwr = s.pwr := rfl
@[simp] theorem dropJob_pins (id : Nat) : (dropJob id s).pins = s.pins := rfl
@[simp] theorem dropJob_readOut (id : Nat) : (dropJob id s).readOut = s.readOut := rfl
@[simp] theorem dropJob_sets (id : Nat) : (dropJob id s).sets = s.sets := rfl
@[simp] theorem dropJob_flt (id : Nat) : (dropJob id s).flt = s.flt := rfl
@[simp] theorem dropJob_tly (id : Nat) : (dropJob id s).tly = s.tly := rfl
@[simp] theorem dropJob_gate (id : Nat) : (dropJob id s).gate = s.gate := rfl
@[simp] theorem dropJob_link (id : Nat) : (dropJob id s).link = s.link := rfl
@[simp] theorem dropJob_out (id : Nat) : (dropJob id s).out = s.out := rfl

@[simp] theorem updGateOp_pending (id : Nat) (f : GateOp → GateOp) : (updGateOp id f s).pending = s.pending := rfl
@[simp] theorem updGateOp_cycle (id : Nat) (f : GateOp → GateOp) : (updGateOp id f s).cycle = s.cycle := rfl
@[simp] theorem updGateOp_fresh (id : Nat) (f : GateOp → GateOp) : (updGateOp id f s).fresh = s.fresh := rfl
@[simp] theorem updGateOp_regs (id : Nat) (f : GateOp → GateOp) : (updGateOp id f s).regs = s.regs := rfl
@[simp] theorem updGateOp_regsEff (id : Nat) (f : GateOp → GateOp) : (updGateOp id f s).regsEff = s.regsEff := rfl
@[simp] theorem updGateOp_beat (id : Nat) (f : GateOp → GateOp) : (updGateOp id f s).beat = s.beat := rfl
@[simp] theorem updGateOp_cells (id : Nat) (f : GateOp → GateOp) : (updGateOp id f s).cells = s.cells := rfl
@[simp] theorem updGateOp_blocks (id : Nat) (f : GateOp → GateOp) : (updGateOp id f s).blocks = s.blocks := rfl
@[simp] theorem updGateOp_sync (id : Nat) (f : GateOp → GateOp) : (updGateOp id f s).sync = s.sync := rfl
@[simp] theorem updGateOp_mem (id : Nat) (f : GateOp → GateOp) : (updGateOp id f s).mem = s.mem := rfl
@[simp] theorem updGateOp_ctxs (id : Nat) (f : GateOp → GateOp) : (updGateOp id f s).ctxs = s.ctxs := rfl
@[simp] theorem updGateOp_jobs (id : Nat) (f : GateOp → GateOp) : (updGateOp id f s).jobs = s.jobs := rfl
@[simp] theorem updGateOp_nextJob (id : Nat) (f : GateOp → GateOp) : (updGateOp id f s).nextJob = s.nextJob := rfl
@[simp] theorem updGateOp_oz (id : Nat) (f : GateOp → GateOp) : (updGateOp id f s).oz = s.oz := rfl
@[simp] theorem updGateOp_boot (id : Nat) (f : GateOp → GateOp) : (updGateOp id f s).boot = s.boot := rfl
@[simp] theorem updGateOp_pwr (id : Nat) (f : GateOp → GateOp) : (updGateOp id f s).pwr = s.pwr := rfl
@[simp] theorem updGateOp_pins (id : Nat) (f : GateOp → GateOp) : (updGateOp id f s).pins = s.pins := rfl
@[simp] theorem updGateOp_readOut (id : Nat) (f : GateOp → GateOp) : (updGateOp id f s).readOut = s.readOut := rfl
@[simp] theorem updGateOp_sets (id : Nat) (f : GateOp → GateOp) : (updGateOp id f s).sets = s.sets := rfl
@[simp] theorem updGateOp_flt (id : Nat) (f : GateOp → GateOp) : (updGateOp id f s).flt = s.flt := rfl
@[simp] theorem updGateOp_tly (id : Nat) (f : GateOp → GateOp) : (updGateOp id f s).tly = s.tly := rfl
@[simp] theorem updGateOp_link (id : Nat) (f : GateOp → GateOp) : (updGateOp id f s).link = s.link := rfl
@[simp] theorem updGateOp_out (id : Nat) (f : GateOp → GateOp) : (updGateOp id f s).out = s.out := rfl

@[simp] theorem updReplay_pending (k : Nat) (f : Nat → Nat) : (updReplay k f s).pending = s.pending := rfl
@[simp] theorem updReplay_cycle (k : Nat) (f : Nat → Nat) : (updReplay k f s).cycle = s.cycle := rfl
@[simp] theorem updReplay_fresh (k : Nat) (f : Nat → Nat) : (updReplay k f s).fresh = s.fresh := rfl
@[simp] theorem updReplay_regs (k : Nat) (f : Nat → Nat) : (updReplay k f s).regs = s.regs := rfl
@[simp] theorem updReplay_regsEff (k : Nat) (f : Nat → Nat) : (updReplay k f s).regsEff = s.regsEff := rfl
@[simp] theorem updReplay_beat (k : Nat) (f : Nat → Nat) : (updReplay k f s).beat = s.beat := rfl
@[simp] theorem updReplay_cells (k : Nat) (f : Nat → Nat) : (updReplay k f s).cells = s.cells := rfl
@[simp] theorem updReplay_blocks (k : Nat) (f : Nat → Nat) : (updReplay k f s).blocks = s.blocks := rfl
@[simp] theorem updReplay_sync (k : Nat) (f : Nat → Nat) : (updReplay k f s).sync = s.sync := rfl
@[simp] theorem updReplay_mem (k : Nat) (f : Nat → Nat) : (updReplay k f s).mem = s.mem := rfl
@[simp] theorem updReplay_ctxs (k : Nat) (f : Nat → Nat) : (updReplay k f s).ctxs = s.ctxs := rfl
@[simp] theorem updReplay_jobs (k : Nat) (f : Nat → Nat) : (updReplay k f s).jobs = s.jobs := rfl
@[simp] theorem updReplay_nextJob (k : Nat) (f : Nat → Nat) : (updReplay k f s).nextJob = s.nextJob := rfl
@[simp] theorem updReplay_oz (k : Nat) (f : Nat → Nat) : (updReplay k f s).oz = s.oz := rfl
@[simp] theorem updReplay_boot (k : Nat) (f : Nat → Nat) : (updReplay k f s).boot = s.boot := rfl
@[simp] theorem updReplay_pwr (k : Nat) (f : Nat → Nat) : (updReplay k f s).pwr = s.pwr := rfl
@[simp] theorem updReplay_pins (k : Nat) (f : Nat → Nat) : (updReplay k f s).pins = s.pins := rfl
@[simp] theorem updReplay_readOut (k : Nat) (f : Nat → Nat) : (updReplay k f s).readOut = s.readOut := rfl
@[simp] theorem updReplay_sets (k : Nat) (f : Nat → Nat) : (updReplay k f s).sets = s.sets := rfl
@[simp] theorem updReplay_tly (k : Nat) (f : Nat → Nat) : (updReplay k f s).tly = s.tly := rfl
@[simp] theorem updReplay_gate (k : Nat) (f : Nat → Nat) : (updReplay k f s).gate = s.gate := rfl
@[simp] theorem updReplay_link (k : Nat) (f : Nat → Nat) : (updReplay k f s).link = s.link := rfl
@[simp] theorem updReplay_out (k : Nat) (f : Nat → Nat) : (updReplay k f s).out = s.out := rfl

@[simp] theorem tallyAdd_pending (q st u n : Nat) : (tallyAdd s q st u n).pending = s.pending := rfl
@[simp] theorem tallyAdd_cycle (q st u n : Nat) : (tallyAdd s q st u n).cycle = s.cycle := rfl
@[simp] theorem tallyAdd_fresh (q st u n : Nat) : (tallyAdd s q st u n).fresh = s.fresh := rfl
@[simp] theorem tallyAdd_regs (q st u n : Nat) : (tallyAdd s q st u n).regs = s.regs := rfl
@[simp] theorem tallyAdd_regsEff (q st u n : Nat) : (tallyAdd s q st u n).regsEff = s.regsEff := rfl
@[simp] theorem tallyAdd_beat (q st u n : Nat) : (tallyAdd s q st u n).beat = s.beat := rfl
@[simp] theorem tallyAdd_cells (q st u n : Nat) : (tallyAdd s q st u n).cells = s.cells := rfl
@[simp] theorem tallyAdd_blocks (q st u n : Nat) : (tallyAdd s q st u n).blocks = s.blocks := rfl
@[simp] theorem tallyAdd_sync (q st u n : Nat) : (tallyAdd s q st u n).sync = s.sync := rfl
@[simp] theorem tallyAdd_mem (q st u n : Nat) : (tallyAdd s q st u n).mem = s.mem := rfl
@[simp] theorem tallyAdd_ctxs (q st u n : Nat) : (tallyAdd s q st u n).ctxs = s.ctxs := rfl
@[simp] theorem tallyAdd_jobs (q st u n : Nat) : (tallyAdd s q st u n).jobs = s.jobs := rfl
@[simp] theorem tallyAdd_nextJob (q st u n : Nat) : (tallyAdd s q st u n).nextJob = s.nextJob := rfl
@[simp] theorem tallyAdd_oz (q st u n : Nat) : (tallyAdd s q st u n).oz = s.oz := rfl
@[simp] theorem tallyAdd_boot (q st u n : Nat) : (tallyAdd s q st u n).boot = s.boot := rfl
@[simp] theorem tallyAdd_pwr (q st u n : Nat) : (tallyAdd s q st u n).pwr = s.pwr := rfl
@[simp] theorem tallyAdd_pins (q st u n : Nat) : (tallyAdd s q st u n).pins = s.pins := rfl
@[simp] theorem tallyAdd_readOut (q st u n : Nat) : (tallyAdd s q st u n).readOut = s.readOut := rfl
@[simp] theorem tallyAdd_sets (q st u n : Nat) : (tallyAdd s q st u n).sets = s.sets := rfl
@[simp] theorem tallyAdd_flt (q st u n : Nat) : (tallyAdd s q st u n).flt = s.flt := rfl
@[simp] theorem tallyAdd_gate (q st u n : Nat) : (tallyAdd s q st u n).gate = s.gate := rfl
@[simp] theorem tallyAdd_link (q st u n : Nat) : (tallyAdd s q st u n).link = s.link := rfl
@[simp] theorem tallyAdd_out (q st u n : Nat) : (tallyAdd s q st u n).out = s.out := rfl

@[simp] theorem tallyGauge_pending (q st u v : Nat) : (tallyGauge s q st u v).pending = s.pending := rfl
@[simp] theorem tallyGauge_cycle (q st u v : Nat) : (tallyGauge s q st u v).cycle = s.cycle := rfl
@[simp] theorem tallyGauge_fresh (q st u v : Nat) : (tallyGauge s q st u v).fresh = s.fresh := rfl
@[simp] theorem tallyGauge_regs (q st u v : Nat) : (tallyGauge s q st u v).regs = s.regs := rfl
@[simp] theorem tallyGauge_regsEff (q st u v : Nat) : (tallyGauge s q st u v).regsEff = s.regsEff := rfl
@[simp] theorem tallyGauge_beat (q st u v : Nat) : (tallyGauge s q st u v).beat = s.beat := rfl
@[simp] theorem tallyGauge_cells (q st u v : Nat) : (tallyGauge s q st u v).cells = s.cells := rfl
@[simp] theorem tallyGauge_blocks (q st u v : Nat) : (tallyGauge s q st u v).blocks = s.blocks := rfl
@[simp] theorem tallyGauge_sync (q st u v : Nat) : (tallyGauge s q st u v).sync = s.sync := rfl
@[simp] theorem tallyGauge_mem (q st u v : Nat) : (tallyGauge s q st u v).mem = s.mem := rfl
@[simp] theorem tallyGauge_ctxs (q st u v : Nat) : (tallyGauge s q st u v).ctxs = s.ctxs := rfl
@[simp] theorem tallyGauge_jobs (q st u v : Nat) : (tallyGauge s q st u v).jobs = s.jobs := rfl
@[simp] theorem tallyGauge_nextJob (q st u v : Nat) : (tallyGauge s q st u v).nextJob = s.nextJob := rfl
@[simp] theorem tallyGauge_oz (q st u v : Nat) : (tallyGauge s q st u v).oz = s.oz := rfl
@[simp] theorem tallyGauge_boot (q st u v : Nat) : (tallyGauge s q st u v).boot = s.boot := rfl
@[simp] theorem tallyGauge_pwr (q st u v : Nat) : (tallyGauge s q st u v).pwr = s.pwr := rfl
@[simp] theorem tallyGauge_pins (q st u v : Nat) : (tallyGauge s q st u v).pins = s.pins := rfl
@[simp] theorem tallyGauge_readOut (q st u v : Nat) : (tallyGauge s q st u v).readOut = s.readOut := rfl
@[simp] theorem tallyGauge_sets (q st u v : Nat) : (tallyGauge s q st u v).sets = s.sets := rfl
@[simp] theorem tallyGauge_flt (q st u v : Nat) : (tallyGauge s q st u v).flt = s.flt := rfl
@[simp] theorem tallyGauge_gate (q st u v : Nat) : (tallyGauge s q st u v).gate = s.gate := rfl
@[simp] theorem tallyGauge_link (q st u v : Nat) : (tallyGauge s q st u v).link = s.link := rfl
@[simp] theorem tallyGauge_out (q st u v : Nat) : (tallyGauge s q st u v).out = s.out := rfl

@[simp] theorem sendCtl_pending (d c b : Nat) (bs : List Byte) : (sendCtl d c b bs s).pending = s.pending := rfl
@[simp] theorem sendCtl_cycle (d c b : Nat) (bs : List Byte) : (sendCtl d c b bs s).cycle = s.cycle := rfl
@[simp] theorem sendCtl_fresh (d c b : Nat) (bs : List Byte) : (sendCtl d c b bs s).fresh = s.fresh := rfl
@[simp] theorem sendCtl_regs (d c b : Nat) (bs : List Byte) : (sendCtl d c b bs s).regs = s.regs := rfl
@[simp] theorem sendCtl_regsEff (d c b : Nat) (bs : List Byte) : (sendCtl d c b bs s).regsEff = s.regsEff := rfl
@[simp] theorem sendCtl_beat (d c b : Nat) (bs : List Byte) : (sendCtl d c b bs s).beat = s.beat := rfl
@[simp] theorem sendCtl_cells (d c b : Nat) (bs : List Byte) : (sendCtl d c b bs s).cells = s.cells := rfl
@[simp] theorem sendCtl_blocks (d c b : Nat) (bs : List Byte) : (sendCtl d c b bs s).blocks = s.blocks := rfl
@[simp] theorem sendCtl_sync (d c b : Nat) (bs : List Byte) : (sendCtl d c b bs s).sync = s.sync := rfl
@[simp] theorem sendCtl_mem (d c b : Nat) (bs : List Byte) : (sendCtl d c b bs s).mem = s.mem := rfl
@[simp] theorem sendCtl_ctxs (d c b : Nat) (bs : List Byte) : (sendCtl d c b bs s).ctxs = s.ctxs := rfl
@[simp] theorem sendCtl_jobs (d c b : Nat) (bs : List Byte) : (sendCtl d c b bs s).jobs = s.jobs := rfl
@[simp] theorem sendCtl_nextJob (d c b : Nat) (bs : List Byte) : (sendCtl d c b bs s).nextJob = s.nextJob := rfl
@[simp] theorem sendCtl_oz (d c b : Nat) (bs : List Byte) : (sendCtl d c b bs s).oz = s.oz := rfl
@[simp] theorem sendCtl_boot (d c b : Nat) (bs : List Byte) : (sendCtl d c b bs s).boot = s.boot := rfl
@[simp] theorem sendCtl_pwr (d c b : Nat) (bs : List Byte) : (sendCtl d c b bs s).pwr = s.pwr := rfl
@[simp] theorem sendCtl_pins (d c b : Nat) (bs : List Byte) : (sendCtl d c b bs s).pins = s.pins := rfl
@[simp] theorem sendCtl_readOut (d c b : Nat) (bs : List Byte) : (sendCtl d c b bs s).readOut = s.readOut := rfl
@[simp] theorem sendCtl_sets (d c b : Nat) (bs : List Byte) : (sendCtl d c b bs s).sets = s.sets := rfl
@[simp] theorem sendCtl_flt (d c b : Nat) (bs : List Byte) : (sendCtl d c b bs s).flt = s.flt := rfl
@[simp] theorem sendCtl_tly (d c b : Nat) (bs : List Byte) : (sendCtl d c b bs s).tly = s.tly := rfl
@[simp] theorem sendCtl_gate (d c b : Nat) (bs : List Byte) : (sendCtl d c b bs s).gate = s.gate := rfl
@[simp] theorem sendCtl_link (d c b : Nat) (bs : List Byte) : (sendCtl d c b bs s).link = s.link := rfl

@[simp] theorem updAlm_pending (c : Nat) (f : Almanac → Almanac) : (updAlm c f s).pending = s.pending := rfl
@[simp] theorem updAlm_cycle (c : Nat) (f : Almanac → Almanac) : (updAlm c f s).cycle = s.cycle := rfl
@[simp] theorem updAlm_fresh (c : Nat) (f : Almanac → Almanac) : (updAlm c f s).fresh = s.fresh := rfl
@[simp] theorem updAlm_regs (c : Nat) (f : Almanac → Almanac) : (updAlm c f s).regs = s.regs := rfl
@[simp] theorem updAlm_regsEff (c : Nat) (f : Almanac → Almanac) : (updAlm c f s).regsEff = s.regsEff := rfl
@[simp] theorem updAlm_beat (c : Nat) (f : Almanac → Almanac) : (updAlm c f s).beat = s.beat := rfl
@[simp] theorem updAlm_cells (c : Nat) (f : Almanac → Almanac) : (updAlm c f s).cells = s.cells := rfl
@[simp] theorem updAlm_blocks (c : Nat) (f : Almanac → Almanac) : (updAlm c f s).blocks = s.blocks := rfl
@[simp] theorem updAlm_sync (c : Nat) (f : Almanac → Almanac) : (updAlm c f s).sync = s.sync := rfl
@[simp] theorem updAlm_mem (c : Nat) (f : Almanac → Almanac) : (updAlm c f s).mem = s.mem := rfl
@[simp] theorem updAlm_jobs (c : Nat) (f : Almanac → Almanac) : (updAlm c f s).jobs = s.jobs := rfl
@[simp] theorem updAlm_nextJob (c : Nat) (f : Almanac → Almanac) : (updAlm c f s).nextJob = s.nextJob := rfl
@[simp] theorem updAlm_oz (c : Nat) (f : Almanac → Almanac) : (updAlm c f s).oz = s.oz := rfl
@[simp] theorem updAlm_boot (c : Nat) (f : Almanac → Almanac) : (updAlm c f s).boot = s.boot := rfl
@[simp] theorem updAlm_pwr (c : Nat) (f : Almanac → Almanac) : (updAlm c f s).pwr = s.pwr := rfl
@[simp] theorem updAlm_pins (c : Nat) (f : Almanac → Almanac) : (updAlm c f s).pins = s.pins := rfl
@[simp] theorem updAlm_readOut (c : Nat) (f : Almanac → Almanac) : (updAlm c f s).readOut = s.readOut := rfl
@[simp] theorem updAlm_sets (c : Nat) (f : Almanac → Almanac) : (updAlm c f s).sets = s.sets := rfl
@[simp] theorem updAlm_flt (c : Nat) (f : Almanac → Almanac) : (updAlm c f s).flt = s.flt := rfl
@[simp] theorem updAlm_tly (c : Nat) (f : Almanac → Almanac) : (updAlm c f s).tly = s.tly := rfl
@[simp] theorem updAlm_gate (c : Nat) (f : Almanac → Almanac) : (updAlm c f s).gate = s.gate := rfl
@[simp] theorem updAlm_link (c : Nat) (f : Almanac → Almanac) : (updAlm c f s).link = s.link := rfl
@[simp] theorem updAlm_out (c : Nat) (f : Almanac → Almanac) : (updAlm c f s).out = s.out := rfl

@[simp] theorem updCode_pending (c : Nat) (f : Coding → Coding) : (updCode c f s).pending = s.pending := rfl
@[simp] theorem updCode_cycle (c : Nat) (f : Coding → Coding) : (updCode c f s).cycle = s.cycle := rfl
@[simp] theorem updCode_fresh (c : Nat) (f : Coding → Coding) : (updCode c f s).fresh = s.fresh := rfl
@[simp] theorem updCode_regs (c : Nat) (f : Coding → Coding) : (updCode c f s).regs = s.regs := rfl
@[simp] theorem updCode_regsEff (c : Nat) (f : Coding → Coding) : (updCode c f s).regsEff = s.regsEff := rfl
@[simp] theorem updCode_beat (c : Nat) (f : Coding → Coding) : (updCode c f s).beat = s.beat := rfl
@[simp] theorem updCode_cells (c : Nat) (f : Coding → Coding) : (updCode c f s).cells = s.cells := rfl
@[simp] theorem updCode_blocks (c : Nat) (f : Coding → Coding) : (updCode c f s).blocks = s.blocks := rfl
@[simp] theorem updCode_sync (c : Nat) (f : Coding → Coding) : (updCode c f s).sync = s.sync := rfl
@[simp] theorem updCode_mem (c : Nat) (f : Coding → Coding) : (updCode c f s).mem = s.mem := rfl
@[simp] theorem updCode_jobs (c : Nat) (f : Coding → Coding) : (updCode c f s).jobs = s.jobs := rfl
@[simp] theorem updCode_nextJob (c : Nat) (f : Coding → Coding) : (updCode c f s).nextJob = s.nextJob := rfl
@[simp] theorem updCode_oz (c : Nat) (f : Coding → Coding) : (updCode c f s).oz = s.oz := rfl
@[simp] theorem updCode_boot (c : Nat) (f : Coding → Coding) : (updCode c f s).boot = s.boot := rfl
@[simp] theorem updCode_pwr (c : Nat) (f : Coding → Coding) : (updCode c f s).pwr = s.pwr := rfl
@[simp] theorem updCode_pins (c : Nat) (f : Coding → Coding) : (updCode c f s).pins = s.pins := rfl
@[simp] theorem updCode_readOut (c : Nat) (f : Coding → Coding) : (updCode c f s).readOut = s.readOut := rfl
@[simp] theorem updCode_sets (c : Nat) (f : Coding → Coding) : (updCode c f s).sets = s.sets := rfl
@[simp] theorem updCode_flt (c : Nat) (f : Coding → Coding) : (updCode c f s).flt = s.flt := rfl
@[simp] theorem updCode_tly (c : Nat) (f : Coding → Coding) : (updCode c f s).tly = s.tly := rfl
@[simp] theorem updCode_gate (c : Nat) (f : Coding → Coding) : (updCode c f s).gate = s.gate := rfl
@[simp] theorem updCode_link (c : Nat) (f : Coding → Coding) : (updCode c f s).link = s.link := rfl
@[simp] theorem updCode_out (c : Nat) (f : Coding → Coding) : (updCode c f s).out = s.out := rfl

end Sys2Proof.Machine
end

