-- ==== Sys2Proof/Laws/Issue.lean ====
section
/-! SUPPORT. What fetching an instruction can do, said once: the meaning of a row runs on the state once its word is read. -/

namespace Sys2Proof.Machine

/-! ### Cells after updates -/

@[simp] theorem cellAt_updCell (s : State) (p : Nat) (f : Cell → Cell) : cellAt (updCell s p f) p = f (cellAt s p) := by
  simp [cellAt, updCell]

theorem cellAt_updCell_other (s : State) {p q : Nat} (f : Cell → Cell) (h : q ≠ p) :
    cellAt (updCell s p f) q = cellAt s q := by
  simp [cellAt, updCell, sGet_upd_other _ _ f h]

@[simp] theorem cellAt_tallyAdd (s : State) (q st u n p : Nat) : cellAt (tallyAdd s q st u n) p = cellAt s p := rfl

@[simp] theorem physOf_updCell (s : State) (p : Nat) (f : Cell → Cell) (l : Nat) : physOf (updCell s p f) l = physOf s l := rfl

@[simp] theorem physOf_tallyAdd (s : State) (q st u n l : Nat) : physOf (tallyAdd s q st u n) l = physOf s l := rfl

@[simp] theorem physOf_fetched (s : State) (c : LCell) (m : Meet) (l : Nat) : physOf (fetched s c m) l = physOf s l := by
  unfold fetched; split <;> rfl

/-- Reading the word changes nothing of the cell but its count of corrected errors. -/
theorem issuer_fetched (s : State) (c : LCell) (m : Meet) :
    cellAt (fetched s c m) (cellOfL s c) = { issuer s c with cnt := (cellAt (fetched s c m) (cellOfL s c)).cnt } := by
  unfold fetched; split <;> simp

@[simp] theorem fetched_seq (s : State) (c : LCell) (m : Meet) :
    (cellAt (fetched s c m) (cellOfL s c)).seq = (issuer s c).seq := by rw [issuer_fetched]

@[simp] theorem fetched_units (s : State) (c : LCell) (m : Meet) :
    (cellAt (fetched s c m) (cellOfL s c)).units = (issuer s c).units := by rw [issuer_fetched]

@[simp] theorem fetched_x (s : State) (c : LCell) (m : Meet) :
    (cellAt (fetched s c m) (cellOfL s c)).x = (issuer s c).x := by rw [issuer_fetched]

@[simp] theorem fetched_d (s : State) (c : LCell) (m : Meet) :
    (cellAt (fetched s c m) (cellOfL s c)).d = (issuer s c).d := by rw [issuer_fetched]

@[simp] theorem fetched_store (s : State) (c : LCell) (m : Meet) :
    (cellAt (fetched s c m) (cellOfL s c)).store = (issuer s c).store := by rw [issuer_fetched]

@[simp] theorem fetched_arrays (s : State) (c : LCell) (m : Meet) :
    (cellAt (fetched s c m) (cellOfL s c)).arrays = (issuer s c).arrays := by rw [issuer_fetched]

theorem interlocked_fetched (s : State) (c : LCell) (m : Meet) (w : InsnWord) :
    interlocked (cellAt (fetched s c m) (cellOfL s c)) w = interlocked (issuer s c) w := by
  simp [interlocked]

/-! ### Fetching -/

/-- An instruction that issues, legal and with no uncorrectable error in its word, runs on the state once its word is
read. -/
theorem fetchFor_go {s : State} {c : LCell} {m : Meet} {w : InsnWord} {k op : Nat} {mine legal : InsnWord → Bool}
    (h : Issues s c w k op) (hm : m.imem ≠ .uncorrectable) (hw : mine w = true) (hl : legal w = true) :
    fetchFor mine legal c m s = .go (fetched s c m) (cellOfL s c) (cellAt (fetched s c m) (cellOfL s c)) w := by
  have hword := h.word
  simp only [wordAt] at hword
  have hpc : ¬ (4096 ≤ (issuer s c).seq.pc) := Nat.not_le.mpr h.inMem
  have hfree := h.free
  have hiss := h.issuing
  have hload := h.loaded
  simp only [cellOfL, issuer] at hword hfree hload hpc ⊢
  unfold fetchFor fetched
  cases hi : m.imem <;> simp_all

/-- A row whose word is not the one at the program counter does not run. -/
theorem fetchFor_other {s : State} {c : LCell} {m : Meet} {mine legal : InsnWord → Bool} (h : mine (wordAt s c) = false) :
    fetchFor mine legal c m s = .stall := by
  unfold fetchFor wordAt at *
  simp [h]

/-- A control instruction that issues runs on the state once its word is read. -/
theorem control_go {s : State} {c : LCell} {m : Meet} {w : InsnWord} {op : Nat} {go : State → Nat → Cell → InsnWord → State}
    (h : Issues s c w 0 op) (hm : m.imem ≠ .uncorrectable) (hl : controlLegal w = true) :
    control op c m s go = go (fetched s c m) (cellOfL s c) (cellAt (fetched s c m) (cellOfL s c)) w := by
  unfold control
  rw [fetchFor_go h hm (by simp [h.op]) hl]
  rfl

/-- A move-class instruction that issues with room in its queue joins it. -/
theorem moveIssue_go {s : State} {c : LCell} {m : Meet} {w : InsnWord} {op : Nat} {mine : InsnWord → Bool}
    (h : Issues s c w 4 op) (hm : m.imem ≠ .uncorrectable) (hw : mine w = true) (hl : moveLegal w = true)
    (hq : (issuer s c).units.move.length < 8) :
    moveIssue mine c m s =
      issued s c m (fun x => Cell.next { x with units := { x.units with move := x.units.move ++ [x.capture w] } }) := by
  unfold moveIssue
  rw [fetchFor_go h hm hw hl]
  simp [issueWith, issued, fetched_units, Nat.not_le.mpr hq]

/-- A vector instruction that issues with room in its queue joins it. -/
theorem vecIssue_go {s : State} {c : LCell} {m : Meet} {w : InsnWord} {op : Nat}
    (h : Issues s c w 2 op) (hm : m.imem ≠ .uncorrectable) (hl : vecLegal w = true)
    (hq : (issuer s c).units.vector.length < 8) :
    vecIssue op c m s =
      issued s c m (fun x => Cell.next { x with units := { x.units with vector := x.units.vector ++ [x.capture w] } }) := by
  unfold vecIssue
  rw [fetchFor_go h hm (by simp [h.op]) hl]
  simp [issueWith, issued, fetched_units, Nat.not_le.mpr hq]

/-! ### Frames of a cell -/

theorem OnlyCell.refl (p : Nat) (s : State) : OnlyCell p s s := ⟨rfl, fun _ _ => rfl⟩

theorem OnlyCell.trans {p : Nat} {s t u : State} (h : OnlyCell p s t) (g : OnlyCell p t u) : OnlyCell p s u :=
  ⟨g.1.trans (by rw [h.1]), fun q hq => (g.2 q hq).trans (h.2 q hq)⟩

theorem OnlyCell.updCell (p : Nat) (s : State) (f : Cell → Cell) : OnlyCell p s (updCell s p f) :=
  ⟨rfl, fun _ hq => cellAt_updCell_other s f hq⟩

theorem OnlyCell.tallyAdd (p : Nat) (s : State) (q st u n : Nat) : OnlyCell p s (tallyAdd s q st u n) :=
  ⟨rfl, fun _ _ => rfl⟩

/-- Only the cell and the Tally differ, so logical numbers lead where they did. -/
theorem OnlyCell.physOf {p : Nat} {s t : State} (h : OnlyCell p s t) (l : Nat) : physOf t l = physOf s l := by
  rw [h.1]; rfl

/-- Meeting a check of the cell store touches the cell's count alone. -/
theorem OnlyCell.storeMeets (p : Nat) (e : Ecc) (s : State) : OnlyCell p s (storeMeets p e s) := by
  cases e
  · exact .refl p s
  · exact (OnlyCell.updCell p s _).trans (.tallyAdd ..)
  · exact .tallyAdd ..

/-- A cell after its store's check differs in its count alone. -/
theorem cellAt_storeMeets (p : Nat) (e : Ecc) (s : State) :
    cellAt (storeMeets p e s) p = { cellAt s p with cnt := (cellAt (storeMeets p e s) p).cnt } := by
  cases e <;> simp [storeMeets]

end Sys2Proof.Machine
end

