-- ==== Sys2Proof/Laws/Keeps.lean ====
section
/-! SUPPORT. What no operation of the machine disturbs: the queue of commands, the canonical form of memory and registers, and
Safe-Hold. One lemma for each operation says so. -/

namespace Sys2Proof.Machine

/-- From s to t the queue stays, good memory and registers stay good, and a device out of reset in Safe-Hold stays there. -/
structure Keeps (s t : State) : Prop where
  queue : t.pending = s.pending
  form : s.wf = true → t.wf = true
  hold : s.flt.safeHold = true → s.pins.inReset = false → t.flt.safeHold = true ∧ t.pins.inReset = false

theorem idp {p : Prop} (h : p) : p := h

/-- A fold of writes to a table keeps its form. -/
theorem sWf_foldl {α β : Type} [DecidableEq α] {d : α} {f : Sparse α → β → Sparse α} (l : List β) {m : Sparse α}
    (hf : ∀ m b, sWf d m = true → sWf d (f m b) = true) (h : sWf d m = true) : sWf d (l.foldl f m) = true := by
  induction l generalizing m with
  | nil => exact h
  | cons b l ih => exact ih (hf _ _ h)

/-- A table whose entries change, those that come to hold what an unlisted key reads as dropped, keeps its form. -/
theorem sWf_refill {α : Type} [DecidableEq α] {d : α} {m : Sparse α} (g : Nat × α → Nat × α) (hg : ∀ e, (g e).1 = e.1)
    (h : sWf d m = true) : sWf d ((m.map g).filter (fun e => decide (e.2 ≠ d))) = true := by
  rw [sWf_iff] at h ⊢
  refine ⟨(List.pairwise_map.mpr (h.1.imp (fun {a b} hab => ?_))).filter _, fun e he => by simpa using (List.mem_filter.mp he).2⟩
  rw [hg, hg]; exact hab

/-- Good memory with its tables written stays good. -/
theorem memOf {m : Mem} {hbm poison scratch dies rows retired retiring carveFailed cache} {strong : Bool}
    (h1 : sWf 0#8 m.hbm = true → sWf 0#8 hbm = true) (h2 : sWf false m.poison = true → sWf false poison = true)
    (h3 : sWf 0#8 m.scratch = true → sWf 0#8 scratch = true) (h4 : sWf {} m.dies = true → sWf {} dies = true)
    (h5 : sWf {} m.rows = true → sWf {} rows = true) (h6 : sWf false m.retired = true → sWf false retired = true)
    (h7 : sWf false m.retiring = true → sWf false retiring = true)
    (h8 : sWf false m.carveFailed = true → sWf false carveFailed = true) (h9 : sWf [] m.cache = true → sWf [] cache = true) :
    m.wf = true → Mem.wf ⟨hbm, poison, scratch, strong, dies, rows, retired, retiring, carveFailed, cache⟩ = true := by
  simp only [Mem.wf, Bool.and_eq_true]
  tauto

namespace Keeps

variable {s t u : State}

theorem refl (s : State) : Keeps s s := ⟨rfl, id, fun h g => ⟨h, g⟩⟩

theorem trans (h : Keeps s t) (g : Keeps t u) : Keeps s u :=
  ⟨g.queue.trans h.queue, fun w => g.form (h.form w), fun a b => let r := h.hold a b; g.hold r.1 r.2⟩

/-- The three tables of a good state. -/
theorem wf_iff (s : State) : s.wf = true ↔ s.mem.wf = true ∧ regsWf s.regs = true ∧ regsWf s.regsEff = true := by
  simp [State.wf, and_assoc]

/-- A state that differs from u in other fields, or in these three as they may. -/
theorem of (h : Keeps s u) {cycle fresh beat cells blocks sync ctxs jobs nextJob oz boot pwr readOut sets tly gate link out}
    {pins : PinState} {flt : FaultState} {mem : Mem} {regs regsEff : Sparse Word}
    (hp : pins.inReset = u.pins.inReset) (hf : u.flt.safeHold = true → flt.safeHold = true)
    (hm : u.mem.wf = true → mem.wf = true) (hr : regsWf u.regs = true → regsWf regs = true)
    (he : regsWf u.regsEff = true → regsWf regsEff = true) :
    Keeps s ⟨u.pending, cycle, fresh, regs, regsEff, beat, cells, blocks, sync, mem, ctxs, jobs, nextJob, oz, boot, pwr, pins,
      readOut, sets, flt, tly, gate, link, out⟩ := by
  refine ⟨h.queue, fun w => ?_, fun a b => ?_⟩
  · have := (wf_iff _).mp (h.form w); exact (wf_iff _).mpr ⟨hm this.1, hr this.2.1, he this.2.2⟩
  · exact ⟨hf (h.hold a b).1, hp.trans (h.hold a b).2⟩

theorem ite {c : Prop} [Decidable c] (h : Keeps s t) (g : Keeps s u) : Keeps s (if c then t else u) := by split <;> assumption

theorem of_snd {α : Type} {p : α × State} {a : α} (e : p = (a, t)) (h : Keeps s p.2) : Keeps s t := by subst e; exact h

theorem of_fst {α : Type} {p : State × α} {a : α} (e : p = (t, a)) (h : Keeps s p.1) : Keeps s t := by subst e; exact h

/-- A fold of steps that each keep. -/
theorem foldl {α : Type} {f : State → α → State} (l : List α) (h : Keeps s t) (hf : ∀ y u a, Keeps y u → Keeps y (f u a)) :
    Keeps s (l.foldl f t) := by
  induction l generalizing t with
  | nil => exact h
  | cons a l ih => exact ih (hf _ _ _ h)

theorem foldl_fst {α β : Type} {f : State × β → α → State × β} (l : List α) {b : State × β} (h : Keeps s b.1)
    (hf : ∀ y u a, Keeps y u.1 → Keeps y (f u a).1) : Keeps s (l.foldl f b).1 := by
  induction l generalizing b with
  | nil => exact h
  | cons a l ih => exact ih (hf _ _ _ h)

theorem foldl_snd {α β : Type} {f : β × State → α → β × State} (l : List α) {b : β × State} (h : Keeps s b.2)
    (hf : ∀ y u a, Keeps y u.2 → Keeps y (f u a).2) : Keeps s (l.foldl f b).2 := by
  induction l generalizing b with
  | nil => exact h
  | cons a l ih => exact ih (hf _ _ _ h)

theorem foldl_third {α β γ : Type} {f : β × γ × State → α → β × γ × State} (l : List α) {b : β × γ × State}
    (h : Keeps s b.2.2) (hf : ∀ y u a, Keeps y u.2.2 → Keeps y (f u a).2.2) : Keeps s (l.foldl f b).2.2 := by
  induction l generalizing b with
  | nil => exact h
  | cons a l ih => exact ih (hf _ _ _ h)

end Keeps

end Sys2Proof.Machine
end

