-- ==== Sys2Proof/Laws/KeepsOps.lean ====
section
/-! SUPPORT. What the shared operations keep, one lemma for each. -/

set_option linter.unreachableTactic false
set_option linter.unusedTactic false

namespace Sys2Proof.Machine

theorem regTable_wf (m : Sparse Word) (a : Nat) (v : Word) (h : regsWf m = true) : regsWf (regTable m a v) = true := by
  simp only [regsWf, Bool.and_eq_true, sRising_iff, List.all_eq_true, decide_eq_true_eq] at h ⊢
  unfold regTable
  split
  · exact ⟨h.1.filter _, fun e he => h.2 e (List.mem_filter.mp he).1⟩
  · next hv =>
    refine ⟨pairwise_sPut h.1, fun e he => ?_⟩
    rcases mem_sPut he with rfl | he
    · exact hv
    · exact h.2 e he

theorem keeps_regSet {z : State} (a : Nat) (v : Word) (s : State) (h : Keeps z s) : Keeps z (regSet s a v) :=
  h.of rfl id id (regTable_wf _ a v) id

theorem keeps_regEffSet {z : State} (a : Nat) (v : Word) (s : State) (h : Keeps z s) : Keeps z (regEffSet s a v) :=
  h.of rfl id id id (regTable_wf _ a v)

theorem keeps_regCount {z0 : State} (a : Nat) (n : Nat) (s : State) (hK : Keeps z0 s) : Keeps z0 (regCount a n s) := by
  unfold regCount
  repeat' first
    | (with_reducible first | assumption | exact Keeps.refl _ | intro _ | apply keeps_regSet | apply Keeps.ite)
    | fail_if_no_progress with_reducible refine Keeps.of ?_ rfl idp idp idp idp | dsimp only | split

theorem keeps_takeFree {z0 : State} (s : State) (hK : Keeps z0 s) : Keeps z0 (takeFree s).2 := by
  unfold takeFree
  repeat' first
    | (with_reducible first | assumption | exact Keeps.refl _ | intro _ | apply Keeps.ite)
    | fail_if_no_progress with_reducible refine Keeps.of ?_ rfl idp idp idp idp | dsimp only | split

theorem keeps_updBlk {z0 : State} (g : Nat) (f : Block → Block) (s : State) (hK : Keeps z0 s) : Keeps z0 (updBlk s g f) := by
  unfold updBlk
  repeat' first
    | (with_reducible first | assumption | exact Keeps.refl _ | intro _ | apply Keeps.ite)
    | fail_if_no_progress with_reducible refine Keeps.of ?_ rfl idp idp idp idp | dsimp only | split

theorem keeps_updCell {z0 : State} (p : Nat) (f : Cell → Cell) (s : State) (hK : Keeps z0 s) : Keeps z0 (updCell s p f) := by
  unfold updCell
  repeat' first
    | (with_reducible first | assumption | exact Keeps.refl _ | intro _ | apply Keeps.ite)
    | fail_if_no_progress with_reducible refine Keeps.of ?_ rfl idp idp idp idp | dsimp only | split

theorem keeps_updCtx {z0 : State} (c : Nat) (f : Ctx → Ctx) (s : State) (hK : Keeps z0 s) : Keeps z0 (updCtx s c f) := by
  unfold updCtx
  repeat' first
    | (with_reducible first | assumption | exact Keeps.refl _ | intro _ | apply Keeps.ite)
    | fail_if_no_progress with_reducible refine Keeps.of ?_ rfl idp idp idp idp | dsimp only | split

theorem keeps_updKept {z0 : State} (c : Nat) (f : Kept → Kept) (s : State) (hK : Keeps z0 s) : Keeps z0 (updKept s c f) := by
  unfold updKept
  repeat' first
    | (with_reducible first | assumption | exact Keeps.refl _ | intro _ | apply keeps_updCtx | apply Keeps.ite)
    | fail_if_no_progress with_reducible refine Keeps.of ?_ rfl idp idp idp idp | dsimp only | split

theorem keeps_updRun {z0 : State} (c : Nat) (f : Run → Run) (s : State) (hK : Keeps z0 s) : Keeps z0 (updRun s c f) := by
  unfold updRun
  repeat' first
    | (with_reducible first | assumption | exact Keeps.refl _ | intro _ | apply keeps_updCtx | apply Keeps.ite)
    | fail_if_no_progress with_reducible refine Keeps.of ?_ rfl idp idp idp idp | dsimp only | split

theorem keeps_tallyAdd {z0 : State} (qty : Nat) (strct : Nat) (unit : Nat) (n : Nat) (s : State) (hK : Keeps z0 s) :
    Keeps z0 (tallyAdd s qty strct unit n) := by
  unfold tallyAdd
  repeat' first
    | (with_reducible first | assumption | exact Keeps.refl _ | intro _ | apply Keeps.ite)
    | fail_if_no_progress with_reducible refine Keeps.of ?_ rfl idp idp idp idp | dsimp only | split

theorem keeps_tallyGauge {z0 : State} (qty : Nat) (strct : Nat) (unit : Nat) (v : Nat) (s : State) (hK : Keeps z0 s) :
    Keeps z0 (tallyGauge s qty strct unit v) := by
  unfold tallyGauge
  repeat' first
    | (with_reducible first | assumption | exact Keeps.refl _ | intro _ | apply Keeps.ite)
    | fail_if_no_progress with_reducible refine Keeps.of ?_ rfl idp idp idp idp | dsimp only | split

theorem keeps_tallyExtreme {z0 : State} (qty : Nat) (strct : Nat) (unit : Nat) (better : Nat → Nat → Bool) (v : Nat)
    (s : State) (hK : Keeps z0 s) :
    Keeps z0 (tallyExtreme s qty strct unit better v) := by
  unfold tallyExtreme
  repeat' first
    | (with_reducible first | assumption | exact Keeps.refl _ | intro _ | apply keeps_tallyGauge | apply Keeps.ite)
    | fail_if_no_progress with_reducible refine Keeps.of ?_ rfl idp idp idp idp | dsimp only | split

theorem keeps_logAppend {z0 : State} (type : Nat) (flags : Nat) (body : List Byte) (s : State) (hK : Keeps z0 s) :
    Keeps z0 (logAppend s type flags body) := by
  unfold logAppend
  repeat' first
    | (with_reducible first | assumption | exact Keeps.refl _ | intro _ | apply keeps_regCount | apply keeps_tallyAdd
                            | apply Keeps.ite)
    | fail_if_no_progress with_reducible refine Keeps.of ?_ rfl idp idp idp idp | dsimp only | split

theorem keeps_noteLast {z0 : State} (note : List Nat) (s : State) (hK : Keeps z0 s) : Keeps z0 (noteLast note s) := by
  unfold noteLast
  repeat' first
    | (with_reducible first | assumption | exact Keeps.refl _ | intro _ | apply Keeps.ite)
    | fail_if_no_progress with_reducible refine Keeps.of ?_ rfl idp idp idp idp | dsimp only | split

theorem keeps_freeDetail {z0 : State} (s : State) (hK : Keeps z0 s) : Keeps z0 (freeDetail s).2 := by
  unfold freeDetail
  repeat' first
    | (with_reducible first | assumption | exact Keeps.refl _ | intro _ | apply keeps_takeFree | apply Keeps.ite)
    | fail_if_no_progress with_reducible refine Keeps.of ?_ rfl idp idp idp idp | dsimp only | split

theorem keeps_logRepair {z0 : State} (action : Nat) (unit : Nat) (cause : Nat) (s : State) (hK : Keeps z0 s) :
    Keeps z0 (logRepair s action unit cause) := by
  unfold logRepair
  repeat' first
    | (with_reducible first | assumption | exact Keeps.refl _ | intro _ | apply keeps_freeDetail | apply keeps_logAppend
                            | apply Keeps.ite)
    | fail_if_no_progress with_reducible refine Keeps.of ?_ rfl idp idp idp idp | dsimp only | split

theorem keeps_updDie {z0 : State} (n : Nat) (f : Die → Die) (s : State) (hK : Keeps z0 s) : Keeps z0 (updDie s n f) := by
  unfold updDie
  repeat' first
    | (with_reducible first | assumption | exact Keeps.refl _ | exact idp | refine memOf ?_ ?_ ?_ ?_ ?_ ?_ ?_ ?_ ?_
                            | refine sWf_refill _ (fun _ => rfl) ?_ | apply sWf_set | apply sWf_upd | intro _
                            | apply Keeps.ite)
    | fail_if_no_progress with_reducible refine Keeps.of ?_ rfl idp idp idp idp | dsimp only | split
    | fail_if_no_progress (with_reducible refine Keeps.of ?_ rfl idp ?_ idp idp <;> try with_reducible exact idp)

theorem keeps_retireFrame {z0 : State} (frame : Nat) (stack : Nat) (la : Nat) (s : State) (hK : Keeps z0 s) :
    Keeps z0 (retireFrame s frame stack la) := by
  unfold retireFrame
  repeat' first
    | (with_reducible first | assumption | exact Keeps.refl _ | exact idp | refine memOf ?_ ?_ ?_ ?_ ?_ ?_ ?_ ?_ ?_
                            | refine sWf_refill _ (fun _ => rfl) ?_ | apply sWf_set | apply sWf_upd | intro _
                            | apply keeps_updDie | apply keeps_tallyAdd | apply keeps_logAppend | apply keeps_tallyGauge
                            | apply Keeps.ite)
    | fail_if_no_progress with_reducible refine Keeps.of ?_ rfl idp idp idp idp | dsimp only | split
    | fail_if_no_progress (with_reducible refine Keeps.of ?_ rfl idp ?_ idp idp <;> try with_reducible exact idp)

theorem keeps_retireRow {z0 : State} (stack : Nat) (la : Nat) (uncorrectable : Bool) (s : State) (hK : Keeps z0 s) :
    Keeps z0 (retireRow s stack la uncorrectable) := by
  unfold retireRow
  repeat' first
    | (with_reducible first | assumption | exact Keeps.refl _ | exact idp | refine memOf ?_ ?_ ?_ ?_ ?_ ?_ ?_ ?_ ?_
                            | refine sWf_refill _ (fun _ => rfl) ?_ | apply sWf_set | apply sWf_upd | intro _
                            | apply keeps_retireFrame | apply keeps_updDie | apply Keeps.ite)
    | fail_if_no_progress with_reducible refine Keeps.of ?_ rfl idp idp idp idp | dsimp only | split
    | fail_if_no_progress (with_reducible refine Keeps.of ?_ rfl idp ?_ idp idp <;> try with_reducible exact idp)

theorem keeps_remapRow {z0 : State} (stack : Nat) (la : Nat) (cause : Nat) (dst : RowState) (had : Bool) (s : State)
    (hK : Keeps z0 s) :
    Keeps z0 (remapRow s stack la cause dst had) := by
  unfold remapRow
  repeat' first
    | (with_reducible first | assumption | exact Keeps.refl _ | exact idp | refine memOf ?_ ?_ ?_ ?_ ?_ ?_ ?_ ?_ ?_
                            | refine sWf_refill _ (fun _ => rfl) ?_ | apply sWf_set | apply sWf_upd | intro _
                            | apply keeps_updDie | apply keeps_tallyAdd | apply keeps_noteLast | apply keeps_logRepair
                            | apply Keeps.ite)
    | fail_if_no_progress with_reducible refine Keeps.of ?_ rfl idp idp idp idp | dsimp only | split
    | fail_if_no_progress (with_reducible refine Keeps.of ?_ rfl idp ?_ idp idp <;> try with_reducible exact idp)

theorem keeps_rowFails {z0 : State} (stack : Nat) (la : Nat) (cause : Nat) (uncorrectable : Bool) (s : State)
    (hK : Keeps z0 s) :
    Keeps z0 (rowFails s stack la cause uncorrectable) := by
  unfold rowFails
  repeat' first
    | (with_reducible first | assumption | exact Keeps.refl _ | exact idp | refine memOf ?_ ?_ ?_ ?_ ?_ ?_ ?_ ?_ ?_
                            | refine sWf_refill _ (fun _ => rfl) ?_ | apply sWf_set | apply sWf_upd | apply sWf_filter
                            | intro _ | apply keeps_updDie | apply keeps_retireRow | apply keeps_remapRow | apply Keeps.ite)
    | fail_if_no_progress with_reducible refine Keeps.of ?_ rfl idp idp idp idp | dsimp only | split
    | fail_if_no_progress (with_reducible refine Keeps.of ?_ rfl idp ?_ idp idp <;> try with_reducible exact idp)

theorem keeps_trackRow {z0 : State} (stack : Nat) (la : Nat) (s : State) (hK : Keeps z0 s) :
    Keeps z0 (trackRow s stack la).2 := by
  unfold trackRow
  repeat' first
    | (with_reducible first | assumption | exact Keeps.refl _ | intro _ | apply keeps_updDie | apply keeps_takeFree
                            | apply Keeps.ite)
    | fail_if_no_progress with_reducible refine Keeps.of ?_ rfl idp idp idp idp | dsimp only | split

theorem keeps_correctedAt {z0 : State} (stack : Nat) (la : Nat) (s : State) (hK : Keeps z0 s) :
    Keeps z0 (correctedAt s stack la) := by
  unfold correctedAt
  repeat' first
    | (with_reducible first | assumption | exact Keeps.refl _ | intro _ | apply keeps_updDie | apply keeps_tallyAdd
                            | apply keeps_trackRow | apply keeps_rowFails | apply Keeps.ite)
    | fail_if_no_progress with_reducible refine Keeps.of ?_ rfl idp idp idp idp | dsimp only | split

theorem keeps_uncorrectableAt {z0 : State} (stack : Nat) (la : Nat) (s : State) (hK : Keeps z0 s) :
    Keeps z0 (uncorrectableAt s stack la) := by
  unfold uncorrectableAt
  repeat' first
    | (with_reducible first | assumption | exact Keeps.refl _ | exact idp | refine memOf ?_ ?_ ?_ ?_ ?_ ?_ ?_ ?_ ?_
                            | refine sWf_refill _ (fun _ => rfl) ?_ | apply sWf_set | apply sWf_upd | intro _
                            | apply keeps_updDie | apply keeps_tallyAdd | apply keeps_rowFails | apply Keeps.ite)
    | fail_if_no_progress with_reducible refine Keeps.of ?_ rfl idp idp idp idp | dsimp only | split
    | fail_if_no_progress (with_reducible refine Keeps.of ?_ rfl idp ?_ idp idp <;> try with_reducible exact idp)

theorem keeps_readLine {z0 : State} (stack : Nat) (la : Nat) (e : Ecc) (s : State) (hK : Keeps z0 s) :
    Keeps z0 (readLine s stack la e).2 := by
  unfold readLine
  repeat' first
    | (with_reducible first | assumption | exact Keeps.refl _ | intro _ | apply keeps_correctedAt
                            | apply keeps_uncorrectableAt | apply Keeps.ite)
    | fail_if_no_progress with_reducible refine Keeps.of ?_ rfl idp idp idp idp | dsimp only | split

theorem keeps_hbmPut {z0 : State} (stack : Nat) (la : Nat) (bs : List Byte) (s : State) (hK : Keeps z0 s) :
    Keeps z0 (hbmPut s stack la bs) := by
  unfold hbmPut
  repeat' first
    | (with_reducible first | assumption | exact Keeps.refl _ | exact idp | refine memOf ?_ ?_ ?_ ?_ ?_ ?_ ?_ ?_ ?_
                            | refine sWf_refill _ (fun _ => rfl) ?_ | apply sWf_set | apply sWf_upd | apply sWf_clear
                            | apply sWf_setAll | intro _ | apply Keeps.ite)
    | fail_if_no_progress with_reducible refine Keeps.of ?_ rfl idp idp idp idp | dsimp only | split
    | fail_if_no_progress (with_reducible refine Keeps.of ?_ rfl idp ?_ idp idp <;> try with_reducible exact idp)

theorem keeps_readPiece {z0 : State} (pa : Nat) (n : Nat) (e : Ecc) (s : State) (hK : Keeps z0 s) :
    Keeps z0 (readPiece s pa n e).st := by
  unfold readPiece
  repeat' first
    | (with_reducible first | assumption | exact Keeps.refl _ | intro _ | apply keeps_readLine | apply keeps_hbmPut
                            | apply keeps_logRepair | apply keeps_tallyAdd | apply Keeps.ite)
    | fail_if_no_progress with_reducible refine Keeps.of ?_ rfl idp idp idp idp | dsimp only | split

theorem keeps_readPieces {z : State} (pa : Nat) (e : Ecc) (which : Nat) (l : List (Nat × Nat)) (i : Nat) (s : State)
    (h : Keeps z s) : Keeps z (readPieces s pa e which l i).st := by
  induction l generalizing s i with
  | nil => exact h
  | cons p l ih => exact ih _ _ (keeps_readPiece _ _ _ _ h)

theorem keeps_physRead {z0 : State} (pa : Nat) (n : Nat) (e : Ecc) (which : Nat) (s : State) (hK : Keeps z0 s) :
    Keeps z0 (physRead s pa n e which).st := by
  unfold physRead
  repeat' first
    | (with_reducible first | assumption | exact Keeps.refl _ | intro _ | apply keeps_readPieces | apply Keeps.ite)
    | fail_if_no_progress with_reducible refine Keeps.of ?_ rfl idp idp idp idp | dsimp only | split

theorem keeps_writePiece {z0 : State} (pa : Nat) (bs : List Byte) (s : State) (hK : Keeps z0 s) :
    Keeps z0 (writePiece s pa bs).1 := by
  unfold writePiece
  repeat' first
    | (with_reducible first | assumption | exact Keeps.refl _ | exact idp | refine memOf ?_ ?_ ?_ ?_ ?_ ?_ ?_ ?_ ?_
                            | refine sWf_refill _ (fun _ => rfl) ?_ | apply sWf_set | apply sWf_upd | apply sWf_setAll
                            | intro _ | apply keeps_hbmPut | apply keeps_tallyAdd | apply Keeps.ite)
    | fail_if_no_progress with_reducible refine Keeps.of ?_ rfl idp idp idp idp | dsimp only | split
    | fail_if_no_progress (with_reducible refine Keeps.of ?_ rfl idp ?_ idp idp <;> try with_reducible exact idp)

theorem keeps_writePieces {z : State} (pa : Nat) (bs : List Byte) (l : List (Nat × Nat)) (s : State) (h : Keeps z s) :
    Keeps z (writePieces s pa bs l).1 := by
  induction l generalizing s with
  | nil => exact h
  | cons p l ih => exact ih _ (keeps_writePiece _ _ _ h)

theorem keeps_physWrite {z0 : State} (pa : Nat) (bs : List Byte) (s : State) (hK : Keeps z0 s) :
    Keeps z0 (physWrite s pa bs).1 := by
  unfold physWrite
  repeat' first
    | (with_reducible first | assumption | exact Keeps.refl _ | intro _ | apply keeps_writePieces | apply Keeps.ite)
    | fail_if_no_progress with_reducible refine Keeps.of ?_ rfl idp idp idp idp | dsimp only | split

theorem keeps_poke {z0 : State} (pa : Nat) (bs : List Byte) (s : State) (hK : Keeps z0 s) : Keeps z0 (poke s pa bs) := by
  unfold poke
  repeat' first
    | (with_reducible first | assumption | exact Keeps.refl _ | intro _ | apply keeps_physWrite | apply Keeps.ite)
    | fail_if_no_progress with_reducible refine Keeps.of ?_ rfl idp idp idp idp | dsimp only | split

theorem keeps_record0 {z0 : State} (f : FaultRec) (s : State) (hK : Keeps z0 s) : Keeps z0 (record0 f s) := by
  unfold record0
  repeat' first
    | (with_reducible first | assumption | exact Keeps.refl _ | intro _ | apply keeps_tallyAdd | apply keeps_logAppend
                            | apply keeps_poke | apply Keeps.ite)
    | fail_if_no_progress with_reducible refine Keeps.of ?_ rfl idp idp idp idp | dsimp only | split

theorem keeps_tellJob {z0 : State} (c : Nat) (code : Nat) (s : State) (hK : Keeps z0 s) : Keeps z0 (tellJob c code s) := by
  unfold tellJob
  repeat' first
    | (with_reducible first | assumption | exact Keeps.refl _ | intro _ | apply Keeps.ite)
    | fail_if_no_progress with_reducible refine Keeps.of ?_ rfl idp idp idp idp | dsimp only | split

theorem keeps_tellCommit {z0 : State} (c : Nat) (members : List Nat) (type : Nat) (body : List Byte) (s : State)
    (hK : Keeps z0 s) :
    Keeps z0 (tellCommit c members type body s) := by
  unfold tellCommit
  repeat' first
    | (with_reducible first | assumption | exact Keeps.refl _ | intro _ | apply Keeps.ite)
    | fail_if_no_progress with_reducible refine Keeps.of ?_ rfl idp idp idp idp | dsimp only | split

theorem keeps_updUpdate {z0 : State} (c : Nat) (f : Update → Update) (s : State) (hK : Keeps z0 s) :
    Keeps z0 (updUpdate c f s) := by
  unfold updUpdate
  repeat' first
    | (with_reducible first | assumption | exact Keeps.refl _ | intro _ | apply keeps_updCtx | apply Keeps.ite)
    | fail_if_no_progress with_reducible refine Keeps.of ?_ rfl idp idp idp idp | dsimp only | split

theorem keeps_sendAbort {z0 : State} (c : Nat) (cause : Nat) (s : State) (hK : Keeps z0 s) :
    Keeps z0 (sendAbort c cause s) := by
  unfold sendAbort
  repeat' first
    | (with_reducible first | assumption | exact Keeps.refl _ | intro _ | apply keeps_tellCommit | apply keeps_updUpdate
                            | apply Keeps.ite)
    | fail_if_no_progress with_reducible refine Keeps.of ?_ rfl idp idp idp idp | dsimp only | split

theorem keeps_quitUpdate {z0 : State} (c : Nat) (s : State) (hK : Keeps z0 s) : Keeps z0 (quitUpdate c s) := by
  unfold quitUpdate
  repeat' first
    | (with_reducible first | assumption | exact Keeps.refl _ | intro _ | apply keeps_updUpdate | apply keeps_sendAbort
                            | apply keeps_tellCommit | apply Keeps.ite)
    | fail_if_no_progress with_reducible refine Keeps.of ?_ rfl idp idp idp idp | dsimp only | split

theorem keeps_addGated {z0 : State} (c : Nat) (n : Nat) (s : State) (hK : Keeps z0 s) : Keeps z0 (addGated c n s) := by
  unfold addGated
  repeat' first
    | (with_reducible first | assumption | exact Keeps.refl _ | intro _ | apply keeps_tallyAdd | apply keeps_updKept
                            | apply Keeps.ite)
    | fail_if_no_progress with_reducible refine Keeps.of ?_ rfl idp idp idp idp | dsimp only | split

theorem keeps_stopCell {z0 : State} (c : Nat) (l : Nat) (s : State) (hK : Keeps z0 s) : Keeps z0 (stopCell c l s) := by
  unfold stopCell
  repeat' first
    | (with_reducible first | assumption | exact Keeps.refl _ | intro _ | apply keeps_updCell | apply keeps_addGated
                            | apply Keeps.ite)
    | fail_if_no_progress with_reducible refine Keeps.of ?_ rfl idp idp idp idp | dsimp only | split

theorem keeps_stopCells {z0 : State} (c : Nat) (s : State) (hK : Keeps z0 s) : Keeps z0 (stopCells c s) := by
  unfold stopCells
  repeat' first
    | (with_reducible first | assumption | exact Keeps.refl _ | intro _ | apply keeps_stopCell | apply Keeps.ite
                            | apply Keeps.foldl | apply Keeps.foldl_fst | apply Keeps.foldl_snd | apply Keeps.foldl_third)
    | fail_if_no_progress with_reducible refine Keeps.of ?_ rfl idp idp idp idp | dsimp only | split

theorem keeps_startDiscard {z0 : State} (c : Nat) (code : Nat) (remote : Bool) (s : State) (hK : Keeps z0 s) :
    Keeps z0 (startDiscard c code remote s) := by
  unfold startDiscard
  repeat' first
    | (with_reducible first | assumption | exact Keeps.refl _ | intro _ | apply keeps_stopCells | apply keeps_updRun
                            | apply keeps_tellJob | apply keeps_quitUpdate | apply keeps_updCtx | apply Keeps.ite)
    | fail_if_no_progress with_reducible refine Keeps.of ?_ rfl idp idp idp idp | dsimp only | split

theorem keeps_recordFor {z0 : State} (f : FaultRec) (remote : Bool) (c : Nat) (s : State) (hK : Keeps z0 s) :
    Keeps z0 (recordFor f remote s c) := by
  unfold recordFor
  repeat' first
    | (with_reducible first | assumption | exact Keeps.refl _ | intro _ | apply keeps_poke | apply keeps_updRun
                            | apply keeps_updKept | apply keeps_tallyAdd | apply keeps_startDiscard | apply Keeps.ite)
    | fail_if_no_progress with_reducible refine Keeps.of ?_ rfl idp idp idp idp | dsimp only | split

theorem keeps_raiseFault {z0 : State} (f : FaultRec) (ctxs : List Nat) (s : State) (hK : Keeps z0 s) :
    Keeps z0 (raiseFault f ctxs s) := by
  unfold raiseFault
  repeat' first
    | (with_reducible first | assumption | exact Keeps.refl _ | intro _ | apply keeps_record0 | apply keeps_recordFor
                            | apply Keeps.ite | apply Keeps.foldl | apply Keeps.foldl_fst | apply Keeps.foldl_snd
                            | apply Keeps.foldl_third)
    | fail_if_no_progress with_reducible refine Keeps.of ?_ rfl idp idp idp idp | dsimp only | split

theorem keeps_raiseRemote {z0 : State} (f : FaultRec) (ctxs : List Nat) (s : State) (hK : Keeps z0 s) :
    Keeps z0 (raiseRemote f ctxs s) := by
  unfold raiseRemote
  repeat' first
    | (with_reducible first | assumption | exact Keeps.refl _ | intro _ | apply keeps_record0 | apply keeps_recordFor
                            | apply Keeps.ite | apply Keeps.foldl | apply Keeps.foldl_fst | apply Keeps.foldl_snd
                            | apply Keeps.foldl_third)
    | fail_if_no_progress with_reducible refine Keeps.of ?_ rfl idp idp idp idp | dsimp only | split

theorem keeps_failBlock {z0 : State} (g : Nat) (s : State) (hK : Keeps z0 s) : Keeps z0 (failBlock g s) := by
  unfold failBlock
  repeat' first
    | (with_reducible first | assumption | exact Keeps.refl _ | intro _ | apply keeps_tallyGauge | apply keeps_updBlk
                            | apply Keeps.ite)
    | fail_if_no_progress with_reducible refine Keeps.of ?_ rfl idp idp idp idp | dsimp only | split

theorem keeps_raiseBlockFault {z0 : State} (f : FaultRec) (g : Nat) (s : State) (hK : Keeps z0 s) :
    Keeps z0 (raiseBlockFault f g s) := by
  unfold raiseBlockFault
  repeat' first
    | (with_reducible first | assumption | exact Keeps.refl _ | intro _ | apply keeps_raiseFault | apply keeps_failBlock
                            | apply Keeps.ite)
    | fail_if_no_progress with_reducible refine Keeps.of ?_ rfl idp idp idp idp | dsimp only | split

theorem keeps_queueFence {z0 : State} (p : Nat) (l : Nat) (cause : Nat) (s : State) (hK : Keeps z0 s) :
    Keeps z0 (queueFence p l cause s) := by
  unfold queueFence
  repeat' first
    | (with_reducible first | assumption | exact Keeps.refl _ | intro _ | apply Keeps.ite)
    | fail_if_no_progress with_reducible refine Keeps.of ?_ rfl idp idp idp idp | dsimp only | split

theorem keeps_fencing {z0 : State} (raise : FaultRec → List Nat → State → State) (f : FaultRec) (own : List Nat) (g : Nat)
    (l : Nat) (p : Nat) (s : State) (h_raise : ∀ (y : State) (a0 : FaultRec) (a1 : List Nat)
    (a2 : State), Keeps y a2 → Keeps y (raise a0 a1 a2)) (hK : Keeps z0 s) :
    Keeps z0 (fencing raise f own g l p s) := by
  unfold fencing
  repeat' first
    | (with_reducible first | assumption | exact Keeps.refl _ | intro _ | apply keeps_queueFence | apply keeps_updBlk
                            | apply keeps_tallyGauge | apply keeps_tallyAdd | apply keeps_failBlock | apply h_raise
                            | apply Keeps.ite)
    | fail_if_no_progress with_reducible refine Keeps.of ?_ rfl idp idp idp idp | dsimp only | split

theorem keeps_raiseFencing {z0 : State} (f : FaultRec) (l : Nat) (p : Nat) (s : State) (hK : Keeps z0 s) :
    Keeps z0 (raiseFencing f l p s) := by
  unfold raiseFencing
  repeat' first
    | (with_reducible first | assumption | exact Keeps.refl _ | intro _ | apply keeps_fencing | apply keeps_raiseFault
                            | apply Keeps.ite)
    | fail_if_no_progress with_reducible refine Keeps.of ?_ rfl idp idp idp idp | dsimp only | split

theorem keeps_applyFence {z0 : State} (p : Nat) (s : State) (hK : Keeps z0 s) : Keeps z0 (applyFence p s) := by
  unfold applyFence
  repeat' first
    | (with_reducible first | assumption | exact Keeps.refl _ | intro _ | apply keeps_updCell | apply keeps_updBlk
                            | apply Keeps.ite)
    | fail_if_no_progress with_reducible refine Keeps.of ?_ rfl idp idp idp idp | dsimp only | split

theorem keeps_commitFence {z0 : State} (g : Nat) (s : State) (hK : Keeps z0 s) : Keeps z0 (commitFence g s) := by
  unfold commitFence
  repeat' first
    | (with_reducible first | assumption | exact Keeps.refl _ | intro _ | apply keeps_updBlk | apply keeps_tallyGauge
                            | apply keeps_failBlock | apply Keeps.ite)
    | fail_if_no_progress with_reducible refine Keeps.of ?_ rfl idp idp idp idp | dsimp only | split

theorem keeps_raiseCellFault {z0 : State} (f : FaultRec) (l : Nat) (s : State) (hK : Keeps z0 s) :
    Keeps z0 (raiseCellFault f l s) := by
  unfold raiseCellFault
  repeat' first
    | (with_reducible first | assumption | exact Keeps.refl _ | intro _ | apply keeps_stopCell | apply keeps_updCell
                            | apply keeps_raiseFencing | apply keeps_raiseFault | apply Keeps.ite)
    | fail_if_no_progress with_reducible refine Keeps.of ?_ rfl idp idp idp idp | dsimp only | split

theorem keeps_raiseStackFault {z0 : State} (stack : Nat) (s : State) (hK : Keeps z0 s) :
    Keeps z0 (raiseStackFault stack s) := by
  unfold raiseStackFault
  repeat' first
    | (with_reducible first | assumption | exact Keeps.refl _ | intro _ | apply keeps_updDie | apply keeps_raiseFault
                            | apply Keeps.ite)
    | fail_if_no_progress with_reducible refine Keeps.of ?_ rfl idp idp idp idp | dsimp only | split

theorem keeps_raiseHbmUe {z0 : State} (stack : Nat) (la : Nat) (pa : Nat) (ctxs : List Nat) (s : State) (hK : Keeps z0 s) :
    Keeps z0 (raiseHbmUe stack la pa ctxs s) := by
  unfold raiseHbmUe
  repeat' first
    | (with_reducible first | assumption | exact Keeps.refl _ | intro _ | apply keeps_raiseFault | apply keeps_raiseStackFault
                            | apply Keeps.ite)
    | fail_if_no_progress with_reducible refine Keeps.of ?_ rfl idp idp idp idp | dsimp only | split

theorem keeps_raiseRegionFault {z0 : State} (f : FaultRec) (r : Nat) (s : State) (hK : Keeps z0 s) :
    Keeps z0 (raiseRegionFault f r s) := by
  unfold raiseRegionFault
  repeat' first
    | (with_reducible first | assumption | exact Keeps.refl _ | intro _ | apply keeps_raiseFault | apply Keeps.ite)
    | fail_if_no_progress with_reducible refine Keeps.of ?_ rfl idp idp idp idp | dsimp only | split

theorem keeps_raiseDeviceFault {z0 : State} (f : FaultRec) (s : State) (hK : Keeps z0 s) : Keeps z0 (raiseDeviceFault f s) := by
  unfold raiseDeviceFault
  repeat' first
    | (with_reducible first | assumption | exact Keeps.refl _ | intro _ | apply keeps_raiseFault | apply Keeps.ite)
    | fail_if_no_progress with_reducible refine Keeps.of ?_ rfl idp idp idp idp | dsimp only | split

theorem keeps_raiseRegAccess {z0 : State} (core : Nat) (addr : Nat) (size : Nat) (write : Bool) (s : State)
    (hK : Keeps z0 s) :
    Keeps z0 (raiseRegAccess core addr size write s) := by
  unfold raiseRegAccess
  repeat' first
    | (with_reducible first | assumption | exact Keeps.refl _ | intro _ | apply keeps_raiseFault | apply Keeps.ite)
    | fail_if_no_progress with_reducible refine Keeps.of ?_ rfl idp idp idp idp | dsimp only | split

theorem keeps_raiseBeatAlign {z0 : State} (s : State) (hK : Keeps z0 s) : Keeps z0 (raiseBeatAlign s) := by
  unfold raiseBeatAlign
  repeat' first
    | (with_reducible first | assumption | exact Keeps.refl _ | intro _ | apply keeps_raiseFault | apply Keeps.ite)
    | fail_if_no_progress with_reducible refine Keeps.of ?_ rfl idp idp idp idp | dsimp only | split

theorem keeps_faultHere {z0 : State} (code : Nat) (l : Nat) (w : InsnWord) (s : State) (hK : Keeps z0 s) :
    Keeps z0 (faultHere code l w s) := by
  unfold faultHere
  repeat' first
    | (with_reducible first | assumption | exact Keeps.refl _ | intro _ | apply keeps_raiseCellFault | apply Keeps.ite)
    | fail_if_no_progress with_reducible refine Keeps.of ?_ rfl idp idp idp idp | dsimp only | split

/-- A fetch answers a state that keeps. -/
def Fetch.Kept (z : State) (f : Fetch) : Prop :=
  match f with
  | .stall => True
  | .fault t => Keeps z t
  | .go t _ _ _ => Keeps z t

theorem kept_fetchFor {z : State} (mine legal : InsnWord → Bool) (c : LCell) (m : Meet) (s : State) (h : Keeps z s) :
    (fetchFor mine legal c m s).Kept z := by
  have h1 : Keeps z (if m.imem = .corrected then tallyAdd (updCell s (physOf s c.toNat) (fun x =>
      { x with cnt := { x.cnt with imemCe := satAdd 64 x.cnt.imemCe 1 } })) 0x01 0x02 (physOf s c.toNat) 1 else s) :=
    .ite (keeps_tallyAdd _ _ _ _ _ (keeps_updCell _ _ _ h)) h
  unfold fetchFor
  dsimp only
  split
  · trivial
  · split
    · exact keeps_raiseCellFault _ _ _ (keeps_tallyAdd _ _ _ _ _ h)
    · split
      · exact keeps_faultHere _ _ _ _ h1
      · split
        · trivial
        · exact h1

theorem keeps_issueWith {z : State} (mine legal : InsnWord → Bool) (c : LCell) (m : Meet) (s : State)
    (go : State → Nat → Cell → InsnWord → State)
    (h_go : ∀ (y a : State) (p : Nat) (x : Cell) (w : InsnWord), Keeps y a → Keeps y (go a p x w)) (h : Keeps z s) :
    Keeps z (issueWith (fetchFor mine legal c m s) s go) := by
  have hf := kept_fetchFor mine legal c m s h
  unfold issueWith
  split
  · exact h
  · next e => rw [e] at hf; exact hf
  · next e => rw [e] at hf; exact h_go _ _ _ _ _ hf

theorem keeps_storeMeets {z0 : State} (p : Nat) (e : Ecc) (s : State) (hK : Keeps z0 s) : Keeps z0 (storeMeets p e s) := by
  unfold storeMeets
  repeat' first
    | (with_reducible first | assumption | exact Keeps.refl _ | intro _ | apply keeps_tallyAdd | apply keeps_updCell
                            | apply Keeps.ite)
    | fail_if_no_progress with_reducible refine Keeps.of ?_ rfl idp idp idp idp | dsimp only | split

theorem keeps_updBell {z0 : State} (b : Nat) (f : Bell → Bell) (s : State) (hK : Keeps z0 s) : Keeps z0 (updBell s b f) := by
  unfold updBell
  repeat' first
    | (with_reducible first | assumption | exact Keeps.refl _ | intro _ | apply Keeps.ite)
    | fail_if_no_progress with_reducible refine Keeps.of ?_ rfl idp idp idp idp | dsimp only | split

theorem keeps_raiseBellEcc {z0 : State} (b : Nat) (s : State) (hK : Keeps z0 s) : Keeps z0 (raiseBellEcc b s) := by
  unfold raiseBellEcc
  repeat' first
    | (with_reducible first | assumption | exact Keeps.refl _ | intro _ | apply keeps_raiseFault | apply Keeps.ite)
    | fail_if_no_progress with_reducible refine Keeps.of ?_ rfl idp idp idp idp | dsimp only | split

theorem keeps_bellMeets {z0 : State} (b : Nat) (e : Ecc) (s : State) (hK : Keeps z0 s) : Keeps z0 (bellMeets b e s).2 := by
  unfold bellMeets
  repeat' first
    | (with_reducible first | assumption | exact Keeps.refl _ | intro _ | apply keeps_raiseBellEcc | apply keeps_tallyAdd
                            | apply keeps_updBell | apply Keeps.ite)
    | fail_if_no_progress with_reducible refine Keeps.of ?_ rfl idp idp idp idp | dsimp only | split

theorem keeps_release {z0 : State} (l : Nat) (s : State) (hK : Keeps z0 s) : Keeps z0 (release l s) := by
  unfold release
  repeat' first
    | (with_reducible first | assumption | exact Keeps.refl _ | intro _ | apply Keeps.ite)
    | fail_if_no_progress with_reducible refine Keeps.of ?_ rfl idp idp idp idp | dsimp only | split

theorem keeps_bellPost {z0 : State} (b : Nat) (n : BitVec 32) (s : State) (hK : Keeps z0 s) : Keeps z0 (bellPost b n s) := by
  unfold bellPost
  repeat' first
    | (with_reducible first | assumption | exact Keeps.refl _ | intro _ | apply keeps_updBell | apply keeps_release
                            | apply Keeps.ite | apply Keeps.foldl | apply Keeps.foldl_fst | apply Keeps.foldl_snd
                            | apply Keeps.foldl_third)
    | fail_if_no_progress with_reducible refine Keeps.of ?_ rfl idp idp idp idp | dsimp only | split

theorem keeps_sendBellOp {z0 : State} (o : BellOp) (s : State) (hK : Keeps z0 s) : Keeps z0 (sendBellOp o s) := by
  unfold sendBellOp
  repeat' first
    | (with_reducible first | assumption | exact Keeps.refl _ | intro _ | apply Keeps.ite)
    | fail_if_no_progress with_reducible refine Keeps.of ?_ rfl idp idp idp idp | dsimp only | split

theorem keeps_postAfter {z0 : State} (bell : Option Nat) (l : Nat) (ctx : Nat) (op : UnitOp) (s : State) (hK : Keeps z0 s) :
    Keeps z0 (postAfter bell l ctx op s) := by
  unfold postAfter
  repeat' first
    | (with_reducible first | assumption | exact Keeps.refl _ | intro _ | apply keeps_sendBellOp | apply Keeps.ite)
    | fail_if_no_progress with_reducible refine Keeps.of ?_ rfl idp idp idp idp | dsimp only | split

end Sys2Proof.Machine
end

