-- ==== Sys2Proof/Laws/KeepsCells.lean ====
section
/-! SUPPORT. What the operations of cells keep, one lemma for each. -/

set_option linter.unreachableTactic false
set_option linter.unusedTactic false

namespace Sys2Proof.Machine

theorem sWf_putMasked {m : Sparse Byte} (a : Nat) (mask val : Byte) (h : sWf 0#8 m = true) :
    sWf 0#8 (putMasked m a mask val) = true :=
  sWf_upd _ _ h

theorem keeps_ByteWrite_apply {z0 : State} (w : ByteWrite) (s : State) (hK : Keeps z0 s) : Keeps z0 (ByteWrite.apply w s) := by
  unfold ByteWrite.apply
  repeat' first
    | (with_reducible first | assumption | exact Keeps.refl _ | exact idp | refine memOf ?_ ?_ ?_ ?_ ?_ ?_ ?_ ?_ ?_
                            | refine sWf_refill _ (fun _ => rfl) ?_ | apply sWf_set | apply sWf_upd | intro _
                            | apply sWf_putMasked | apply keeps_updCell | apply keeps_updBlk | apply Keeps.ite)
    | fail_if_no_progress with_reducible refine Keeps.of ?_ rfl idp idp idp idp | dsimp only | split
    | fail_if_no_progress (with_reducible refine Keeps.of ?_ rfl idp ?_ idp idp <;> try with_reducible exact idp)

theorem keeps_hitStore {z0 : State} (l : Nat) (op : UnitOp) (reads : Nat → Bool) (h : Hit) (s : State) (hK : Keeps z0 s) :
    Keeps z0 (hitStore l op reads h s).1 := by
  unfold hitStore
  repeat' first
    | (with_reducible first | assumption | exact Keeps.refl _ | intro _ | apply keeps_storeMeets | apply Keeps.ite)
    | fail_if_no_progress with_reducible refine Keeps.of ?_ rfl idp idp idp idp | dsimp only | split

theorem keeps_cacheLookup {z0 : State} (c : Nat) (stack : Nat) (la : Nat) (write : Bool) (alloc : Bool) (s : State)
    (hK : Keeps z0 s) :
    Keeps z0 (cacheLookup c stack la write alloc s).2 := by
  unfold cacheLookup
  repeat' first
    | (with_reducible first | assumption | exact Keeps.refl _ | exact idp | refine memOf ?_ ?_ ?_ ?_ ?_ ?_ ?_ ?_ ?_
                            | refine sWf_refill _ (fun _ => rfl) ?_ | apply sWf_set | apply sWf_upd | apply sWf_filter
                            | intro _ | apply keeps_updDie | apply Keeps.ite)
    | fail_if_no_progress with_reducible refine Keeps.of ?_ rfl idp idp idp idp | dsimp only | split
    | fail_if_no_progress (with_reducible refine Keeps.of ?_ rfl idp ?_ idp idp <;> try with_reducible exact idp)

theorem keeps_cacheDrop {z0 : State} (c : Nat) (stack : Nat) (la : Nat) (s : State) (hK : Keeps z0 s) :
    Keeps z0 (cacheDrop c stack la s) := by
  unfold cacheDrop
  repeat' first
    | (with_reducible first | assumption | exact Keeps.refl _ | exact idp | refine memOf ?_ ?_ ?_ ?_ ?_ ?_ ?_ ?_ ?_
                            | refine sWf_refill _ (fun _ => rfl) ?_ | apply sWf_set | apply sWf_upd | apply sWf_filter
                            | intro _ | apply Keeps.ite)
    | fail_if_no_progress with_reducible refine Keeps.of ?_ rfl idp idp idp idp | dsimp only | split
    | fail_if_no_progress (with_reducible refine Keeps.of ?_ rfl idp ?_ idp idp <;> try with_reducible exact idp)

theorem keeps_addTraffic {z0 : State} (c : Nat) (die : Nat) (n : Nat) (s : State) (hK : Keeps z0 s) :
    Keeps z0 (addTraffic c die n s) := by
  unfold addTraffic
  repeat' first
    | (with_reducible first | assumption | exact Keeps.refl _ | intro _ | apply keeps_updCtx | apply Keeps.ite)
    | fail_if_no_progress with_reducible refine Keeps.of ?_ rfl idp idp idp idp | dsimp only | split

theorem keeps_raiseSqEcc {z0 : State} (ctxs : List Nat) (die : Nat) (s : State) (hK : Keeps z0 s) :
    Keeps z0 (raiseSqEcc ctxs die s) := by
  unfold raiseSqEcc
  repeat' first
    | (with_reducible first | assumption | exact Keeps.refl _ | intro _ | apply keeps_raiseFault | apply keeps_tallyAdd
                            | apply Keeps.ite)
    | fail_if_no_progress with_reducible refine Keeps.of ?_ rfl idp idp idp idp | dsimp only | split

theorem keeps_sramCorrected {z0 : State} (die : Nat) (s : State) (hK : Keeps z0 s) : Keeps z0 (sramCorrected die s) := by
  unfold sramCorrected
  repeat' first
    | (with_reducible first | assumption | exact Keeps.refl _ | intro _ | apply keeps_tallyAdd | apply keeps_updDie
                            | apply Keeps.ite)
    | fail_if_no_progress with_reducible refine Keeps.of ?_ rfl idp idp idp idp | dsimp only | split

theorem keeps_lineAccess {z0 : State} (c : Nat) (pa : Nat) (write : Bool) (whole : Bool) (alloc : Bool) (e : Ecc)
    (s : State) (hK : Keeps z0 s) :
    Keeps z0 (lineAccess c pa write whole alloc e s).2 := by
  unfold lineAccess
  repeat' first
    | (with_reducible first | assumption | exact Keeps.refl _ | intro _ | apply keeps_addTraffic | apply keeps_cacheLookup
                            | apply keeps_sramCorrected | apply keeps_raiseSqEcc | apply keeps_readLine
                            | apply keeps_raiseHbmUe | apply keeps_cacheDrop | apply Keeps.ite)
    | fail_if_no_progress with_reducible refine Keeps.of ?_ rfl idp idp idp idp | dsimp only | split

theorem keeps_linesAccess {z0 : State} (c : Nat) (write : Bool) (alloc : Bool) (whole : Nat → Bool) (h : LineHit)
    (y5 : List Nat) (y6 : Nat) (y7 : State) (hK : Keeps z0 y7) :
    Keeps z0 (linesAccess c write alloc whole h y5 y6 y7).2 := by
  induction y5 generalizing y6 y7 with
  | nil => ?_
  | cons p t ih => ?_
  all_goals unfold linesAccess
  repeat' first
    | (with_reducible first | assumption | exact Keeps.refl _ | intro _ | apply ih | apply keeps_lineAccess | apply Keeps.ite)
    | fail_if_no_progress with_reducible refine Keeps.of ?_ rfl idp idp idp idp | dsimp only | split

theorem keeps_applyWrites {z0 : State} (ws : List ByteWrite) (s : State) (hK : Keeps z0 s) : Keeps z0 (applyWrites ws s) := by
  unfold applyWrites
  repeat' first
    | (with_reducible first | assumption | exact Keeps.refl _ | exact idp | refine memOf ?_ ?_ ?_ ?_ ?_ ?_ ?_ ?_ ?_
                            | refine sWf_refill _ (fun _ => rfl) ?_ | apply sWf_set | apply sWf_upd | apply sWf_erase
                            | apply sWf_foldl | apply sWf_filter | intro _ | apply keeps_ByteWrite_apply | apply Keeps.ite
                            | apply Keeps.foldl | apply Keeps.foldl_fst | apply Keeps.foldl_snd | apply Keeps.foldl_third)
    | fail_if_no_progress with_reducible refine Keeps.of ?_ rfl idp idp idp idp | dsimp only | split
    | fail_if_no_progress (with_reducible refine Keeps.of ?_ rfl idp ?_ idp idp <;> try with_reducible exact idp)

theorem keeps_control {z0 : State} (op : Nat) (c : LCell) (m : Meet) (go : State → Nat → Cell → InsnWord → State)
    (s : State) (h_go : ∀ (y : State) (a0 : State) (a1 : Nat) (a2 : Cell) (a3 : InsnWord), Keeps y a0 → Keeps y
    (go a0 a1 a2 a3)) (hK : Keeps z0 s) :
    Keeps z0 (control op c m s go) := by
  unfold control
  repeat' first
    | (with_reducible first | assumption | exact Keeps.refl _ | intro _ | apply keeps_issueWith | apply h_go | apply Keeps.ite)
    | fail_if_no_progress with_reducible refine Keeps.of ?_ rfl idp idp idp idp | dsimp only | split

theorem keeps_writeRd {z0 : State} (p : Nat) (w : InsnWord) (v : Word) (s : State) (hK : Keeps z0 s) :
    Keeps z0 (writeRd s p w v) := by
  unfold writeRd
  repeat' first
    | (with_reducible first | assumption | exact Keeps.refl _ | intro _ | apply keeps_updCell | apply Keeps.ite)
    | fail_if_no_progress with_reducible refine Keeps.of ?_ rfl idp idp idp idp | dsimp only | split

theorem keeps_scalarOp {z0 : State} (op : Nat) (f : Word → Word → Word → Word) (c : LCell) (m : Meet) (s : State)
    (hK : Keeps z0 s) :
    Keeps z0 (scalarOp op f c m s) := by
  unfold scalarOp
  repeat' first
    | (with_reducible first | assumption | exact Keeps.refl _ | intro _ | apply keeps_control | apply keeps_writeRd
                            | apply Keeps.ite)
    | fail_if_no_progress with_reducible refine Keeps.of ?_ rfl idp idp idp idp | dsimp only | split

theorem keeps_seqLoad {z0 : State} (n : Nat) (c : LCell) (m : Meet) (p : Nat) (x : Cell) (w : InsnWord)
    (go : State → List Byte → State) (s : State) (h_go : ∀ (y : State) (a0 : State) (a1 : List Byte), Keeps y a0 → Keeps y
    (go a0 a1)) (hK : Keeps z0 s) :
    Keeps z0 (seqLoad n c m s p x w go) := by
  unfold seqLoad
  repeat' first
    | (with_reducible first | assumption | exact Keeps.refl _ | intro _ | apply keeps_faultHere | apply keeps_storeMeets
                            | apply keeps_raiseCellFault | apply h_go | apply Keeps.ite)
    | fail_if_no_progress with_reducible refine Keeps.of ?_ rfl idp idp idp idp | dsimp only | split

theorem keeps_writeDd {z0 : State} (p : Nat) (w : InsnWord) (v : BitVec 128) (s : State) (hK : Keeps z0 s) :
    Keeps z0 (writeDd s p w v) := by
  unfold writeDd
  repeat' first
    | (with_reducible first | assumption | exact Keeps.refl _ | intro _ | apply keeps_updCell | apply Keeps.ite)
    | fail_if_no_progress with_reducible refine Keeps.of ?_ rfl idp idp idp idp | dsimp only | split

theorem keeps_ctxRead {z0 : State} (c : Nat) (a : Nat) (n : Nat) (h : LineHit) (s : State) (hK : Keeps z0 s) :
    Keeps z0 (ctxRead c a n h s).2 := by
  unfold ctxRead
  repeat' first
    | (with_reducible first | assumption | exact Keeps.refl _ | intro _ | apply keeps_linesAccess | apply Keeps.ite)
    | fail_if_no_progress with_reducible refine Keeps.of ?_ rfl idp idp idp idp | dsimp only | split

theorem keeps_ctxWrite {z0 : State} (c : Nat) (a : Nat) (bs : List Byte) (s : State) (hK : Keeps z0 s) :
    Keeps z0 (ctxWrite c a bs s).2 := by
  unfold ctxWrite
  repeat' first
    | (with_reducible first | assumption | exact Keeps.refl _ | intro _ | apply keeps_applyWrites | apply Keeps.ite)
    | fail_if_no_progress with_reducible refine Keeps.of ?_ rfl idp idp idp idp | dsimp only | split

theorem keeps_checkAll {z0 : State} (l : Nat) (p : Nat) (q : Pass) (u : Option Upset) (s : State) (hK : Keeps z0 s) :
    Keeps z0 (checkAll l p q u s).1 := by
  unfold checkAll
  repeat' first
    | (with_reducible first | assumption | exact Keeps.refl _ | intro _ | apply keeps_updCell | apply Keeps.ite
                            | apply Keeps.foldl | apply Keeps.foldl_fst | apply Keeps.foldl_snd | apply Keeps.foldl_third)
    | fail_if_no_progress with_reducible refine Keeps.of ?_ rfl idp idp idp idp | dsimp only | split

theorem keeps_accMeets {z0 : State} (p : Nat) (a : Nat) (e : Ecc) (s : State) (hK : Keeps z0 s) :
    Keeps z0 (accMeets p a e s) := by
  unfold accMeets
  repeat' first
    | (with_reducible first | assumption | exact Keeps.refl _ | intro _ | apply keeps_tallyAdd | apply keeps_updCell
                            | apply Keeps.ite)
    | fail_if_no_progress with_reducible refine Keeps.of ?_ rfl idp idp idp idp | dsimp only | split

theorem keeps_freeVector {z0 : State} (p : Nat) (q : Pass) (t : Nat × List (Nat × Nat) × Nat) (s : State) (hK : Keeps z0 s) :
    Keeps z0 (freeVector p q s t) := by
  unfold freeVector
  repeat' first
    | (with_reducible first | assumption | exact Keeps.refl _ | intro _ | apply keeps_takeFree | apply keeps_updCell
                            | apply Keeps.ite | apply Keeps.foldl | apply Keeps.foldl_fst | apply Keeps.foldl_snd
                            | apply Keeps.foldl_third)
    | fail_if_no_progress with_reducible refine Keeps.of ?_ rfl idp idp idp idp | dsimp only | split

theorem keeps_vecIssue {z0 : State} (op : Nat) (c : LCell) (m : Meet) (s : State) (hK : Keeps z0 s) :
    Keeps z0 (vecIssue op c m s) := by
  unfold vecIssue
  repeat' first
    | (with_reducible first | assumption | exact Keeps.refl _ | intro _ | apply keeps_issueWith | apply keeps_updCell
                            | apply Keeps.ite)
    | fail_if_no_progress with_reducible refine Keeps.of ?_ rfl idp idp idp idp | dsimp only | split

theorem keeps_vecWrite {z0 : State} (p : Nat) (d : VDst) (r : VResult) (s : State) (hK : Keeps z0 s) :
    Keeps z0 (vecWrite p d r s) := by
  unfold vecWrite
  repeat' first
    | (with_reducible first | assumption | exact Keeps.refl _ | intro _ | apply keeps_ByteWrite_apply | apply keeps_updCell
                            | apply Keeps.ite | apply Keeps.foldl | apply Keeps.foldl_fst | apply Keeps.foldl_snd
                            | apply Keeps.foldl_third)
    | fail_if_no_progress with_reducible refine Keeps.of ?_ rfl idp idp idp idp | dsimp only | split

theorem keeps_popVector {z0 : State} (p : Nat) (s : State) (hK : Keeps z0 s) : Keeps z0 (popVector p s) := by
  unfold popVector
  repeat' first
    | (with_reducible first | assumption | exact Keeps.refl _ | intro _ | apply keeps_updCell | apply Keeps.ite)
    | fail_if_no_progress with_reducible refine Keeps.of ?_ rfl idp idp idp idp | dsimp only | split

theorem keeps_vecDone {z0 : State} (p : Nat) (elems : Nat) (s : State) (hK : Keeps z0 s) : Keeps z0 (vecDone p elems s) := by
  unfold vecDone
  repeat' first
    | (with_reducible first | assumption | exact Keeps.refl _ | intro _ | apply keeps_updCell | apply Keeps.ite)
    | fail_if_no_progress with_reducible refine Keeps.of ?_ rfl idp idp idp idp | dsimp only | split

theorem keeps_vecMeets {z0 : State} (l : Nat) (p : Nat) (o : UnitOp) (vs : List VSrc) (h : Hit) (s : State)
    (hK : Keeps z0 s) :
    Keeps z0 (vecMeets l p o vs h s).1 := by
  unfold vecMeets
  repeat' first
    | (with_reducible first | assumption | exact Keeps.refl _ | intro _ | apply keeps_hitStore | apply keeps_tallyAdd
                            | apply keeps_updCell | apply keeps_accMeets | apply Keeps.ite)
    | fail_if_no_progress with_reducible refine Keeps.of ?_ rfl idp idp idp idp | dsimp only | split

theorem keeps_popEntry {z0 : State} (p : Nat) (s : State) (hK : Keeps z0 s) : Keeps z0 (popEntry p s) := by
  unfold popEntry
  repeat' first
    | (with_reducible first | assumption | exact Keeps.refl _ | intro _ | apply keeps_updCell | apply Keeps.ite)
    | fail_if_no_progress with_reducible refine Keeps.of ?_ rfl idp idp idp idp | dsimp only | split

theorem keeps_vecRun {z0 : State} (l : Nat) (p : Nat) (o : UnitOp) (h : Hit) (s : State) (hK : Keeps z0 s) :
    Keeps z0 (vecRun l p o h s) := by
  unfold vecRun
  repeat' first
    | (with_reducible first | assumption | exact Keeps.refl _ | intro _ | apply keeps_raiseCellFault | apply keeps_vecMeets
                            | apply keeps_vecWrite | apply keeps_vecDone | apply keeps_updCell | apply keeps_popEntry
                            | apply Keeps.ite)
    | fail_if_no_progress with_reducible refine Keeps.of ?_ rfl idp idp idp idp | dsimp only | split

theorem keeps_sendColl {z0 : State} (cls : Nat) (dst : Nat) (ctx : Nat) (h : CollHead) (data : List Byte) (s : State)
    (hK : Keeps z0 s) :
    Keeps z0 (sendColl cls dst ctx h data s) := by
  unfold sendColl
  repeat' first
    | (with_reducible first | assumption | exact Keeps.refl _ | intro _ | apply Keeps.ite)
    | fail_if_no_progress with_reducible refine Keeps.of ?_ rfl idp idp idp idp | dsimp only | split

theorem keeps_sendCtl {z0 : State} (dst : Nat) (ctx : Nat) (sub : Nat) (bs : List Byte) (s : State) (hK : Keeps z0 s) :
    Keeps z0 (sendCtl dst ctx sub bs s) := by
  unfold sendCtl
  repeat' first
    | (with_reducible first | assumption | exact Keeps.refl _ | intro _ | apply Keeps.ite)
    | fail_if_no_progress with_reducible refine Keeps.of ?_ rfl idp idp idp idp | dsimp only | split

theorem keeps_updGateOp {z0 : State} (id : Nat) (f : GateOp → GateOp) (s : State) (hK : Keeps z0 s) :
    Keeps z0 (updGateOp id f s) := by
  unfold updGateOp
  repeat' first
    | (with_reducible first | assumption | exact Keeps.refl _ | intro _ | apply Keeps.ite)
    | fail_if_no_progress with_reducible refine Keeps.of ?_ rfl idp idp idp idp | dsimp only | split

theorem keeps_gateCount {z0 : State} (r : Nat) (f : GateCount → GateCount) (s : State) (hK : Keeps z0 s) :
    Keeps z0 (gateCount r f s) := by
  unfold gateCount
  repeat' first
    | (with_reducible first | assumption | exact Keeps.refl _ | intro _ | apply Keeps.ite)
    | fail_if_no_progress with_reducible refine Keeps.of ?_ rfl idp idp idp idp | dsimp only | split

theorem keeps_startDeadline {z0 : State} (id : Nat) (s : State) (hK : Keeps z0 s) : Keeps z0 (startDeadline id s) := by
  unfold startDeadline
  repeat' first
    | (with_reducible first | assumption | exact Keeps.refl _ | intro _ | apply keeps_updGateOp | apply Keeps.ite)
    | fail_if_no_progress with_reducible refine Keeps.of ?_ rfl idp idp idp idp | dsimp only | split

theorem keeps_opCellFault {z0 : State} (code : Nat) (o : GateOp) (s : State) (hK : Keeps z0 s) :
    Keeps z0 (opCellFault code o s) := by
  unfold opCellFault
  repeat' first
    | (with_reducible first | assumption | exact Keeps.refl _ | intro _ | apply keeps_raiseCellFault | apply Keeps.ite)
    | fail_if_no_progress with_reducible refine Keeps.of ?_ rfl idp idp idp idp | dsimp only | split

theorem keeps_writeRecord {z0 : State} (a : Nat) (tensor : Nat) (shard : Nat) (st : Nat) (flags : Nat) (gathers : Nat)
    (tag : List Byte) (pool : Nat) (s : State) (hK : Keeps z0 s) :
    Keeps z0 (writeRecord a tensor shard st flags gathers tag pool s) := by
  unfold writeRecord
  repeat' first
    | (with_reducible first | assumption | exact Keeps.refl _ | intro _ | apply keeps_poke | apply Keeps.ite)
    | fail_if_no_progress with_reducible refine Keeps.of ?_ rfl idp idp idp idp | dsimp only | split

theorem keeps_resetResidency {z0 : State} (c : Nat) (s : State) (hK : Keeps z0 s) : Keeps z0 (resetResidency c s) := by
  unfold resetResidency
  repeat' first
    | (with_reducible first | assumption | exact Keeps.refl _ | intro _ | apply keeps_updCtx | apply keeps_poke
                            | apply Keeps.ite)
    | fail_if_no_progress with_reducible refine Keeps.of ?_ rfl idp idp idp idp | dsimp only | split

theorem keeps_dropKept {z0 : State} (c : Nat) (s : State) (hK : Keeps z0 s) : Keeps z0 (dropKept c s) := by
  unfold dropKept
  repeat' first
    | (with_reducible first | assumption | exact Keeps.refl _ | intro _ | apply keeps_updCtx | apply keeps_poke
                            | apply Keeps.ite | apply Keeps.foldl | apply Keeps.foldl_fst | apply Keeps.foldl_snd
                            | apply Keeps.foldl_third)
    | fail_if_no_progress with_reducible refine Keeps.of ?_ rfl idp idp idp idp | dsimp only | split

theorem keeps_clearLanes {z0 : State} (c : Nat) (s : State) (hK : Keeps z0 s) : Keeps z0 (clearLanes c s) := by
  unfold clearLanes
  repeat' first
    | (with_reducible first | assumption | exact Keeps.refl _ | intro _ | apply keeps_poke | apply Keeps.ite
                            | apply Keeps.foldl | apply Keeps.foldl_fst | apply Keeps.foldl_snd | apply Keeps.foldl_third)
    | fail_if_no_progress with_reducible refine Keeps.of ?_ rfl idp idp idp idp | dsimp only | split

theorem keeps_writeRows {z0 : State} (sp : Space) (t : TileDesc) (r0 : Nat) (rows : Nat) (z : Nat) (bs : List Byte)
    (s : State) (hK : Keeps z0 s) :
    Keeps z0 (writeRows sp t r0 rows z bs s) := by
  unfold writeRows
  repeat' first
    | (with_reducible first | assumption | exact Keeps.refl _ | intro _ | apply keeps_applyWrites | apply Keeps.ite)
    | fail_if_no_progress with_reducible refine Keeps.of ?_ rfl idp idp idp idp | dsimp only | split

theorem keeps_placeShard {z0 : State} (o : GateOp) (shard : Nat) (owner : Nat) (step : Nat) (data : List Byte) (s : State)
    (hK : Keeps z0 s) :
    Keeps z0 (placeShard o shard owner step data s) := by
  unfold placeShard
  repeat' first
    | (with_reducible first | assumption | exact Keeps.refl _ | intro _ | apply keeps_updCtx | apply keeps_ctxWrite
                            | apply keeps_writeRecord | apply keeps_poke | apply keeps_raiseFault | apply keeps_writeRows
                            | apply keeps_updGateOp | apply Keeps.ite)
    | fail_if_no_progress with_reducible refine Keeps.of ?_ rfl idp idp idp idp | dsimp only | split

theorem keeps_fetchShard {z0 : State} (o : GateOp) (t : Tensor) (shard : Nat) (h : LineHit) (s : State) (hK : Keeps z0 s) :
    Keeps z0 (fetchShard o t shard h s) := by
  unfold fetchShard
  repeat' first
    | (with_reducible first | assumption | exact Keeps.refl _ | intro _ | apply keeps_ctxRead | apply keeps_placeShard
                            | apply keeps_raiseFault | apply keeps_updGateOp | apply keeps_startDeadline
                            | apply keeps_sendColl | apply Keeps.ite)
    | fail_if_no_progress with_reducible refine Keeps.of ?_ rfl idp idp idp idp | dsimp only | split

theorem keeps_gatherShard {z0 : State} (id : Nat) (shard : Nat) (h : LineHit) (s : State) (hK : Keeps z0 s) :
    Keeps z0 (gatherShard id shard h s) := by
  unfold gatherShard
  repeat' first
    | (with_reducible first | assumption | exact Keeps.refl _ | intro _ | apply keeps_fetchShard | apply keeps_writeRecord
                            | apply keeps_poke | apply keeps_ctxRead | apply keeps_writeRows | apply keeps_updGateOp
                            | apply Keeps.ite)
    | fail_if_no_progress with_reducible refine Keeps.of ?_ rfl idp idp idp idp | dsimp only | split

theorem keeps_pullMember {z0 : State} (o : GateOp) (item : Nat) (m : Nat) (s : State) (hK : Keeps z0 s) :
    Keeps z0 (pullMember o item m s) := by
  unfold pullMember
  repeat' first
    | (with_reducible first | assumption | exact Keeps.refl _ | intro _ | apply keeps_sendColl | apply Keeps.ite
                            | apply Keeps.foldl | apply Keeps.foldl_fst | apply Keeps.foldl_snd | apply Keeps.foldl_third)
    | fail_if_no_progress with_reducible refine Keeps.of ?_ rfl idp idp idp idp | dsimp only | split

theorem keeps_beginItem {z0 : State} (id : Nat) (item : Nat) (s : State) (hK : Keeps z0 s) :
    Keeps z0 (beginItem id item s) := by
  unfold beginItem
  repeat' first
    | (with_reducible first | assumption | exact Keeps.refl _ | intro _ | apply keeps_updGateOp | apply keeps_pullMember
                            | apply keeps_startDeadline | apply Keeps.ite | apply Keeps.foldl | apply Keeps.foldl_fst
                            | apply Keeps.foldl_snd | apply Keeps.foldl_third)
    | fail_if_no_progress with_reducible refine Keeps.of ?_ rfl idp idp idp idp | dsimp only | split

theorem keeps_squareAdd {z0 : State} (ty : Nat) (z : Nat) (c : Nat) (a : Nat) (v : Nat) (s : State) (hK : Keeps z0 s) :
    Keeps z0 (squareAdd ty z c a v s).1 := by
  unfold squareAdd
  repeat' first
    | (with_reducible first | assumption | exact Keeps.refl _ | exact idp | refine memOf ?_ ?_ ?_ ?_ ?_ ?_ ?_ ?_ ?_
                            | refine sWf_refill _ (fun _ => rfl) ?_ | apply sWf_set | apply sWf_upd | apply sWf_setAll
                            | intro _ | apply keeps_updDie | apply Keeps.ite)
    | fail_if_no_progress with_reducible refine Keeps.of ?_ rfl idp idp idp idp | dsimp only | split
    | fail_if_no_progress (with_reducible refine Keeps.of ?_ rfl idp ?_ idp idp <;> try with_reducible exact idp)

theorem keeps_writeReduced {z0 : State} (o : GateOp) (item : Nat) (rs : List (Nat × Flags)) (s : State) (hK : Keeps z0 s) :
    Keeps z0 (writeReduced o item rs s).1 := by
  unfold writeReduced
  repeat' first
    | (with_reducible first | assumption | exact Keeps.refl _ | intro _ | apply keeps_ctxWrite | apply keeps_squareAdd
                            | apply keeps_writeRows | apply Keeps.ite | apply Keeps.foldl | apply Keeps.foldl_fst
                            | apply Keeps.foldl_snd | apply Keeps.foldl_third)
    | fail_if_no_progress with_reducible refine Keeps.of ?_ rfl idp idp idp idp | dsimp only | split

theorem keeps_ackMembers {z0 : State} (o : GateOp) (item : Nat) (s : State) (hK : Keeps z0 s) :
    Keeps z0 (ackMembers o item s) := by
  unfold ackMembers
  repeat' first
    | (with_reducible first | assumption | exact Keeps.refl _ | intro _ | apply keeps_sendColl | apply Keeps.ite
                            | apply Keeps.foldl | apply Keeps.foldl_fst | apply Keeps.foldl_snd | apply Keeps.foldl_third)
    | fail_if_no_progress with_reducible refine Keeps.of ?_ rfl idp idp idp idp | dsimp only | split

theorem keeps_finishItem_writeRows' {z0 : State} (o : GateOp) (m : Nat) (i : GateItem) (n : Nat) (s : State)
    (hK : Keeps z0 s) :
    Keeps z0 (finishItem.writeRows' o m i n s) := by
  unfold finishItem.writeRows'
  repeat' first
    | (with_reducible first | assumption | exact Keeps.refl _ | intro _ | apply keeps_applyWrites | apply Keeps.ite)
    | fail_if_no_progress with_reducible refine Keeps.of ?_ rfl idp idp idp idp | dsimp only | split

theorem keeps_finishItem {z0 : State} (id : Nat) (item : Nat) (s : State) (hK : Keeps z0 s) :
    Keeps z0 (finishItem id item s) := by
  unfold finishItem
  repeat' first
    | (with_reducible first | assumption | exact Keeps.refl _ | intro _ | apply keeps_gateCount
                            | apply keeps_finishItem_writeRows' | apply keeps_writeReduced | apply keeps_updCell
                            | apply keeps_updGateOp | apply keeps_ackMembers | apply Keeps.ite)
    | fail_if_no_progress with_reducible refine Keeps.of ?_ rfl idp idp idp idp | dsimp only | split

theorem keeps_servePull {z0 : State} (o : GateOp) (h : CollHead) (s : State) (hK : Keeps z0 s) :
    Keeps z0 (servePull o h s) := by
  unfold servePull
  repeat' first
    | (with_reducible first | assumption | exact Keeps.refl _ | intro _ | apply keeps_sendColl | apply Keeps.ite)
    | fail_if_no_progress with_reducible refine Keeps.of ?_ rfl idp idp idp idp | dsimp only | split

theorem keeps_raiseShardCrc {z0 : State} (o : GateOp) (s : State) (hK : Keeps z0 s) : Keeps z0 (raiseShardCrc o s) := by
  unfold raiseShardCrc
  repeat' first
    | (with_reducible first | assumption | exact Keeps.refl _ | intro _ | apply keeps_raiseFault | apply keeps_tallyAdd
                            | apply keeps_gateCount | apply Keeps.ite)
    | fail_if_no_progress with_reducible refine Keeps.of ?_ rfl idp idp idp idp | dsimp only | split

theorem keeps_retryItem {z0 : State} (o : GateOp) (item : Nat) (m : Nat) (s : State) (hK : Keeps z0 s) :
    Keeps z0 (retryItem o item m s) := by
  unfold retryItem
  repeat' first
    | (with_reducible first | assumption | exact Keeps.refl _ | intro _ | apply keeps_tallyAdd | apply keeps_gateCount
                            | apply keeps_updGateOp | apply keeps_fetchShard | apply keeps_beginItem | apply Keeps.ite)
    | fail_if_no_progress with_reducible refine Keeps.of ?_ rfl idp idp idp idp | dsimp only | split

theorem keeps_takeChunk {z0 : State} (id : Nat) (item : Nat) (h : CollHead) (data : List Byte) (s : State) (hK : Keeps z0 s) :
    Keeps z0 (takeChunk id item h data s) := by
  unfold takeChunk
  repeat' first
    | (with_reducible first | assumption | exact Keeps.refl _ | intro _ | apply keeps_updGateOp | apply keeps_raiseShardCrc
                            | apply keeps_retryItem | apply keeps_placeShard | apply keeps_finishItem | apply Keeps.ite)
    | fail_if_no_progress with_reducible refine Keeps.of ?_ rfl idp idp idp idp | dsimp only | split

theorem keeps_raisePeerLost {z0 : State} (r : Nat) (ctx : Nat) (port : Nat) (node : Nat) (cause : Nat) (op : Nat)
    (key : Nat) (tag : Nat) (s : State) (hK : Keeps z0 s) :
    Keeps z0 (raisePeerLost r ctx port node cause op key tag s) := by
  unfold raisePeerLost
  repeat' first
    | (with_reducible first | assumption | exact Keeps.refl _ | intro _ | apply keeps_gateCount | apply keeps_raiseFault
                            | apply Keeps.ite)
    | fail_if_no_progress with_reducible refine Keeps.of ?_ rfl idp idp idp idp | dsimp only | split

theorem keeps_addGateOp {z0 : State} (o : GateOp) (s : State) (hK : Keeps z0 s) : Keeps z0 (addGateOp o s) := by
  unfold addGateOp
  repeat' first
    | (with_reducible first | assumption | exact Keeps.refl _ | intro _ | apply Keeps.ite)
    | fail_if_no_progress with_reducible refine Keeps.of ?_ rfl idp idp idp idp | dsimp only | split

theorem keeps_collBegin {z0 : State} (id : Nat) (s : State) (hK : Keeps z0 s) : Keeps z0 (collBegin id s) := by
  unfold collBegin
  repeat' first
    | (with_reducible first | assumption | exact Keeps.refl _ | intro _ | apply keeps_finishItem | apply keeps_beginItem
                            | apply keeps_servePull | apply Keeps.ite | apply Keeps.foldl | apply Keeps.foldl_fst
                            | apply Keeps.foldl_snd | apply Keeps.foldl_third)
    | fail_if_no_progress with_reducible refine Keeps.of ?_ rfl idp idp idp idp | dsimp only | split

theorem keeps_moveIssue {z0 : State} (mine : InsnWord → Bool) (c : LCell) (m : Meet) (s : State) (hK : Keeps z0 s) :
    Keeps z0 (moveIssue mine c m s) := by
  unfold moveIssue
  repeat' first
    | (with_reducible first | assumption | exact Keeps.refl _ | intro _ | apply keeps_issueWith | apply keeps_updCell
                            | apply Keeps.ite)
    | fail_if_no_progress with_reducible refine Keeps.of ?_ rfl idp idp idp idp | dsimp only | split

theorem keeps_syncIssue {z0 : State} (op : Nat) (c : LCell) (m : Meet) (s : State) (hK : Keeps z0 s) :
    Keeps z0 (syncIssue op c m s) := by
  unfold syncIssue
  repeat' first
    | (with_reducible first | assumption | exact Keeps.refl _ | intro _ | apply keeps_issueWith | apply keeps_updCell
                            | apply Keeps.ite)
    | fail_if_no_progress with_reducible refine Keeps.of ?_ rfl idp idp idp idp | dsimp only | split

theorem keeps_atomElement {z0 : State} (c : Nat) (o : UnitOp) (src : List Nat) (cmp : List Nat) (e : Nat × Nat) (s : State)
    (hK : Keeps z0 s) :
    Keeps z0 (atomElement c o src cmp e s).2.2 := by
  unfold atomElement
  repeat' first
    | (with_reducible first | assumption | exact Keeps.refl _ | exact idp | refine memOf ?_ ?_ ?_ ?_ ?_ ?_ ?_ ?_ ?_
                            | refine sWf_refill _ (fun _ => rfl) ?_ | apply sWf_set | apply sWf_upd | apply sWf_setAll
                            | intro _ | apply Keeps.ite)
    | fail_if_no_progress with_reducible refine Keeps.of ?_ rfl idp idp idp idp | dsimp only | split
    | fail_if_no_progress (with_reducible refine Keeps.of ?_ rfl idp ?_ idp idp <;> try with_reducible exact idp)

theorem keeps_atomApplyUnit {z0 : State} (c : Nat) (o : UnitOp) (src : List Nat) (cmp : List Nat) (k : Nat) (s : State)
    (hK : Keeps z0 s) :
    Keeps z0 (atomApplyUnit c o src cmp k s).2.2 := by
  unfold atomApplyUnit
  repeat' first
    | (with_reducible first | assumption | exact Keeps.refl _ | intro _ | apply keeps_atomElement | apply Keeps.ite
                            | apply Keeps.foldl | apply Keeps.foldl_fst | apply Keeps.foldl_snd | apply Keeps.foldl_third)
    | fail_if_no_progress with_reducible refine Keeps.of ?_ rfl idp idp idp idp | dsimp only | split

theorem keeps_parityAt {z0 : State} (key : Nat) (s : State) (hK : Keeps z0 s) : Keeps z0 (parityAt key s).2 := by
  unfold parityAt
  repeat' first
    | (with_reducible first | assumption | exact Keeps.refl _ | intro _ | apply Keeps.ite)
    | fail_if_no_progress with_reducible refine Keeps.of ?_ rfl idp idp idp idp | dsimp only | split

theorem keeps_netError {z0 : State} (e : NetErr) (s : State) (hK : Keeps z0 s) : Keeps z0 (netError e s) := by
  unfold netError
  repeat' first
    | (with_reducible first | assumption | exact Keeps.refl _ | intro _ | apply keeps_raiseBlockFault | apply keeps_tallyAdd
                            | apply keeps_parityAt | apply keeps_raiseRegionFault | apply keeps_failBlock
                            | apply keeps_raiseFault | apply Keeps.ite)
    | fail_if_no_progress with_reducible refine Keeps.of ?_ rfl idp idp idp idp | dsimp only | split

theorem keeps_raiseRouteDown {z0 : State} (c : Nat) (s : State) (hK : Keeps z0 s) : Keeps z0 (raiseRouteDown c s) := by
  unfold raiseRouteDown
  repeat' first
    | (with_reducible first | assumption | exact Keeps.refl _ | intro _ | apply keeps_raiseFault | apply Keeps.ite)
    | fail_if_no_progress with_reducible refine Keeps.of ?_ rfl idp idp idp idp | dsimp only | split

theorem keeps_sourceMeets {z0 : State} (c : Nat) (l : Nat) (o : UnitOp) (sp : Space) (t : TileDesc) (resv : Bool)
    (pas : List Nat) (h : Hit) (lh : LineHit) (s : State) (hK : Keeps z0 s) :
    Keeps z0 (sourceMeets c l o sp t resv pas h lh s).2 := by
  unfold sourceMeets
  repeat' first
    | (with_reducible first | assumption | exact Keeps.refl _ | intro _ | apply keeps_linesAccess | apply keeps_tallyAdd
                            | apply keeps_raiseBlockFault | apply keeps_storeMeets | apply keeps_raiseCellFault
                            | apply Keeps.ite)
    | fail_if_no_progress with_reducible refine Keeps.of ?_ rfl idp idp idp idp | dsimp only | split

theorem keeps_popMove {z0 : State} (p : Nat) (s : State) (hK : Keeps z0 s) : Keeps z0 (popMove p s) := by
  unfold popMove
  repeat' first
    | (with_reducible first | assumption | exact Keeps.refl _ | intro _ | apply keeps_updCell | apply Keeps.ite)
    | fail_if_no_progress with_reducible refine Keeps.of ?_ rfl idp idp idp idp | dsimp only | split

theorem keeps_fly {z0 : State} (p : Nat) (f : Flight) (s : State) (hK : Keeps z0 s) : Keeps z0 (fly p f s) := by
  unfold fly
  repeat' first
    | (with_reducible first | assumption | exact Keeps.refl _ | intro _ | apply keeps_updCell | apply keeps_popMove
                            | apply Keeps.ite)
    | fail_if_no_progress with_reducible refine Keeps.of ?_ rfl idp idp idp idp | dsimp only | split

theorem keeps_updFlight {z0 : State} (p : Nat) (i : Nat) (f : Flight → Flight) (s : State) (hK : Keeps z0 s) :
    Keeps z0 (updFlight p i f s) := by
  unfold updFlight
  repeat' first
    | (with_reducible first | assumption | exact Keeps.refl _ | intro _ | apply keeps_updCell | apply Keeps.ite)
    | fail_if_no_progress with_reducible refine Keeps.of ?_ rfl idp idp idp idp | dsimp only | split

theorem keeps_dropFlight {z0 : State} (p : Nat) (i : Nat) (s : State) (hK : Keeps z0 s) : Keeps z0 (dropFlight p i s) := by
  unfold dropFlight
  repeat' first
    | (with_reducible first | assumption | exact Keeps.refl _ | intro _ | apply keeps_updCell | apply Keeps.ite)
    | fail_if_no_progress with_reducible refine Keeps.of ?_ rfl idp idp idp idp | dsimp only | split

theorem keeps_updRing {z0 : State} (p : Nat) (r : Nat) (f : Ring → Ring) (s : State) (hK : Keeps z0 s) :
    Keeps z0 (updRing p r f s) := by
  unfold updRing
  repeat' first
    | (with_reducible first | assumption | exact Keeps.refl _ | intro _ | apply keeps_updCell | apply Keeps.ite)
    | fail_if_no_progress with_reducible refine Keeps.of ?_ rfl idp idp idp idp | dsimp only | split

theorem keeps_updHandle {z0 : State} (p : Nat) (h : Nat) (f : RingHandle → RingHandle) (s : State) (hK : Keeps z0 s) :
    Keeps z0 (updHandle p h f s) := by
  unfold updHandle
  repeat' first
    | (with_reducible first | assumption | exact Keeps.refl _ | intro _ | apply keeps_updCell | apply Keeps.ite)
    | fail_if_no_progress with_reducible refine Keeps.of ?_ rfl idp idp idp idp | dsimp only | split

theorem keeps_moveFault {z0 : State} (code : Nat) (l : Nat) (p : Nat) (o : UnitOp) (s : State) (hK : Keeps z0 s) :
    Keeps z0 (moveFault code l p o s) := by
  unfold moveFault
  repeat' first
    | (with_reducible first | assumption | exact Keeps.refl _ | intro _ | apply keeps_raiseCellFault | apply keeps_popMove
                            | apply Keeps.ite)
    | fail_if_no_progress with_reducible refine Keeps.of ?_ rfl idp idp idp idp | dsimp only | split

theorem keeps_startCopy {z0 : State} (c : Nat) (l : Nat) (p : Nat) (o : UnitOp) (h : Hit) (lh : LineHit) (s : State)
    (hK : Keeps z0 s) :
    Keeps z0 (startCopy c l p o h lh s) := by
  unfold startCopy
  repeat' first
    | (with_reducible first | assumption | exact Keeps.refl _ | intro _ | apply keeps_moveFault | apply keeps_raiseRouteDown
                            | apply keeps_popMove | apply keeps_sourceMeets | apply keeps_fly | apply Keeps.ite)
    | fail_if_no_progress with_reducible refine Keeps.of ?_ rfl idp idp idp idp | dsimp only | split

theorem keeps_startRdef {z0 : State} (c : Nat) (l : Nat) (p : Nat) (o : UnitOp) (s : State) (hK : Keeps z0 s) :
    Keeps z0 (startRdef c l p o s) := by
  unfold startRdef
  repeat' first
    | (with_reducible first | assumption | exact Keeps.refl _ | intro _ | apply keeps_moveFault | apply keeps_fly
                            | apply Keeps.ite)
    | fail_if_no_progress with_reducible refine Keeps.of ?_ rfl idp idp idp idp | dsimp only | split

theorem keeps_startRconn {z0 : State} (c : Nat) (l : Nat) (p : Nat) (o : UnitOp) (s : State) (hK : Keeps z0 s) :
    Keeps z0 (startRconn c l p o s) := by
  unfold startRconn
  repeat' first
    | (with_reducible first | assumption | exact Keeps.refl _ | intro _ | apply keeps_moveFault | apply keeps_raiseRouteDown
                            | apply keeps_popMove | apply keeps_fly | apply Keeps.ite)
    | fail_if_no_progress with_reducible refine Keeps.of ?_ rfl idp idp idp idp | dsimp only | split

theorem keeps_startRpush {z0 : State} (c : Nat) (l : Nat) (p : Nat) (o : UnitOp) (h : Hit) (s : State) (hK : Keeps z0 s) :
    Keeps z0 (startRpush c l p o h s) := by
  unfold startRpush
  repeat' first
    | (with_reducible first | assumption | exact Keeps.refl _ | intro _ | apply keeps_moveFault | apply keeps_raiseRouteDown
                            | apply keeps_popMove | apply keeps_sourceMeets | apply keeps_updHandle | apply keeps_updRing
                            | apply keeps_fly | apply Keeps.ite)
    | fail_if_no_progress with_reducible refine Keeps.of ?_ rfl idp idp idp idp | dsimp only | split

theorem keeps_startRwait {z0 : State} (l : Nat) (p : Nat) (o : UnitOp) (s : State) (hK : Keeps z0 s) :
    Keeps z0 (startRwait l p o s) := by
  unfold startRwait
  repeat' first
    | (with_reducible first | assumption | exact Keeps.refl _ | intro _ | apply keeps_moveFault | apply keeps_fly
                            | apply Keeps.ite)
    | fail_if_no_progress with_reducible refine Keeps.of ?_ rfl idp idp idp idp | dsimp only | split

theorem keeps_startRfree {z0 : State} (l : Nat) (p : Nat) (o : UnitOp) (s : State) (hK : Keeps z0 s) :
    Keeps z0 (startRfree l p o s) := by
  unfold startRfree
  repeat' first
    | (with_reducible first | assumption | exact Keeps.refl _ | intro _ | apply keeps_moveFault | apply keeps_fly
                            | apply Keeps.ite)
    | fail_if_no_progress with_reducible refine Keeps.of ?_ rfl idp idp idp idp | dsimp only | split

theorem keeps_startImload {z0 : State} (c : Nat) (l : Nat) (p : Nat) (o : UnitOp) (lh : LineHit) (s : State)
    (hK : Keeps z0 s) :
    Keeps z0 (startImload c l p o lh s) := by
  unfold startImload
  repeat' first
    | (with_reducible first | assumption | exact Keeps.refl _ | intro _ | apply keeps_moveFault | apply keeps_linesAccess
                            | apply keeps_popMove | apply keeps_fly | apply Keeps.ite)
    | fail_if_no_progress with_reducible refine Keeps.of ?_ rfl idp idp idp idp | dsimp only | split

theorem keeps_storeReads {z0 : State} (l : Nat) (o : UnitOp) (ts : List TileDesc) (h : Hit) (s : State) (hK : Keeps z0 s) :
    Keeps z0 (storeReads l o ts h s).2 := by
  unfold storeReads
  repeat' first
    | (with_reducible first | assumption | exact Keeps.refl _ | intro _ | apply keeps_hitStore | apply keeps_raiseCellFault
                            | apply Keeps.ite)
    | fail_if_no_progress with_reducible refine Keeps.of ?_ rfl idp idp idp idp | dsimp only | split

theorem keeps_startAtom {z0 : State} (c : Nat) (l : Nat) (p : Nat) (o : UnitOp) (h : Hit) (s : State) (hK : Keeps z0 s) :
    Keeps z0 (startAtom c l p o h s) := by
  unfold startAtom
  repeat' first
    | (with_reducible first | assumption | exact Keeps.refl _ | intro _ | apply keeps_moveFault | apply keeps_storeReads
                            | apply keeps_popMove | apply keeps_fly | apply Keeps.ite)
    | fail_if_no_progress with_reducible refine Keeps.of ?_ rfl idp idp idp idp | dsimp only | split

theorem keeps_startGather {z0 : State} (c : Nat) (l : Nat) (p : Nat) (o : UnitOp) (s : State) (hK : Keeps z0 s) :
    Keeps z0 (startGather c l p o s) := by
  unfold startGather
  repeat' first
    | (with_reducible first | assumption | exact Keeps.refl _ | intro _ | apply keeps_moveFault | apply keeps_addGateOp
                            | apply keeps_fly | apply Keeps.ite)
    | fail_if_no_progress with_reducible refine Keeps.of ?_ rfl idp idp idp idp | dsimp only | split

theorem keeps_startColl {z0 : State} (c : Nat) (l : Nat) (p : Nat) (o : UnitOp) (h : Hit) (s : State) (hK : Keeps z0 s) :
    Keeps z0 (startColl c l p o h s) := by
  unfold startColl
  repeat' first
    | (with_reducible first | assumption | exact Keeps.refl _ | intro _ | apply keeps_moveFault | apply keeps_storeReads
                            | apply keeps_popMove | apply keeps_collBegin | apply keeps_addGateOp | apply keeps_fly
                            | apply Keeps.ite)
    | fail_if_no_progress with_reducible refine Keeps.of ?_ rfl idp idp idp idp | dsimp only | split

theorem keeps_startMove_go {z0 : State} (c : Nat) (l : Nat) (p : Nat) (o : UnitOp) (h : Hit) (lh : LineHit) (s : State)
    (hK : Keeps z0 s) :
    Keeps z0 (startMove.go c l p o h lh s) := by
  unfold startMove.go
  repeat' first
    | (with_reducible first | assumption | exact Keeps.refl _ | intro _ | apply keeps_startCopy | apply keeps_startRdef
                            | apply keeps_startRconn | apply keeps_startRpush | apply keeps_startRwait
                            | apply keeps_startRfree | apply keeps_startImload | apply keeps_startAtom
                            | apply keeps_startGather | apply keeps_startColl | apply Keeps.ite)
    | fail_if_no_progress with_reducible refine Keeps.of ?_ rfl idp idp idp idp | dsimp only | split

theorem keeps_startMove {z0 : State} (c : Nat) (l : Nat) (p : Nat) (o : UnitOp) (h : Hit) (lh : LineHit) (s : State)
    (hK : Keeps z0 s) :
    Keeps z0 (startMove c l p o h lh s) := by
  unfold startMove
  repeat' first
    | (with_reducible first | assumption | exact Keeps.refl _ | intro _ | apply keeps_moveFault | apply keeps_startMove_go
                            | apply Keeps.ite)
    | fail_if_no_progress with_reducible refine Keeps.of ?_ rfl idp idp idp idp | dsimp only | split

theorem keeps_copyLands {z0 : State} (c : Nat) (l : Nat) (f : Flight) (lh : LineHit) (s : State) (hK : Keeps z0 s) :
    Keeps z0 (copyLands c l f lh s).2 := by
  unfold copyLands
  repeat' first
    | (with_reducible first | assumption | exact Keeps.refl _ | intro _ | apply keeps_raiseCellFault | apply keeps_linesAccess
                            | apply Keeps.ite)
    | fail_if_no_progress with_reducible refine Keeps.of ?_ rfl idp idp idp idp | dsimp only | split

theorem keeps_finishFlight {z0 : State} (c : Nat) (l : Nat) (p : Nat) (i : Nat) (f : Flight) (lh : LineHit) (s : State)
    (hK : Keeps z0 s) :
    Keeps z0 (finishFlight c l p i f lh s) := by
  unfold finishFlight
  repeat' first
    | (with_reducible first | assumption | exact Keeps.refl _ | intro _ | apply keeps_postAfter | apply keeps_dropFlight
                            | apply keeps_copyLands | apply keeps_applyWrites | apply keeps_updRing | apply keeps_updCell
                            | apply keeps_updFlight | apply Keeps.ite)
    | fail_if_no_progress with_reducible refine Keeps.of ?_ rfl idp idp idp idp | dsimp only | split

theorem keeps_updLine {z0 : State} (l : Nat) (f : Line → Line) (s : State) (hK : Keeps z0 s) : Keeps z0 (updLine l f s) := by
  unfold updLine
  repeat' first
    | (with_reducible first | assumption | exact Keeps.refl _ | intro _ | apply Keeps.ite)
    | fail_if_no_progress with_reducible refine Keeps.of ?_ rfl idp idp idp idp | dsimp only | split

theorem keeps_completeLine {z0 : State} (l : Nat) (s : State) (hK : Keeps z0 s) : Keeps z0 (completeLine l s) := by
  unfold completeLine
  repeat' first
    | (with_reducible first | assumption | exact Keeps.refl _ | intro _ | apply keeps_regCount | apply keeps_updLine
                            | apply Keeps.ite)
    | fail_if_no_progress with_reducible refine Keeps.of ?_ rfl idp idp idp idp | dsimp only | split

theorem keeps_tellPeers {z0 : State} (c : Nat) (l : Nat) (s : State) (hK : Keeps z0 s) : Keeps z0 (tellPeers c l s) := by
  unfold tellPeers
  repeat' first
    | (with_reducible first | assumption | exact Keeps.refl _ | intro _ | apply keeps_sendCtl | apply Keeps.ite
                            | apply Keeps.foldl | apply Keeps.foldl_fst | apply Keeps.foldl_snd | apply Keeps.foldl_third)
    | fail_if_no_progress with_reducible refine Keeps.of ?_ rfl idp idp idp idp | dsimp only | split

theorem keeps_arrive {z0 : State} (c : Nat) (l : Nat) (cell : Nat) (fault : Nat → State → State) (s : State) (h_fault : ∀
    (y : State) (a0 : Nat) (a1 : State), Keeps y a1 → Keeps y (fault a0 a1)) (hK : Keeps z0 s) :
    Keeps z0 (arrive c l cell fault s) := by
  unfold arrive
  repeat' first
    | (with_reducible first | assumption | exact Keeps.refl _ | intro _ | apply keeps_completeLine | apply keeps_tellPeers
                            | apply keeps_updLine | apply h_fault | apply Keeps.ite)
    | fail_if_no_progress with_reducible refine Keeps.of ?_ rfl idp idp idp idp | dsimp only | split

theorem keeps_lendPower {z0 : State} (l : Nat) (s : State) (hK : Keeps z0 s) : Keeps z0 (lendPower l s) := by
  unfold lendPower
  repeat' first
    | (with_reducible first | assumption | exact Keeps.refl _ | intro _ | apply Keeps.ite)
    | fail_if_no_progress with_reducible refine Keeps.of ?_ rfl idp idp idp idp | dsimp only | split

theorem keeps_reclaimPower {z0 : State} (l : Nat) (s : State) (hK : Keeps z0 s) : Keeps z0 (reclaimPower l s) := by
  unfold reclaimPower
  repeat' first
    | (with_reducible first | assumption | exact Keeps.refl _ | intro _ | apply Keeps.ite | apply Keeps.foldl
                            | apply Keeps.foldl_fst | apply Keeps.foldl_snd | apply Keeps.foldl_third)
    | fail_if_no_progress with_reducible refine Keeps.of ?_ rfl idp idp idp idp | dsimp only | split

theorem keeps_resumeCell {z0 : State} (l : Nat) (s : State) (hK : Keeps z0 s) : Keeps z0 (resumeCell l s) := by
  unfold resumeCell
  repeat' first
    | (with_reducible first | assumption | exact Keeps.refl _ | intro _ | apply keeps_reclaimPower | apply keeps_updCell
                            | apply keeps_addGated | apply Keeps.ite)
    | fail_if_no_progress with_reducible refine Keeps.of ?_ rfl idp idp idp idp | dsimp only | split

theorem keeps_lwait {z0 : State} (c : Nat) (l : Nat) (cell : Nat) (fault : Nat → State → State) (s : State) (h_fault : ∀
    (y : State) (a0 : Nat) (a1 : State), Keeps y a1 → Keeps y (fault a0 a1)) (hK : Keeps z0 s) :
    Keeps z0 (lwait c l cell fault s) := by
  unfold lwait
  repeat' first
    | (with_reducible first | assumption | exact Keeps.refl _ | intro _ | apply keeps_resumeCell | apply keeps_updLine
                            | apply h_fault | apply Keeps.ite)
    | fail_if_no_progress with_reducible refine Keeps.of ?_ rfl idp idp idp idp | dsimp only | split

theorem keeps_popSync {z0 : State} (p : Nat) (s : State) (hK : Keeps z0 s) : Keeps z0 (popSync p s) := by
  unfold popSync
  repeat' first
    | (with_reducible first | assumption | exact Keeps.refl _ | intro _ | apply keeps_updCell | apply Keeps.ite)
    | fail_if_no_progress with_reducible refine Keeps.of ?_ rfl idp idp idp idp | dsimp only | split

theorem keeps_startSync {z0 : State} (c : Nat) (l : Nat) (o : UnitOp) (s : State) (hK : Keeps z0 s) :
    Keeps z0 (startSync c l o s) := by
  unfold startSync
  repeat' first
    | (with_reducible first | assumption | exact Keeps.refl _ | intro _ | apply keeps_raiseCellFault
                            | apply keeps_raiseRouteDown | apply keeps_sendBellOp | apply keeps_arrive | apply keeps_lwait
                            | apply Keeps.ite)
    | fail_if_no_progress with_reducible refine Keeps.of ?_ rfl idp idp idp idp | dsimp only | split

theorem keeps_registerWaiter {z0 : State} (b : Nat) (w : Waiter) (s : State) (hK : Keeps z0 s) :
    Keeps z0 (registerWaiter b w s) := by
  unfold registerWaiter
  repeat' first
    | (with_reducible first | assumption | exact Keeps.refl _ | intro _ | apply keeps_updBell | apply Keeps.ite)
    | fail_if_no_progress with_reducible refine Keeps.of ?_ rfl idp idp idp idp | dsimp only | split

theorem keeps_raiseBellRange {z0 : State} (o : BellOp) (s : State) (hK : Keeps z0 s) : Keeps z0 (raiseBellRange o s) := by
  unfold raiseBellRange
  repeat' first
    | (with_reducible first | assumption | exact Keeps.refl _ | intro _ | apply keeps_raiseCellFault | apply Keeps.ite)
    | fail_if_no_progress with_reducible refine Keeps.of ?_ rfl idp idp idp idp | dsimp only | split

theorem keeps_applyBellOp {z0 : State} (o : BellOp) (e : Ecc) (s : State) (hK : Keeps z0 s) : Keeps z0 (applyBellOp o e s) := by
  unfold applyBellOp
  repeat' first
    | (with_reducible first | assumption | exact Keeps.refl _ | intro _ | apply keeps_bellMeets | apply keeps_raiseBellRange
                            | apply keeps_regCount | apply keeps_bellPost | apply keeps_release | apply keeps_registerWaiter
                            | apply keeps_updBell | apply Keeps.ite)
    | fail_if_no_progress with_reducible refine Keeps.of ?_ rfl idp idp idp idp | dsimp only | split

theorem keeps_applyCancel {z0 : State} (l : Nat) (count : Nat) (s : State) (hK : Keeps z0 s) :
    Keeps z0 (applyCancel l count s) := by
  unfold applyCancel
  repeat' first
    | (with_reducible first | assumption | exact Keeps.refl _ | intro _ | apply keeps_raiseCellFault | apply keeps_regCount
                            | apply keeps_updBell | apply Keeps.ite)
    | fail_if_no_progress with_reducible refine Keeps.of ?_ rfl idp idp idp idp | dsimp only | split

theorem keeps_placeArrived {z0 : State} (bs : List Byte) (s : State) (hK : Keeps z0 s) : Keeps z0 (placeArrived bs s) := by
  unfold placeArrived
  repeat' first
    | (with_reducible first | assumption | exact Keeps.refl _ | intro _ | apply keeps_completeLine | apply keeps_updLine
                            | apply Keeps.ite)
    | fail_if_no_progress with_reducible refine Keeps.of ?_ rfl idp idp idp idp | dsimp only | split

end Sys2Proof.Machine
end

