-- ==== Sys2Proof/Laws/KeepsLinks.lean ====
section
/-! SUPPORT. What the links and parity streams keep, one lemma for each. -/

set_option linter.unreachableTactic false
set_option linter.unusedTactic false

namespace Sys2Proof.Machine

theorem keeps_writeHeader {z0 : State} (c : Nat) (i : Nat) (valid : Bool) (cstep : Nat) (s : State) (hK : Keeps z0 s) :
    Keeps z0 (writeHeader c i valid cstep s) := by
  unfold writeHeader
  repeat' first
    | (with_reducible first | assumption | exact Keeps.refl _ | intro _ | apply keeps_ctxWrite | apply Keeps.ite)
    | fail_if_no_progress with_reducible refine Keeps.of ?_ rfl idp idp idp idp | dsimp only | split

theorem keeps_updCode {z0 : State} (c : Nat) (f : Coding → Coding) (s : State) (hK : Keeps z0 s) :
    Keeps z0 (updCode c f s) := by
  unfold updCode
  repeat' first
    | (with_reducible first | assumption | exact Keeps.refl _ | intro _ | apply keeps_updCtx | apply Keeps.ite)
    | fail_if_no_progress with_reducible refine Keeps.of ?_ rfl idp idp idp idp | dsimp only | split

theorem keeps_updOp {z0 : State} (c : Nat) (f : ParOp → ParOp) (s : State) (hK : Keeps z0 s) : Keeps z0 (updOp c f s) := by
  unfold updOp
  repeat' first
    | (with_reducible first | assumption | exact Keeps.refl _ | intro _ | apply keeps_updCode | apply Keeps.ite)
    | fail_if_no_progress with_reducible refine Keeps.of ?_ rfl idp idp idp idp | dsimp only | split

theorem keeps_clearValid {z0 : State} (c : Nat) (s : State) (hK : Keeps z0 s) : Keeps z0 (clearValid c s) := by
  unfold clearValid
  repeat' first
    | (with_reducible first | assumption | exact Keeps.refl _ | intro _ | apply keeps_writeHeader | apply keeps_updCode
                            | apply Keeps.ite)
    | fail_if_no_progress with_reducible refine Keeps.of ?_ rfl idp idp idp idp | dsimp only | split

theorem keeps_sendPiece {z0 : State} (op : Nat) (c : Nat) (dst : Nat) (cstep : Nat) (stripe : Nat) (slot : Nat)
    (whole : Nat) (bs : List Byte) (s : State) (hK : Keeps z0 s) :
    Keeps z0 (sendPiece op c dst cstep stripe slot whole bs s) := by
  unfold sendPiece
  repeat' first
    | (with_reducible first | assumption | exact Keeps.refl _ | intro _ | apply keeps_sendColl | apply Keeps.ite
                            | apply Keeps.foldl | apply Keeps.foldl_fst | apply Keeps.foldl_snd | apply Keeps.foldl_third)
    | fail_if_no_progress with_reducible refine Keeps.of ?_ rfl idp idp idp idp | dsimp only | split

theorem keeps_askSymbol {z0 : State} (c : Nat) (cstep : Nat) (stripe : Nat) (slot : Nat) (s : State) (hK : Keeps z0 s) :
    Keeps z0 (askSymbol c cstep stripe slot s) := by
  unfold askSymbol
  repeat' first
    | (with_reducible first | assumption | exact Keeps.refl _ | intro _ | apply keeps_sendColl | apply Keeps.ite)
    | fail_if_no_progress with_reducible refine Keeps.of ?_ rfl idp idp idp idp | dsimp only | split

theorem keeps_startParDeadline {z0 : State} (c : Nat) (s : State) (hK : Keeps z0 s) : Keeps z0 (startParDeadline c s) := by
  unfold startParDeadline
  repeat' first
    | (with_reducible first | assumption | exact Keeps.refl _ | intro _ | apply keeps_updOp | apply Keeps.ite)
    | fail_if_no_progress with_reducible refine Keeps.of ?_ rfl idp idp idp idp | dsimp only | split

theorem keeps_applyPiece {z0 : State} (c : Nat) (src : Nat) (stripe : Nat) (slot : Nat) (bs : List Byte) (s : State)
    (hK : Keeps z0 s) :
    Keeps z0 (applyPiece c src stripe slot bs s) := by
  unfold applyPiece
  repeat' first
    | (with_reducible first | assumption | exact Keeps.refl _ | intro _ | apply keeps_ctxWrite | apply keeps_updOp
                            | apply keeps_sendColl | apply Keeps.ite)
    | fail_if_no_progress with_reducible refine Keeps.of ?_ rfl idp idp idp idp | dsimp only | split

theorem keeps_dropRecv {z0 : State} (c : Nat) (stripe : Nat) (slot : Nat) (s : State) (hK : Keeps z0 s) :
    Keeps z0 (dropRecv c stripe slot s) := by
  unfold dropRecv
  repeat' first
    | (with_reducible first | assumption | exact Keeps.refl _ | intro _ | apply keeps_updCode | apply Keeps.ite)
    | fail_if_no_progress with_reducible refine Keeps.of ?_ rfl idp idp idp idp | dsimp only | split

theorem keeps_raiseParCrc {z0 : State} (c : Nat) (s : State) (hK : Keeps z0 s) : Keeps z0 (raiseParCrc c s) := by
  unfold raiseParCrc
  repeat' first
    | (with_reducible first | assumption | exact Keeps.refl _ | intro _ | apply keeps_raiseFault | apply keeps_tallyAdd
                            | apply keeps_gateCount | apply Keeps.ite)
    | fail_if_no_progress with_reducible refine Keeps.of ?_ rfl idp idp idp idp | dsimp only | split

theorem keeps_retryPiece {z0 : State} (c : Nat) (p : ParPiece) (s : State) (hK : Keeps z0 s) : Keeps z0 (retryPiece c p s) := by
  unfold retryPiece
  repeat' first
    | (with_reducible first | assumption | exact Keeps.refl _ | intro _ | apply keeps_tallyAdd | apply keeps_gateCount
                            | apply keeps_updCode | apply keeps_askSymbol | apply Keeps.ite)
    | fail_if_no_progress with_reducible refine Keeps.of ?_ rfl idp idp idp idp | dsimp only | split

theorem keeps_settlePiece {z0 : State} (c : Nat) (p : ParPiece) (s : State) (hK : Keeps z0 s) :
    Keeps z0 (settlePiece c p s) := by
  unfold settlePiece
  repeat' first
    | (with_reducible first | assumption | exact Keeps.refl _ | intro _ | apply keeps_applyPiece | apply keeps_dropRecv
                            | apply keeps_raiseParCrc | apply keeps_retryPiece | apply Keeps.ite)
    | fail_if_no_progress with_reducible refine Keeps.of ?_ rfl idp idp idp idp | dsimp only | split

theorem keeps_startRefresh {z0 : State} (c : Nat) (job : Option Nat) (buf : Nat) (cstep : Nat) (image : List Byte)
    (s : State) (hK : Keeps z0 s) :
    Keeps z0 (startRefresh c job buf cstep image s) := by
  unfold startRefresh
  repeat' first
    | (with_reducible first | assumption | exact Keeps.refl _ | intro _ | apply keeps_ctxWrite | apply keeps_updCode
                            | apply keeps_sendPiece | apply keeps_settlePiece | apply keeps_startParDeadline | apply Keeps.ite
                            | apply Keeps.foldl | apply Keeps.foldl_fst | apply Keeps.foldl_snd | apply Keeps.foldl_third)
    | fail_if_no_progress with_reducible refine Keeps.of ?_ rfl idp idp idp idp | dsimp only | split

theorem keeps_finishRefresh {z0 : State} (c : Nat) (s : State) (hK : Keeps z0 s) : Keeps z0 (finishRefresh c s) := by
  unfold finishRefresh
  repeat' first
    | (with_reducible first | assumption | exact Keeps.refl _ | intro _ | apply keeps_updCode | apply keeps_writeHeader
                            | apply Keeps.ite)
    | fail_if_no_progress with_reducible refine Keeps.of ?_ rfl idp idp idp idp | dsimp only | split

theorem keeps_pullSymbol {z0 : State} (c : Nat) (stripe : Nat) (s : State) (hK : Keeps z0 s) :
    Keeps z0 (pullSymbol c stripe s) := by
  unfold pullSymbol
  repeat' first
    | (with_reducible first | assumption | exact Keeps.refl _ | intro _ | apply keeps_updOp | apply keeps_askSymbol
                            | apply Keeps.ite)
    | fail_if_no_progress with_reducible refine Keeps.of ?_ rfl idp idp idp idp | dsimp only | split

theorem keeps_loseSymbol {z0 : State} (c : Nat) (stripe : Nat) (slot : Nat) (s : State) (hK : Keeps z0 s) :
    Keeps z0 (loseSymbol c stripe slot s) := by
  unfold loseSymbol
  repeat' first
    | (with_reducible first | assumption | exact Keeps.refl _ | intro _ | apply keeps_updOp | apply keeps_pullSymbol
                            | apply keeps_dropRecv | apply Keeps.ite)
    | fail_if_no_progress with_reducible refine Keeps.of ?_ rfl idp idp idp idp | dsimp only | split

theorem keeps_startRebuild {z0 : State} (c : Nat) (job : Nat) (cstep : Nat) (gone : List Nat) (s : State) (hK : Keeps z0 s) :
    Keeps z0 (startRebuild c job cstep gone s) := by
  unfold startRebuild
  repeat' first
    | (with_reducible first | assumption | exact Keeps.refl _ | intro _ | apply keeps_updCode | apply keeps_pullSymbol
                            | apply keeps_startParDeadline | apply Keeps.ite | apply Keeps.foldl | apply Keeps.foldl_fst
                            | apply Keeps.foldl_snd | apply Keeps.foldl_third)
    | fail_if_no_progress with_reducible refine Keeps.of ?_ rfl idp idp idp idp | dsimp only | split

theorem keeps_settleSymbol {z0 : State} (c : Nat) (p : ParPiece) (s : State) (hK : Keeps z0 s) :
    Keeps z0 (settleSymbol c p s) := by
  unfold settleSymbol
  repeat' first
    | (with_reducible first | assumption | exact Keeps.refl _ | intro _ | apply keeps_dropRecv | apply keeps_updOp
                            | apply keeps_loseSymbol | apply keeps_retryPiece | apply Keeps.ite)
    | fail_if_no_progress with_reducible refine Keeps.of ?_ rfl idp idp idp idp | dsimp only | split

theorem keeps_writeRuns {z0 : State} (c : Nat) (y1 : List (Nat × Nat)) (y2 : List Byte) (y3 : State) (hK : Keeps z0 y3) :
    Keeps z0 (writeRuns c y1 y2 y3) := by
  induction y1 generalizing y2 y3 with
  | nil => ?_
  | cons p t ih => ?_
  all_goals unfold writeRuns
  repeat' first
    | (with_reducible first | assumption | exact Keeps.refl _ | intro _ | apply ih | apply keeps_ctxWrite | apply Keeps.ite)
    | fail_if_no_progress with_reducible refine Keeps.of ?_ rfl idp idp idp idp | dsimp only | split

theorem keeps_finishRebuild {z0 : State} (c : Nat) (map : Nat) (cb : Nat) (s : State) (hK : Keeps z0 s) :
    Keeps z0 (finishRebuild c map cb s) := by
  unfold finishRebuild
  repeat' first
    | (with_reducible first | assumption | exact Keeps.refl _ | intro _ | apply keeps_writeRuns | apply keeps_ctxWrite
                            | apply keeps_writeHeader | apply keeps_updCode | apply Keeps.ite | apply Keeps.foldl
                            | apply Keeps.foldl_fst | apply Keeps.foldl_snd | apply Keeps.foldl_third)
    | fail_if_no_progress with_reducible refine Keeps.of ?_ rfl idp idp idp idp | dsimp only | split

theorem keeps_parPeerLost {z0 : State} (c : Nat) (port : Nat) (node : Nat) (cause : Nat) (op : Nat) (key : Nat) (tag : Nat)
    (s : State) (hK : Keeps z0 s) :
    Keeps z0 (parPeerLost c port node cause op key tag s) := by
  unfold parPeerLost
  repeat' first
    | (with_reducible first | assumption | exact Keeps.refl _ | intro _ | apply keeps_loseSymbol | apply keeps_raisePeerLost
                            | apply Keeps.ite | apply Keeps.foldl | apply Keeps.foldl_fst | apply Keeps.foldl_snd
                            | apply Keeps.foldl_third)
    | fail_if_no_progress with_reducible refine Keeps.of ?_ rfl idp idp idp idp | dsimp only | split

theorem keeps_updPort {z0 : State} (p : Nat) (f : Port → Port) (s : State) (hK : Keeps z0 s) : Keeps z0 (updPort p f s) := by
  unfold updPort
  repeat' first
    | (with_reducible first | assumption | exact Keeps.refl _ | intro _ | apply Keeps.ite)
    | fail_if_no_progress with_reducible refine Keeps.of ?_ rfl idp idp idp idp | dsimp only | split

theorem keeps_updEngine {z0 : State} (k : Nat) (f : Engine → Engine) (s : State) (hK : Keeps z0 s) :
    Keeps z0 (updEngine k f s) := by
  unfold updEngine
  repeat' first
    | (with_reducible first | assumption | exact Keeps.refl _ | intro _ | apply Keeps.ite)
    | fail_if_no_progress with_reducible refine Keeps.of ?_ rfl idp idp idp idp | dsimp only | split

theorem keeps_pump {z0 : State} (p : Nat) (s : State) (hK : Keeps z0 s) : Keeps z0 (pump p s) := by
  unfold pump
  repeat' first
    | (with_reducible first | assumption | exact Keeps.refl _ | intro _ | apply keeps_updCtx | apply keeps_updPort
                            | apply Keeps.ite | apply Keeps.foldl | apply Keeps.foldl_fst | apply Keeps.foldl_snd
                            | apply Keeps.foldl_third)
    | fail_if_no_progress with_reducible refine Keeps.of ?_ rfl idp idp idp idp | dsimp only | split

theorem keeps_queueAt {z0 : State} (p : Nat) (m : OutMsg) (s : State) (hK : Keeps z0 s) : Keeps z0 (queueAt p m s) := by
  unfold queueAt
  repeat' first
    | (with_reducible first | assumption | exact Keeps.refl _ | intro _ | apply keeps_pump | apply keeps_updPort
                            | apply Keeps.ite)
    | fail_if_no_progress with_reducible refine Keeps.of ?_ rfl idp idp idp idp | dsimp only | split

theorem keeps_loseOwn {z0 : State} (port : Nat) (cause : Nat) (f : TxFlit) (s : State) (hK : Keeps z0 s) :
    Keeps z0 (loseOwn port cause f s) := by
  unfold loseOwn
  repeat' first
    | (with_reducible first | assumption | exact Keeps.refl _ | intro _ | apply keeps_raisePeerLost | apply keeps_parPeerLost
                            | apply Keeps.ite | apply Keeps.foldl | apply Keeps.foldl_fst | apply Keeps.foldl_snd
                            | apply Keeps.foldl_third)
    | fail_if_no_progress with_reducible refine Keeps.of ?_ rfl idp idp idp idp | dsimp only | split

theorem keeps_sendUnreach {z0 : State} (src : Option Nat) (dest : Nat) (s : State) (hK : Keeps z0 s) :
    Keeps z0 (sendUnreach src dest s) := by
  unfold sendUnreach
  repeat' first
    | (with_reducible first | assumption | exact Keeps.refl _ | intro _ | apply keeps_sendCtl | apply Keeps.ite)
    | fail_if_no_progress with_reducible refine Keeps.of ?_ rfl idp idp idp idp | dsimp only | split

theorem keeps_loseMessages {z0 : State} (port : Nat) (cause : Nat) (y2 : List TxFlit) (y3 : List Nat) (y4 : State)
    (hK : Keeps z0 y4) :
    Keeps z0 (loseMessages port cause y2 y3 y4) := by
  induction y2 generalizing y3 y4 with
  | nil => ?_
  | cons p t ih => ?_
  all_goals unfold loseMessages
  repeat' first
    | (with_reducible first | assumption | exact Keeps.refl _ | intro _ | apply ih | apply keeps_loseOwn
                            | apply keeps_sendUnreach | apply Keeps.ite)
    | fail_if_no_progress with_reducible refine Keeps.of ?_ rfl idp idp idp idp | dsimp only | split

theorem keeps_flushOut {z0 : State} (s : State) (hK : Keeps z0 s) : Keeps z0 (flushOut s) := by
  unfold flushOut
  repeat' first
    | (with_reducible first | assumption | exact Keeps.refl _ | intro _ | apply keeps_queueAt | apply keeps_loseOwn
                            | apply Keeps.ite | apply Keeps.foldl | apply Keeps.foldl_fst | apply Keeps.foldl_snd
                            | apply Keeps.foldl_third)
    | fail_if_no_progress with_reducible refine Keeps.of ?_ rfl idp idp idp idp | dsimp only | split

theorem keeps_sendOn {z0 : State} (p : Nat) (type : Nat) (body : List Byte) (s : State) (hK : Keeps z0 s) :
    Keeps z0 (sendOn p type body s) := by
  unfold sendOn
  repeat' first
    | (with_reducible first | assumption | exact Keeps.refl _ | intro _ | apply keeps_queueAt | apply Keeps.ite)
    | fail_if_no_progress with_reducible refine Keeps.of ?_ rfl idp idp idp idp | dsimp only | split

theorem keeps_portDown {z0 : State} (p : Nat) (cause : Nat) (s : State) (hK : Keeps z0 s) : Keeps z0 (portDown p cause s) := by
  unfold portDown
  repeat' first
    | (with_reducible first | assumption | exact Keeps.refl _ | intro _ | apply keeps_updPort | apply keeps_tallyAdd
                            | apply keeps_raiseFault | apply keeps_logRepair | apply keeps_loseMessages
                            | apply keeps_raisePeerLost | apply keeps_flushOut | apply keeps_parPeerLost | apply Keeps.ite
                            | apply Keeps.foldl | apply Keeps.foldl_fst | apply Keeps.foldl_snd | apply Keeps.foldl_third)
    | fail_if_no_progress with_reducible refine Keeps.of ?_ rfl idp idp idp idp | dsimp only | split

theorem keeps_demandReplay {z0 : State} (p : Nat) (s : State) (hK : Keeps z0 s) : Keeps z0 (demandReplay p s) := by
  unfold demandReplay
  repeat' first
    | (with_reducible first | assumption | exact Keeps.refl _ | intro _ | apply keeps_tallyAdd | apply keeps_updPort
                            | apply keeps_portDown | apply Keeps.ite)
    | fail_if_no_progress with_reducible refine Keeps.of ?_ rfl idp idp idp idp | dsimp only | split

theorem keeps_takeReturn {z0 : State} (p : Nat) (h : FlitHead) (s : State) (hK : Keeps z0 s) : Keeps z0 (takeReturn p h s) := by
  unfold takeReturn
  repeat' first
    | (with_reducible first | assumption | exact Keeps.refl _ | intro _ | apply keeps_pump | apply keeps_updPort
                            | apply Keeps.ite)
    | fail_if_no_progress with_reducible refine Keeps.of ?_ rfl idp idp idp idp | dsimp only | split

theorem keeps_drop {z0 : State} (p : Nat) (s : State) (hK : Keeps z0 s) : Keeps z0 (drop p s) := by
  unfold drop
  repeat' first
    | (with_reducible first | assumption | exact Keeps.refl _ | intro _ | apply keeps_updPort | apply Keeps.ite)
    | fail_if_no_progress with_reducible refine Keeps.of ?_ rfl idp idp idp idp | dsimp only | split

theorem keeps_forwardFlit {z0 : State} (p : Nat) (h : FlitHead) (body : List Byte) (s : State) (hK : Keeps z0 s) :
    Keeps z0 (forwardFlit p h body s) := by
  unfold forwardFlit
  repeat' first
    | (with_reducible first | assumption | exact Keeps.refl _ | intro _ | apply keeps_updPort | apply keeps_pump
                            | apply keeps_sendUnreach | apply keeps_drop | apply Keeps.ite | apply Keeps.foldl
                            | apply Keeps.foldl_fst | apply Keeps.foldl_snd | apply Keeps.foldl_third)
    | fail_if_no_progress with_reducible refine Keeps.of ?_ rfl idp idp idp idp | dsimp only | split

theorem keeps_deliverFlit {z0 : State} (p : Nat) (h : FlitHead) (body : List Byte) (s : State) (hK : Keeps z0 s) :
    Keeps z0 (deliverFlit p h body s) := by
  unfold deliverFlit
  repeat' first
    | (with_reducible first | assumption | exact Keeps.refl _ | intro _ | apply keeps_updPort | apply keeps_drop
                            | apply Keeps.ite)
    | fail_if_no_progress with_reducible refine Keeps.of ?_ rfl idp idp idp idp | dsimp only | split

theorem keeps_acceptFlit {z0 : State} (p : Nat) (h : FlitHead) (body : List Byte) (s : State) (hK : Keeps z0 s) :
    Keeps z0 (acceptFlit p h body s) := by
  unfold acceptFlit
  repeat' first
    | (with_reducible first | assumption | exact Keeps.refl _ | intro _ | apply keeps_updPort | apply keeps_portDown
                            | apply keeps_deliverFlit | apply keeps_forwardFlit | apply Keeps.ite)
    | fail_if_no_progress with_reducible refine Keeps.of ?_ rfl idp idp idp idp | dsimp only | split

theorem keeps_returnFlit {z0 : State} (kind : Nat) (p : Nat) (raw : BitVec 2048) (rs : Bool) (after : State → State)
    (s : State) (h_after : ∀ (y : State) (a0 : State), Keeps y a0 → Keeps y (after a0)) (hK : Keeps z0 s) :
    Keeps z0 (returnFlit kind p raw rs after s) := by
  unfold returnFlit
  repeat' first
    | (with_reducible first | assumption | exact Keeps.refl _ | intro _ | apply keeps_drop | apply keeps_takeReturn
                            | apply h_after | apply Keeps.ite)
    | fail_if_no_progress with_reducible refine Keeps.of ?_ rfl idp idp idp idp | dsimp only | split

theorem keeps_askSpare {z0 : State} (k : Nat) (lane : Nat) (action : Nat) (s : State) (hK : Keeps z0 s) :
    Keeps z0 (askSpare k lane action s) := by
  unfold askSpare
  repeat' first
    | (with_reducible first | assumption | exact Keeps.refl _ | intro _ | apply keeps_sendOn | apply keeps_updEngine
                            | apply Keeps.ite)
    | fail_if_no_progress with_reducible refine Keeps.of ?_ rfl idp idp idp idp | dsimp only | split

theorem keeps_laneFails {z0 : State} (k : Nat) (lane : Nat) (all : Bool) (s : State) (hK : Keeps z0 s) :
    Keeps z0 (laneFails k lane all s) := by
  unfold laneFails
  repeat' first
    | (with_reducible first | assumption | exact Keeps.refl _ | intro _ | apply keeps_portDown | apply keeps_askSpare
                            | apply Keeps.ite)
    | fail_if_no_progress with_reducible refine Keeps.of ?_ rfl idp idp idp idp | dsimp only | split

theorem keeps_takeMsg {z0 : State} (i : Nat) (s : State) (hK : Keeps z0 s) : Keeps z0 (takeMsg i s) := by
  unfold takeMsg
  repeat' first
    | (with_reducible first | assumption | exact Keeps.refl _ | intro _ | apply Keeps.ite)
    | fail_if_no_progress with_reducible refine Keeps.of ?_ rfl idp idp idp idp | dsimp only | split

theorem keeps_freeMsg {z0 : State} (i : Nat) (m : InMsg) (s : State) (hK : Keeps z0 s) : Keeps z0 (freeMsg i m s) := by
  unfold freeMsg
  repeat' first
    | (with_reducible first | assumption | exact Keeps.refl _ | intro _ | apply keeps_takeMsg | apply keeps_updPort
                            | apply Keeps.ite)
    | fail_if_no_progress with_reducible refine Keeps.of ?_ rfl idp idp idp idp | dsimp only | split

theorem keeps_linkCtlRow {z0 : State} (i : Nat) (type : Nat) (go : InMsg → State → State) (s : State) (h_go : ∀ (y : State)
    (a0 : InMsg) (a1 : State), Keeps y a1 → Keeps y (go a0 a1)) (hK : Keeps z0 s) :
    Keeps z0 (linkCtlRow i type go s) := by
  unfold linkCtlRow
  repeat' first
    | (with_reducible first | assumption | exact Keeps.refl _ | intro _ | apply keeps_flushOut | apply keeps_freeMsg
                            | apply h_go | apply Keeps.ite)
    | fail_if_no_progress with_reducible refine Keeps.of ?_ rfl idp idp idp idp | dsimp only | split

theorem keeps_sendHello {z0 : State} (p : Nat) (s : State) (hK : Keeps z0 s) : Keeps z0 (sendHello p s) := by
  unfold sendHello
  repeat' first
    | (with_reducible first | assumption | exact Keeps.refl _ | intro _ | apply keeps_sendOn | apply Keeps.ite)
    | fail_if_no_progress with_reducible refine Keeps.of ?_ rfl idp idp idp idp | dsimp only | split

theorem keeps_sendEcho {z0 : State} (p : Nat) (s : State) (hK : Keeps z0 s) : Keeps z0 (sendEcho p s) := by
  unfold sendEcho
  repeat' first
    | (with_reducible first | assumption | exact Keeps.refl _ | intro _ | apply keeps_sendOn | apply keeps_updPort
                            | apply Keeps.ite)
    | fail_if_no_progress with_reducible refine Keeps.of ?_ rfl idp idp idp idp | dsimp only | split

end Sys2Proof.Machine
end

