-- ==== Sys2Proof/Laws/KeepsHall.lean ====
section
/-! SUPPORT. What Ozmin, the Tally, the ports, boot and power keep, one lemma for each. -/

set_option linter.unreachableTactic false
set_option linter.unusedTactic false

namespace Sys2Proof.Machine

theorem keeps_updRingSet {z0 : State} (c : Nat) (f : RingSet → RingSet) (s : State) (hK : Keeps z0 s) :
    Keeps z0 (updRingSet c f s) := by
  unfold updRingSet
  repeat' first
    | (with_reducible first | assumption | exact Keeps.refl _ | intro _ | apply Keeps.ite)
    | fail_if_no_progress with_reducible refine Keeps.of ?_ rfl idp idp idp idp | dsimp only | split

theorem keeps_updSession {z0 : State} (n : Nat) (f : Session → Session) (s : State) (hK : Keeps z0 s) :
    Keeps z0 (updSession n f s) := by
  unfold updSession
  repeat' first
    | (with_reducible first | assumption | exact Keeps.refl _ | intro _ | apply Keeps.ite)
    | fail_if_no_progress with_reducible refine Keeps.of ?_ rfl idp idp idp idp | dsimp only | split

theorem keeps_sendPacket {z0 : State} (addr : Nat) (port : Nat) (bs : List Byte) (s : State) (hK : Keeps z0 s) :
    Keeps z0 (sendPacket addr port bs s) := by
  unfold sendPacket
  repeat' first
    | (with_reducible first | assumption | exact Keeps.refl _ | intro _ | apply keeps_regCount | apply Keeps.ite)
    | fail_if_no_progress with_reducible refine Keeps.of ?_ rfl idp idp idp idp | dsimp only | split

theorem keeps_sendTagged {z0 : State} (num : Nat) (addr : Nat) (port : Nat) (kind : Nat) (body : List Byte) (s : State)
    (hK : Keeps z0 s) :
    Keeps z0 (sendTagged num addr port kind body s) := by
  unfold sendTagged
  repeat' first
    | (with_reducible first | assumption | exact Keeps.refl _ | intro _ | apply keeps_sendPacket | apply Keeps.ite)
    | fail_if_no_progress with_reducible refine Keeps.of ?_ rfl idp idp idp idp | dsimp only | split

theorem keeps_sendUntagged {z0 : State} (num : Nat) (addr : Nat) (port : Nat) (r : Reply) (s : State) (hK : Keeps z0 s) :
    Keeps z0 (sendUntagged num addr port r s) := by
  unfold sendUntagged
  repeat' first
    | (with_reducible first | assumption | exact Keeps.refl _ | intro _ | apply keeps_sendPacket | apply Keeps.ite)
    | fail_if_no_progress with_reducible refine Keeps.of ?_ rfl idp idp idp idp | dsimp only | split

theorem keeps_sendReply {z0 : State} (o : Origin) (r : Reply) (inline : List Byte) (s : State) (hK : Keeps z0 s) :
    Keeps z0 (sendReply o r inline s) := by
  unfold sendReply
  repeat' first
    | (with_reducible first | assumption | exact Keeps.refl _ | intro _ | apply keeps_updRingSet | apply keeps_sendTagged
                            | apply Keeps.ite)
    | fail_if_no_progress with_reducible refine Keeps.of ?_ rfl idp idp idp idp | dsimp only | split

theorem keeps_keepReply {z0 : State} (o : Origin) (r : Reply) (s : State) (hK : Keeps z0 s) : Keeps z0 (keepReply o r s) := by
  unfold keepReply
  repeat' first
    | (with_reducible first | assumption | exact Keeps.refl _ | intro _ | apply keeps_updRingSet | apply keeps_updSession
                            | apply Keeps.ite)
    | fail_if_no_progress with_reducible refine Keeps.of ?_ rfl idp idp idp idp | dsimp only | split

theorem keeps_refuseCmd {z0 : State} (c : Cmd) (status : Nat) (det : List Nat) (s : State) (hK : Keeps z0 s) :
    Keeps z0 (refuseCmd c status det s) := by
  unfold refuseCmd
  repeat' first
    | (with_reducible first | assumption | exact Keeps.refl _ | intro _ | apply keeps_sendReply | apply keeps_regCount
                            | apply Keeps.ite)
    | fail_if_no_progress with_reducible refine Keeps.of ?_ rfl idp idp idp idp | dsimp only | split

theorem keeps_refuseCfg {z0 : State} (c : Cmd) (code : Nat) (index : Nat) (off : Nat) (s : State) (hK : Keeps z0 s) :
    Keeps z0 (refuseCfg c code index off s) := by
  unfold refuseCfg
  repeat' first
    | (with_reducible first | assumption | exact Keeps.refl _ | intro _ | apply keeps_refuseCmd | apply Keeps.ite)
    | fail_if_no_progress with_reducible refine Keeps.of ?_ rfl idp idp idp idp | dsimp only | split

theorem keeps_acceptCmd {z0 : State} (c : Cmd) (at_ : Nat) (phase : Nat) (vals : List Nat) (s : State) (hK : Keeps z0 s) :
    Keeps z0 (acceptCmd c at_ phase vals s) := by
  unfold acceptCmd
  repeat' first
    | (with_reducible first | assumption | exact Keeps.refl _ | intro _ | apply keeps_regCount | apply Keeps.ite)
    | fail_if_no_progress with_reducible refine Keeps.of ?_ rfl idp idp idp idp | dsimp only | split

theorem keeps_updJob {z0 : State} (id : Nat) (f : Job → Job) (s : State) (hK : Keeps z0 s) : Keeps z0 (updJob id f s) := by
  unfold updJob
  repeat' first
    | (with_reducible first | assumption | exact Keeps.refl _ | intro _ | apply Keeps.ite)
    | fail_if_no_progress with_reducible refine Keeps.of ?_ rfl idp idp idp idp | dsimp only | split

theorem keeps_dropJob {z0 : State} (id : Nat) (s : State) (hK : Keeps z0 s) : Keeps z0 (dropJob id s) := by
  unfold dropJob
  repeat' first
    | (with_reducible first | assumption | exact Keeps.refl _ | intro _ | apply Keeps.ite)
    | fail_if_no_progress with_reducible refine Keeps.of ?_ rfl idp idp idp idp | dsimp only | split

theorem keeps_endJobWith {z0 : State} (j : Job) (status : Nat) (gnum : Nat) (det : List Nat) (inline : List Byte)
    (kept : Bool) (s : State) (hK : Keeps z0 s) :
    Keeps z0 (endJobWith j status gnum det inline kept s) := by
  unfold endJobWith
  repeat' first
    | (with_reducible first | assumption | exact Keeps.refl _ | intro _ | apply keeps_dropJob | apply keeps_sendReply
                            | apply keeps_keepReply | apply Keeps.ite)
    | fail_if_no_progress with_reducible refine Keeps.of ?_ rfl idp idp idp idp | dsimp only | split

theorem keeps_endJob {z0 : State} (j : Job) (status : Nat) (gnum : Nat) (det : List Nat) (s : State) (hK : Keeps z0 s) :
    Keeps z0 (endJob j status gnum det s) := by
  unfold endJob
  repeat' first
    | (with_reducible first | assumption | exact Keeps.refl _ | intro _ | apply keeps_endJobWith | apply Keeps.ite)
    | fail_if_no_progress with_reducible refine Keeps.of ?_ rfl idp idp idp idp | dsimp only | split

theorem keeps_completeCmd {z0 : State} (c : Cmd) (status : Nat) (gnum : Nat) (det : List Nat) (inline : List Byte)
    (s : State) (hK : Keeps z0 s) :
    Keeps z0 (completeCmd c status gnum det inline s) := by
  unfold completeCmd
  repeat' first
    | (with_reducible first | assumption | exact Keeps.refl _ | intro _ | apply keeps_sendReply | apply keeps_keepReply
                            | apply keeps_regCount | apply Keeps.ite)
    | fail_if_no_progress with_reducible refine Keeps.of ?_ rfl idp idp idp idp | dsimp only | split

theorem keeps_pushXfer {z0 : State} (y0 : Nat) (y1 : Xfer) (y2 : State) (hK : Keeps z0 y2) :
    Keeps z0 (pushXfer y0 y1 y2).2 := by
  induction y0 generalizing y1 y2 with
  | zero => ?_
  | succ n ih => ?_
  all_goals unfold pushXfer
  repeat' first
    | (with_reducible first | assumption | exact Keeps.refl _ | intro _ | apply ih | apply keeps_sendTagged | apply Keeps.ite)
    | fail_if_no_progress with_reducible refine Keeps.of ?_ rfl idp idp idp idp | dsimp only | split

theorem keeps_startXfer {z0 : State} (j : Job) (kind : Nat) (status : Nat) (det : List Nat) (data : List Byte) (s : State)
    (hK : Keeps z0 s) :
    Keeps z0 (startXfer j kind status det data s) := by
  unfold startXfer
  repeat' first
    | (with_reducible first | assumption | exact Keeps.refl _ | intro _ | apply keeps_pushXfer | apply Keeps.ite)
    | fail_if_no_progress with_reducible refine Keeps.of ?_ rfl idp idp idp idp | dsimp only | split

theorem keeps_deliverOut {z0 : State} (j : Job) (outAddr : Nat) (status : Nat) (det : List Nat) (data : List Byte)
    (s : State) (hK : Keeps z0 s) :
    Keeps z0 (deliverOut j outAddr status det data s) := by
  unfold deliverOut
  repeat' first
    | (with_reducible first | assumption | exact Keeps.refl _ | intro _ | apply keeps_endJob | apply keeps_poke
                            | apply keeps_endJobWith | apply keeps_startXfer | apply Keeps.ite)
    | fail_if_no_progress with_reducible refine Keeps.of ?_ rfl idp idp idp idp | dsimp only | split

theorem keeps_answerOut {z0 : State} (c : Cmd) (outAddr : Nat) (det : List Nat) (data : List Byte) (s : State)
    (hK : Keeps z0 s) :
    Keeps z0 (answerOut c outAddr det data s) := by
  unfold answerOut
  repeat' first
    | (with_reducible first | assumption | exact Keeps.refl _ | intro _ | apply keeps_acceptCmd | apply keeps_deliverOut
                            | apply Keeps.ite)
    | fail_if_no_progress with_reducible refine Keeps.of ?_ rfl idp idp idp idp | dsimp only | split

theorem keeps_closeSession {z0 : State} (n : Nat) (s : State) (hK : Keeps z0 s) : Keeps z0 (closeSession n s) := by
  unfold closeSession
  repeat' first
    | (with_reducible first | assumption | exact Keeps.refl _ | intro _ | apply Keeps.ite)
    | fail_if_no_progress with_reducible refine Keeps.of ?_ rfl idp idp idp idp | dsimp only | split

theorem keeps_closeSessions {z0 : State} (s : State) (hK : Keeps z0 s) : Keeps z0 (closeSessions s) := by
  unfold closeSessions
  repeat' first
    | (with_reducible first | assumption | exact Keeps.refl _ | intro _ | apply keeps_closeSession | apply Keeps.ite
                            | apply Keeps.foldl | apply Keeps.foldl_fst | apply Keeps.foldl_snd | apply Keeps.foldl_third)
    | fail_if_no_progress with_reducible refine Keeps.of ?_ rfl idp idp idp idp | dsimp only | split

theorem keeps_tagCheck {z0 : State} (c : Cmd) (s t : State) (hK : Keeps z0 s) (e : tagCheck c s = some t) : Keeps z0 t := by
  unfold tagCheck at e
  dsimp only at e
  repeat' split at e
  all_goals first | (cases e; done) | skip
  all_goals obtain rfl := Option.some.inj e
  · exact keeps_sendReply _ _ _ _ hK
  · exact keeps_refuseCmd _ _ _ _ hK
  · exact hK.of rfl idp idp idp idp
  all_goals exact keeps_refuseCmd _ _ _ _ hK

theorem keeps_admitCmd {z0 : State} (c : Cmd) (bs : List Byte) (go : Cmd → State → State) (s : State) (h_go : ∀ (y : State)
    (a0 : Cmd) (a1 : State), Keeps y a1 → Keeps y (go a0 a1)) (hK : Keeps z0 s) :
    Keeps z0 (admitCmd c bs go s) := by
  unfold admitCmd
  repeat' first
    | (with_reducible first | assumption | exact Keeps.refl _ | intro _ | refine keeps_tagCheck _ _ _ ?_ (by assumption)
                            | apply keeps_refuseCmd | apply h_go | apply Keeps.ite)
    | fail_if_no_progress with_reducible refine Keeps.of ?_ rfl idp idp idp idp | dsimp only | split

theorem keeps_popRing {z0 : State} (c : Nat) (urgent : Bool) (seq : Nat) (s : State) (hK : Keeps z0 s) :
    Keeps z0 (popRing c urgent seq s) := by
  unfold popRing
  repeat' first
    | (with_reducible first | assumption | exact Keeps.refl _ | intro _ | apply keeps_updRingSet | apply Keeps.ite)
    | fail_if_no_progress with_reducible refine Keeps.of ?_ rfl idp idp idp idp | dsimp only | split

theorem keeps_takeRing {z0 : State} (c : Nat) (urgent : Bool) (bs : List Byte) (go : Cmd → State → State) (s : State)
    (h_go : ∀ (y : State) (a0 : Cmd) (a1 : State), Keeps y a1 → Keeps y (go a0 a1)) (hK : Keeps z0 s) :
    Keeps z0 (takeRing c urgent bs go s) := by
  unfold takeRing
  repeat' first
    | (with_reducible first | assumption | exact Keeps.refl _ | intro _ | apply keeps_popRing | apply keeps_refuseCmd
                            | apply keeps_admitCmd | apply h_go | apply Keeps.ite)
    | fail_if_no_progress with_reducible refine Keeps.of ?_ rfl idp idp idp idp | dsimp only | split

theorem keeps_refuseReserved {z0 : State} (c : Nat) (urgent : Bool) (y2 : Nat) (y3 : State) (hK : Keeps z0 y3) :
    Keeps z0 (refuseReserved c urgent y2 y3) := by
  induction y2 generalizing y3 with
  | zero => ?_
  | succ n ih => ?_
  all_goals unfold refuseReserved
  repeat' first
    | (with_reducible first | assumption | exact Keeps.refl _ | intro _ | apply ih | apply keeps_takeRing | apply Keeps.ite)
    | fail_if_no_progress with_reducible refine Keeps.of ?_ rfl idp idp idp idp | dsimp only | split

theorem keeps_noteSeq {z0 : State} (n : Nat) (q : Nat) (s : State) (hK : Keeps z0 s) : Keeps z0 (noteSeq n q s) := by
  unfold noteSeq
  repeat' first
    | (with_reducible first | assumption | exact Keeps.refl _ | intro _ | apply keeps_updSession | apply Keeps.ite)
    | fail_if_no_progress with_reducible refine Keeps.of ?_ rfl idp idp idp idp | dsimp only | split

theorem keeps_takeDatagram {z0 : State} (opc : Nat) (d : Datagram) (go : Cmd → State → State) (s : State) (h_go : ∀
    (y : State) (a0 : Cmd) (a1 : State), Keeps y a1 → Keeps y (go a0 a1)) (hK : Keeps z0 s) :
    Keeps z0 (takeDatagram opc d go s) := by
  unfold takeDatagram
  repeat' first
    | (with_reducible first | assumption | exact Keeps.refl _ | intro _ | apply keeps_admitCmd | apply keeps_noteSeq
                            | apply keeps_regCount | apply h_go | apply Keeps.ite)
    | fail_if_no_progress with_reducible refine Keeps.of ?_ rfl idp idp idp idp | dsimp only | split

theorem keeps_takeQueued {z0 : State} (opc : Nat) (i : Nat) (go : Cmd → State → State) (s : State) (h_go : ∀ (y : State)
    (a0 : Cmd) (a1 : State), Keeps y a1 → Keeps y (go a0 a1)) (hK : Keeps z0 s) :
    Keeps z0 (takeQueued opc i go s) := by
  unfold takeQueued
  repeat' first
    | (with_reducible first | assumption | exact Keeps.refl _ | intro _ | apply h_go | apply Keeps.ite)
    | fail_if_no_progress with_reducible refine Keeps.of ?_ rfl idp idp idp idp | dsimp only | split

theorem keeps_command {z0 : State} (opc : Nat) (r : Route) (go : Cmd → State → State) (s : State) (h_go : ∀ (y : State)
    (a0 : Cmd) (a1 : State), Keeps y a1 → Keeps y (go a0 a1)) (hK : Keeps z0 s) :
    Keeps z0 (command opc r go s) := by
  unfold command
  repeat' first
    | (with_reducible first | assumption | exact Keeps.refl _ | intro _ | apply keeps_flushOut | apply keeps_refuseReserved
                            | apply keeps_takeRing | apply keeps_takeDatagram | apply keeps_takeQueued | apply h_go
                            | apply Keeps.ite)
    | fail_if_no_progress with_reducible refine Keeps.of ?_ rfl idp idp idp idp | dsimp only | split

theorem keeps_readRegions {z0 : State} (h : LineHit) (y1 : List (Nat × Nat)) (y2 : Nat) (y3 : State) (hK : Keeps z0 y3) :
    Keeps z0 (readRegions h y1 y2 y3).2 := by
  induction y1 generalizing y2 y3 with
  | nil => ?_
  | cons p t ih => ?_
  all_goals unfold readRegions
  repeat' first
    | (with_reducible first | assumption | exact Keeps.refl _ | intro _ | apply ih | apply keeps_physRead | apply Keeps.ite)
    | fail_if_no_progress with_reducible refine Keeps.of ?_ rfl idp idp idp idp | dsimp only | split

theorem keeps_recordOnly {z0 : State} (f : FaultRec) (ctx : Nat) (s : State) (hK : Keeps z0 s) :
    Keeps z0 (recordOnly f ctx s) := by
  unfold recordOnly
  repeat' first
    | (with_reducible first | assumption | exact Keeps.refl _ | intro _ | apply keeps_poke | apply keeps_tallyAdd
                            | apply keeps_updKept | apply keeps_record0 | apply Keeps.ite)
    | fail_if_no_progress with_reducible refine Keeps.of ?_ rfl idp idp idp idp | dsimp only | split

theorem keeps_recordUe {z0 : State} (ctx : Nat) (pa : Nat) (s : State) (hK : Keeps z0 s) : Keeps z0 (recordUe ctx pa s) := by
  unfold recordUe
  repeat' first
    | (with_reducible first | assumption | exact Keeps.refl _ | intro _ | apply keeps_recordOnly | apply Keeps.ite)
    | fail_if_no_progress with_reducible refine Keeps.of ?_ rfl idp idp idp idp | dsimp only | split

theorem keeps_readingCmd {z0 : State} (c : Cmd) (regions : List (Nat × Nat)) (h : LineHit) (go : State → State) (s : State)
    (h_go : ∀ (y : State) (a0 : State), Keeps y a0 → Keeps y (go a0)) (hK : Keeps z0 s) :
    Keeps z0 (readingCmd c regions h go s) := by
  unfold readingCmd
  repeat' first
    | (with_reducible first | assumption | exact Keeps.refl _ | intro _ | refine Keeps.of_snd (by assumption) ?_
                            | refine Keeps.of_fst (by assumption) ?_ | apply keeps_readRegions | apply keeps_completeCmd
                            | apply keeps_recordUe | apply h_go | apply Keeps.ite)
    | fail_if_no_progress with_reducible refine Keeps.of ?_ rfl idp idp idp idp | dsimp only | split

theorem keeps_flashPut {z0 : State} (off : Nat) (bs : List Byte) (s : State) (hK : Keeps z0 s) :
    Keeps z0 (flashPut off bs s) := by
  unfold flashPut
  repeat' first
    | (with_reducible first | assumption | exact Keeps.refl _ | intro _ | apply Keeps.ite)
    | fail_if_no_progress with_reducible refine Keeps.of ?_ rfl idp idp idp idp | dsimp only | split

theorem keeps_flashErase {z0 : State} (off : Nat) (n : Nat) (s : State) (hK : Keeps z0 s) : Keeps z0 (flashErase off n s) := by
  unfold flashErase
  repeat' first
    | (with_reducible first | assumption | exact Keeps.refl _ | intro _ | apply Keeps.ite)
    | fail_if_no_progress with_reducible refine Keeps.of ?_ rfl idp idp idp idp | dsimp only | split

theorem keeps_rewriteBoot {z0 : State} (active : Nat) (trial : Bool) (floor : Nat) (s : State) (hK : Keeps z0 s) :
    Keeps z0 (rewriteBoot active trial floor s) := by
  unfold rewriteBoot
  repeat' first
    | (with_reducible first | assumption | exact Keeps.refl _ | intro _ | apply keeps_flashPut | apply keeps_flashErase
                            | apply Keeps.ite)
    | fail_if_no_progress with_reducible refine Keeps.of ?_ rfl idp idp idp idp | dsimp only | split

theorem keeps_programOwner {z0 : State} (secret : List Byte) (b : List Byte) (s : State) (hK : Keeps z0 s) :
    Keeps z0 (programOwner secret b s) := by
  unfold programOwner
  repeat' first
    | (with_reducible first | assumption | exact Keeps.refl _ | intro _ | apply keeps_flashPut | apply keeps_flashErase
                            | apply Keeps.ite)
    | fail_if_no_progress with_reducible refine Keeps.of ?_ rfl idp idp idp idp | dsimp only | split

theorem keeps_startCheckpoint {z0 : State} (s : State) (hK : Keeps z0 s) : Keeps z0 (startCheckpoint s) := by
  unfold startCheckpoint
  repeat' first
    | (with_reducible first | assumption | exact Keeps.refl _ | intro _ | apply Keeps.ite)
    | fail_if_no_progress with_reducible refine Keeps.of ?_ rfl idp idp idp idp | dsimp only | split

theorem keeps_askCheckpoint {z0 : State} (s : State) (hK : Keeps z0 s) : Keeps z0 (askCheckpoint s) := by
  unfold askCheckpoint
  repeat' first
    | (with_reducible first | assumption | exact Keeps.refl _ | intro _ | apply keeps_startCheckpoint | apply Keeps.ite)
    | fail_if_no_progress with_reducible refine Keeps.of ?_ rfl idp idp idp idp | dsimp only | split

theorem keeps_programRec {z0 : State} (r : LogRec) (s : State) (hK : Keeps z0 s) : Keeps z0 (programRec r s) := by
  unfold programRec
  repeat' first
    | (with_reducible first | assumption | exact Keeps.refl _ | intro _ | apply keeps_regSet | apply keeps_askCheckpoint
                            | apply Keeps.ite)
    | fail_if_no_progress with_reducible refine Keeps.of ?_ rfl idp idp idp idp | dsimp only | split

theorem keeps_replayRec {z0 : State} (counted : Bool) (r : LogRec) (s : State) (hK : Keeps z0 s) :
    Keeps z0 (replayRec counted s r) := by
  unfold replayRec
  repeat' first
    | (with_reducible first | assumption | exact Keeps.refl _ | exact idp | refine memOf ?_ ?_ ?_ ?_ ?_ ?_ ?_ ?_ ?_
                            | refine sWf_refill _ (fun _ => rfl) ?_ | apply sWf_set | apply sWf_upd | intro _
                            | apply keeps_tallyAdd | apply keeps_tallyGauge | apply keeps_updDie | apply keeps_updCell
                            | apply Keeps.ite)
    | fail_if_no_progress with_reducible refine Keeps.of ?_ rfl idp idp idp idp | dsimp only | split
    | fail_if_no_progress (with_reducible refine Keeps.of ?_ rfl idp ?_ idp idp <;> try with_reducible exact idp)

theorem keeps_replayPart {z0 : State} (r : LogRec) (s : State) (hK : Keeps z0 s) : Keeps z0 (replayPart s r) := by
  unfold replayPart
  repeat' first
    | (with_reducible first | assumption | exact Keeps.refl _ | intro _ | apply Keeps.ite | apply Keeps.foldl
                            | apply Keeps.foldl_fst | apply Keeps.foldl_snd | apply Keeps.foldl_third)
    | fail_if_no_progress with_reducible refine Keeps.of ?_ rfl idp idp idp idp | dsimp only | split

theorem keeps_replayLog {z0 : State} (torn : Option Nat) (version : Nat) (s : State) (hK : Keeps z0 s) :
    Keeps z0 (replayLog torn version s) := by
  unfold replayLog
  repeat' first
    | (with_reducible first | assumption | exact Keeps.refl _ | intro _ | apply keeps_replayPart | apply keeps_replayRec
                            | apply keeps_commitFence | apply keeps_applyFence | apply keeps_logAppend | apply Keeps.ite
                            | apply Keeps.foldl | apply Keeps.foldl_fst | apply Keeps.foldl_snd | apply Keeps.foldl_third)
    | fail_if_no_progress with_reducible refine Keeps.of ?_ rfl idp idp idp idp | dsimp only | split

theorem keeps_reportGet {z0 : State} (c : Cmd) (s : State) (hK : Keeps z0 s) : Keeps z0 (reportGet c s) := by
  unfold reportGet
  repeat' first
    | (with_reducible first | assumption | exact Keeps.refl _ | intro _ | apply keeps_refuseCmd | apply keeps_acceptCmd
                            | apply Keeps.ite)
    | fail_if_no_progress with_reducible refine Keeps.of ?_ rfl idp idp idp idp | dsimp only | split

theorem keeps_sendReports {z0 : State} (s : State) (hK : Keeps z0 s) : Keeps z0 (sendReports s) := by
  unfold sendReports
  repeat' first
    | (with_reducible first | assumption | exact Keeps.refl _ | intro _ | apply keeps_updJob | apply keeps_regCount
                            | apply keeps_deliverOut | apply Keeps.ite | apply Keeps.foldl | apply Keeps.foldl_fst
                            | apply Keeps.foldl_snd | apply Keeps.foldl_third)
    | fail_if_no_progress with_reducible refine Keeps.of ?_ rfl idp idp idp idp | dsimp only | split

theorem keeps_ignoreDoorbell {z0 : State} (s : State) (hK : Keeps z0 s) : Keeps z0 (ignoreDoorbell s) := by
  unfold ignoreDoorbell
  repeat' first
    | (with_reducible first | assumption | exact Keeps.refl _ | intro _ | apply keeps_regCount | apply Keeps.ite)
    | fail_if_no_progress with_reducible refine Keeps.of ?_ rfl idp idp idp idp | dsimp only | split

theorem keeps_publishTail {z0 : State} (c : Nat) (urgent : Bool) (tail : Nat) (s : State) (hK : Keeps z0 s) :
    Keeps z0 (publishTail c urgent tail s) := by
  unfold publishTail
  repeat' first
    | (with_reducible first | assumption | exact Keeps.refl _ | intro _ | apply keeps_ignoreDoorbell
                            | apply keeps_refuseReserved | apply keeps_updRingSet | apply Keeps.ite)
    | fail_if_no_progress with_reducible refine Keeps.of ?_ rfl idp idp idp idp | dsimp only | split

theorem keeps_publishHead {z0 : State} (c : Nat) (head : Nat) (s : State) (hK : Keeps z0 s) :
    Keeps z0 (publishHead c head s) := by
  unfold publishHead
  repeat' first
    | (with_reducible first | assumption | exact Keeps.refl _ | intro _ | apply keeps_ignoreDoorbell
                            | apply keeps_refuseReserved | apply keeps_updRingSet | apply Keeps.ite)
    | fail_if_no_progress with_reducible refine Keeps.of ?_ rfl idp idp idp idp | dsimp only | split

theorem keeps_postReply {z0 : State} (c : Nat) (s : State) (hK : Keeps z0 s) : Keeps z0 (postReply c s) := by
  unfold postReply
  repeat' first
    | (with_reducible first | assumption | exact Keeps.refl _ | intro _ | apply keeps_updRingSet | apply keeps_poke
                            | apply Keeps.ite)
    | fail_if_no_progress with_reducible refine Keeps.of ?_ rfl idp idp idp idp | dsimp only | split

theorem keeps_ringSetCmd {z0 : State} (c : Cmd) (s : State) (hK : Keeps z0 s) : Keeps z0 (ringSetCmd c s) := by
  unfold ringSetCmd
  repeat' first
    | (with_reducible first | assumption | exact Keeps.refl _ | intro _ | apply keeps_refuseCmd | apply keeps_updRingSet
                            | apply keeps_completeCmd | apply keeps_refuseCfg | apply Keeps.ite)
    | fail_if_no_progress with_reducible refine Keeps.of ?_ rfl idp idp idp idp | dsimp only | split

theorem keeps_dropDatagram {z0 : State} (d : Datagram) (s : State) (hK : Keeps z0 s) : Keeps z0 (dropDatagram d s) := by
  unfold dropDatagram
  repeat' first
    | (with_reducible first | assumption | exact Keeps.refl _ | intro _ | apply keeps_regCount | apply keeps_takeDatagram
                            | apply Keeps.ite)
    | fail_if_no_progress with_reducible refine Keeps.of ?_ rfl idp idp idp idp | dsimp only | split

theorem keeps_refuseUntagged {z0 : State} (c : Cmd) (num : Nat) (addr : Nat) (port : Nat) (status : Nat) (det : List Nat)
    (s : State) (hK : Keeps z0 s) :
    Keeps z0 (refuseUntagged c num addr port status det s) := by
  unfold refuseUntagged
  repeat' first
    | (with_reducible first | assumption | exact Keeps.refl _ | intro _ | apply keeps_sendUntagged | apply keeps_regCount
                            | apply Keeps.ite)
    | fail_if_no_progress with_reducible refine Keeps.of ?_ rfl idp idp idp idp | dsimp only | split

theorem keeps_hello {z0 : State} (d : Datagram) (s : State) (hK : Keeps z0 s) : Keeps z0 (hello d s) := by
  unfold hello
  repeat' first
    | (with_reducible first | assumption | exact Keeps.refl _ | intro _ | apply keeps_regCount | apply keeps_refuseUntagged
                            | apply keeps_takeFree | apply keeps_sendUntagged | apply Keeps.ite)
    | fail_if_no_progress with_reducible refine Keeps.of ?_ rfl idp idp idp idp | dsimp only | split

theorem keeps_openSession {z0 : State} (d : Datagram) (s : State) (hK : Keeps z0 s) : Keeps z0 (openSession d s) := by
  unfold openSession
  repeat' first
    | (with_reducible first | assumption | exact Keeps.refl _ | intro _ | apply keeps_regCount | apply keeps_refuseUntagged
                            | apply keeps_updSession | apply keeps_completeCmd | apply Keeps.ite)
    | fail_if_no_progress with_reducible refine Keeps.of ?_ rfl idp idp idp idp | dsimp only | split

theorem keeps_endXfer {z0 : State} (x : Xfer) (status : Nat) (s : State) (hK : Keeps z0 s) : Keeps z0 (endXfer x status s) := by
  unfold endXfer
  repeat' first
    | (with_reducible first | assumption | exact Keeps.refl _ | intro _ | apply keeps_endJob | apply Keeps.ite)
    | fail_if_no_progress with_reducible refine Keeps.of ?_ rfl idp idp idp idp | dsimp only | split

theorem keeps_putXfer {z0 : State} (x : Xfer) (s : State) (hK : Keeps z0 s) : Keeps z0 (putXfer x s) := by
  unfold putXfer
  repeat' first
    | (with_reducible first | assumption | exact Keeps.refl _ | intro _ | apply Keeps.ite)
    | fail_if_no_progress with_reducible refine Keeps.of ?_ rfl idp idp idp idp | dsimp only | split

theorem keeps_ackXfer {z0 : State} (c : Cmd) (s : State) (hK : Keeps z0 s) : Keeps z0 (ackXfer c s) := by
  unfold ackXfer
  repeat' first
    | (with_reducible first | assumption | exact Keeps.refl _ | intro _ | apply keeps_completeCmd | apply keeps_endXfer
                            | apply keeps_pushXfer | apply keeps_putXfer | apply Keeps.ite)
    | fail_if_no_progress with_reducible refine Keeps.of ?_ rfl idp idp idp idp | dsimp only | split

theorem keeps_bootFails {z0 : State} (error : Nat) (s : State) (hK : Keeps z0 s) : Keeps z0 (bootFails error s) := by
  unfold bootFails
  repeat' first
    | (with_reducible first | assumption | exact Keeps.refl _ | intro _ | apply Keeps.ite)
    | fail_if_no_progress with_reducible refine Keeps.of ?_ rfl idp idp idp idp | dsimp only | split

theorem keeps_bootError {z0 : State} (error : Nat) (s : State) (hK : Keeps z0 s) : Keeps z0 (bootError error s) := by
  unfold bootError
  repeat' first
    | (with_reducible first | assumption | exact Keeps.refl _ | intro _ | apply Keeps.ite)
    | fail_if_no_progress with_reducible refine Keeps.of ?_ rfl idp idp idp idp | dsimp only | split

theorem keeps_loadCellRepair {z0 : State} (s : State) (hK : Keeps z0 s) : Keeps z0 (loadCellRepair s) := by
  unfold loadCellRepair
  repeat' first
    | (with_reducible first | assumption | exact Keeps.refl _ | intro _ | apply keeps_updCell | apply keeps_updBlk
                            | apply Keeps.ite | apply Keeps.foldl | apply Keeps.foldl_fst | apply Keeps.foldl_snd
                            | apply Keeps.foldl_third)
    | fail_if_no_progress with_reducible refine Keeps.of ?_ rfl idp idp idp idp | dsimp only | split

theorem keeps_loadArrayRepair {z0 : State} (s : State) (hK : Keeps z0 s) : Keeps z0 (loadArrayRepair s) := by
  unfold loadArrayRepair
  repeat' first
    | (with_reducible first | assumption | exact Keeps.refl _ | intro _ | apply keeps_updCell | apply Keeps.ite
                            | apply Keeps.foldl | apply Keeps.foldl_fst | apply Keeps.foldl_snd | apply Keeps.foldl_third)
    | fail_if_no_progress with_reducible refine Keeps.of ?_ rfl idp idp idp idp | dsimp only | split

theorem keeps_bootStage3 {z0 : State} (s : State) (hK : Keeps z0 s) : Keeps z0 (bootStage3 s) := by
  unfold bootStage3
  repeat' first
    | (with_reducible first | assumption | exact Keeps.refl _ | intro _ | apply keeps_bootFails | apply keeps_loadArrayRepair
                            | apply keeps_loadCellRepair | apply keeps_regSet | apply keeps_bootError | apply Keeps.ite)
    | fail_if_no_progress with_reducible refine Keeps.of ?_ rfl idp idp idp idp | dsimp only | split

theorem keeps_bootStage4 {z0 : State} (fails : BitVec 8) (s : State) (hK : Keeps z0 s) : Keeps z0 (bootStage4 fails s) := by
  unfold bootStage4
  repeat' first
    | (with_reducible first | assumption | exact Keeps.refl _ | intro _ | apply keeps_updDie | apply Keeps.ite
                            | apply Keeps.foldl | apply Keeps.foldl_fst | apply Keeps.foldl_snd | apply Keeps.foldl_third)
    | fail_if_no_progress with_reducible refine Keeps.of ?_ rfl idp idp idp idp | dsimp only | split

theorem keeps_addMeasure {z0 : State} (type : Nat) (version : Nat) (bytes : List Byte) (s : State) (hK : Keeps z0 s) :
    Keeps z0 (addMeasure type version bytes s) := by
  unfold addMeasure
  repeat' first
    | (with_reducible first | assumption | exact Keeps.refl _ | intro _ | apply Keeps.ite)
    | fail_if_no_progress with_reducible refine Keeps.of ?_ rfl idp idp idp idp | dsimp only | split

theorem keeps_emptyChain {z0 : State} (s : State) (hK : Keeps z0 s) : Keeps z0 (emptyChain s) := by
  unfold emptyChain
  repeat' first
    | (with_reducible first | assumption | exact Keeps.refl _ | intro _ | apply Keeps.ite)
    | fail_if_no_progress with_reducible refine Keeps.of ?_ rfl idp idp idp idp | dsimp only | split

theorem keeps_measureBoot {z0 : State} (s : State) (hK : Keeps z0 s) : Keeps z0 (measureBoot s) := by
  unfold measureBoot
  repeat' first
    | (with_reducible first | assumption | exact Keeps.refl _ | intro _ | apply keeps_addMeasure | apply keeps_emptyChain
                            | apply Keeps.ite)
    | fail_if_no_progress with_reducible refine Keeps.of ?_ rfl idp idp idp idp | dsimp only | split

theorem keeps_bootStage7 {z0 : State} (s : State) (hK : Keeps z0 s) : Keeps z0 (bootStage7 s) := by
  unfold bootStage7
  repeat' first
    | (with_reducible first | assumption | exact Keeps.refl _ | intro _ | apply keeps_measureBoot | apply keeps_rewriteBoot
                            | apply keeps_bootFails | apply Keeps.ite)
    | fail_if_no_progress with_reducible refine Keeps.of ?_ rfl idp idp idp idp | dsimp only | split

theorem keeps_loadPlatform {z0 : State} (s : State) (hK : Keeps z0 s) : Keeps z0 (loadPlatform s) := by
  unfold loadPlatform
  repeat' first
    | (with_reducible first | assumption | exact Keeps.refl _ | intro _ | apply keeps_updRingSet | apply Keeps.ite)
    | fail_if_no_progress with_reducible refine Keeps.of ?_ rfl idp idp idp idp | dsimp only | split

theorem keeps_bootStage8 {z0 : State} (s : State) (hK : Keeps z0 s) : Keeps z0 (bootStage8 s) := by
  unfold bootStage8
  repeat' first
    | (with_reducible first | assumption | exact Keeps.refl _ | intro _ | apply keeps_loadPlatform | apply keeps_addMeasure
                            | apply keeps_bootError | apply Keeps.ite)
    | fail_if_no_progress with_reducible refine Keeps.of ?_ rfl idp idp idp idp | dsimp only | split

theorem keeps_restartOzmin {z0 : State} (trialFail : Bool) (s : State) (hK : Keeps z0 s) :
    Keeps z0 (restartOzmin trialFail s) := by
  unfold restartOzmin
  repeat' first
    | (with_reducible first | assumption | exact Keeps.refl _ | intro _ | apply Keeps.ite)
    | fail_if_no_progress with_reducible refine Keeps.of ?_ rfl idp idp idp idp | dsimp only | split

theorem keeps_fwWrite {z0 : State} (h : LineHit) (c : Cmd) (s : State) (hK : Keeps z0 s) : Keeps z0 (fwWrite h c s) := by
  unfold fwWrite
  repeat' first
    | (with_reducible first | assumption | exact Keeps.refl _ | intro _ | apply keeps_refuseCmd | apply keeps_acceptCmd
                            | apply keeps_readingCmd | apply Keeps.ite)
    | fail_if_no_progress with_reducible refine Keeps.of ?_ rfl idp idp idp idp | dsimp only | split

theorem keeps_fwActivate {z0 : State} (c : Cmd) (s : State) (hK : Keeps z0 s) : Keeps z0 (fwActivate c s) := by
  unfold fwActivate
  repeat' first
    | (with_reducible first | assumption | exact Keeps.refl _ | intro _ | apply keeps_refuseCmd | apply keeps_rewriteBoot
                            | apply keeps_completeCmd | apply keeps_closeSessions | apply Keeps.ite)
    | fail_if_no_progress with_reducible refine Keeps.of ?_ rfl idp idp idp idp | dsimp only | split

theorem keeps_attestQuote {z0 : State} (c : Cmd) (s : State) (hK : Keeps z0 s) : Keeps z0 (attestQuote c s) := by
  unfold attestQuote
  repeat' first
    | (with_reducible first | assumption | exact Keeps.refl _ | intro _ | apply keeps_refuseCmd | apply keeps_answerOut
                            | apply Keeps.ite)
    | fail_if_no_progress with_reducible refine Keeps.of ?_ rfl idp idp idp idp | dsimp only | split

theorem keeps_ticketFloor {z0 : State} (c : Cmd) (s : State) (hK : Keeps z0 s) : Keeps z0 (ticketFloor c s) := by
  unfold ticketFloor
  repeat' first
    | (with_reducible first | assumption | exact Keeps.refl _ | intro _ | apply keeps_programOwner | apply keeps_completeCmd
                            | apply Keeps.ite)
    | fail_if_no_progress with_reducible refine Keeps.of ?_ rfl idp idp idp idp | dsimp only | split

theorem keeps_commitOwner {z0 : State} (s : State) (hK : Keeps z0 s) : Keeps z0 (commitOwner s) := by
  unfold commitOwner
  repeat' first
    | (with_reducible first | assumption | exact Keeps.refl _ | intro _ | apply Keeps.ite)
    | fail_if_no_progress with_reducible refine Keeps.of ?_ rfl idp idp idp idp | dsimp only | split

theorem keeps_releaseOwner {z0 : State} (s : State) (hK : Keeps z0 s) : Keeps z0 (releaseOwner s) := by
  unfold releaseOwner
  repeat' first
    | (with_reducible first | assumption | exact Keeps.refl _ | intro _ | apply Keeps.ite)
    | fail_if_no_progress with_reducible refine Keeps.of ?_ rfl idp idp idp idp | dsimp only | split

theorem keeps_stageWord {z0 : State} (i : Nat) (v : Word) (s : State) (hK : Keeps z0 s) : Keeps z0 (stageWord i v s) := by
  unfold stageWord
  repeat' first
    | (with_reducible first | assumption | exact Keeps.refl _ | intro _ | apply Keeps.ite)
    | fail_if_no_progress with_reducible refine Keeps.of ?_ rfl idp idp idp idp | dsimp only | split

theorem keeps_pwrCap {z0 : State} (c : Cmd) (s : State) (hK : Keeps z0 s) : Keeps z0 (pwrCap c s) := by
  unfold pwrCap
  repeat' first
    | (with_reducible first | assumption | exact Keeps.refl _ | intro _ | apply keeps_refuseCfg | apply keeps_acceptCmd
                            | apply Keeps.ite)
    | fail_if_no_progress with_reducible refine Keeps.of ?_ rfl idp idp idp idp | dsimp only | split

theorem keeps_pwrShare {z0 : State} (c : Cmd) (s : State) (hK : Keeps z0 s) : Keeps z0 (pwrShare c s) := by
  unfold pwrShare
  repeat' first
    | (with_reducible first | assumption | exact Keeps.refl _ | intro _ | apply keeps_refuseCmd | apply keeps_acceptCmd
                            | apply Keeps.ite)
    | fail_if_no_progress with_reducible refine Keeps.of ?_ rfl idp idp idp idp | dsimp only | split

theorem keeps_energyAccount {z0 : State} (unit : Nat) (e : Nat) (s : State) (hK : Keeps z0 s) :
    Keeps z0 (energyAccount unit e s) := by
  unfold energyAccount
  repeat' first
    | (with_reducible first | assumption | exact Keeps.refl _ | intro _ | apply keeps_tallyAdd | apply Keeps.ite)
    | fail_if_no_progress with_reducible refine Keeps.of ?_ rfl idp idp idp idp | dsimp only | split

theorem keeps_energyCtx {z0 : State} (c : Nat) (e : Nat) (s : State) (hK : Keeps z0 s) : Keeps z0 (energyCtx c e s) := by
  unfold energyCtx
  repeat' first
    | (with_reducible first | assumption | exact Keeps.refl _ | intro _ | apply keeps_tallyAdd | apply keeps_updKept
                            | apply Keeps.ite)
    | fail_if_no_progress with_reducible refine Keeps.of ?_ rfl idp idp idp idp | dsimp only | split

theorem keeps_divideEnergy {z0 : State} (e total : Nat) (l : List (Nat × Nat)) (left : Nat) (s : State) (hK : Keeps z0 s) :
    Keeps z0 (divideEnergy e total l left s) := by
  fun_induction divideEnergy e total l left s with
  | case1 => exact keeps_energyCtx _ _ _ hK
  | case2 => exact keeps_energyCtx _ _ _ hK
  | case3 _ _ _ _ _ _ ih => exact ih (keeps_energyCtx _ _ _ hK)

theorem keeps_shareEnergy {z0 : State} (e : Nat) (ws : List (Nat × Nat)) (s : State) (hK : Keeps z0 s) :
    Keeps z0 (shareEnergy e ws s) := by
  unfold shareEnergy
  repeat' first
    | (with_reducible first | assumption | exact Keeps.refl _ | intro _ | apply keeps_divideEnergy | apply Keeps.ite
                            | apply Keeps.foldl | apply Keeps.foldl_fst | apply Keeps.foldl_snd | apply Keeps.foldl_third)
    | fail_if_no_progress with_reducible refine Keeps.of ?_ rfl idp idp idp idp | dsimp only | split

theorem keeps_measuredPart {z0 : State} (unit : Nat) (p : Nat × Nat) (ws : List (Nat × Nat)) (s : State) (hK : Keeps z0 s) :
    Keeps z0 (measuredPart unit p ws s) := by
  unfold measuredPart
  repeat' first
    | (with_reducible first | assumption | exact Keeps.refl _ | intro _ | apply keeps_shareEnergy | apply keeps_energyCtx
                            | apply keeps_energyAccount | apply Keeps.ite)
    | fail_if_no_progress with_reducible refine Keeps.of ?_ rfl idp idp idp idp | dsimp only | split

theorem keeps_divideInterval {z0 : State} (m : PowerReading) (s : State) (hK : Keeps z0 s) : Keeps z0 (divideInterval m s) := by
  unfold divideInterval
  repeat' first
    | (with_reducible first | assumption | exact Keeps.refl _ | intro _ | apply keeps_measuredPart | apply keeps_energyCtx
                            | apply keeps_energyAccount | apply keeps_updCtx | apply Keeps.ite | apply Keeps.foldl
                            | apply Keeps.foldl_fst | apply Keeps.foldl_snd | apply Keeps.foldl_third)
    | fail_if_no_progress with_reducible refine Keeps.of ?_ rfl idp idp idp idp | dsimp only | split

theorem keeps_paceRegion {z0 : State} (m : PowerReading) (a : Bool × State) (r : Nat) (hK : Keeps z0 a.2) :
    Keeps z0 (paceRegion m a r).2 := by
  unfold paceRegion
  dsimp only
  exact (Keeps.foldl _ hK (fun y u a h => h.of rfl idp idp idp idp)).of rfl idp idp idp idp

theorem keeps_settleLoans {z0 : State} (s : State) (hK : Keeps z0 s) : Keeps z0 (settleLoans s) := by
  unfold settleLoans
  repeat' first
    | (with_reducible first | assumption | exact Keeps.refl _ | intro _ | apply keeps_reclaimPower | apply Keeps.ite
                            | apply Keeps.foldl | apply Keeps.foldl_fst | apply Keeps.foldl_snd | apply Keeps.foldl_third)
    | fail_if_no_progress with_reducible refine Keeps.of ?_ rfl idp idp idp idp | dsimp only | split

theorem keeps_haltAll {z0 : State} (s : State) (hK : Keeps z0 s) : Keeps z0 (haltAll s) := by
  unfold haltAll
  repeat' first
    | (with_reducible first | assumption | exact Keeps.refl _ | intro _ | apply Keeps.ite)
    | fail_if_no_progress with_reducible refine Keeps.of ?_ rfl idp idp idp idp | dsimp only | split

theorem keeps_darken {z0 : State} (s : State) (hK : Keeps z0 s) : Keeps z0 (darken s) := by
  unfold darken
  repeat' first
    | (with_reducible first | assumption | exact Keeps.refl _ | intro _ | apply Keeps.ite)
    | fail_if_no_progress with_reducible refine Keeps.of ?_ rfl idp idp idp idp | dsimp only | split

theorem keeps_endAllJobs {z0 : State} (s : State) (hK : Keeps z0 s) : Keeps z0 (endAllJobs s) := by
  unfold endAllJobs
  repeat' first
    | (with_reducible first | assumption | exact Keeps.refl _ | intro _ | apply keeps_endJob | apply keeps_dropJob
                            | apply keeps_refuseCmd | apply Keeps.ite | apply Keeps.foldl | apply Keeps.foldl_fst
                            | apply Keeps.foldl_snd | apply Keeps.foldl_third)
    | fail_if_no_progress with_reducible refine Keeps.of ?_ rfl idp idp idp idp | dsimp only | split

theorem keeps_enterSafeHold {z0 : State} (f : FaultRec) (s : State) (hK : Keeps z0 s) : Keeps z0 (enterSafeHold f s) := by
  unfold enterSafeHold
  dsimp only
  split
  · exact keeps_record0 _ _ hK
  · refine keeps_askCheckpoint _ ?_
    with_reducible refine Keeps.of ?_ rfl (fun _ => rfl) idp idp idp
    exact keeps_endAllJobs _ (keeps_darken _ (keeps_haltAll _ (keeps_raiseFault _ _ _ hK)))

/-- A reset leaves the queue as it is and memory good. -/
theorem resetDevice_pending (s : State) : (resetDevice s).pending = s.pending := rfl

theorem resetDevice_wf (s : State) : (resetDevice s).wf = true := by
  have : (resetDevice s).wf = State.reset.wf := rfl
  rw [this]; decide

theorem powerOff_pending (s : State) : (powerOff s).pending = s.pending := rfl

theorem powerOff_wf (s : State) : (powerOff s).wf = true := resetDevice_wf s

theorem keeps_envTrigger {z0 : State} (f : FaultRec) (s : State) (hK : Keeps z0 s) : Keeps z0 (envTrigger f s) := by
  unfold envTrigger
  dsimp only
  split
  · exact keeps_enterSafeHold _ _ hK
  · next h =>
    exact ⟨hK.queue, fun _ => resetDevice_wf s, fun a b => absurd (.inl (hK.hold a b).1) h⟩

theorem keeps_unitCheck {z0 : State} (f : FaultRec) (s : State) (hK : Keeps z0 s) : Keeps z0 (unitCheck f s) := by
  unfold unitCheck
  repeat' first
    | (with_reducible first | assumption | exact Keeps.refl _ | intro _ | apply keeps_flushOut | apply keeps_raiseDeviceFault
                            | apply Keeps.ite)
    | fail_if_no_progress with_reducible refine Keeps.of ?_ rfl idp idp idp idp | dsimp only | split

end Sys2Proof.Machine
end

