-- ==== Sys2Proof/Laws/KeepsJobs.lean ====
section
/-! SUPPORT. What the beat, commands and updates keep, one lemma for each. -/

set_option linter.unreachableTactic false
set_option linter.unusedTactic false

namespace Sys2Proof.Machine

theorem keeps_setField {z0 : State} (a : Nat) (hi : Nat) (lo : Nat) (v : Nat) (s : State) (hK : Keeps z0 s) :
    Keeps z0 (setField s a hi lo v) := by
  unfold setField
  repeat' first
    | (with_reducible first | assumption | exact Keeps.refl _ | intro _ | apply keeps_regSet | apply Keeps.ite)
    | fail_if_no_progress with_reducible refine Keeps.of ?_ rfl idp idp idp idp | dsimp only | split

theorem keeps_updBeat {z0 : State} (f : Beat → Beat) (s : State) (hK : Keeps z0 s) : Keeps z0 (updBeat f s) := by
  unfold updBeat
  repeat' first
    | (with_reducible first | assumption | exact Keeps.refl _ | intro _ | apply Keeps.ite)
    | fail_if_no_progress with_reducible refine Keeps.of ?_ rfl idp idp idp idp | dsimp only | split

theorem keeps_tellGroup {z0 : State} (type : Nat) (body : List Byte) (s : State) (hK : Keeps z0 s) :
    Keeps z0 (tellGroup type body s) := by
  unfold tellGroup
  repeat' first
    | (with_reducible first | assumption | exact Keeps.refl _ | intro _ | apply keeps_sendCtl | apply Keeps.ite
                            | apply Keeps.foldl | apply Keeps.foldl_fst | apply Keeps.foldl_snd | apply Keeps.foldl_third)
    | fail_if_no_progress with_reducible refine Keeps.of ?_ rfl idp idp idp idp | dsimp only | split

theorem keeps_addChange {z0 : State} (c : LenChange) (s : State) (hK : Keeps z0 s) : Keeps z0 (addChange c s) := by
  unfold addChange
  repeat' first
    | (with_reducible first | assumption | exact Keeps.refl _ | intro _ | apply keeps_updBeat | apply Keeps.ite)
    | fail_if_no_progress with_reducible refine Keeps.of ?_ rfl idp idp idp idp | dsimp only | split

theorem keeps_commandLen {z0 : State} (len : Nat) (stretch : Nat) (notice : Nat) (s : State) (hK : Keeps z0 s) :
    Keeps z0 (commandLen len stretch notice s) := by
  unfold commandLen
  repeat' first
    | (with_reducible first | assumption | exact Keeps.refl _ | intro _ | apply keeps_tellGroup | apply keeps_addChange
                            | apply Keeps.ite)
    | fail_if_no_progress with_reducible refine Keeps.of ?_ rfl idp idp idp idp | dsimp only | split

theorem keeps_applyLen {z0 : State} (gnum : Nat) (s : State) (hK : Keeps z0 s) : Keeps z0 (applyLen gnum s) := by
  unfold applyLen
  repeat' first
    | (with_reducible first | assumption | exact Keeps.refl _ | intro _ | apply keeps_setField | apply keeps_updBeat
                            | apply Keeps.ite)
    | fail_if_no_progress with_reducible refine Keeps.of ?_ rfl idp idp idp idp | dsimp only | split

theorem keeps_beatSet {z0 : State} (c : Cmd) (s : State) (hK : Keeps z0 s) : Keeps z0 (beatSet c s) := by
  unfold beatSet
  repeat' first
    | (with_reducible first | assumption | exact Keeps.refl _ | intro _ | apply keeps_refuseCmd | apply keeps_setField
                            | apply keeps_commandLen | apply keeps_acceptCmd | apply keeps_completeCmd | apply Keeps.ite)
    | fail_if_no_progress with_reducible refine Keeps.of ?_ rfl idp idp idp idp | dsimp only | split

theorem keeps_beatJoin {z0 : State} (c : Cmd) (s : State) (hK : Keeps z0 s) : Keeps z0 (beatJoin c s) := by
  unfold beatJoin
  repeat' first
    | (with_reducible first | assumption | exact Keeps.refl _ | intro _ | apply keeps_refuseCmd | apply keeps_regSet
                            | apply keeps_updBeat | apply keeps_acceptCmd | apply keeps_completeCmd | apply Keeps.ite)
    | fail_if_no_progress with_reducible refine Keeps.of ?_ rfl idp idp idp idp | dsimp only | split

theorem keeps_beatRow {z0 : State} (i : Nat) (type : Nat) (go : InMsg → State → State) (s : State) (h_go : ∀ (y : State)
    (a0 : InMsg) (a1 : State), Keeps y a1 → Keeps y (go a0 a1)) (hK : Keeps z0 s) :
    Keeps z0 (beatRow i type go s) := by
  unfold beatRow
  repeat' first
    | (with_reducible first | assumption | exact Keeps.refl _ | intro _ | apply keeps_freeMsg | apply keeps_flushOut
                            | apply h_go | apply Keeps.ite)
    | fail_if_no_progress with_reducible refine Keeps.of ?_ rfl idp idp idp idp | dsimp only | split

theorem keeps_sendSyncs {z0 : State} (s : State) (hK : Keeps z0 s) : Keeps z0 (sendSyncs s) := by
  unfold sendSyncs
  repeat' first
    | (with_reducible first | assumption | exact Keeps.refl _ | intro _ | apply keeps_updBeat | apply keeps_queueAt
                            | apply Keeps.ite | apply Keeps.foldl | apply Keeps.foldl_fst | apply Keeps.foldl_snd
                            | apply Keeps.foldl_third)
    | fail_if_no_progress with_reducible refine Keeps.of ?_ rfl idp idp idp idp | dsimp only | split

theorem keeps_endJoin {z0 : State} (status : Nat) (det : List Nat) (kept : Bool) (s : State) (hK : Keeps z0 s) :
    Keeps z0 (endJoin status det kept s) := by
  unfold endJoin
  repeat' first
    | (with_reducible first | assumption | exact Keeps.refl _ | intro _ | apply keeps_endJobWith | apply Keeps.ite)
    | fail_if_no_progress with_reducible refine Keeps.of ?_ rfl idp idp idp idp | dsimp only | split

theorem keeps_joinGroup {z0 : State} (m : InMsg) (s : State) (hK : Keeps z0 s) : Keeps z0 (joinGroup m s) := by
  unfold joinGroup
  repeat' first
    | (with_reducible first | assumption | exact Keeps.refl _ | intro _ | apply keeps_endJoin | apply keeps_setField
                            | apply keeps_updBeat | apply Keeps.ite)
    | fail_if_no_progress with_reducible refine Keeps.of ?_ rfl idp idp idp idp | dsimp only | split

theorem keeps_endExchange {z0 : State} (x : SyncExchange) (t4 : Int) (s : State) (hK : Keeps z0 s) :
    Keeps z0 (endExchange x t4 s) := by
  unfold endExchange
  repeat' first
    | (with_reducible first | assumption | exact Keeps.refl _ | intro _ | apply keeps_raiseBeatAlign | apply keeps_updBeat
                            | apply Keeps.ite)
    | fail_if_no_progress with_reducible refine Keeps.of ?_ rfl idp idp idp idp | dsimp only | split

theorem keeps_writePointer {z0 : State} (c : Nat) (scope : Nat) (addr : Nat) (s : State) (hK : Keeps z0 s) :
    Keeps z0 (writePointer c scope addr s) := by
  unfold writePointer
  repeat' first
    | (with_reducible first | assumption | exact Keeps.refl _ | intro _ | apply keeps_updCtx | apply Keeps.ite)
    | fail_if_no_progress with_reducible refine Keeps.of ?_ rfl idp idp idp idp | dsimp only | split

theorem keeps_writeSet {z0 : State} (scope : Nat) (addr : Nat) (addr2 : Nat) (s : State) (hK : Keeps z0 s) :
    Keeps z0 (writeSet scope addr addr2 s) := by
  unfold writeSet
  repeat' first
    | (with_reducible first | assumption | exact Keeps.refl _ | intro _ | apply Keeps.ite)
    | fail_if_no_progress with_reducible refine Keeps.of ?_ rfl idp idp idp idp | dsimp only | split

theorem keeps_cfgWrite {z0 : State} (h : LineHit) (c : Cmd) (s : State) (hK : Keeps z0 s) : Keeps z0 (cfgWrite h c s) := by
  unfold cfgWrite
  repeat' first
    | (with_reducible first | assumption | exact Keeps.refl _ | intro _ | apply keeps_refuseCmd | apply keeps_completeCmd
                            | apply keeps_writePointer | apply keeps_readingCmd | apply keeps_writeSet | apply Keeps.ite)
    | fail_if_no_progress with_reducible refine Keeps.of ?_ rfl idp idp idp idp | dsimp only | split

theorem keeps_acceptSwap {z0 : State} (c : Cmd) (s : State) (hK : Keeps z0 s) : Keeps z0 (acceptSwap c s) := by
  unfold acceptSwap
  repeat' first
    | (with_reducible first | assumption | exact Keeps.refl _ | intro _ | apply keeps_acceptCmd | apply Keeps.ite)
    | fail_if_no_progress with_reducible refine Keeps.of ?_ rfl idp idp idp idp | dsimp only | split

theorem keeps_swapScope {z0 : State} (h : LineHit) (c : Cmd) (s : State) (hK : Keeps z0 s) : Keeps z0 (swapScope h c s) := by
  unfold swapScope
  repeat' first
    | (with_reducible first | assumption | exact Keeps.refl _ | intro _ | apply keeps_refuseCfg | apply keeps_readingCmd
                            | apply keeps_refuseCmd | apply keeps_acceptSwap | apply Keeps.ite)
    | fail_if_no_progress with_reducible refine Keeps.of ?_ rfl idp idp idp idp | dsimp only | split

theorem keeps_cfgSwap {z0 : State} (h : LineHit) (c : Cmd) (s : State) (hK : Keeps z0 s) : Keeps z0 (cfgSwap h c s) := by
  unfold cfgSwap
  repeat' first
    | (with_reducible first | assumption | exact Keeps.refl _ | intro _ | apply keeps_refuseCmd | apply keeps_swapScope
                            | apply Keeps.ite)
    | fail_if_no_progress with_reducible refine Keeps.of ?_ rfl idp idp idp idp | dsimp only | split

theorem keeps_takeOverOne {z0 : State} (g : Nat) (l : Nat) (s : State) (hK : Keeps z0 s) : Keeps z0 (takeOverOne g l s) := by
  unfold takeOverOne
  repeat' first
    | (with_reducible first | assumption | exact Keeps.refl _ | intro _ | apply keeps_updBlk | apply keeps_logRepair
                            | apply keeps_tallyAdd | apply Keeps.ite)
    | fail_if_no_progress with_reducible refine Keeps.of ?_ rfl idp idp idp idp | dsimp only | split

theorem keeps_takeOver {z0 : State} (g : Nat) (s : State) (hK : Keeps z0 s) : Keeps z0 (takeOver g s) := by
  unfold takeOver
  repeat' first
    | (with_reducible first | assumption | exact Keeps.refl _ | intro _ | apply keeps_updBlk | apply keeps_takeOverOne
                            | apply Keeps.ite | apply Keeps.foldl | apply Keeps.foldl_fst | apply Keeps.foldl_snd
                            | apply Keeps.foldl_third)
    | fail_if_no_progress with_reducible refine Keeps.of ?_ rfl idp idp idp idp | dsimp only | split

theorem keeps_applyPlan {z0 : State} (c : Nat) (s : State) (hK : Keeps z0 s) : Keeps z0 (applyPlan c s) := by
  unfold applyPlan
  repeat' first
    | (with_reducible first | assumption | exact Keeps.refl _ | intro _ | apply keeps_updKept | apply keeps_takeOver
                            | apply keeps_updRun | apply Keeps.ite | apply Keeps.foldl | apply Keeps.foldl_fst
                            | apply Keeps.foldl_snd | apply Keeps.foldl_third)
    | fail_if_no_progress with_reducible refine Keeps.of ?_ rfl idp idp idp idp | dsimp only | split

theorem keeps_applyShard {z0 : State} (c : Nat) (s : State) (hK : Keeps z0 s) : Keeps z0 (applyShard c s) := by
  unfold applyShard
  repeat' first
    | (with_reducible first | assumption | exact Keeps.refl _ | intro _ | apply keeps_updCode | apply keeps_clearValid
                            | apply keeps_resetResidency | apply keeps_updCtx | apply keeps_updKept | apply Keeps.ite)
    | fail_if_no_progress with_reducible refine Keeps.of ?_ rfl idp idp idp idp | dsimp only | split

theorem keeps_reassignUnit {z0 : State} (u : Nat) (s : State) (hK : Keeps z0 s) : Keeps z0 (reassignUnit u s) := by
  unfold reassignUnit
  repeat' first
    | (with_reducible first | assumption | exact Keeps.refl _ | exact idp | refine memOf ?_ ?_ ?_ ?_ ?_ ?_ ?_ ?_ ?_
                            | refine sWf_refill _ (fun _ => rfl) ?_ | apply sWf_set | apply sWf_upd | apply sWf_clear
                            | intro _ | apply keeps_updDie | apply Keeps.ite)
    | fail_if_no_progress with_reducible refine Keeps.of ?_ rfl idp idp idp idp | dsimp only | split
    | fail_if_no_progress (with_reducible refine Keeps.of ?_ rfl idp ?_ idp idp <;> try with_reducible exact idp)

theorem keeps_applyPart {z0 : State} (s : State) (hK : Keeps z0 s) : Keeps z0 (applyPart s) := by
  unfold applyPart
  repeat' first
    | (with_reducible first | assumption | exact Keeps.refl _ | intro _ | apply keeps_reassignUnit | apply keeps_takeOver
                            | apply Keeps.ite | apply Keeps.foldl | apply Keeps.foldl_fst | apply Keeps.foldl_snd
                            | apply Keeps.foldl_third)
    | fail_if_no_progress with_reducible refine Keeps.of ?_ rfl idp idp idp idp | dsimp only | split

theorem keeps_applyImap {z0 : State} (s : State) (hK : Keeps z0 s) : Keeps z0 (applyImap s) := by
  unfold applyImap
  repeat' first
    | (with_reducible first | assumption | exact Keeps.refl _ | intro _ | apply Keeps.ite)
    | fail_if_no_progress with_reducible refine Keeps.of ?_ rfl idp idp idp idp | dsimp only | split

theorem keeps_applyPower {z0 : State} (s : State) (hK : Keeps z0 s) : Keeps z0 (applyPower s) := by
  unfold applyPower
  repeat' first
    | (with_reducible first | assumption | exact Keeps.refl _ | intro _ | apply Keeps.ite)
    | fail_if_no_progress with_reducible refine Keeps.of ?_ rfl idp idp idp idp | dsimp only | split

theorem keeps_switchPort {z0 : State} (p : Nat) (was : Bool) (now : Bool) (s : State) (hK : Keeps z0 s) :
    Keeps z0 (switchPort p was now s) := by
  unfold switchPort
  repeat' first
    | (with_reducible first | assumption | exact Keeps.refl _ | intro _ | apply keeps_updPort | apply keeps_loseMessages
                            | apply Keeps.ite)
    | fail_if_no_progress with_reducible refine Keeps.of ?_ rfl idp idp idp idp | dsimp only | split

theorem keeps_applyRoute {z0 : State} (s : State) (hK : Keeps z0 s) : Keeps z0 (applyRoute s) := by
  unfold applyRoute
  repeat' first
    | (with_reducible first | assumption | exact Keeps.refl _ | intro _ | apply keeps_switchPort | apply Keeps.ite
                            | apply Keeps.foldl | apply Keeps.foldl_fst | apply Keeps.foldl_snd | apply Keeps.foldl_third)
    | fail_if_no_progress with_reducible refine Keeps.of ?_ rfl idp idp idp idp | dsimp only | split

theorem keeps_applySwap {z0 : State} (j : Job) (s : State) (hK : Keeps z0 s) : Keeps z0 (applySwap j s) := by
  unfold applySwap
  repeat' first
    | (with_reducible first | assumption | exact Keeps.refl _ | intro _ | apply keeps_applyPlan | apply keeps_applyShard
                            | apply keeps_applyPart | apply keeps_applyImap | apply keeps_applyPower | apply keeps_applyRoute
                            | apply keeps_endJob | apply Keeps.ite)
    | fail_if_no_progress with_reducible refine Keeps.of ?_ rfl idp idp idp idp | dsimp only | split

theorem keeps_resetBells {z0 : State} (c : Nat) (s : State) (hK : Keeps z0 s) : Keeps z0 (resetBells c s) := by
  unfold resetBells
  repeat' first
    | (with_reducible first | assumption | exact Keeps.refl _ | intro _ | apply keeps_updBell | apply Keeps.ite
                            | apply Keeps.foldl | apply Keeps.foldl_fst | apply Keeps.foldl_snd | apply Keeps.foldl_third)
    | fail_if_no_progress with_reducible refine Keeps.of ?_ rfl idp idp idp idp | dsimp only | split

theorem keeps_resetLines {z0 : State} (c : Nat) (all : Bool) (s : State) (hK : Keeps z0 s) : Keeps z0 (resetLines c all s) := by
  unfold resetLines
  repeat' first
    | (with_reducible first | assumption | exact Keeps.refl _ | intro _ | apply keeps_updLine | apply Keeps.ite
                            | apply Keeps.foldl | apply Keeps.foldl_fst | apply Keeps.foldl_snd | apply Keeps.foldl_third)
    | fail_if_no_progress with_reducible refine Keeps.of ?_ rfl idp idp idp idp | dsimp only | split

theorem keeps_clearTallyCtx {z0 : State} (c : Nat) (s : State) (hK : Keeps z0 s) : Keeps z0 (clearTallyCtx c s) := by
  unfold clearTallyCtx
  repeat' first
    | (with_reducible first | assumption | exact Keeps.refl _ | intro _ | apply keeps_tallyAdd | apply Keeps.ite
                            | apply Keeps.foldl | apply Keeps.foldl_fst | apply Keeps.foldl_snd | apply Keeps.foldl_third)
    | fail_if_no_progress with_reducible refine Keeps.of ?_ rfl idp idp idp idp | dsimp only | split

theorem keeps_createCtx {z0 : State} (c : Nat) (bs : List Byte) (s : State) (hK : Keeps z0 s) :
    Keeps z0 (createCtx c bs s) := by
  unfold createCtx
  repeat' first
    | (with_reducible first | assumption | exact Keeps.refl _ | intro _ | apply keeps_clearTallyCtx | apply keeps_updLine
                            | apply keeps_resetBells | apply Keeps.ite | apply Keeps.foldl | apply Keeps.foldl_fst
                            | apply Keeps.foldl_snd | apply Keeps.foldl_third)
    | fail_if_no_progress with_reducible refine Keeps.of ?_ rfl idp idp idp idp | dsimp only | split

theorem keeps_ctxCreate {z0 : State} (h : LineHit) (c : Cmd) (s : State) (hK : Keeps z0 s) : Keeps z0 (ctxCreate h c s) := by
  unfold ctxCreate
  repeat' first
    | (with_reducible first | assumption | exact Keeps.refl _ | intro _ | apply keeps_refuseCmd | apply keeps_readingCmd
                            | apply keeps_refuseCfg | apply keeps_completeCmd | apply keeps_createCtx | apply Keeps.ite)
    | fail_if_no_progress with_reducible refine Keeps.of ?_ rfl idp idp idp idp | dsimp only | split

theorem keeps_ctxQuery {z0 : State} (c : Cmd) (s : State) (hK : Keeps z0 s) : Keeps z0 (ctxQuery c s) := by
  unfold ctxQuery
  repeat' first
    | (with_reducible first | assumption | exact Keeps.refl _ | intro _ | apply keeps_refuseCmd | apply keeps_answerOut
                            | apply Keeps.ite)
    | fail_if_no_progress with_reducible refine Keeps.of ?_ rfl idp idp idp idp | dsimp only | split

theorem keeps_memMap {z0 : State} (h : LineHit) (c : Cmd) (s : State) (hK : Keeps z0 s) : Keeps z0 (memMap h c s) := by
  unfold memMap
  repeat' first
    | (with_reducible first | assumption | exact Keeps.refl _ | intro _ | apply keeps_refuseCmd | apply keeps_readingCmd
                            | apply keeps_completeCmd | apply keeps_updCtx | apply Keeps.ite | apply Keeps.foldl
                            | apply Keeps.foldl_fst | apply Keeps.foldl_snd | apply Keeps.foldl_third)
    | fail_if_no_progress with_reducible refine Keeps.of ?_ rfl idp idp idp idp | dsimp only | split

theorem keeps_writeSave {z0 : State} (c : Nat) (stores : Bool) (bad : Bool) (s : State) (hK : Keeps z0 s) :
    Keeps z0 (writeSave c stores bad s) := by
  unfold writeSave
  repeat' first
    | (with_reducible first | assumption | exact Keeps.refl _ | intro _ | apply keeps_poke | apply Keeps.ite)
    | fail_if_no_progress with_reducible refine Keeps.of ?_ rfl idp idp idp idp | dsimp only | split

theorem keeps_storeCtx {z0 : State} (c : Nat) (s : State) (hK : Keeps z0 s) : Keeps z0 (storeCtx c s) := by
  unfold storeCtx
  repeat' first
    | (with_reducible first | assumption | exact Keeps.refl _ | intro _ | apply keeps_updCtx | apply Keeps.ite)
    | fail_if_no_progress with_reducible refine Keeps.of ?_ rfl idp idp idp idp | dsimp only | split

theorem keeps_ctxPark {z0 : State} (c : Cmd) (s : State) (hK : Keeps z0 s) : Keeps z0 (ctxPark c s) := by
  unfold ctxPark
  repeat' first
    | (with_reducible first | assumption | exact Keeps.refl _ | intro _ | apply keeps_refuseCmd | apply keeps_completeCmd
                            | apply keeps_storeCtx | apply keeps_acceptCmd | apply Keeps.ite)
    | fail_if_no_progress with_reducible refine Keeps.of ?_ rfl idp idp idp idp | dsimp only | split

theorem keeps_saveMeets {z0 : State} (c : Nat) (e : SaveHit) (s : State) (hK : Keeps z0 s) : Keeps z0 (saveMeets c e s) := by
  unfold saveMeets
  repeat' first
    | (with_reducible first | assumption | exact Keeps.refl _ | intro _ | apply keeps_fencing | apply keeps_recordOnly
                            | apply keeps_updCell | apply keeps_failBlock | apply keeps_updBlk | apply Keeps.ite)
    | fail_if_no_progress with_reducible refine Keeps.of ?_ rfl idp idp idp idp | dsimp only | split

theorem keeps_ctxUnpark {z0 : State} (c : Cmd) (s : State) (hK : Keeps z0 s) : Keeps z0 (ctxUnpark c s) := by
  unfold ctxUnpark
  repeat' first
    | (with_reducible first | assumption | exact Keeps.refl _ | intro _ | apply keeps_refuseCmd | apply keeps_acceptCmd
                            | apply Keeps.ite)
    | fail_if_no_progress with_reducible refine Keeps.of ?_ rfl idp idp idp idp | dsimp only | split

theorem keeps_nameProducers {z0 : State} (c : Nat) (s : State) (hK : Keeps z0 s) : Keeps z0 (nameProducers c s) := by
  unfold nameProducers
  repeat' first
    | (with_reducible first | assumption | exact Keeps.refl _ | intro _ | apply keeps_updCell | apply Keeps.ite
                            | apply Keeps.foldl | apply Keeps.foldl_fst | apply Keeps.foldl_snd | apply Keeps.foldl_third)
    | fail_if_no_progress with_reducible refine Keeps.of ?_ rfl idp idp idp idp | dsimp only | split

theorem keeps_noteCheckLoss {z0 : State} (p : Nat) (s : State) (hK : Keeps z0 s) : Keeps z0 (noteCheckLoss p s) := by
  unfold noteCheckLoss
  repeat' first
    | (with_reducible first | assumption | exact Keeps.refl _ | intro _ | apply keeps_tallyGauge | apply Keeps.ite
                            | apply Keeps.foldl | apply Keeps.foldl_fst | apply Keeps.foldl_snd | apply Keeps.foldl_third)
    | fail_if_no_progress with_reducible refine Keeps.of ?_ rfl idp idp idp idp | dsimp only | split

theorem keeps_restoreCells {z0 : State} (c : Nat) (usable : Bool) (s : State) (hK : Keeps z0 s) :
    Keeps z0 (restoreCells c usable s) := by
  unfold restoreCells
  repeat' first
    | (with_reducible first | assumption | exact Keeps.refl _ | intro _ | apply keeps_updCell | apply keeps_noteCheckLoss
                            | apply keeps_nameProducers | apply keeps_updBlk | apply Keeps.ite | apply Keeps.foldl
                            | apply Keeps.foldl_fst | apply Keeps.foldl_snd | apply Keeps.foldl_third)
    | fail_if_no_progress with_reducible refine Keeps.of ?_ rfl idp idp idp idp | dsimp only | split

theorem keeps_restoreSync {z0 : State} (c : Nat) (usable : Bool) (s : State) (hK : Keeps z0 s) :
    Keeps z0 (restoreSync c usable s) := by
  unfold restoreSync
  repeat' first
    | (with_reducible first | assumption | exact Keeps.refl _ | intro _ | apply keeps_updBell | apply keeps_updLine
                            | apply Keeps.ite | apply Keeps.foldl | apply Keeps.foldl_fst | apply Keeps.foldl_snd
                            | apply Keeps.foldl_third)
    | fail_if_no_progress with_reducible refine Keeps.of ?_ rfl idp idp idp idp | dsimp only | split

theorem keeps_failUnpark {z0 : State} (j : Job) (status : Nat) (det : List Nat) (s : State) (hK : Keeps z0 s) :
    Keeps z0 (failUnpark j status det s) := by
  unfold failUnpark
  repeat' first
    | (with_reducible first | assumption | exact Keeps.refl _ | intro _ | apply keeps_endJobWith | apply Keeps.ite)
    | fail_if_no_progress with_reducible refine Keeps.of ?_ rfl idp idp idp idp | dsimp only | split

theorem keeps_prepareUnpark {z0 : State} (j : Job) (h : LineHit) (s : State) (hK : Keeps z0 s) :
    Keeps z0 (prepareUnpark j h s) := by
  unfold prepareUnpark
  repeat' first
    | (with_reducible first | assumption | exact Keeps.refl _ | intro _ | refine Keeps.of_snd (by assumption) ?_
                            | refine Keeps.of_fst (by assumption) ?_ | apply keeps_readRegions | apply keeps_failUnpark
                            | apply keeps_recordUe | apply keeps_restoreSync | apply keeps_restoreCells | apply keeps_updCtx
                            | apply keeps_updJob | apply Keeps.ite)
    | fail_if_no_progress with_reducible refine Keeps.of ?_ rfl idp idp idp idp | dsimp only | split

theorem keeps_skipStep {z0 : State} (c : Nat) (s : State) (hK : Keeps z0 s) : Keeps z0 (skipStep c s) := by
  unfold skipStep
  repeat' first
    | (with_reducible first | assumption | exact Keeps.refl _ | intro _ | apply keeps_updRun | apply Keeps.ite)
    | fail_if_no_progress with_reducible refine Keeps.of ?_ rfl idp idp idp idp | dsimp only | split

theorem keeps_abandonParked {z0 : State} (c : Nat) (status : Nat) (s : State) (hK : Keeps z0 s) :
    Keeps z0 (abandonParked c status s) := by
  unfold abandonParked
  repeat' first
    | (with_reducible first | assumption | exact Keeps.refl _ | intro _ | apply keeps_endJob | apply keeps_updKept
                            | apply keeps_skipStep | apply Keeps.ite)
    | fail_if_no_progress with_reducible refine Keeps.of ?_ rfl idp idp idp idp | dsimp only | split

theorem keeps_ctxResize {z0 : State} (c : Cmd) (s : State) (hK : Keeps z0 s) : Keeps z0 (ctxResize c s) := by
  unfold ctxResize
  repeat' first
    | (with_reducible first | assumption | exact Keeps.refl _ | intro _ | apply keeps_refuseCmd | apply keeps_clearValid
                            | apply keeps_clearLanes | apply keeps_resetResidency | apply keeps_abandonParked
                            | apply keeps_completeCmd | apply keeps_updCtx | apply Keeps.ite)
    | fail_if_no_progress with_reducible refine Keeps.of ?_ rfl idp idp idp idp | dsimp only | split

theorem keeps_logContextEnd {z0 : State} (c : Nat) (s : State) (hK : Keeps z0 s) : Keeps z0 (logContextEnd c s) := by
  unfold logContextEnd
  repeat' first
    | (with_reducible first | assumption | exact Keeps.refl _ | intro _ | apply keeps_logAppend | apply Keeps.ite)
    | fail_if_no_progress with_reducible refine Keeps.of ?_ rfl idp idp idp idp | dsimp only | split

theorem keeps_ctxDestroy {z0 : State} (c : Cmd) (s : State) (hK : Keeps z0 s) : Keeps z0 (ctxDestroy c s) := by
  unfold ctxDestroy
  repeat' first
    | (with_reducible first | assumption | exact Keeps.refl _ | intro _ | apply keeps_refuseCmd | apply keeps_clearTallyCtx
                            | apply keeps_logContextEnd | apply keeps_abandonParked | apply keeps_updLine
                            | apply keeps_resetBells | apply keeps_completeCmd | apply Keeps.ite | apply Keeps.foldl
                            | apply Keeps.foldl_fst | apply Keeps.foldl_snd | apply Keeps.foldl_third)
    | fail_if_no_progress with_reducible refine Keeps.of ?_ rfl idp idp idp idp | dsimp only | split

theorem keeps_granarySwap {z0 : State} (c : Cmd) (s : State) (hK : Keeps z0 s) : Keeps z0 (granarySwap c s) := by
  unfold granarySwap
  repeat' first
    | (with_reducible first | assumption | exact Keeps.refl _ | intro _ | apply keeps_refuseCmd | apply keeps_refuseCfg
                            | apply keeps_acceptCmd | apply Keeps.ite)
    | fail_if_no_progress with_reducible refine Keeps.of ?_ rfl idp idp idp idp | dsimp only | split

theorem keeps_readCommitGroup {z0 : State} (c : Nat) (s : State) (hK : Keeps z0 s) : Keeps z0 (readCommitGroup c s) := by
  unfold readCommitGroup
  repeat' first
    | (with_reducible first | assumption | exact Keeps.refl _ | intro _ | apply keeps_updCtx | apply Keeps.ite)
    | fail_if_no_progress with_reducible refine Keeps.of ?_ rfl idp idp idp idp | dsimp only | split

theorem keeps_writeAlmanac {z0 : State} (c : Nat) (s : State) (hK : Keeps z0 s) : Keeps z0 (writeAlmanac c s) := by
  unfold writeAlmanac
  repeat' first
    | (with_reducible first | assumption | exact Keeps.refl _ | intro _ | apply keeps_poke | apply Keeps.ite)
    | fail_if_no_progress with_reducible refine Keeps.of ?_ rfl idp idp idp idp | dsimp only | split

theorem keeps_updAlm {z0 : State} (c : Nat) (f : Almanac → Almanac) (s : State) (hK : Keeps z0 s) :
    Keeps z0 (updAlm c f s) := by
  unfold updAlm
  repeat' first
    | (with_reducible first | assumption | exact Keeps.refl _ | intro _ | apply keeps_updCtx | apply Keeps.ite)
    | fail_if_no_progress with_reducible refine Keeps.of ?_ rfl idp idp idp idp | dsimp only | split

theorem keeps_sendNorms {z0 : State} (c : Nat) (type : Nat) (g : Group) (dst : Nat) (t : Nat) (es : List NormEntry)
    (s : State) (hK : Keeps z0 s) :
    Keeps z0 (sendNorms c type g dst t es s) := by
  unfold sendNorms
  repeat' first
    | (with_reducible first | assumption | exact Keeps.refl _ | intro _ | apply keeps_sendCtl | apply Keeps.ite
                            | apply Keeps.foldl | apply Keeps.foldl_fst | apply Keeps.foldl_snd | apply Keeps.foldl_third)
    | fail_if_no_progress with_reducible refine Keeps.of ?_ rfl idp idp idp idp | dsimp only | split

theorem keeps_takeSum {z0 : State} (c : Nat) (e : NormEntry) (s : State) (hK : Keeps z0 s) : Keeps z0 (takeSum c e s) := by
  unfold takeSum
  repeat' first
    | (with_reducible first | assumption | exact Keeps.refl _ | intro _ | apply keeps_updUpdate | apply keeps_poke
                            | apply Keeps.ite)
    | fail_if_no_progress with_reducible refine Keeps.of ?_ rfl idp idp idp idp | dsimp only | split

theorem keeps_startPassB {z0 : State} (c : Nat) (gtot : Nat) (s : State) (hK : Keeps z0 s) :
    Keeps z0 (startPassB c gtot s) := by
  unfold startPassB
  repeat' first
    | (with_reducible first | assumption | exact Keeps.refl _ | intro _ | apply keeps_updUpdate | apply keeps_updAlm
                            | apply keeps_poke | apply Keeps.ite | apply Keeps.foldl | apply Keeps.foldl_fst
                            | apply Keeps.foldl_snd | apply Keeps.foldl_third)
    | fail_if_no_progress with_reducible refine Keeps.of ?_ rfl idp idp idp idp | dsimp only | split

theorem keeps_takeDecision {z0 : State} (c : Nat) (gtot : Nat) (yes : Bool) (s : State) (hK : Keeps z0 s) :
    Keeps z0 (takeDecision c gtot yes s) := by
  unfold takeDecision
  repeat' first
    | (with_reducible first | assumption | exact Keeps.refl _ | intro _ | apply keeps_startPassB | apply keeps_updUpdate
                            | apply Keeps.ite)
    | fail_if_no_progress with_reducible refine Keeps.of ?_ rfl idp idp idp idp | dsimp only | split

theorem keeps_recordVote {z0 : State} (c : Nat) (member : Nat) (ok : Bool) (clip : Nat) (s : State) (hK : Keeps z0 s) :
    Keeps z0 (recordVote c member ok clip s) := by
  unfold recordVote
  repeat' first
    | (with_reducible first | assumption | exact Keeps.refl _ | intro _ | apply keeps_updUpdate | apply keeps_sendAbort
                            | apply keeps_takeDecision | apply keeps_tellCommit | apply Keeps.ite | apply Keeps.foldl
                            | apply Keeps.foldl_fst | apply Keeps.foldl_snd | apply Keeps.foldl_third)
    | fail_if_no_progress with_reducible refine Keeps.of ?_ rfl idp idp idp idp | dsimp only | split

theorem keeps_castVote {z0 : State} (c : Nat) (s : State) (hK : Keeps z0 s) : Keeps z0 (castVote c s) := by
  unfold castVote
  repeat' first
    | (with_reducible first | assumption | exact Keeps.refl _ | intro _ | apply keeps_updUpdate | apply keeps_recordVote
                            | apply keeps_tellCommit | apply Keeps.ite)
    | fail_if_no_progress with_reducible refine Keeps.of ?_ rfl idp idp idp idp | dsimp only | split

theorem keeps_sumGroup {z0 : State} (c : Nat) (g : Nat) (s : State) (hK : Keeps z0 s) : Keeps z0 (sumGroup c g s) := by
  unfold sumGroup
  repeat' first
    | (with_reducible first | assumption | exact Keeps.refl _ | intro _ | apply keeps_takeSum | apply keeps_sendNorms
                            | apply Keeps.ite | apply Keeps.foldl | apply Keeps.foldl_fst | apply Keeps.foldl_snd
                            | apply Keeps.foldl_third)
    | fail_if_no_progress with_reducible refine Keeps.of ?_ rfl idp idp idp idp | dsimp only | split

theorem keeps_tellNorms {z0 : State} (c : Nat) (s : State) (hK : Keeps z0 s) : Keeps z0 (tellNorms c s) := by
  unfold tellNorms
  repeat' first
    | (with_reducible first | assumption | exact Keeps.refl _ | intro _ | apply keeps_sumGroup | apply keeps_sendNorms
                            | apply keeps_castVote | apply Keeps.ite | apply Keeps.foldl | apply Keeps.foldl_fst
                            | apply Keeps.foldl_snd | apply Keeps.foldl_third)
    | fail_if_no_progress with_reducible refine Keeps.of ?_ rfl idp idp idp idp | dsimp only | split

theorem keeps_recordDone {z0 : State} (c : Nat) (member : Nat) (ok : Bool) (s : State) (hK : Keeps z0 s) :
    Keeps z0 (recordDone c member ok s) := by
  unfold recordDone
  repeat' first
    | (with_reducible first | assumption | exact Keeps.refl _ | intro _ | apply keeps_updUpdate | apply keeps_sendAbort
                            | apply keeps_tellCommit | apply Keeps.ite)
    | fail_if_no_progress with_reducible refine Keeps.of ?_ rfl idp idp idp idp | dsimp only | split

theorem keeps_sendDone {z0 : State} (c : Nat) (s : State) (hK : Keeps z0 s) : Keeps z0 (sendDone c s) := by
  unfold sendDone
  repeat' first
    | (with_reducible first | assumption | exact Keeps.refl _ | intro _ | apply keeps_updAlm | apply keeps_updUpdate
                            | apply keeps_recordDone | apply keeps_tellCommit | apply Keeps.ite)
    | fail_if_no_progress with_reducible refine Keeps.of ?_ rfl idp idp idp idp | dsimp only | split

theorem keeps_settleRefresh {z0 : State} (c : Nat) (s : State) (hK : Keeps z0 s) : Keeps z0 (settleRefresh c s) := by
  unfold settleRefresh
  repeat' first
    | (with_reducible first | assumption | exact Keeps.refl _ | intro _ | apply keeps_sendDone | apply keeps_finishRefresh
                            | apply Keeps.ite)
    | fail_if_no_progress with_reducible refine Keeps.of ?_ rfl idp idp idp idp | dsimp only | split

theorem keeps_updateRow {z0 : State} (i : BitVec 16) (type : Nat) (go : Nat → List Byte → State → State) (s : State)
    (h_go : ∀ (y : State) (a0 : Nat) (a1 : List Byte) (a2 : State), Keeps y a2 → Keeps y (go a0 a1 a2)) (hK : Keeps z0 s) :
    Keeps z0 (updateRow i type go s) := by
  unfold updateRow
  repeat' first
    | (with_reducible first | assumption | exact Keeps.refl _ | intro _ | apply keeps_freeMsg | apply keeps_flushOut
                            | apply h_go | apply Keeps.ite)
    | fail_if_no_progress with_reducible refine Keeps.of ?_ rfl idp idp idp idp | dsimp only | split

theorem keeps_updateDeadline {z0 : State} (c : Nat) (s : State) (hK : Keeps z0 s) : Keeps z0 (updateDeadline c s) := by
  unfold updateDeadline
  repeat' first
    | (with_reducible first | assumption | exact Keeps.refl _ | intro _ | apply keeps_sendAbort | apply Keeps.ite)
    | fail_if_no_progress with_reducible refine Keeps.of ?_ rfl idp idp idp idp | dsimp only | split

theorem keeps_setLinks {z0 : State} (hi : Nat) (lo : Nat) (v : Nat) (s : State) (hK : Keeps z0 s) :
    Keeps z0 (setLinks hi lo v s) := by
  unfold setLinks
  repeat' first
    | (with_reducible first | assumption | exact Keeps.refl _ | intro _ | apply keeps_setField | apply Keeps.ite
                            | apply Keeps.foldl | apply Keeps.foldl_fst | apply Keeps.foldl_snd | apply Keeps.foldl_third)
    | fail_if_no_progress with_reducible refine Keeps.of ?_ rfl idp idp idp idp | dsimp only | split

theorem keeps_lnkConfig {z0 : State} (c : Cmd) (s : State) (hK : Keeps z0 s) : Keeps z0 (lnkConfig c s) := by
  unfold lnkConfig
  repeat' first
    | (with_reducible first | assumption | exact Keeps.refl _ | intro _ | apply keeps_refuseCmd | apply keeps_setLinks
                            | apply keeps_setField | apply keeps_acceptCmd | apply Keeps.ite | apply Keeps.foldl
                            | apply Keeps.foldl_fst | apply Keeps.foldl_snd | apply Keeps.foldl_third)
    | fail_if_no_progress with_reducible refine Keeps.of ?_ rfl idp idp idp idp | dsimp only | split

theorem keeps_lnkFec {z0 : State} (c : Cmd) (s : State) (hK : Keeps z0 s) : Keeps z0 (lnkFec c s) := by
  unfold lnkFec
  repeat' first
    | (with_reducible first | assumption | exact Keeps.refl _ | intro _ | apply keeps_updPort | apply keeps_acceptCmd
                            | apply Keeps.ite)
    | fail_if_no_progress with_reducible refine Keeps.of ?_ rfl idp idp idp idp | dsimp only | split

theorem keeps_lnkSpare {z0 : State} (c : Cmd) (s : State) (hK : Keeps z0 s) : Keeps z0 (lnkSpare c s) := by
  unfold lnkSpare
  repeat' first
    | (with_reducible first | assumption | exact Keeps.refl _ | intro _ | apply keeps_refuseCmd | apply keeps_askSpare
                            | apply keeps_acceptCmd | apply keeps_completeCmd | apply Keeps.ite)
    | fail_if_no_progress with_reducible refine Keeps.of ?_ rfl idp idp idp idp | dsimp only | split

theorem keeps_tallyMargin {z0 : State} (strct : Nat) (unit : Nat) (bytes : Nat) (v : Nat) (s : State) (hK : Keeps z0 s) :
    Keeps z0 (tallyMargin strct unit bytes v s) := by
  unfold tallyMargin
  repeat' first
    | (with_reducible first | assumption | exact Keeps.refl _ | intro _ | apply keeps_tallyGauge | apply keeps_logAppend
                            | apply Keeps.ite)
    | fail_if_no_progress with_reducible refine Keeps.of ?_ rfl idp idp idp idp | dsimp only | split

theorem keeps_lnkMargin {z0 : State} (c : Cmd) (s : State) (hK : Keeps z0 s) : Keeps z0 (lnkMargin c s) := by
  unfold lnkMargin
  repeat' first
    | (with_reducible first | assumption | exact Keeps.refl _ | intro _ | apply keeps_refuseCmd | apply keeps_acceptCmd
                            | apply keeps_askSpare | apply Keeps.ite)
    | fail_if_no_progress with_reducible refine Keeps.of ?_ rfl idp idp idp idp | dsimp only | split

theorem keeps_memEcc {z0 : State} (c : Cmd) (s : State) (hK : Keeps z0 s) : Keeps z0 (memEcc c s) := by
  unfold memEcc
  repeat' first
    | (with_reducible first | assumption | exact Keeps.refl _ | exact idp | refine memOf ?_ ?_ ?_ ?_ ?_ ?_ ?_ ?_ ?_
                            | refine sWf_refill _ (fun _ => rfl) ?_ | apply sWf_set | apply sWf_upd | intro _
                            | apply keeps_refuseCmd | apply keeps_acceptCmd | apply Keeps.ite)
    | fail_if_no_progress with_reducible refine Keeps.of ?_ rfl idp idp idp idp | dsimp only | split
    | fail_if_no_progress (with_reducible refine Keeps.of ?_ rfl idp ?_ idp idp <;> try with_reducible exact idp)

theorem keeps_zeroJobSpace {z0 : State} (s : State) (hK : Keeps z0 s) : Keeps z0 (zeroJobSpace s) := by
  unfold zeroJobSpace
  repeat' first
    | (with_reducible first | assumption | exact Keeps.refl _ | exact idp | refine memOf ?_ ?_ ?_ ?_ ?_ ?_ ?_ ?_ ?_
                            | refine sWf_refill _ (fun _ => rfl) ?_ | apply sWf_set | apply sWf_upd | apply sWf_filter
                            | intro _ | apply Keeps.ite)
    | fail_if_no_progress with_reducible refine Keeps.of ?_ rfl idp idp idp idp | dsimp only | split
    | fail_if_no_progress (with_reducible refine Keeps.of ?_ rfl idp ?_ idp idp <;> try with_reducible exact idp)

theorem keeps_memMargin {z0 : State} (c : Cmd) (s : State) (hK : Keeps z0 s) : Keeps z0 (memMargin c s) := by
  unfold memMargin
  repeat' first
    | (with_reducible first | assumption | exact Keeps.refl _ | intro _ | apply keeps_refuseCmd | apply keeps_updDie
                            | apply keeps_acceptCmd | apply Keeps.ite)
    | fail_if_no_progress with_reducible refine Keeps.of ?_ rfl idp idp idp idp | dsimp only | split

theorem keeps_rewriteCopy {z0 : State} (n : Nat) (s : State) (hK : Keeps z0 s) : Keeps z0 (rewriteCopy n s) := by
  unfold rewriteCopy
  repeat' first
    | (with_reducible first | assumption | exact Keeps.refl _ | exact idp | refine memOf ?_ ?_ ?_ ?_ ?_ ?_ ?_ ?_ ?_
                            | refine sWf_refill _ (fun _ => rfl) ?_ | apply sWf_set | apply sWf_upd | apply sWf_clear
                            | apply sWf_foldl | apply sWf_filter | intro _ | apply Keeps.ite | apply Keeps.foldl
                            | apply Keeps.foldl_fst | apply Keeps.foldl_snd | apply Keeps.foldl_third)
    | fail_if_no_progress with_reducible refine Keeps.of ?_ rfl idp idp idp idp | dsimp only | split
    | fail_if_no_progress (with_reducible refine Keeps.of ?_ rfl idp ?_ idp idp <;> try with_reducible exact idp)

theorem keeps_stopParked {z0 : State} (c : Nat) (s : State) (hK : Keeps z0 s) : Keeps z0 (stopParked c s) := by
  unfold stopParked
  repeat' first
    | (with_reducible first | assumption | exact Keeps.refl _ | intro _ | apply keeps_abandonParked | apply Keeps.ite)
    | fail_if_no_progress with_reducible refine Keeps.of ?_ rfl idp idp idp idp | dsimp only | split

theorem keeps_stop {z0 : State} (c : Cmd) (s : State) (hK : Keeps z0 s) : Keeps z0 (stop c s) := by
  unfold stop
  repeat' first
    | (with_reducible first | assumption | exact Keeps.refl _ | intro _ | apply keeps_acceptCmd | apply keeps_stopParked
                            | apply keeps_refuseCmd | apply keeps_completeCmd | apply Keeps.ite | apply Keeps.foldl
                            | apply Keeps.foldl_fst | apply Keeps.foldl_snd | apply Keeps.foldl_third)
    | fail_if_no_progress with_reducible refine Keeps.of ?_ rfl idp idp idp idp | dsimp only | split

theorem keeps_stopCtx {z0 : State} (c : Nat) (s : State) (hK : Keeps z0 s) : Keeps z0 (stopCtx c s) := by
  unfold stopCtx
  repeat' first
    | (with_reducible first | assumption | exact Keeps.refl _ | intro _ | apply keeps_startDiscard | apply keeps_endJob
                            | apply Keeps.ite | apply Keeps.foldl | apply Keeps.foldl_fst | apply Keeps.foldl_snd
                            | apply Keeps.foldl_third)
    | fail_if_no_progress with_reducible refine Keeps.of ?_ rfl idp idp idp idp | dsimp only | split

theorem keeps_stopActs {z0 : State} (j : Job) (s : State) (hK : Keeps z0 s) : Keeps z0 (stopActs j s) := by
  unfold stopActs
  repeat' first
    | (with_reducible first | assumption | exact Keeps.refl _ | intro _ | apply keeps_stopCtx | apply keeps_stopParked
                            | apply keeps_endJob | apply Keeps.ite | apply Keeps.foldl | apply Keeps.foldl_fst
                            | apply Keeps.foldl_snd | apply Keeps.foldl_third)
    | fail_if_no_progress with_reducible refine Keeps.of ?_ rfl idp idp idp idp | dsimp only | split

theorem keeps_fenceCell {z0 : State} (c : Cmd) (s : State) (hK : Keeps z0 s) : Keeps z0 (fenceCell c s) := by
  unfold fenceCell
  repeat' first
    | (with_reducible first | assumption | exact Keeps.refl _ | intro _ | apply keeps_acceptCmd | apply Keeps.ite)
    | fail_if_no_progress with_reducible refine Keeps.of ?_ rfl idp idp idp idp | dsimp only | split

theorem keeps_fenceActs {z0 : State} (j : Job) (s : State) (hK : Keeps z0 s) : Keeps z0 (fenceActs j s) := by
  unfold fenceActs
  repeat' first
    | (with_reducible first | assumption | exact Keeps.refl _ | intro _ | apply keeps_updJob | apply keeps_raiseCellFault
                            | apply Keeps.ite)
    | fail_if_no_progress with_reducible refine Keeps.of ?_ rfl idp idp idp idp | dsimp only | split

theorem keeps_quarantine {z0 : State} (c : Cmd) (s : State) (hK : Keeps z0 s) : Keeps z0 (quarantine c s) := by
  unfold quarantine
  repeat' first
    | (with_reducible first | assumption | exact Keeps.refl _ | intro _ | apply keeps_acceptCmd | apply Keeps.ite)
    | fail_if_no_progress with_reducible refine Keeps.of ?_ rfl idp idp idp idp | dsimp only | split

theorem keeps_quarantineActs {z0 : State} (j : Job) (s : State) (hK : Keeps z0 s) : Keeps z0 (quarantineActs j s) := by
  unfold quarantineActs
  repeat' first
    | (with_reducible first | assumption | exact Keeps.refl _ | intro _ | apply keeps_updJob | apply keeps_raiseFault
                            | apply Keeps.ite)
    | fail_if_no_progress with_reducible refine Keeps.of ?_ rfl idp idp idp idp | dsimp only | split

theorem keeps_guardActs {z0 : State} (s : State) (hK : Keeps z0 s) : Keeps z0 (guardActs s) := by
  unfold guardActs
  repeat' first
    | (with_reducible first | assumption | exact Keeps.refl _ | intro _ | apply keeps_updJob | apply keeps_stopActs
                            | apply keeps_fenceActs | apply keeps_quarantineActs | apply Keeps.ite | apply Keeps.foldl
                            | apply Keeps.foldl_fst | apply Keeps.foldl_snd | apply Keeps.foldl_third)
    | fail_if_no_progress with_reducible refine Keeps.of ?_ rfl idp idp idp idp | dsimp only | split

theorem keeps_takeOut {z0 : State} (kind : Nat) (id : Nat) (s : State) (hK : Keeps z0 s) : Keeps z0 (takeOut kind id s) := by
  unfold takeOut
  repeat' first
    | (with_reducible first | assumption | exact Keeps.refl _ | intro _ | apply keeps_portDown | apply Keeps.ite
                            | apply Keeps.foldl | apply Keeps.foldl_fst | apply Keeps.foldl_snd | apply Keeps.foldl_third)
    | fail_if_no_progress with_reducible refine Keeps.of ?_ rfl idp idp idp idp | dsimp only | split

theorem keeps_endUrgent {z0 : State} (s : State) (hK : Keeps z0 s) : Keeps z0 (endUrgent s) := by
  unfold endUrgent
  repeat' first
    | (with_reducible first | assumption | exact Keeps.refl _ | intro _ | apply keeps_endJob | apply keeps_takeOut
                            | apply Keeps.ite | apply Keeps.foldl | apply Keeps.foldl_fst | apply Keeps.foldl_snd
                            | apply Keeps.foldl_third)
    | fail_if_no_progress with_reducible refine Keeps.of ?_ rfl idp idp idp idp | dsimp only | split

theorem keeps_musterStarts {z0 : State} (kind : Nat) (id : Nat) (s : State) (hK : Keeps z0 s) :
    Keeps z0 (musterStarts kind id s) := by
  unfold musterStarts
  repeat' first
    | (with_reducible first | assumption | exact Keeps.refl _ | intro _ | apply keeps_portDown | apply keeps_updBeat
                            | apply Keeps.ite | apply Keeps.foldl | apply Keeps.foldl_fst | apply Keeps.foldl_snd
                            | apply Keeps.foldl_third)
    | fail_if_no_progress with_reducible refine Keeps.of ?_ rfl idp idp idp idp | dsimp only | split

theorem keeps_musterRun {z0 : State} (c : Cmd) (s : State) (hK : Keeps z0 s) : Keeps z0 (musterRun c s) := by
  unfold musterRun
  repeat' first
    | (with_reducible first | assumption | exact Keeps.refl _ | intro _ | apply keeps_refuseCmd | apply keeps_musterStarts
                            | apply keeps_acceptCmd | apply Keeps.ite)
    | fail_if_no_progress with_reducible refine Keeps.of ?_ rfl idp idp idp idp | dsimp only | split

theorem keeps_setMap {z0 : State} (arr : Nat) (m : Nat × Nat) (s : State) (hK : Keeps z0 s) : Keeps z0 (setMap arr m s) := by
  unfold setMap
  repeat' first
    | (with_reducible first | assumption | exact Keeps.refl _ | intro _ | apply keeps_updCell | apply keeps_tallyGauge
                            | apply keeps_freeDetail | apply keeps_logAppend | apply keeps_noteLast | apply keeps_tallyAdd
                            | apply Keeps.ite)
    | fail_if_no_progress with_reducible refine Keeps.of ?_ rfl idp idp idp idp | dsimp only | split

theorem keeps_musterFence {z0 : State} (p : Nat) (s : State) (hK : Keeps z0 s) : Keeps z0 (musterFence p s) := by
  unfold musterFence
  repeat' first
    | (with_reducible first | assumption | exact Keeps.refl _ | intro _ | apply keeps_commitFence | apply keeps_queueFence
                            | apply Keeps.ite)
    | fail_if_no_progress with_reducible refine Keeps.of ?_ rfl idp idp idp idp | dsimp only | split

theorem keeps_memFailure {z0 : State} (m : MusterMem) (s : State) (hK : Keeps z0 s) : Keeps z0 (memFailure m s).2 := by
  unfold memFailure
  repeat' first
    | (with_reducible first | assumption | exact Keeps.refl _ | intro _ | apply keeps_musterFence | apply keeps_failBlock
                            | apply keeps_raiseStackFault | apply keeps_rowFails | apply Keeps.ite)
    | fail_if_no_progress with_reducible refine Keeps.of ?_ rfl idp idp idp idp | dsimp only | split

theorem keeps_logicFailure {z0 : State} (k : Nat) (i : Nat) (s : State) (hK : Keeps z0 s) : Keeps z0 (logicFailure k i s) := by
  unfold logicFailure
  repeat' first
    | (with_reducible first | assumption | exact Keeps.refl _ | intro _ | apply keeps_musterFence | apply keeps_memFailure
                            | apply Keeps.ite)
    | fail_if_no_progress with_reducible refine Keeps.of ?_ rfl idp idp idp idp | dsimp only | split

theorem keeps_zeroTested {z0 : State} (kind : Nat) (id : Nat) (s : State) (hK : Keeps z0 s) :
    Keeps z0 (zeroTested kind id s) := by
  unfold zeroTested
  repeat' first
    | (with_reducible first | assumption | exact Keeps.refl _ | exact idp | refine memOf ?_ ?_ ?_ ?_ ?_ ?_ ?_ ?_ ?_
                            | refine sWf_refill _ (fun _ => rfl) ?_ | apply sWf_set | apply sWf_upd | apply sWf_clear
                            | apply sWf_foldl | intro _ | apply keeps_updCell | apply keeps_updBlk | apply Keeps.ite
                            | apply Keeps.foldl | apply Keeps.foldl_fst | apply Keeps.foldl_snd | apply Keeps.foldl_third)
    | fail_if_no_progress with_reducible refine Keeps.of ?_ rfl idp idp idp idp | dsimp only | split
    | fail_if_no_progress (with_reducible refine Keeps.of ?_ rfl idp ?_ idp idp <;> try with_reducible exact idp)

theorem keeps_musterCopies {z0 : State} (kind : Nat) (id : Nat) (s : State) (hK : Keeps z0 s) :
    Keeps z0 (musterCopies kind id s) := by
  unfold musterCopies
  repeat' first
    | (with_reducible first | assumption | exact Keeps.refl _ | intro _ | apply keeps_rewriteCopy | apply Keeps.ite
                            | apply Keeps.foldl | apply Keeps.foldl_fst | apply Keeps.foldl_snd | apply Keeps.foldl_third)
    | fail_if_no_progress with_reducible refine Keeps.of ?_ rfl idp idp idp idp | dsimp only | split

theorem keeps_retrainPorts {z0 : State} (kind : Nat) (id : Nat) (s : State) (hK : Keeps z0 s) :
    Keeps z0 (retrainPorts kind id s) := by
  unfold retrainPorts
  repeat' first
    | (with_reducible first | assumption | exact Keeps.refl _ | intro _ | apply keeps_updPort | apply Keeps.ite
                            | apply Keeps.foldl | apply Keeps.foldl_fst | apply Keeps.foldl_snd | apply Keeps.foldl_third)
    | fail_if_no_progress with_reducible refine Keeps.of ?_ rfl idp idp idp idp | dsimp only | split

theorem keeps_musterEnds {z0 : State} (kind : Nat) (id : Nat) (tests : Nat) (before : List Nat) (r : MusterResult)
    (s : State) (hK : Keeps z0 s) :
    Keeps z0 (musterEnds kind id tests before r s).2 := by
  unfold musterEnds
  repeat' first
    | (with_reducible first | assumption | exact Keeps.refl _ | intro _ | apply keeps_setMap | apply keeps_logicFailure
                            | apply keeps_memFailure | apply keeps_retrainPorts | apply keeps_musterCopies
                            | apply keeps_zeroTested | apply keeps_takeFree | apply Keeps.ite | apply Keeps.foldl
                            | apply Keeps.foldl_fst | apply Keeps.foldl_snd | apply Keeps.foldl_third)
    | fail_if_no_progress with_reducible refine Keeps.of ?_ rfl idp idp idp idp | dsimp only | split

theorem keeps_logReturn {z0 : State} (strct : Nat) (unit : Nat) (note : List Nat) (s : State) (hK : Keeps z0 s) :
    Keeps z0 (logReturn strct unit note s) := by
  unfold logReturn
  repeat' first
    | (with_reducible first | assumption | exact Keeps.refl _ | intro _ | apply keeps_freeDetail | apply keeps_tallyGauge
                            | apply keeps_noteLast | apply keeps_logAppend | apply Keeps.ite)
    | fail_if_no_progress with_reducible refine Keeps.of ?_ rfl idp idp idp idp | dsimp only | split

theorem keeps_returnCell {z0 : State} (p : Nat) (s : State) (hK : Keeps z0 s) : Keeps z0 (returnCell p s) := by
  unfold returnCell
  repeat' first
    | (with_reducible first | assumption | exact Keeps.refl _ | intro _ | apply keeps_updBlk | apply keeps_updCell
                            | apply keeps_tallyGauge | apply keeps_logReturn | apply Keeps.ite)
    | fail_if_no_progress with_reducible refine Keeps.of ?_ rfl idp idp idp idp | dsimp only | split

theorem keeps_returnRegion {z0 : State} (r : Nat) (s : State) (hK : Keeps z0 s) : Keeps z0 (returnRegion r s) := by
  unfold returnRegion
  repeat' first
    | (with_reducible first | assumption | exact Keeps.refl _ | intro _ | apply Keeps.ite)
    | fail_if_no_progress with_reducible refine Keeps.of ?_ rfl idp idp idp idp | dsimp only | split

theorem keeps_returnUnit {z0 : State} (u : Nat × Nat) (s : State) (hK : Keeps z0 s) : Keeps z0 (returnUnit u s) := by
  unfold returnUnit
  repeat' first
    | (with_reducible first | assumption | exact Keeps.refl _ | intro _ | apply keeps_returnCell | apply keeps_logReturn
                            | apply keeps_updBlk | apply keeps_returnRegion | apply keeps_updDie | apply keeps_retrainPorts
                            | apply Keeps.ite)
    | fail_if_no_progress with_reducible refine Keeps.of ?_ rfl idp idp idp idp | dsimp only | split

theorem keeps_applyReturns {z0 : State} (s : State) (hK : Keeps z0 s) : Keeps z0 (applyReturns s) := by
  unfold applyReturns
  repeat' first
    | (with_reducible first | assumption | exact Keeps.refl _ | intro _ | apply keeps_returnUnit | apply Keeps.ite
                            | apply Keeps.foldl | apply Keeps.foldl_fst | apply Keeps.foldl_snd | apply Keeps.foldl_third)
    | fail_if_no_progress with_reducible refine Keeps.of ?_ rfl idp idp idp idp | dsimp only | split

theorem keeps_gateRow {z0 : State} (cls : Nat) (op : Nat) (i : BitVec 16) (go : CollHead → List Byte → State → State)
    (s : State) (h_go : ∀ (y : State) (a0 : CollHead) (a1 : List Byte) (a2 : State), Keeps y a2 → Keeps y (go a0 a1 a2))
    (hK : Keeps z0 s) :
    Keeps z0 (gateRow cls op i go s) := by
  unfold gateRow
  repeat' first
    | (with_reducible first | assumption | exact Keeps.refl _ | intro _ | apply keeps_flushOut | apply keeps_freeMsg
                            | apply h_go | apply Keeps.ite)
    | fail_if_no_progress with_reducible refine Keeps.of ?_ rfl idp idp idp idp | dsimp only | split

theorem keeps_refuse {z0 : State} (cls : Nat) (op : Nat) (h : CollHead) (ctx : Nat) (status : Nat) (s : State)
    (hK : Keeps z0 s) :
    Keeps z0 (refuse cls op h ctx status s) := by
  unfold refuse
  repeat' first
    | (with_reducible first | assumption | exact Keeps.refl _ | intro _ | apply keeps_sendColl | apply Keeps.ite)
    | fail_if_no_progress with_reducible refine Keeps.of ?_ rfl idp idp idp idp | dsimp only | split

theorem keeps_sendShard {z0 : State} (ctx : Nat) (h : CollHead) (step : Nat) (bs : List Byte) (s : State) (hK : Keeps z0 s) :
    Keeps z0 (sendShard ctx h step bs s) := by
  unfold sendShard
  repeat' first
    | (with_reducible first | assumption | exact Keeps.refl _ | intro _ | apply keeps_sendColl | apply Keeps.ite
                            | apply Keeps.foldl | apply Keeps.foldl_fst | apply Keeps.foldl_snd | apply Keeps.foldl_third)
    | fail_if_no_progress with_reducible refine Keeps.of ?_ rfl idp idp idp idp | dsimp only | split

theorem keeps_serveFetch {z0 : State} (h : CollHead) (lh : LineHit) (s : State) (hK : Keeps z0 s) :
    Keeps z0 (serveFetch h lh s) := by
  unfold serveFetch
  repeat' first
    | (with_reducible first | assumption | exact Keeps.refl _ | intro _ | apply keeps_refuse | apply keeps_ctxRead
                            | apply keeps_sendShard | apply Keeps.ite)
    | fail_if_no_progress with_reducible refine Keeps.of ?_ rfl idp idp idp idp | dsimp only | split

theorem keeps_raiseCollTimeout {z0 : State} (r : Nat) (c : Nat) (t : Nat) (s : State) (hK : Keeps z0 s) :
    Keeps z0 (raiseCollTimeout r c t s) := by
  unfold raiseCollTimeout
  repeat' first
    | (with_reducible first | assumption | exact Keeps.refl _ | intro _ | apply keeps_gateCount | apply keeps_raiseFault
                            | apply Keeps.ite)
    | fail_if_no_progress with_reducible refine Keeps.of ?_ rfl idp idp idp idp | dsimp only | split

theorem keeps_takeNorm {z0 : State} (vs : List Nat) (s : State) (hK : Keeps z0 s) : Keeps z0 (takeNorm vs s).2 := by
  unfold takeNorm
  repeat' first
    | (with_reducible first | assumption | exact Keeps.refl _ | intro _ | apply keeps_takeFree | apply Keeps.ite)
    | fail_if_no_progress with_reducible refine Keeps.of ?_ rfl idp idp idp idp | dsimp only | split

/-- What reading an array answers keeps. -/
def ReadKept {α : Type} (z : State) (r : (α × MillAt) ⊕ State) : Prop :=
  match r with
  | .inl y => Keeps z y.2.st
  | .inr t => Keeps z t

theorem readKept_inl {α : Type} {z : State} {y : α × MillAt} (h : Keeps z y.2.st) : ReadKept z (.inl y) := h

theorem readKept_inr {α : Type} {z t : State} (h : Keeps z t) : ReadKept (α := α) z (.inr t) := h

theorem kept_millRead {z0 : State} (c : Nat) (h : LineHit) (a n : Nat) (x : MillAt) (hK : Keeps z0 x.st) :
    ReadKept z0 (millRead c h a n x) := by
  unfold millRead
  dsimp only
  split
  · exact readKept_inr (keeps_raiseFault _ _ _ hK)
  · split
    · exact readKept_inr (keeps_ctxRead _ _ _ _ _ hK)
    · exact readKept_inl (keeps_ctxRead _ _ _ _ _ hK)

theorem kept_millElems {z0 : State} (c : Nat) (h : LineHit) (a w n : Nat) (x : MillAt) (hK : Keeps z0 x.st) :
    ReadKept z0 (millElems c h a w n x) := by
  have hr := kept_millRead c h a (n * w) x hK
  unfold millElems
  split
  · exact hK
  · split <;> next e => rw [e] at hr; exact hr

theorem keeps_millElems_inl {z0 : State} {c : Nat} {h : LineHit} {a w n : Nat} {x : MillAt} {r : List Nat × MillAt}
    (hK : Keeps z0 x.st) (e : millElems c h a w n x = .inl r) : Keeps z0 r.2.st := by
  have := kept_millElems c h a w n x hK; rw [e] at this; exact this

theorem keeps_millElems_inr {z0 : State} {c : Nat} {h : LineHit} {a w n : Nat} {x : MillAt} {t : State}
    (hK : Keeps z0 x.st) (e : millElems c h a w n x = .inr t) : Keeps z0 t := by
  have := kept_millElems c h a w n x hK; rw [e] at this; exact this

/-- What a pass answers on one tensor keeps. -/
def MillKept (z : State) (r : MillAt ⊕ State) : Prop :=
  match r with
  | .inl y => Keeps z y.st
  | .inr t => Keeps z t

theorem millKept_inl {z : State} {y : MillAt} (h : Keeps z y.st) : MillKept z (.inl y) := h

theorem millKept_inr {z t : State} (h : Keeps z t) : MillKept z (.inr t) := h

theorem keeps_millWrite {z0 : State} (c : Nat) (a : Nat) (bs : List Byte) (s : State) (hK : Keeps z0 s) :
    Keeps z0 (millWrite c a bs s).2 := by
  unfold millWrite
  repeat' first
    | (with_reducible first | assumption | exact Keeps.refl _ | intro _ | apply keeps_raiseFault | apply keeps_ctxWrite
                            | apply Keeps.ite)
    | fail_if_no_progress with_reducible refine Keeps.of ?_ rfl idp idp idp idp | dsimp only | split

theorem keeps_millWrites {z0 : State} (c : Nat) (y1 : List (Nat × List Byte)) (y2 : State) (hK : Keeps z0 y2) :
    Keeps z0 (millWrites c y1 y2).2 := by
  induction y1 generalizing y2 with
  | nil => ?_
  | cons p t ih => ?_
  all_goals unfold millWrites
  repeat' first
    | (with_reducible first | assumption | exact Keeps.refl _ | intro _ | apply ih | apply keeps_millWrite | apply Keeps.ite)
    | fail_if_no_progress with_reducible refine Keeps.of ?_ rfl idp idp idp idp | dsimp only | split

theorem keeps_millCounts {z0 : State} (c : Nat) (base : Nat) (n : Nat) (rd : Nat) (wr : Nat) (bad : List Bool) (s : State)
    (hK : Keeps z0 s) :
    Keeps z0 (millCounts c base n rd wr bad s) := by
  unfold millCounts
  repeat' first
    | (with_reducible first | assumption | exact Keeps.refl _ | intro _ | apply keeps_regCount | apply Keeps.ite
                            | apply Keeps.foldl | apply Keeps.foldl_fst | apply Keeps.foldl_snd | apply Keeps.foldl_third)
    | fail_if_no_progress with_reducible refine Keeps.of ?_ rfl idp idp idp idp | dsimp only | split

theorem keeps_overTensors {z0 : State} (go : MillTensor → MillAt → MillAt ⊕ State) (l : List MillTensor) (x : MillAt)
    (h_go : ∀ m y, Keeps z0 y.st → MillKept z0 (go m y)) (hK : Keeps z0 x.st) : Keeps z0 (overTensors go l x).2 := by
  induction l generalizing x with
  | nil => exact hK
  | cons m l ih =>
    have := h_go m x hK
    unfold overTensors
    split <;> simp_all [MillKept]

theorem kept_passA {z0 : State} (c cb : Nat) (u : Update) (h : LineHit) (m : MillTensor) (x : MillAt) (hK : Keeps z0 x.st) : MillKept z0 (passA c cb u h m x) := by
  unfold passA
  repeat' first
    | with_reducible assumption
    | with_reducible refine keeps_millElems_inr ?_ (by assumption) | with_reducible refine keeps_millElems_inl ?_ (by assumption)
    | with_reducible apply keeps_updUpdate | with_reducible apply keeps_poke | with_reducible apply keeps_takeNorm
    | with_reducible apply keeps_millCounts | with_reducible apply keeps_millWrites | with_reducible apply kept_writeParams
    | with_reducible apply millKept_inl | with_reducible apply millKept_inr | dsimp only | split

theorem kept_writeParams {z0 : State} (c buf : Nat) (u : Update) (m : MillTensor) (rd : Nat) (ws : List Nat) (x : MillAt) (hK : Keeps z0 x.st) : MillKept z0 (writeParams c buf u m rd ws x) := by
  unfold writeParams
  repeat' first
    | with_reducible assumption
    | with_reducible refine keeps_millElems_inr ?_ (by assumption) | with_reducible refine keeps_millElems_inl ?_ (by assumption)
    | with_reducible apply keeps_updUpdate | with_reducible apply keeps_poke | with_reducible apply keeps_takeNorm
    | with_reducible apply keeps_millCounts | with_reducible apply keeps_millWrites
    | with_reducible apply millKept_inl | with_reducible apply millKept_inr | dsimp only | split

theorem kept_passB {z0 : State} (c cb : Nat) (u : Update) (h : LineHit) (m : MillTensor) (x : MillAt) (hK : Keeps z0 x.st) : MillKept z0 (passB c cb u h m x) := by
  unfold passB
  repeat' first
    | with_reducible assumption
    | with_reducible refine keeps_millElems_inr ?_ (by assumption) | with_reducible refine keeps_millElems_inl ?_ (by assumption)
    | with_reducible apply keeps_updUpdate | with_reducible apply keeps_poke | with_reducible apply keeps_takeNorm
    | with_reducible apply keeps_millCounts | with_reducible apply keeps_millWrites | with_reducible apply kept_writeParams
    | with_reducible apply millKept_inl | with_reducible apply millKept_inr | dsimp only | split

theorem keeps_afterPassB {z0 : State} (c : Nat) (cb : Nat) (t : Nat) (s : State) (hK : Keeps z0 s) :
    Keeps z0 (afterPassB c cb t s) := by
  unfold afterPassB
  repeat' first
    | (with_reducible first | assumption | exact Keeps.refl _ | intro _ | apply keeps_updUpdate | apply keeps_settleRefresh
                            | apply keeps_startRefresh | apply keeps_sendDone | apply Keeps.ite)
    | fail_if_no_progress with_reducible refine Keeps.of ?_ rfl idp idp idp idp | dsimp only | split

theorem kept_passApply {z0 : State} (c cb : Nat) (u : Update) (h : LineHit) (m : MillTensor) (x : MillAt) (hK : Keeps z0 x.st) : MillKept z0 (passApply c cb u h m x) := by
  unfold passApply
  repeat' first
    | with_reducible assumption
    | with_reducible refine keeps_millElems_inr ?_ (by assumption) | with_reducible refine keeps_millElems_inl ?_ (by assumption)
    | with_reducible apply keeps_updUpdate | with_reducible apply keeps_poke | with_reducible apply keeps_takeNorm
    | with_reducible apply keeps_millCounts | with_reducible apply keeps_millWrites | with_reducible apply kept_writeParams
    | with_reducible apply millKept_inl | with_reducible apply millKept_inr | dsimp only | split

theorem kept_passRefresh {z0 : State} (c cb : Nat) (u : Update) (h : LineHit) (m : MillTensor) (x : MillAt) (hK : Keeps z0 x.st) : MillKept z0 (passRefresh c cb u h m x) := by
  unfold passRefresh
  repeat' first
    | with_reducible assumption
    | with_reducible refine keeps_millElems_inr ?_ (by assumption) | with_reducible refine keeps_millElems_inl ?_ (by assumption)
    | with_reducible apply keeps_updUpdate | with_reducible apply keeps_poke | with_reducible apply keeps_takeNorm
    | with_reducible apply keeps_millCounts | with_reducible apply keeps_millWrites | with_reducible apply kept_writeParams
    | with_reducible apply millKept_inl | with_reducible apply millKept_inr | dsimp only | split

theorem keeps_acceptStep {z0 : State} (c : Cmd) (update : Bool) (s : State) (hK : Keeps z0 s) :
    Keeps z0 (acceptStep c update s) := by
  unfold acceptStep
  repeat' first
    | (with_reducible first | assumption | exact Keeps.refl _ | intro _ | apply keeps_acceptCmd | apply keeps_updJob
                            | apply keeps_readCommitGroup | apply Keeps.ite)
    | fail_if_no_progress with_reducible refine Keeps.of ?_ rfl idp idp idp idp | dsimp only | split

theorem keeps_stepCommand {z0 : State} (h : LineHit) (c : Cmd) (s : State) (hK : Keeps z0 s) :
    Keeps z0 (stepCommand h c s) := by
  unfold stepCommand
  repeat' first
    | (with_reducible first | assumption | exact Keeps.refl _ | intro _ | apply keeps_refuseCmd | apply keeps_refuseCfg
                            | apply keeps_acceptStep | apply keeps_readingCmd | apply Keeps.ite)
    | fail_if_no_progress with_reducible refine Keeps.of ?_ rfl idp idp idp idp | dsimp only | split

theorem keeps_startFused {z0 : State} (c : Cmd) (s : State) (hK : Keeps z0 s) : Keeps z0 (startFused c s) := by
  unfold startFused
  repeat' first
    | (with_reducible first | assumption | exact Keeps.refl _ | intro _ | apply keeps_readCommitGroup | apply keeps_acceptCmd
                            | apply keeps_updCtx | apply keeps_updAlm | apply Keeps.ite)
    | fail_if_no_progress with_reducible refine Keeps.of ?_ rfl idp idp idp idp | dsimp only | split

theorem keeps_millFused {z0 : State} (h : LineHit) (c : Cmd) (s : State) (hK : Keeps z0 s) : Keeps z0 (millFused h c s) := by
  unfold millFused
  repeat' first
    | (with_reducible first | assumption | exact Keeps.refl _ | intro _ | apply keeps_refuseCmd | apply keeps_readingCmd
                            | apply keeps_startFused | apply Keeps.ite)
    | fail_if_no_progress with_reducible refine Keeps.of ?_ rfl idp idp idp idp | dsimp only | split

theorem keeps_unflipCode {z0 : State} (c : Nat) (s : State) (hK : Keeps z0 s) : Keeps z0 (unflipCode c s) := by
  unfold unflipCode
  repeat' first
    | (with_reducible first | assumption | exact Keeps.refl _ | intro _ | apply keeps_updCode | apply Keeps.ite)
    | fail_if_no_progress with_reducible refine Keeps.of ?_ rfl idp idp idp idp | dsimp only | split

theorem keeps_stepBack {z0 : State} (c : Nat) (s : State) (hK : Keeps z0 s) : Keeps z0 (stepBack c s) := by
  unfold stepBack
  repeat' first
    | (with_reducible first | assumption | exact Keeps.refl _ | intro _ | apply keeps_unflipCode | apply keeps_writeAlmanac
                            | apply keeps_updAlm | apply Keeps.ite)
    | fail_if_no_progress with_reducible refine Keeps.of ?_ rfl idp idp idp idp | dsimp only | split

theorem keeps_stepResolve {z0 : State} (c : Cmd) (s : State) (hK : Keeps z0 s) : Keeps z0 (stepResolve c s) := by
  unfold stepResolve
  repeat' first
    | (with_reducible first | assumption | exact Keeps.refl _ | intro _ | apply keeps_stepBack | apply keeps_completeCmd
                            | apply keeps_refuseCmd | apply keeps_acceptCmd | apply Keeps.ite)
    | fail_if_no_progress with_reducible refine Keeps.of ?_ rfl idp idp idp idp | dsimp only | split

theorem keeps_ctxReadAll {z0 : State} (c : Nat) (h : LineHit) (y2 : List (Nat × Nat)) (y3 : Nat) (y4 : State)
    (hK : Keeps z0 y4) :
    Keeps z0 (ctxReadAll c h y2 y3 y4).2 := by
  induction y2 generalizing y3 y4 with
  | nil => ?_
  | cons p t ih => ?_
  all_goals unfold ctxReadAll
  repeat' first
    | (with_reducible first | assumption | exact Keeps.refl _ | intro _ | apply ih | apply keeps_ctxRead | apply Keeps.ite)
    | fail_if_no_progress with_reducible refine Keeps.of ?_ rfl idp idp idp idp | dsimp only | split

theorem keeps_codeSet {z0 : State} (h : LineHit) (c : Cmd) (s : State) (hK : Keeps z0 s) : Keeps z0 (codeSet h c s) := by
  unfold codeSet
  repeat' first
    | (with_reducible first | assumption | exact Keeps.refl _ | intro _ | apply keeps_refuseCmd | apply keeps_completeCmd
                            | apply keeps_updCode | apply keeps_clearValid | apply keeps_readingCmd | apply keeps_refuseCfg
                            | apply Keeps.ite)
    | fail_if_no_progress with_reducible refine Keeps.of ?_ rfl idp idp idp idp | dsimp only | split

theorem keeps_codeRefresh {z0 : State} (h : LineHit) (c : Cmd) (s : State) (hK : Keeps z0 s) :
    Keeps z0 (codeRefresh h c s) := by
  unfold codeRefresh
  repeat' first
    | (with_reducible first | assumption | exact Keeps.refl _ | intro _ | apply keeps_refuseCmd | apply keeps_refuseCfg
                            | apply keeps_acceptCmd | apply keeps_ctxReadAll | apply keeps_endJob | apply keeps_startRefresh
                            | apply Keeps.ite)
    | fail_if_no_progress with_reducible refine Keeps.of ?_ rfl idp idp idp idp | dsimp only | split

theorem keeps_codeCommit {z0 : State} (c : Cmd) (s : State) (hK : Keeps z0 s) : Keeps z0 (codeCommit c s) := by
  unfold codeCommit
  repeat' first
    | (with_reducible first | assumption | exact Keeps.refl _ | intro _ | apply keeps_refuseCmd | apply keeps_acceptCmd
                            | apply Keeps.ite)
    | fail_if_no_progress with_reducible refine Keeps.of ?_ rfl idp idp idp idp | dsimp only | split

theorem keeps_renameNode {z0 : State} (c : Nat) (lost : Nat) (new : Nat) (s : State) (hK : Keeps z0 s) :
    Keeps z0 (renameNode c lost new s) := by
  unfold renameNode
  repeat' first
    | (with_reducible first | assumption | exact Keeps.refl _ | intro _ | apply keeps_updCode | apply Keeps.ite)
    | fail_if_no_progress with_reducible refine Keeps.of ?_ rfl idp idp idp idp | dsimp only | split

theorem keeps_rollBack {z0 : State} (c : Nat) (h : LineHit) (s : State) (hK : Keeps z0 s) : Keeps z0 (rollBack c h s).2 := by
  unfold rollBack
  repeat' first
    | (with_reducible first | assumption | exact Keeps.refl _ | intro _ | apply keeps_ctxRead | apply keeps_updAlm
                            | apply keeps_writeRuns | apply Keeps.ite)
    | fail_if_no_progress with_reducible refine Keeps.of ?_ rfl idp idp idp idp | dsimp only | split

theorem keeps_codeRebuild {z0 : State} (h : LineHit) (c : Cmd) (s : State) (hK : Keeps z0 s) :
    Keeps z0 (codeRebuild h c s) := by
  unfold codeRebuild
  repeat' first
    | (with_reducible first | assumption | exact Keeps.refl _ | intro _ | apply keeps_refuseCmd | apply keeps_refuseCfg
                            | apply keeps_renameNode | apply keeps_rollBack | apply keeps_completeCmd | apply keeps_acceptCmd
                            | apply keeps_startRebuild | apply Keeps.ite | apply Keeps.foldl | apply Keeps.foldl_fst
                            | apply Keeps.foldl_snd | apply Keeps.foldl_third)
    | fail_if_no_progress with_reducible refine Keeps.of ?_ rfl idp idp idp idp | dsimp only | split

theorem keeps_takeParChunk {z0 : State} (c : Nat) (h : CollHead) (bs : List Byte) (s : State) (hK : Keeps z0 s) :
    Keeps z0 (takeParChunk c h bs s).2 := by
  unfold takeParChunk
  repeat' first
    | (with_reducible first | assumption | exact Keeps.refl _ | intro _ | apply keeps_updCode | apply Keeps.ite)
    | fail_if_no_progress with_reducible refine Keeps.of ?_ rfl idp idp idp idp | dsimp only | split

theorem keeps_refuseRefresh {z0 : State} (c : Nat) (status : Nat) (s : State) (hK : Keeps z0 s) :
    Keeps z0 (refuseRefresh c status s) := by
  unfold refuseRefresh
  repeat' first
    | (with_reducible first | assumption | exact Keeps.refl _ | intro _ | apply keeps_updCode | apply keeps_sendDone
                            | apply keeps_updUpdate | apply keeps_endJob | apply Keeps.ite)
    | fail_if_no_progress with_reducible refine Keeps.of ?_ rfl idp idp idp idp | dsimp only | split

theorem keeps_sendBulk {z0 : State} (dst : Nat) (ctx : Nat) (op : Nat) (transfer : Nat) (off : Nat) (data : List Byte)
    (s : State) (hK : Keeps z0 s) :
    Keeps z0 (sendBulk dst ctx op transfer off data s) := by
  unfold sendBulk
  repeat' first
    | (with_reducible first | assumption | exact Keeps.refl _ | intro _ | apply Keeps.ite)
    | fail_if_no_progress with_reducible refine Keeps.of ?_ rfl idp idp idp idp | dsimp only | split

theorem keeps_bulkRow {z0 : State} (op : Nat) (i : BitVec 16) (go : List Byte → State → State) (s : State) (h_go : ∀
    (y : State) (a0 : List Byte) (a1 : State), Keeps y a1 → Keeps y (go a0 a1)) (hK : Keeps z0 s) :
    Keeps z0 (bulkRow op i go s) := by
  unfold bulkRow
  repeat' first
    | (with_reducible first | assumption | exact Keeps.refl _ | intro _ | apply keeps_flushOut | apply keeps_freeMsg
                            | apply h_go | apply Keeps.ite)
    | fail_if_no_progress with_reducible refine Keeps.of ?_ rfl idp idp idp idp | dsimp only | split

theorem keeps_reshard {z0 : State} (h : LineHit) (c : Cmd) (s : State) (hK : Keeps z0 s) : Keeps z0 (reshard h c s) := by
  unfold reshard
  repeat' first
    | (with_reducible first | assumption | exact Keeps.refl _ | intro _ | apply keeps_refuseCmd | apply keeps_refuseCfg
                            | apply keeps_readingCmd | apply keeps_acceptCmd | apply Keeps.ite)
    | fail_if_no_progress with_reducible refine Keeps.of ?_ rfl idp idp idp idp | dsimp only | split

theorem keeps_writeItems {z0 : State} (c : Nat) (h : LineHit) (y2 : List ReshardItem) (y3 : Nat) (y4 : List Byte)
    (y5 : State) (hK : Keeps z0 y5) :
    Keeps z0 (writeItems c h y2 y3 y4 y5).2 := by
  induction y2 generalizing y3 y4 y5 with
  | nil => ?_
  | cons p t ih => ?_
  all_goals unfold writeItems
  repeat' first
    | (with_reducible first | assumption | exact Keeps.refl _ | intro _ | apply ih | apply keeps_ctxWrite
                            | apply keeps_ctxReadAll | apply Keeps.ite | apply Keeps.foldl | apply Keeps.foldl_fst
                            | apply Keeps.foldl_snd | apply Keeps.foldl_third)
    | fail_if_no_progress with_reducible refine Keeps.of ?_ rfl idp idp idp idp | dsimp only | split

theorem keeps_freeItems {z0 : State} (c : Nat) (items : List ReshardItem) (s : State) (hK : Keeps z0 s) :
    Keeps z0 (freeItems c items s) := by
  unfold freeItems
  repeat' first
    | (with_reducible first | assumption | exact Keeps.refl _ | intro _ | apply keeps_takeFree | apply keeps_ctxWrite
                            | apply Keeps.ite | apply Keeps.foldl | apply Keeps.foldl_fst | apply Keeps.foldl_snd
                            | apply Keeps.foldl_third)
    | fail_if_no_progress with_reducible refine Keeps.of ?_ rfl idp idp idp idp | dsimp only | split

theorem keeps_snapshot {z0 : State} (h : LineHit) (c : Cmd) (s : State) (hK : Keeps z0 s) : Keeps z0 (snapshot h c s) := by
  unfold snapshot
  repeat' first
    | (with_reducible first | assumption | exact Keeps.refl _ | intro _ | apply keeps_refuseCmd | apply keeps_readingCmd
                            | apply keeps_refuseCfg | apply keeps_acceptCmd | apply keeps_updJob | apply Keeps.ite)
    | fail_if_no_progress with_reducible refine Keeps.of ?_ rfl idp idp idp idp | dsimp only | split

theorem keeps_shipStaged {z0 : State} (j : Job) (image : List Byte) (s : State) (hK : Keeps z0 s) :
    Keeps z0 (shipStaged j image s) := by
  unfold shipStaged
  repeat' first
    | (with_reducible first | assumption | exact Keeps.refl _ | intro _ | apply keeps_sendBulk | apply keeps_pushXfer
                            | apply Keeps.ite | apply Keeps.foldl | apply Keeps.foldl_fst | apply Keeps.foldl_snd
                            | apply Keeps.foldl_third)
    | fail_if_no_progress with_reducible refine Keeps.of ?_ rfl idp idp idp idp | dsimp only | split

theorem keeps_raiseOverrun {z0 : State} (c : Nat) (s : State) (hK : Keeps z0 s) : Keeps z0 (raiseOverrun c s) := by
  unfold raiseOverrun
  repeat' first
    | (with_reducible first | assumption | exact Keeps.refl _ | intro _ | apply keeps_raiseCellFault | apply keeps_tallyAdd
                            | apply keeps_updBeat | apply Keeps.ite)
    | fail_if_no_progress with_reducible refine Keeps.of ?_ rfl idp idp idp idp | dsimp only | split

theorem keeps_guardChecks {z0 : State} (s : State) (hK : Keeps z0 s) : Keeps z0 (guardChecks s) := by
  unfold guardChecks
  repeat' first
    | (with_reducible first | assumption | exact Keeps.refl _ | intro _ | apply keeps_raiseOverrun
                            | apply keeps_raiseBeatAlign | apply Keeps.ite | apply Keeps.foldl | apply Keeps.foldl_fst
                            | apply Keeps.foldl_snd | apply Keeps.foldl_third)
    | fail_if_no_progress with_reducible refine Keeps.of ?_ rfl idp idp idp idp | dsimp only | split

theorem keeps_lastYield {z0 : State} (c : Nat) (s : State) (hK : Keeps z0 s) : Keeps z0 (lastYield s c).2.2 := by
  unfold lastYield
  repeat' first
    | (with_reducible first | assumption | exact Keeps.refl _ | intro _ | apply keeps_takeFree | apply Keeps.ite)
    | fail_if_no_progress with_reducible refine Keeps.of ?_ rfl idp idp idp idp | dsimp only | split

theorem keeps_countStalls {z0 : State} (a : Nat × Nat × State) (l : Nat) (hK : Keeps z0 a.2.2) :
    Keeps z0 (countStalls a l).2.2 :=
  keeps_updCell _ _ _ (keeps_takeFree _ (keeps_takeFree _ (keeps_takeFree _ hK)))

theorem keeps_putBeatRecord {z0 : State} (c : Nat) (bs : List Byte) (s : State) (hK : Keeps z0 s) :
    Keeps z0 (putBeatRecord c bs s) := by
  unfold putBeatRecord
  repeat' first
    | (with_reducible first | assumption | exact Keeps.refl _ | intro _ | apply keeps_poke | apply keeps_updKept
                            | apply Keeps.ite)
    | fail_if_no_progress with_reducible refine Keeps.of ?_ rfl idp idp idp idp | dsimp only | split

theorem keeps_countRun {z0 : State} (c : Nat) (s : State) (hK : Keeps z0 s) : Keeps z0 (countRun c s) := by
  unfold countRun
  repeat' first
    | (with_reducible first | assumption | exact Keeps.refl _ | intro _ | apply keeps_tallyAdd | apply keeps_updKept
                            | apply Keeps.ite)
    | fail_if_no_progress with_reducible refine Keeps.of ?_ rfl idp idp idp idp | dsimp only | split

theorem keeps_reportRings {z0 : State} (c : Nat) (s : State) (hK : Keeps z0 s) : Keeps z0 (reportRings c s) := by
  unfold reportRings
  repeat' first
    | (with_reducible first | assumption | exact Keeps.refl _ | intro _ | apply keeps_poke | apply Keeps.ite
                            | apply Keeps.foldl | apply Keeps.foldl_fst | apply Keeps.foldl_snd | apply Keeps.foldl_third)
    | fail_if_no_progress with_reducible refine Keeps.of ?_ rfl idp idp idp idp | dsimp only | split

theorem keeps_closeWindowBeat {z0 : State} (c : Nat) (last : Nat) (s : State) (hK : Keeps z0 s) :
    Keeps z0 (closeWindowBeat c last s) := by
  unfold closeWindowBeat
  repeat' first
    | (with_reducible first | assumption | exact Keeps.refl _ | intro _ | apply keeps_updBeat | apply Keeps.ite)
    | fail_if_no_progress with_reducible refine Keeps.of ?_ rfl idp idp idp idp | dsimp only | split

theorem keeps_sendSlack {z0 : State} (s : State) (hK : Keeps z0 s) : Keeps z0 (sendSlack s) := by
  unfold sendSlack
  repeat' first
    | (with_reducible first | assumption | exact Keeps.refl _ | intro _ | apply keeps_sendCtl | apply Keeps.ite)
    | fail_if_no_progress with_reducible refine Keeps.of ?_ rfl idp idp idp idp | dsimp only | split

theorem keeps_closePartition {z0 : State} (early : Bool) (overs : Nat) (c : Nat) (s : State) (hK : Keeps z0 s) :
    Keeps z0 (closePartition early overs c s) := by
  unfold closePartition
  repeat' first
    | (with_reducible first | assumption | exact Keeps.refl _ | intro _ | apply keeps_countStalls | apply keeps_lastYield
                            | apply keeps_putBeatRecord | apply keeps_countRun | apply keeps_tallyAdd | apply keeps_updRun
                            | apply keeps_reportRings | apply keeps_closeWindowBeat | apply Keeps.ite | apply Keeps.foldl
                            | apply Keeps.foldl_fst | apply Keeps.foldl_snd | apply Keeps.foldl_third)
    | fail_if_no_progress with_reducible refine Keeps.of ?_ rfl idp idp idp idp | dsimp only | split

theorem keeps_dropHeld {z0 : State} (s : State) (hK : Keeps z0 s) : Keeps z0 (dropHeld s) := by
  unfold dropHeld
  repeat' first
    | (with_reducible first | assumption | exact Keeps.refl _ | intro _ | apply keeps_gateCount | apply Keeps.ite
                            | apply Keeps.foldl | apply Keeps.foldl_fst | apply Keeps.foldl_snd | apply Keeps.foldl_third)
    | fail_if_no_progress with_reducible refine Keeps.of ?_ rfl idp idp idp idp | dsimp only | split

theorem keeps_settleSettings {z0 : State} (s : State) (hK : Keeps z0 s) : Keeps z0 (settleSettings s) := by
  unfold settleSettings
  repeat' first
    | (with_reducible first | assumption | exact Keeps.refl _ | intro _ | apply keeps_setField | apply keeps_updCtx
                            | apply keeps_endJob | apply keeps_regEffSet | apply Keeps.ite | apply Keeps.foldl
                            | apply Keeps.foldl_fst | apply Keeps.foldl_snd | apply Keeps.foldl_third)
    | fail_if_no_progress with_reducible refine Keeps.of ?_ rfl idp idp idp idp | dsimp only | split

theorem keeps_closeBeat {z0 : State} (early : Bool) (overs : List (Nat × Nat)) (s : State) (hK : Keeps z0 s) :
    Keeps z0 (closeBeat early overs s) := by
  unfold closeBeat
  repeat' first
    | (with_reducible first | assumption | exact Keeps.refl _ | exact idp | refine memOf ?_ ?_ ?_ ?_ ?_ ?_ ?_ ?_ ?_
                            | refine sWf_refill _ (fun _ => rfl) ?_ | apply sWf_set | apply sWf_upd | apply sWf_foldl
                            | apply sWf_filter | intro _ | apply keeps_closePartition | apply keeps_sendSlack
                            | apply keeps_updBeat | apply keeps_dropHeld | apply Keeps.ite | apply Keeps.foldl
                            | apply Keeps.foldl_fst | apply Keeps.foldl_snd | apply Keeps.foldl_third)
    | fail_if_no_progress with_reducible refine Keeps.of ?_ rfl idp idp idp idp | dsimp only | split
    | fail_if_no_progress (with_reducible refine Keeps.of ?_ rfl idp ?_ idp idp <;> try with_reducible exact idp)

theorem keeps_applyFences {z0 : State} (s : State) (hK : Keeps z0 s) : Keeps z0 (applyFences s) := by
  unfold applyFences
  repeat' first
    | (with_reducible first | assumption | exact Keeps.refl _ | intro _ | apply keeps_logAppend | apply keeps_tallyGauge
                            | apply keeps_applyFence | apply Keeps.ite | apply Keeps.foldl | apply Keeps.foldl_fst
                            | apply Keeps.foldl_snd | apply Keeps.foldl_third)
    | fail_if_no_progress with_reducible refine Keeps.of ?_ rfl idp idp idp idp | dsimp only | split

theorem keeps_countSpare {z0 : State} (k : Nat) (w : SpareSwitch) (s : State) (hK : Keeps z0 s) :
    Keeps z0 (countSpare k w s) := by
  unfold countSpare
  repeat' first
    | (with_reducible first | assumption | exact Keeps.refl _ | intro _ | apply keeps_tallyAdd | apply keeps_updEngine
                            | apply keeps_logRepair | apply Keeps.ite)
    | fail_if_no_progress with_reducible refine Keeps.of ?_ rfl idp idp idp idp | dsimp only | split

theorem keeps_switchLanes {z0 : State} (k : Nat) (s : State) (hK : Keeps z0 s) : Keeps z0 (switchLanes k s) := by
  unfold switchLanes
  repeat' first
    | (with_reducible first | assumption | exact Keeps.refl _ | intro _ | apply keeps_countSpare | apply keeps_updEngine
                            | apply keeps_askSpare | apply keeps_endJob | apply keeps_updJob | apply Keeps.ite)
    | fail_if_no_progress with_reducible refine Keeps.of ?_ rfl idp idp idp idp | dsimp only | split

theorem keeps_settlePort {z0 : State} (p : Nat) (s : State) (hK : Keeps z0 s) : Keeps z0 (settlePort p s) := by
  unfold settlePort
  repeat' first
    | (with_reducible first | assumption | exact Keeps.refl _ | intro _ | apply keeps_updPort | apply keeps_updEngine
                            | apply keeps_logRepair | apply keeps_tallyAdd | apply keeps_pump | apply Keeps.ite)
    | fail_if_no_progress with_reducible refine Keeps.of ?_ rfl idp idp idp idp | dsimp only | split

theorem keeps_settleUnits {z0 : State} (s : State) (hK : Keeps z0 s) : Keeps z0 (settleUnits s) := by
  unfold settleUnits
  repeat' first
    | (with_reducible first | assumption | exact Keeps.refl _ | intro _ | apply keeps_applyReturns | apply keeps_endUrgent
                            | apply keeps_applyFences | apply keeps_switchLanes | apply keeps_settlePort | apply Keeps.ite
                            | apply Keeps.foldl | apply Keeps.foldl_fst | apply Keeps.foldl_snd | apply Keeps.foldl_third)
    | fail_if_no_progress with_reducible refine Keeps.of ?_ rfl idp idp idp idp | dsimp only | split

theorem keeps_flipSnapshots {z0 : State} (c : Nat) (t : Nat) (s : State) (hK : Keeps z0 s) :
    Keeps z0 (flipSnapshots c t s) := by
  unfold flipSnapshots
  repeat' first
    | (with_reducible first | assumption | exact Keeps.refl _ | intro _ | apply keeps_endJob | apply keeps_updJob
                            | apply Keeps.ite | apply Keeps.foldl | apply Keeps.foldl_fst | apply Keeps.foldl_snd
                            | apply Keeps.foldl_third)
    | fail_if_no_progress with_reducible refine Keeps.of ?_ rfl idp idp idp idp | dsimp only | split

theorem keeps_flip {z0 : State} (c : Nat) (t : Nat) (s : State) (hK : Keeps z0 s) : Keeps z0 (flip c t s) := by
  unfold flip
  repeat' first
    | (with_reducible first | assumption | exact Keeps.refl _ | intro _ | apply keeps_updAlm | apply keeps_flipSnapshots
                            | apply keeps_writeAlmanac | apply keeps_regCount | apply Keeps.ite)
    | fail_if_no_progress with_reducible refine Keeps.of ?_ rfl idp idp idp idp | dsimp only | split

theorem keeps_flipCode {z0 : State} (c : Nat) (t : Nat) (s : State) (hK : Keeps z0 s) : Keeps z0 (flipCode c t s) := by
  unfold flipCode
  repeat' first
    | (with_reducible first | assumption | exact Keeps.refl _ | intro _ | apply keeps_updCode | apply Keeps.ite)
    | fail_if_no_progress with_reducible refine Keeps.of ?_ rfl idp idp idp idp | dsimp only | split

theorem keeps_raiseUpdate {z0 : State} (code : Nat) (c : Nat) (s : State) (hK : Keeps z0 s) :
    Keeps z0 (raiseUpdate code c s) := by
  unfold raiseUpdate
  repeat' first
    | (with_reducible first | assumption | exact Keeps.refl _ | intro _ | apply keeps_raiseFault | apply Keeps.ite)
    | fail_if_no_progress with_reducible refine Keeps.of ?_ rfl idp idp idp idp | dsimp only | split

theorem keeps_closeUpdate {z0 : State} (c : Nat) (s : State) (hK : Keeps z0 s) : Keeps z0 (closeUpdate c s).2.2 := by
  unfold closeUpdate
  repeat' first
    | (with_reducible first | assumption | exact Keeps.refl _ | intro _ | apply keeps_updateDeadline | apply keeps_updCtx
                            | apply keeps_regCount | apply keeps_writeAlmanac | apply keeps_updCode | apply keeps_updAlm
                            | apply keeps_flip | apply keeps_flipCode | apply keeps_raiseUpdate | apply Keeps.ite)
    | fail_if_no_progress with_reducible refine Keeps.of ?_ rfl idp idp idp idp | dsimp only | split

theorem keeps_closeFused {z0 : State} (c : Nat) (s : State) (hK : Keeps z0 s) : Keeps z0 (closeFused c s) := by
  unfold closeFused
  repeat' first
    | (with_reducible first | assumption | exact Keeps.refl _ | intro _ | apply keeps_updCtx | apply keeps_writeAlmanac
                            | apply keeps_updAlm | apply keeps_endJob | apply keeps_flip | apply keeps_clearValid
                            | apply Keeps.ite)
    | fail_if_no_progress with_reducible refine Keeps.of ?_ rfl idp idp idp idp | dsimp only | split

theorem keeps_applyResolve {z0 : State} (j : Job) (s : State) (hK : Keeps z0 s) : Keeps z0 (applyResolve j s) := by
  unfold applyResolve
  repeat' first
    | (with_reducible first | assumption | exact Keeps.refl _ | intro _ | apply keeps_flip | apply keeps_flipCode
                            | apply keeps_writeAlmanac | apply keeps_updAlm | apply keeps_endJob | apply Keeps.ite)
    | fail_if_no_progress with_reducible refine Keeps.of ?_ rfl idp idp idp idp | dsimp only | split

theorem keeps_applyCodeCommit {z0 : State} (j : Job) (s : State) (hK : Keeps z0 s) : Keeps z0 (applyCodeCommit j s) := by
  unfold applyCodeCommit
  repeat' first
    | (with_reducible first | assumption | exact Keeps.refl _ | intro _ | apply keeps_endJobWith | apply keeps_endJob
                            | apply keeps_flipCode | apply Keeps.ite)
    | fail_if_no_progress with_reducible refine Keeps.of ?_ rfl idp idp idp idp | dsimp only | split

theorem keeps_openUpdate {z0 : State} (c : Nat) (j : Job) (s : State) (hK : Keeps z0 s) : Keeps z0 (openUpdate c j s) := by
  unfold openUpdate
  repeat' first
    | (with_reducible first | assumption | exact Keeps.refl _ | intro _ | apply keeps_updAlm | apply keeps_updCtx
                            | apply Keeps.ite)
    | fail_if_no_progress with_reducible refine Keeps.of ?_ rfl idp idp idp idp | dsimp only | split

theorem keeps_afterFrame {z0 : State} (c : Nat) (status : Nat) (flipped : Bool) (s : State) (hK : Keeps z0 s) :
    Keeps z0 (afterFrame c status flipped s) := by
  unfold afterFrame
  repeat' first
    | (with_reducible first | assumption | exact Keeps.refl _ | intro _ | apply keeps_endJob | apply keeps_skipStep
                            | apply keeps_openUpdate | apply keeps_updRun | apply Keeps.ite)
    | fail_if_no_progress with_reducible refine Keeps.of ?_ rfl idp idp idp idp | dsimp only | split

theorem keeps_endWork {z0 : State} (j : Job) (s : State) (hK : Keeps z0 s) : Keeps z0 (endWork j s) := by
  unfold endWork
  repeat' first
    | (with_reducible first | assumption | exact Keeps.refl _ | intro _ | apply keeps_freeItems | apply keeps_endJob
                            | apply Keeps.ite)
    | fail_if_no_progress with_reducible refine Keeps.of ?_ rfl idp idp idp idp | dsimp only | split

theorem keeps_resetWork {z0 : State} (c : Nat) (s : State) (hK : Keeps z0 s) : Keeps z0 (resetWork c s) := by
  unfold resetWork
  repeat' first
    | (with_reducible first | assumption | exact Keeps.refl _ | intro _ | apply keeps_resetLines | apply keeps_resetBells
                            | apply keeps_updLine | apply keeps_clearLanes | apply keeps_resetResidency | apply keeps_updCell
                            | apply Keeps.ite | apply Keeps.foldl | apply Keeps.foldl_fst | apply Keeps.foldl_snd
                            | apply Keeps.foldl_third)
    | fail_if_no_progress with_reducible refine Keeps.of ?_ rfl idp idp idp idp | dsimp only | split

theorem keeps_discardBoundary {z0 : State} (c : Nat) (s : State) (hK : Keeps z0 s) : Keeps z0 (discardBoundary c s) := by
  unfold discardBoundary
  repeat' first
    | (with_reducible first | assumption | exact Keeps.refl _ | intro _ | apply keeps_endWork | apply keeps_updCtx
                            | apply keeps_skipStep | apply keeps_updRun | apply keeps_resetWork | apply Keeps.ite
                            | apply Keeps.foldl | apply Keeps.foldl_fst | apply Keeps.foldl_snd | apply Keeps.foldl_third)
    | fail_if_no_progress with_reducible refine Keeps.of ?_ rfl idp idp idp idp | dsimp only | split

theorem keeps_settleStep {z0 : State} (discards : List Nat) (c : Nat) (s : State) (hK : Keeps z0 s) :
    Keeps z0 (settleStep discards c s) := by
  unfold settleStep
  repeat' first
    | (with_reducible first | assumption | exact Keeps.refl _ | intro _ | apply keeps_closeUpdate
                            | apply keeps_discardBoundary | apply keeps_afterFrame | apply keeps_closeFused | apply Keeps.ite)
    | fail_if_no_progress with_reducible refine Keeps.of ?_ rfl idp idp idp idp | dsimp only | split

theorem keeps_commitFlips {z0 : State} (discards : List Nat) (s : State) (hK : Keeps z0 s) :
    Keeps z0 (commitFlips discards s) := by
  unfold commitFlips
  repeat' first
    | (with_reducible first | assumption | exact Keeps.refl _ | intro _ | apply keeps_settleStep | apply keeps_applyResolve
                            | apply keeps_applyCodeCommit | apply Keeps.ite | apply Keeps.foldl | apply Keeps.foldl_fst
                            | apply Keeps.foldl_snd | apply Keeps.foldl_third)
    | fail_if_no_progress with_reducible refine Keeps.of ?_ rfl idp idp idp idp | dsimp only | split

theorem keeps_abandonStep {z0 : State} (c : Nat) (s : State) (hK : Keeps z0 s) : Keeps z0 (abandonStep c s) := by
  unfold abandonStep
  repeat' first
    | (with_reducible first | assumption | exact Keeps.refl _ | intro _ | apply keeps_endJob | apply keeps_updKept
                            | apply keeps_skipStep | apply Keeps.ite)
    | fail_if_no_progress with_reducible refine Keeps.of ?_ rfl idp idp idp idp | dsimp only | split

theorem keeps_swapOne {z0 : State} (j : Job) (s : State) (hK : Keeps z0 s) : Keeps z0 (swapOne j s) := by
  unfold swapOne
  repeat' first
    | (with_reducible first | assumption | exact Keeps.refl _ | intro _ | apply keeps_resetWork | apply keeps_abandonStep
                            | apply keeps_updCell | apply keeps_applySwap | apply Keeps.ite | apply Keeps.foldl
                            | apply Keeps.foldl_fst | apply Keeps.foldl_snd | apply Keeps.foldl_third)
    | fail_if_no_progress with_reducible refine Keeps.of ?_ rfl idp idp idp idp | dsimp only | split

theorem keeps_applySwaps {z0 : State} (s : State) (hK : Keeps z0 s) : Keeps z0 (applySwaps s) := by
  unfold applySwaps
  repeat' first
    | (with_reducible first | assumption | exact Keeps.refl _ | intro _ | apply keeps_swapOne | apply Keeps.ite
                            | apply Keeps.foldl | apply Keeps.foldl_fst | apply Keeps.foldl_snd | apply Keeps.foldl_third)
    | fail_if_no_progress with_reducible refine Keeps.of ?_ rfl idp idp idp idp | dsimp only | split

theorem keeps_applyGranaries {z0 : State} (s : State) (hK : Keeps z0 s) : Keeps z0 (applyGranaries s) := by
  unfold applyGranaries
  repeat' first
    | (with_reducible first | assumption | exact Keeps.refl _ | intro _ | apply keeps_endJob | apply keeps_updKept
                            | apply Keeps.ite | apply Keeps.foldl | apply Keeps.foldl_fst | apply Keeps.foldl_snd
                            | apply Keeps.foldl_third)
    | fail_if_no_progress with_reducible refine Keeps.of ?_ rfl idp idp idp idp | dsimp only | split

theorem keeps_applyLength {z0 : State} (s : State) (hK : Keeps z0 s) : Keeps z0 (applyLength s) := by
  unfold applyLength
  repeat' first
    | (with_reducible first | assumption | exact Keeps.refl _ | intro _ | apply keeps_applyLen | apply keeps_endJob
                            | apply Keeps.ite | apply Keeps.foldl | apply Keeps.foldl_fst | apply Keeps.foldl_snd
                            | apply Keeps.foldl_third)
    | fail_if_no_progress with_reducible refine Keeps.of ?_ rfl idp idp idp idp | dsimp only | split

theorem keeps_flushCaches {z0 : State} (c : Nat) (s : State) (hK : Keeps z0 s) : Keeps z0 (flushCaches c s) := by
  unfold flushCaches
  repeat' first
    | (with_reducible first | assumption | exact Keeps.refl _ | exact idp | refine memOf ?_ ?_ ?_ ?_ ?_ ?_ ?_ ?_ ?_
                            | refine sWf_refill _ (fun _ => rfl) ?_ | apply sWf_set | apply sWf_upd | apply sWf_clear
                            | apply sWf_foldl | intro _ | apply Keeps.ite | apply Keeps.foldl | apply Keeps.foldl_fst
                            | apply Keeps.foldl_snd | apply Keeps.foldl_third)
    | fail_if_no_progress with_reducible refine Keeps.of ?_ rfl idp idp idp idp | dsimp only | split
    | fail_if_no_progress (with_reducible refine Keeps.of ?_ rfl idp ?_ idp idp <;> try with_reducible exact idp)

theorem keeps_parkCtx {z0 : State} (j : Job) (s : State) (hK : Keeps z0 s) : Keeps z0 (parkCtx j s) := by
  unfold parkCtx
  repeat' first
    | (with_reducible first | assumption | exact Keeps.refl _ | intro _ | apply keeps_discardBoundary | apply keeps_updKept
                            | apply keeps_abandonStep | apply keeps_dropKept | apply keeps_flushCaches | apply keeps_updCtx
                            | apply keeps_writeAlmanac | apply keeps_updJob | apply Keeps.ite)
    | fail_if_no_progress with_reducible refine Keeps.of ?_ rfl idp idp idp idp | dsimp only | split

theorem keeps_unparkCtx {z0 : State} (j : Job) (s : State) (hK : Keeps z0 s) : Keeps z0 (unparkCtx j s) := by
  unfold unparkCtx
  repeat' first
    | (with_reducible first | assumption | exact Keeps.refl _ | intro _ | apply keeps_updCtx | apply keeps_endJob
                            | apply keeps_failUnpark | apply Keeps.ite)
    | fail_if_no_progress with_reducible refine Keeps.of ?_ rfl idp idp idp idp | dsimp only | split

theorem keeps_parkAndUnpark {z0 : State} (s : State) (hK : Keeps z0 s) : Keeps z0 (parkAndUnpark s) := by
  unfold parkAndUnpark
  repeat' first
    | (with_reducible first | assumption | exact Keeps.refl _ | intro _ | apply keeps_parkCtx | apply keeps_unparkCtx
                            | apply Keeps.ite | apply Keeps.foldl | apply Keeps.foldl_fst | apply Keeps.foldl_snd
                            | apply Keeps.foldl_third)
    | fail_if_no_progress with_reducible refine Keeps.of ?_ rfl idp idp idp idp | dsimp only | split

theorem keeps_loadCells {z0 : State} (c : Nat) (s : State) (hK : Keeps z0 s) : Keeps z0 (loadCells c s) := by
  unfold loadCells
  repeat' first
    | (with_reducible first | assumption | exact Keeps.refl _ | intro _ | apply keeps_updCell | apply Keeps.ite
                            | apply Keeps.foldl | apply Keeps.foldl_fst | apply Keeps.foldl_snd | apply Keeps.foldl_third)
    | fail_if_no_progress with_reducible refine Keeps.of ?_ rfl idp idp idp idp | dsimp only | split

theorem keeps_startLoad {z0 : State} (c : Nat) (s : State) (hK : Keeps z0 s) : Keeps z0 (startLoad c s) := by
  unfold startLoad
  repeat' first
    | (with_reducible first | assumption | exact Keeps.refl _ | intro _ | apply keeps_takeFree | apply keeps_regSet
                            | apply keeps_updRun | apply keeps_loadCells | apply Keeps.ite | apply Keeps.foldl
                            | apply Keeps.foldl_fst | apply Keeps.foldl_snd | apply Keeps.foldl_third)
    | fail_if_no_progress with_reducible refine Keeps.of ?_ rfl idp idp idp idp | dsimp only | split

theorem keeps_restartMarks {z0 : State} (c : Nat) (s : State) (hK : Keeps z0 s) : Keeps z0 (restartMarks c s) := by
  unfold restartMarks
  repeat' first
    | (with_reducible first | assumption | exact Keeps.refl _ | intro _ | apply keeps_updCell | apply Keeps.ite
                            | apply Keeps.foldl | apply Keeps.foldl_fst | apply Keeps.foldl_snd | apply Keeps.foldl_third)
    | fail_if_no_progress with_reducible refine Keeps.of ?_ rfl idp idp idp idp | dsimp only | split

theorem keeps_startStep {z0 : State} (c : Nat) (j : Job) (s : State) (hK : Keeps z0 s) : Keeps z0 (startStep c j s) := by
  unfold startStep
  repeat' first
    | (with_reducible first | assumption | exact Keeps.refl _ | intro _ | apply keeps_restartMarks | apply keeps_clearLanes
                            | apply keeps_resetResidency | apply keeps_resetLines | apply keeps_resetBells
                            | apply keeps_updLine | apply keeps_updRun | apply keeps_updBeat | apply Keeps.ite
                            | apply Keeps.foldl | apply Keeps.foldl_fst | apply Keeps.foldl_snd | apply Keeps.foldl_third)
    | fail_if_no_progress with_reducible refine Keeps.of ?_ rfl idp idp idp idp | dsimp only | split

theorem keeps_runFrame {z0 : State} (c : Nat) (s : State) (hK : Keeps z0 s) : Keeps z0 (runFrame c s) := by
  unfold runFrame
  repeat' first
    | (with_reducible first | assumption | exact Keeps.refl _ | intro _ | apply keeps_updRun | apply keeps_updCell
                            | apply Keeps.ite | apply Keeps.foldl | apply Keeps.foldl_fst | apply Keeps.foldl_snd
                            | apply Keeps.foldl_third)
    | fail_if_no_progress with_reducible refine Keeps.of ?_ rfl idp idp idp idp | dsimp only | split

theorem keeps_openPartition {z0 : State} (c : Nat) (s : State) (hK : Keeps z0 s) : Keeps z0 (openPartition c s) := by
  unfold openPartition
  repeat' first
    | (with_reducible first | assumption | exact Keeps.refl _ | intro _ | apply keeps_startLoad | apply keeps_updRun
                            | apply keeps_runFrame | apply keeps_startStep | apply Keeps.ite)
    | fail_if_no_progress with_reducible refine Keeps.of ?_ rfl idp idp idp idp | dsimp only | split

theorem keeps_openBeat {z0 : State} (at_ : Nat) (s : State) (hK : Keeps z0 s) : Keeps z0 (openBeat at_ s) := by
  unfold openBeat
  repeat' first
    | (with_reducible first | assumption | exact Keeps.refl _ | intro _ | apply keeps_updBeat | apply keeps_openPartition
                            | apply keeps_sendSyncs | apply Keeps.ite | apply Keeps.foldl | apply Keeps.foldl_fst
                            | apply Keeps.foldl_snd | apply Keeps.foldl_third)
    | fail_if_no_progress with_reducible refine Keeps.of ?_ rfl idp idp idp idp | dsimp only | split

theorem keeps_boundaryActions {z0 : State} (early : Bool) (s : State) (hK : Keeps z0 s) :
    Keeps z0 (boundaryActions early s) := by
  unfold boundaryActions
  repeat' first
    | (with_reducible first | assumption | exact Keeps.refl _ | intro _ | apply keeps_guardChecks | apply keeps_settleUnits
                            | apply keeps_settleSettings | apply keeps_closeBeat | apply keeps_parkAndUnpark
                            | apply keeps_applyLength | apply keeps_applyGranaries | apply keeps_applySwaps
                            | apply keeps_commitFlips | apply Keeps.ite)
    | fail_if_no_progress with_reducible refine Keeps.of ?_ rfl idp idp idp idp | dsimp only | split

end Sys2Proof.Machine
end

