-- ==== Sys2Proof/Laws/KeepsPorts.lean ====
section
/-! SUPPORT. What registers, the debug ports and the clock keep, one lemma for each. -/

set_option linter.unreachableTactic false
set_option linter.unusedTactic false

namespace Sys2Proof.Machine

theorem keeps_updReplay {z0 : State} (k : Nat) (f : Nat → Nat) (s : State) (hK : Keeps z0 s) : Keeps z0 (updReplay k f s) := by
  unfold updReplay
  repeat' first
    | (with_reducible first | assumption | exact Keeps.refl _ | intro _ | apply Keeps.ite)
    | fail_if_no_progress with_reducible refine Keeps.of ?_ rfl idp idp idp idp | dsimp only | split

theorem keeps_linkDown {z0 : State} (link : Nat) (s : State) (hK : Keeps z0 s) : Keeps z0 (linkDown link s) := by
  unfold linkDown
  repeat' first
    | (with_reducible first | assumption | exact Keeps.refl _ | intro _ | apply keeps_raiseFault
                            | apply keeps_raiseDeviceFault | apply Keeps.ite)
    | fail_if_no_progress with_reducible refine Keeps.of ?_ rfl idp idp idp idp | dsimp only | split

theorem keeps_raiseCarveUe {z0 : State} (la : Nat) (pa : Nat) (s : State) (hK : Keeps z0 s) :
    Keeps z0 (raiseCarveUe la pa s) := by
  unfold raiseCarveUe
  repeat' first
    | (with_reducible first | assumption | exact Keeps.refl _ | exact idp | refine memOf ?_ ?_ ?_ ?_ ?_ ?_ ?_ ?_ ?_
                            | refine sWf_refill _ (fun _ => rfl) ?_ | apply sWf_set | apply sWf_upd | intro _
                            | apply keeps_raiseDeviceFault | apply Keeps.ite)
    | fail_if_no_progress with_reducible refine Keeps.of ?_ rfl idp idp idp idp | dsimp only | split
    | fail_if_no_progress (with_reducible refine Keeps.of ?_ rfl idp ?_ idp idp <;> try with_reducible exact idp)

theorem keeps_scrubCarve {z0 : State} (stack : Nat) (la : Nat) (s : State) (hK : Keeps z0 s) :
    Keeps z0 (scrubCarve stack la s) := by
  unfold scrubCarve
  repeat' first
    | (with_reducible first | assumption | exact Keeps.refl _ | intro _ | apply keeps_raiseCarveUe | apply keeps_logRepair
                            | apply keeps_hbmPut | apply Keeps.ite)
    | fail_if_no_progress with_reducible refine Keeps.of ?_ rfl idp idp idp idp | dsimp only | split

theorem keeps_updRow {z0 : State} (k : Nat) (f : Row → Row) (s : State) (hK : Keeps z0 s) : Keeps z0 (updRow k f s) := by
  unfold updRow
  repeat' first
    | (with_reducible first | assumption | exact Keeps.refl _ | exact idp | refine memOf ?_ ?_ ?_ ?_ ?_ ?_ ?_ ?_ ?_
                            | refine sWf_refill _ (fun _ => rfl) ?_ | apply sWf_set | apply sWf_upd | intro _
                            | apply Keeps.ite)
    | fail_if_no_progress with_reducible refine Keeps.of ?_ rfl idp idp idp idp | dsimp only | split
    | fail_if_no_progress (with_reducible refine Keeps.of ?_ rfl idp ?_ idp idp <;> try with_reducible exact idp)

theorem keeps_readReg {z0 : State} (a : Nat) (s : State) (hK : Keeps z0 s) : Keeps z0 (readReg s a).2 := by
  unfold readReg
  repeat' first
    | (with_reducible first | assumption | exact Keeps.refl _ | intro _ | apply keeps_takeFree | apply Keeps.ite)
    | fail_if_no_progress with_reducible refine Keeps.of ?_ rfl idp idp idp idp | dsimp only | split

theorem keeps_storeReg {z0 : State} (ok : Nat → RegField → Nat → Bool) (a : Nat) (part : RegPart) (v : Nat) (s : State)
    (hK : Keeps z0 s) :
    Keeps z0 (storeReg ok a part v s) := by
  unfold storeReg
  repeat' first
    | (with_reducible first | assumption | exact Keeps.refl _ | intro _ | apply keeps_regSet | apply Keeps.ite)
    | fail_if_no_progress with_reducible refine Keeps.of ?_ rfl idp idp idp idp | dsimp only | split

theorem keeps_plainWrite {z0 : State} (a : Nat) (part : RegPart) (v : Nat) (s : State) (hK : Keeps z0 s) :
    Keeps z0 (plainWrite a part v s) := by
  unfold plainWrite
  repeat' first
    | (with_reducible first | assumption | exact Keeps.refl _ | intro _ | apply keeps_storeReg | apply Keeps.ite)
    | fail_if_no_progress with_reducible refine Keeps.of ?_ rfl idp idp idp idp | dsimp only | split

theorem keeps_writeBeatCtl {z0 : State} (part : RegPart) (v : Nat) (s : State) (hK : Keeps z0 s) :
    Keeps z0 (writeBeatCtl part v s) := by
  unfold writeBeatCtl
  repeat' first
    | (with_reducible first | assumption | exact Keeps.refl _ | intro _ | apply keeps_setField | apply keeps_commandLen
                            | apply Keeps.ite)
    | fail_if_no_progress with_reducible refine Keeps.of ?_ rfl idp idp idp idp | dsimp only | split

theorem keeps_writeBeatAdapt {z0 : State} (part : RegPart) (v : Nat) (s : State) (hK : Keeps z0 s) :
    Keeps z0 (writeBeatAdapt part v s) := by
  unfold writeBeatAdapt
  repeat' first
    | (with_reducible first | assumption | exact Keeps.refl _ | intro _ | apply keeps_storeReg | apply Keeps.ite)
    | fail_if_no_progress with_reducible refine Keeps.of ?_ rfl idp idp idp idp | dsimp only | split

theorem keeps_writeBeatGroup {z0 : State} (part : RegPart) (v : Nat) (s : State) (hK : Keeps z0 s) :
    Keeps z0 (writeBeatGroup part v s) := by
  unfold writeBeatGroup
  repeat' first
    | (with_reducible first | assumption | exact Keeps.refl _ | intro _ | apply keeps_plainWrite | apply Keeps.ite)
    | fail_if_no_progress with_reducible refine Keeps.of ?_ rfl idp idp idp idp | dsimp only | split

theorem keeps_writeGateCtl {z0 : State} (part : RegPart) (v : Nat) (s : State) (hK : Keeps z0 s) :
    Keeps z0 (writeGateCtl part v s) := by
  unfold writeGateCtl
  repeat' first
    | (with_reducible first | assumption | exact Keeps.refl _ | intro _ | apply keeps_storeReg | apply Keeps.ite
                            | apply Keeps.foldl | apply Keeps.foldl_fst | apply Keeps.foldl_snd | apply Keeps.foldl_third)
    | fail_if_no_progress with_reducible refine Keeps.of ?_ rfl idp idp idp idp | dsimp only | split

theorem keeps_writeLnkCtl {z0 : State} (k : Nat) (part : RegPart) (v : Nat) (s : State) (hK : Keeps z0 s) :
    Keeps z0 (writeLnkCtl k part v s) := by
  unfold writeLnkCtl
  repeat' first
    | (with_reducible first | assumption | exact Keeps.refl _ | intro _ | apply keeps_storeReg | apply Keeps.ite)
    | fail_if_no_progress with_reducible refine Keeps.of ?_ rfl idp idp idp idp | dsimp only | split

theorem keeps_ringDoorbell {z0 : State} (part : RegPart) (v : Nat) (s : State) (hK : Keeps z0 s) :
    Keeps z0 (ringDoorbell part v s) := by
  unfold ringDoorbell
  repeat' first
    | (with_reducible first | assumption | exact Keeps.refl _ | intro _ | apply keeps_publishTail | apply keeps_publishHead
                            | apply Keeps.ite)
    | fail_if_no_progress with_reducible refine Keeps.of ?_ rfl idp idp idp idp | dsimp only | split

theorem keeps_writeTlyCtl {z0 : State} (part : RegPart) (v : Nat) (s : State) (hK : Keeps z0 s) :
    Keeps z0 (writeTlyCtl part v s) := by
  unfold writeTlyCtl
  repeat' first
    | (with_reducible first | assumption | exact Keeps.refl _ | intro _ | apply keeps_plainWrite | apply keeps_askCheckpoint
                            | apply Keeps.ite)
    | fail_if_no_progress with_reducible refine Keeps.of ?_ rfl idp idp idp idp | dsimp only | split

theorem keeps_writeBootCtl {z0 : State} (part : RegPart) (v : Nat) (s : State) (hK : Keeps z0 s) :
    Keeps z0 (writeBootCtl part v s) := by
  unfold writeBootCtl
  repeat' first
    | (with_reducible first | assumption | exact Keeps.refl _ | intro _ | apply keeps_releaseOwner | apply keeps_commitOwner
                            | apply Keeps.ite)
    | fail_if_no_progress with_reducible refine Keeps.of ?_ rfl idp idp idp idp | dsimp only | split

theorem keeps_writeOwnData {z0 : State} (i : Nat) (part : RegPart) (v : Nat) (s : State) (hK : Keeps z0 s) :
    Keeps z0 (writeOwnData i part v s) := by
  unfold writeOwnData
  repeat' first
    | (with_reducible first | assumption | exact Keeps.refl _ | intro _ | apply keeps_stageWord | apply Keeps.ite)
    | fail_if_no_progress with_reducible refine Keeps.of ?_ rfl idp idp idp idp | dsimp only | split

theorem keeps_writeMgmt {z0 : State} (a : Nat) (part : RegPart) (v : Nat) (s : State) (hK : Keeps z0 s) :
    Keeps z0 (writeMgmt a part v s) := by
  unfold writeMgmt
  repeat' first
    | (with_reducible first | assumption | exact Keeps.refl _ | intro _ | apply keeps_closeSessions | apply keeps_plainWrite
                            | apply Keeps.ite)
    | fail_if_no_progress with_reducible refine Keeps.of ?_ rfl idp idp idp idp | dsimp only | split

theorem keeps_clearVecFlags {z0 : State} (r : Nat) (part : RegPart) (v : Nat) (s : State) (hK : Keeps z0 s) :
    Keeps z0 (clearVecFlags r part v s) := by
  unfold clearVecFlags
  repeat' first
    | (with_reducible first | assumption | exact Keeps.refl _ | intro _ | apply keeps_updCell | apply Keeps.ite)
    | fail_if_no_progress with_reducible refine Keeps.of ?_ rfl idp idp idp idp | dsimp only | split

theorem keeps_clearDroop {z0 : State} (part : RegPart) (v : Nat) (s : State) (hK : Keeps z0 s) :
    Keeps z0 (clearDroop part v s) := by
  unfold clearDroop
  repeat' first
    | (with_reducible first | assumption | exact Keeps.refl _ | intro _ | apply Keeps.ite)
    | fail_if_no_progress with_reducible refine Keeps.of ?_ rfl idp idp idp idp | dsimp only | split

theorem keeps_writeReg {z0 : State} (a : Nat) (part : RegPart) (v : Nat) (s : State) (hK : Keeps z0 s) :
    Keeps z0 (writeReg a part v s) := by
  unfold writeReg
  repeat' first
    | (with_reducible first | assumption | exact Keeps.refl _ | intro _ | apply keeps_ringDoorbell | apply keeps_writeBeatCtl
                            | apply keeps_writeBeatAdapt | apply keeps_writeBeatGroup | apply keeps_writeTlyCtl
                            | apply keeps_writeBootCtl | apply keeps_writeOwnData | apply keeps_writeMgmt
                            | apply keeps_clearDroop | apply keeps_writeGateCtl | apply keeps_writeLnkCtl
                            | apply keeps_clearVecFlags | apply keeps_plainWrite | apply Keeps.ite)
    | fail_if_no_progress with_reducible refine Keeps.of ?_ rfl idp idp idp idp | dsimp only | split

theorem keeps_coreWrite {z0 : State} (core : Nat) (a : Nat) (n : Nat) (v : Nat) (s : State) (hK : Keeps z0 s) :
    Keeps z0 (coreWrite core a n v s) := by
  unfold coreWrite
  repeat' first
    | (with_reducible first | assumption | exact Keeps.refl _ | intro _ | apply keeps_raiseRegAccess | apply keeps_writeReg
                            | apply Keeps.ite)
    | fail_if_no_progress with_reducible refine Keeps.of ?_ rfl idp idp idp idp | dsimp only | split

theorem keeps_coreRead {z0 : State} (core : Nat) (a : Nat) (n : Nat) (s : State) (hK : Keeps z0 s) :
    Keeps z0 (coreRead core a n s).2 := by
  unfold coreRead
  repeat' first
    | (with_reducible first | assumption | exact Keeps.refl _ | intro _ | apply keeps_raiseRegAccess | apply keeps_readReg
                            | apply Keeps.ite)
    | fail_if_no_progress with_reducible refine Keeps.of ?_ rfl idp idp idp idp | dsimp only | split

theorem keeps_regCommand {z0 : State} (core : Nat) (a : Nat) (part : RegPart) (v : Nat) (s : State) (hK : Keeps z0 s) :
    Keeps z0 (regCommand core a part v s) := by
  unfold regCommand
  repeat' first
    | (with_reducible first | assumption | exact Keeps.refl _ | intro _ | apply keeps_flushOut | apply keeps_coreWrite
                            | apply Keeps.ite)
    | fail_if_no_progress with_reducible refine Keeps.of ?_ rfl idp idp idp idp | dsimp only | split

theorem keeps_hallUe {z0 : State} (pa : Nat) (s : State) (hK : Keeps z0 s) : Keeps z0 (hallUe pa s) := by
  unfold hallUe
  repeat' first
    | (with_reducible first | assumption | exact Keeps.refl _ | intro _ | apply keeps_raiseCarveUe | apply keeps_raiseHbmUe
                            | apply Keeps.ite)
    | fail_if_no_progress with_reducible refine Keeps.of ?_ rfl idp idp idp idp | dsimp only | split

theorem keeps_freeBytes {z0 : State} (n : Nat) (s : State) (hK : Keeps z0 s) : Keeps z0 (freeBytes n s).2 := by
  unfold freeBytes
  repeat' first
    | (with_reducible first | assumption | exact Keeps.refl _ | intro _ | apply keeps_takeFree | apply Keeps.ite)
    | fail_if_no_progress with_reducible refine Keeps.of ?_ rfl idp idp idp idp | dsimp only | split

theorem keeps_hallLoad {z0 : State} (core : Nat) (a : Nat) (n : Nat) (h : LineHit) (s : State) (hK : Keeps z0 s) :
    Keeps z0 (hallLoad core a n h s).2 := by
  unfold hallLoad
  repeat' first
    | (with_reducible first | assumption | exact Keeps.refl _ | intro _ | apply keeps_coreRead | apply keeps_tallyAdd
                            | apply keeps_freeBytes | apply keeps_physRead | apply keeps_hallUe | apply Keeps.ite)
    | fail_if_no_progress with_reducible refine Keeps.of ?_ rfl idp idp idp idp | dsimp only | split

theorem keeps_hallStore {z0 : State} (core : Nat) (a : Nat) (bs : List Byte) (s : State) (hK : Keeps z0 s) :
    Keeps z0 (hallStore core a bs s) := by
  unfold hallStore
  repeat' first
    | (with_reducible first | assumption | exact Keeps.refl _ | intro _ | apply keeps_coreWrite | apply keeps_tallyAdd
                            | apply keeps_physWrite | apply keeps_hallUe | apply Keeps.ite)
    | fail_if_no_progress with_reducible refine Keeps.of ?_ rfl idp idp idp idp | dsimp only | split

theorem keeps_readRegs {z0 : State} (y0 : Nat) (y1 : Nat) (y2 : State) (hK : Keeps z0 y2) : Keeps z0 (readRegs y0 y1 y2).2 := by
  induction y0 generalizing y1 y2 with
  | zero => ?_
  | succ n ih => ?_
  all_goals unfold readRegs
  repeat' first
    | (with_reducible first | assumption | exact Keeps.refl _ | intro _ | apply ih | apply keeps_readReg | apply Keeps.ite)
    | fail_if_no_progress with_reducible refine Keeps.of ?_ rfl idp idp idp idp | dsimp only | split

theorem keeps_memPieces {z0 : State} (a : Nat) (h : LineHit) (y2 : List (Nat × Nat)) (y3 : Nat) (y4 : State)
    (hK : Keeps z0 y4) :
    Keeps z0 (memPieces a h y2 y3 y4).st := by
  induction y2 generalizing y3 y4 with
  | nil => ?_
  | cons p t ih => ?_
  all_goals unfold memPieces
  repeat' first
    | (with_reducible first | assumption | exact Keeps.refl _ | intro _ | apply ih | apply keeps_readRegs
                            | apply keeps_readPiece | apply Keeps.ite)
    | fail_if_no_progress with_reducible refine Keeps.of ?_ rfl idp idp idp idp | dsimp only | split

theorem keeps_transferUe {z0 : State} (c : Cmd) (pa : Nat) (s : State) (hK : Keeps z0 s) : Keeps z0 (transferUe c pa s) := by
  unfold transferUe
  repeat' first
    | (with_reducible first | assumption | exact Keeps.refl _ | intro _ | apply keeps_raiseCarveUe | apply keeps_recordUe
                            | apply Keeps.ite)
    | fail_if_no_progress with_reducible refine Keeps.of ?_ rfl idp idp idp idp | dsimp only | split

theorem keeps_memRead {z0 : State} (h : LineHit) (c : Cmd) (s : State) (hK : Keeps z0 s) : Keeps z0 (memRead h c s) := by
  unfold memRead
  repeat' first
    | (with_reducible first | assumption | exact Keeps.refl _ | intro _ | apply keeps_refuseCmd | apply keeps_memPieces
                            | apply keeps_completeCmd | apply keeps_transferUe | apply keeps_answerOut | apply Keeps.ite)
    | fail_if_no_progress with_reducible refine Keeps.of ?_ rfl idp idp idp idp | dsimp only | split

theorem keeps_writeRegs {z0 : State} (y0 : Nat) (y1 : Nat) (y2 : List Byte) (y3 : State) (hK : Keeps z0 y3) :
    Keeps z0 (writeRegs y0 y1 y2 y3) := by
  induction y0 generalizing y1 y2 y3 with
  | zero => ?_
  | succ n ih => ?_
  all_goals unfold writeRegs
  repeat' first
    | (with_reducible first | assumption | exact Keeps.refl _ | intro _ | apply ih | apply keeps_writeReg | apply Keeps.ite)
    | fail_if_no_progress with_reducible refine Keeps.of ?_ rfl idp idp idp idp | dsimp only | split

theorem keeps_putPieces {z0 : State} (a : Nat) (bs : List Byte) (y2 : List (Nat × Nat)) (y3 : State) (hK : Keeps z0 y3) :
    Keeps z0 (putPieces a bs y2 y3).2 := by
  induction y2 generalizing y3 with
  | nil => ?_
  | cons p t ih => ?_
  all_goals unfold putPieces
  repeat' first
    | (with_reducible first | assumption | exact Keeps.refl _ | intro _ | apply ih | apply keeps_writeRegs
                            | apply keeps_writePiece | apply Keeps.ite)
    | fail_if_no_progress with_reducible refine Keeps.of ?_ rfl idp idp idp idp | dsimp only | split

theorem keeps_memWrite {z0 : State} (h : LineHit) (c : Cmd) (s : State) (hK : Keeps z0 s) : Keeps z0 (memWrite h c s) := by
  unfold memWrite
  repeat' first
    | (with_reducible first | assumption | exact Keeps.refl _ | intro _ | apply keeps_refuseCmd | apply keeps_putPieces
                            | apply keeps_completeCmd | apply keeps_transferUe | apply keeps_memPieces | apply Keeps.ite)
    | fail_if_no_progress with_reducible refine Keeps.of ?_ rfl idp idp idp idp | dsimp only | split

theorem keeps_updPins {z0 : State} (f : PinState → PinState) (s : State) (hf : ∀ p, (f p).inReset = p.inReset)
    (hK : Keeps z0 s) : Keeps z0 (updPins f s) :=
  hK.of (hf s.pins) idp idp idp idp

theorem keeps_debugRead {z0 : State} (a : Nat) (s : State) (hK : Keeps z0 s) : Keeps z0 (debugRead a s).2 := by
  unfold debugRead
  repeat' first
    | (with_reducible first | assumption | exact Keeps.refl _ | intro _ | apply keeps_readReg | apply Keeps.ite)
    | fail_if_no_progress with_reducible refine Keeps.of ?_ rfl idp idp idp idp | dsimp only | split

theorem keeps_debugWrite {z0 : State} (a : Nat) (v : Nat) (s : State) (hK : Keeps z0 s) : Keeps z0 (debugWrite a v s) := by
  unfold debugWrite
  repeat' first
    | (with_reducible first | assumption | exact Keeps.refl _ | intro _ | apply keeps_flushOut | apply keeps_writeReg
                            | apply Keeps.ite)
    | fail_if_no_progress with_reducible refine Keeps.of ?_ rfl idp idp idp idp | dsimp only | split

theorem keeps_loadTap {z0 : State} (code : Nat) (out : List Byte) (s : State) (hK : Keeps z0 s) :
    Keeps z0 (loadTap code out s) := by
  unfold loadTap
  repeat' first
    | (with_reducible first | assumption | exact Keeps.refl _ | intro _ | refine keeps_updPins _ _ (fun _ => rfl) ?_
                            | apply Keeps.ite)
    | fail_if_no_progress with_reducible refine Keeps.of ?_ rfl idp idp idp idp | dsimp only | split

theorem keeps_loadBypass {z0 : State} (s : State) (hK : Keeps z0 s) : Keeps z0 (loadBypass s) := by
  unfold loadBypass
  repeat' first
    | (with_reducible first | assumption | exact Keeps.refl _ | intro _ | apply keeps_loadTap | apply Keeps.ite)
    | fail_if_no_progress with_reducible refine Keeps.of ?_ rfl idp idp idp idp | dsimp only | split

theorem keeps_scanCells {z0 : State} (s : State) (hK : Keeps z0 s) : Keeps z0 (scanCells s).2 := by
  unfold scanCells
  repeat' first
    | (with_reducible first | assumption | exact Keeps.refl _ | intro _ | apply keeps_takeFree | apply keeps_freeBytes
                            | apply Keeps.ite)
    | fail_if_no_progress with_reducible refine Keeps.of ?_ rfl idp idp idp idp | dsimp only | split

theorem keeps_i3cAnswer {z0 : State} (out : Option (List Byte)) (s : State) (hK : Keeps z0 s) : Keeps z0 (i3cAnswer out s) := by
  unfold i3cAnswer
  repeat' first
    | (with_reducible first | assumption | exact Keeps.refl _ | intro _ | refine keeps_updPins _ _ (fun _ => rfl) ?_
                            | apply Keeps.ite)
    | fail_if_no_progress with_reducible refine Keeps.of ?_ rfl idp idp idp idp | dsimp only | split

theorem keeps_i3cPrivate {z0 : State} (a : Nat) (write : Bool) (go : State → State) (s : State) (h_go : ∀ (y : State)
    (a0 : State), Keeps y a0 → Keeps y (go a0)) (hK : Keeps z0 s) :
    Keeps z0 (i3cPrivate a write go s) := by
  unfold i3cPrivate
  repeat' first
    | (with_reducible first | assumption | exact Keeps.refl _ | intro _ | apply keeps_i3cAnswer | apply h_go | apply Keeps.ite)
    | fail_if_no_progress with_reducible refine Keeps.of ?_ rfl idp idp idp idp | dsimp only | split

theorem keeps_i3cAdvance {z0 : State} (s : State) (hK : Keeps z0 s) : Keeps z0 (i3cAdvance s) := by
  unfold i3cAdvance
  repeat' first
    | (with_reducible first | assumption | exact Keeps.refl _ | intro _ | refine keeps_updPins _ _ (fun _ => rfl) ?_
                            | apply Keeps.ite)
    | fail_if_no_progress with_reducible refine Keeps.of ?_ rfl idp idp idp idp | dsimp only | split

theorem keeps_i3cDirect {z0 : State} (go : State → State) (s : State) (h_go : ∀ (y : State)
    (a0 : State), Keeps y a0 → Keeps y (go a0)) (hK : Keeps z0 s) :
    Keeps z0 (i3cDirect go s) := by
  unfold i3cDirect
  repeat' first
    | (with_reducible first | assumption | exact Keeps.refl _ | intro _ | apply keeps_i3cAnswer | apply h_go | apply Keeps.ite)
    | fail_if_no_progress with_reducible refine Keeps.of ?_ rfl idp idp idp idp | dsimp only | split

theorem keeps_tick {z0 : State} (s : State) (hK : Keeps z0 s) : Keeps z0 (tick s) := by
  unfold tick
  repeat' first
    | (with_reducible first | assumption | exact Keeps.refl _ | intro _ | apply keeps_flushOut | apply Keeps.ite)
    | fail_if_no_progress with_reducible refine Keeps.of ?_ rfl idp idp idp idp | dsimp only | split

end Sys2Proof.Machine
end

