-- ==== Sys2Proof/Laws/KeepsRows.lean ====
section
/-! SUPPORT. What each row of the table keeps. -/

set_option linter.unreachableTactic false
set_option linter.unusedTactic false

namespace Sys2Proof.Machine

/-- A row's answer, where it is a next state, keeps. -/
def Answers (z : State) (r : Host.Outcome State Fault Refusal) : Prop :=
  match r with
  | .next t => Keeps z t
  | _ => True

theorem answers_next {z t : State} (h : Keeps z t) : Answers z (.next t) := h

theorem keeps_execLi {z0 : State} (c : LCell) (m : Meet) (s : State) (hK : Keeps z0 s) : Answers z0 (execLi c m s) := by
  refine answers_next ?_
  repeat' first
    | (with_reducible first | assumption | exact Keeps.refl _ | intro _ | apply keeps_scalarOp | apply Keeps.ite)
    | fail_if_no_progress with_reducible refine Keeps.of ?_ rfl idp idp idp idp | dsimp only | split

theorem keeps_execAdd {z0 : State} (c : LCell) (m : Meet) (s : State) (hK : Keeps z0 s) : Answers z0 (execAdd c m s) := by
  refine answers_next ?_
  repeat' first
    | (with_reducible first | assumption | exact Keeps.refl _ | intro _ | apply keeps_scalarOp | apply Keeps.ite)
    | fail_if_no_progress with_reducible refine Keeps.of ?_ rfl idp idp idp idp | dsimp only | split

theorem keeps_execSub {z0 : State} (c : LCell) (m : Meet) (s : State) (hK : Keeps z0 s) : Answers z0 (execSub c m s) := by
  refine answers_next ?_
  repeat' first
    | (with_reducible first | assumption | exact Keeps.refl _ | intro _ | apply keeps_scalarOp | apply Keeps.ite)
    | fail_if_no_progress with_reducible refine Keeps.of ?_ rfl idp idp idp idp | dsimp only | split

theorem keeps_execAnd {z0 : State} (c : LCell) (m : Meet) (s : State) (hK : Keeps z0 s) : Answers z0 (execAnd c m s) := by
  refine answers_next ?_
  repeat' first
    | (with_reducible first | assumption | exact Keeps.refl _ | intro _ | apply keeps_scalarOp | apply Keeps.ite)
    | fail_if_no_progress with_reducible refine Keeps.of ?_ rfl idp idp idp idp | dsimp only | split

theorem keeps_execOr {z0 : State} (c : LCell) (m : Meet) (s : State) (hK : Keeps z0 s) : Answers z0 (execOr c m s) := by
  refine answers_next ?_
  repeat' first
    | (with_reducible first | assumption | exact Keeps.refl _ | intro _ | apply keeps_scalarOp | apply Keeps.ite)
    | fail_if_no_progress with_reducible refine Keeps.of ?_ rfl idp idp idp idp | dsimp only | split

theorem keeps_execXor {z0 : State} (c : LCell) (m : Meet) (s : State) (hK : Keeps z0 s) : Answers z0 (execXor c m s) := by
  refine answers_next ?_
  repeat' first
    | (with_reducible first | assumption | exact Keeps.refl _ | intro _ | apply keeps_scalarOp | apply Keeps.ite)
    | fail_if_no_progress with_reducible refine Keeps.of ?_ rfl idp idp idp idp | dsimp only | split

theorem keeps_execShl {z0 : State} (c : LCell) (m : Meet) (s : State) (hK : Keeps z0 s) : Answers z0 (execShl c m s) := by
  refine answers_next ?_
  repeat' first
    | (with_reducible first | assumption | exact Keeps.refl _ | intro _ | apply keeps_scalarOp | apply Keeps.ite)
    | fail_if_no_progress with_reducible refine Keeps.of ?_ rfl idp idp idp idp | dsimp only | split

theorem keeps_execShr {z0 : State} (c : LCell) (m : Meet) (s : State) (hK : Keeps z0 s) : Answers z0 (execShr c m s) := by
  refine answers_next ?_
  repeat' first
    | (with_reducible first | assumption | exact Keeps.refl _ | intro _ | apply keeps_scalarOp | apply Keeps.ite)
    | fail_if_no_progress with_reducible refine Keeps.of ?_ rfl idp idp idp idp | dsimp only | split

theorem keeps_execMul {z0 : State} (c : LCell) (m : Meet) (s : State) (hK : Keeps z0 s) : Answers z0 (execMul c m s) := by
  refine answers_next ?_
  repeat' first
    | (with_reducible first | assumption | exact Keeps.refl _ | intro _ | apply keeps_scalarOp | apply Keeps.ite)
    | fail_if_no_progress with_reducible refine Keeps.of ?_ rfl idp idp idp idp | dsimp only | split

theorem keeps_execLdx {z0 : State} (c : LCell) (m : Meet) (s : State) (hK : Keeps z0 s) : Answers z0 (execLdx c m s) := by
  refine answers_next ?_
  repeat' first
    | (with_reducible first | assumption | exact Keeps.refl _ | intro _ | apply keeps_control | apply keeps_seqLoad
                            | apply keeps_writeRd | apply Keeps.ite)
    | fail_if_no_progress with_reducible refine Keeps.of ?_ rfl idp idp idp idp | dsimp only | split

theorem keeps_execStx {z0 : State} (c : LCell) (m : Meet) (s : State) (hK : Keeps z0 s) : Answers z0 (execStx c m s) := by
  refine answers_next ?_
  repeat' first
    | (with_reducible first | assumption | exact Keeps.refl _ | intro _ | apply keeps_control | apply keeps_faultHere
                            | apply keeps_updCell | apply Keeps.ite)
    | fail_if_no_progress with_reducible refine Keeps.of ?_ rfl idp idp idp idp | dsimp only | split

theorem keeps_execLdd {z0 : State} (c : LCell) (m : Meet) (s : State) (hK : Keeps z0 s) : Answers z0 (execLdd c m s) := by
  refine answers_next ?_
  repeat' first
    | (with_reducible first | assumption | exact Keeps.refl _ | intro _ | apply keeps_control | apply keeps_seqLoad
                            | apply keeps_writeDd | apply Keeps.ite)
    | fail_if_no_progress with_reducible refine Keeps.of ?_ rfl idp idp idp idp | dsimp only | split

theorem keeps_execDadd {z0 : State} (c : LCell) (m : Meet) (s : State) (hK : Keeps z0 s) : Answers z0 (execDadd c m s) := by
  refine answers_next ?_
  repeat' first
    | (with_reducible first | assumption | exact Keeps.refl _ | intro _ | apply keeps_control | apply keeps_writeDd
                            | apply Keeps.ite)
    | fail_if_no_progress with_reducible refine Keeps.of ?_ rfl idp idp idp idp | dsimp only | split

theorem keeps_execBr {z0 : State} (c : LCell) (m : Meet) (s : State) (hK : Keeps z0 s) : Answers z0 (execBr c m s) := by
  refine answers_next ?_
  repeat' first
    | (with_reducible first | assumption | exact Keeps.refl _ | intro _ | apply keeps_control | apply keeps_updCell
                            | apply Keeps.ite)
    | fail_if_no_progress with_reducible refine Keeps.of ?_ rfl idp idp idp idp | dsimp only | split

theorem keeps_execLoop {z0 : State} (c : LCell) (m : Meet) (s : State) (hK : Keeps z0 s) : Answers z0 (execLoop c m s) := by
  refine answers_next ?_
  repeat' first
    | (with_reducible first | assumption | exact Keeps.refl _ | intro _ | apply keeps_control | apply keeps_faultHere
                            | apply keeps_updCell | apply Keeps.ite)
    | fail_if_no_progress with_reducible refine Keeps.of ?_ rfl idp idp idp idp | dsimp only | split

theorem keeps_execRdinfo {z0 : State} (c : LCell) (m : Meet) (s : State) (hK : Keeps z0 s) : Answers z0 (execRdinfo c m s) := by
  refine answers_next ?_
  repeat' first
    | (with_reducible first | assumption | exact Keeps.refl _ | intro _ | apply keeps_control | apply keeps_writeRd
                            | apply Keeps.ite)
    | fail_if_no_progress with_reducible refine Keeps.of ?_ rfl idp idp idp idp | dsimp only | split

theorem keeps_execFence {z0 : State} (c : LCell) (m : Meet) (s : State) (hK : Keeps z0 s) : Answers z0 (execFence c m s) := by
  refine answers_next ?_
  repeat' first
    | (with_reducible first | assumption | exact Keeps.refl _ | intro _ | apply keeps_control | apply keeps_updCell
                            | apply Keeps.ite)
    | fail_if_no_progress with_reducible refine Keeps.of ?_ rfl idp idp idp idp | dsimp only | split

theorem keeps_execTrap {z0 : State} (c : LCell) (m : Meet) (s : State) (hK : Keeps z0 s) : Answers z0 (execTrap c m s) := by
  refine answers_next ?_
  repeat' first
    | (with_reducible first | assumption | exact Keeps.refl _ | intro _ | apply keeps_control | apply keeps_raiseCellFault
                            | apply Keeps.ite)
    | fail_if_no_progress with_reducible refine Keeps.of ?_ rfl idp idp idp idp | dsimp only | split

theorem keeps_execNop {z0 : State} (c : LCell) (m : Meet) (s : State) (hK : Keeps z0 s) : Answers z0 (execNop c m s) := by
  refine answers_next ?_
  repeat' first
    | (with_reducible first | assumption | exact Keeps.refl _ | intro _ | apply keeps_raiseCellFault | apply keeps_issueWith
                            | apply keeps_updCell | apply Keeps.ite)
    | fail_if_no_progress with_reducible refine Keeps.of ?_ rfl idp idp idp idp | dsimp only | split

theorem keeps_execYield {z0 : State} (c : LCell) (m : Meet) (s : State) (hK : Keeps z0 s) : Answers z0 (execYield c m s) := by
  refine answers_next ?_
  repeat' first
    | (with_reducible first | assumption | exact Keeps.refl _ | intro _ | apply keeps_control | apply keeps_updCell
                            | apply Keeps.ite)
    | fail_if_no_progress with_reducible refine Keeps.of ?_ rfl idp idp idp idp | dsimp only | split

theorem keeps_execDqpush {z0 : State} (c : LCell) (m : Meet) (s : State) (hK : Keeps z0 s) : Answers z0 (execDqpush c m s) := by
  refine answers_next ?_
  repeat' first
    | (with_reducible first | assumption | exact Keeps.refl _ | intro _ | apply keeps_control | apply keeps_faultHere
                            | apply keeps_poke | apply keeps_updCell | apply Keeps.ite)
    | fail_if_no_progress with_reducible refine Keeps.of ?_ rfl idp idp idp idp | dsimp only | split

theorem keeps_execDqpop {z0 : State} (c : LCell) (m : Meet) (s : State) (hK : Keeps z0 s) : Answers z0 (execDqpop c m s) := by
  refine answers_next ?_
  repeat' first
    | (with_reducible first | assumption | exact Keeps.refl _ | intro _ | apply keeps_control | apply keeps_updCell
                            | apply keeps_physRead | apply keeps_raiseHbmUe | apply keeps_poke | apply Keeps.ite)
    | fail_if_no_progress with_reducible refine Keeps.of ?_ rfl idp idp idp idp | dsimp only | split

theorem keeps_execBtest {z0 : State} (c : LCell) (m : Meet) (s : State) (hK : Keeps z0 s) : Answers z0 (execBtest c m s) := by
  refine answers_next ?_
  repeat' first
    | (with_reducible first | assumption | exact Keeps.refl _ | intro _ | apply keeps_control | apply keeps_faultHere
                            | apply keeps_bellMeets | apply keeps_writeRd | apply Keeps.ite)
    | fail_if_no_progress with_reducible refine Keeps.of ?_ rfl idp idp idp idp | dsimp only | split

theorem keeps_execYieldRetire {z0 : State} (c : LCell) (s : State) (hK : Keeps z0 s) : Answers z0 (execYieldRetire c s) := by
  refine answers_next ?_
  repeat' first
    | (with_reducible first | assumption | exact Keeps.refl _ | intro _ | apply keeps_faultHere | apply keeps_updCell
                            | apply Keeps.ite)
    | fail_if_no_progress with_reducible refine Keeps.of ?_ rfl idp idp idp idp | dsimp only | split

theorem keeps_execMpass {z0 : State} (c : LCell) (m : Meet) (s : State) (hK : Keeps z0 s) : Answers z0 (execMpass c m s) := by
  refine answers_next ?_
  repeat' first
    | (with_reducible first | assumption | exact Keeps.refl _ | intro _ | apply keeps_issueWith | apply keeps_faultHere
                            | apply keeps_updCell | apply Keeps.ite | apply Keeps.foldl | apply Keeps.foldl_fst
                            | apply Keeps.foldl_snd | apply Keeps.foldl_third)
    | fail_if_no_progress with_reducible refine Keeps.of ?_ rfl idp idp idp idp | dsimp only | split

theorem keeps_execWeightLoadStart {z0 : State} (c : LCell) (i : BitVec 2) (h : Hit) (s : State) (hK : Keeps z0 s) :
    Answers z0 (execWeightLoadStart c i h s) := by
  refine answers_next ?_
  repeat' first
    | (with_reducible first | assumption | exact Keeps.refl _ | intro _ | apply keeps_hitStore | apply keeps_raiseCellFault
                            | apply keeps_updCell | apply Keeps.ite | apply Keeps.foldl | apply Keeps.foldl_fst
                            | apply Keeps.foldl_snd | apply Keeps.foldl_third)
    | fail_if_no_progress with_reducible refine Keeps.of ?_ rfl idp idp idp idp | dsimp only | split

theorem keeps_execPassFeedStart {z0 : State} (c : LCell) (i : BitVec 2) (h : Hit) (s : State) (hK : Keeps z0 s) :
    Answers z0 (execPassFeedStart c i h s) := by
  refine answers_next ?_
  repeat' first
    | (with_reducible first | assumption | exact Keeps.refl _ | intro _ | apply keeps_hitStore | apply keeps_raiseCellFault
                            | apply keeps_updCell | apply Keeps.ite | apply Keeps.foldl | apply Keeps.foldl_fst
                            | apply Keeps.foldl_snd | apply Keeps.foldl_third)
    | fail_if_no_progress with_reducible refine Keeps.of ?_ rfl idp idp idp idp | dsimp only | split

theorem keeps_execAccumulatorWrite {z0 : State} (c : LCell) (i : BitVec 8) (h : Hit) (u : Option Upset) (s : State)
    (hK : Keeps z0 s) :
    Answers z0 (execAccumulatorWrite c i h u s) := by
  refine answers_next ?_
  repeat' first
    | (with_reducible first | assumption | exact Keeps.refl _ | intro _ | apply keeps_accMeets | apply keeps_freeVector
                            | apply keeps_updCell | apply keeps_raiseCellFault | apply keeps_checkAll | apply Keeps.ite
                            | apply Keeps.foldl | apply Keeps.foldl_fst | apply Keeps.foldl_snd | apply Keeps.foldl_third)
    | fail_if_no_progress with_reducible refine Keeps.of ?_ rfl idp idp idp idp | dsimp only | split

theorem keeps_execFinishedTileEntry {z0 : State} (c : LCell) (s : State) (hK : Keeps z0 s) :
    Answers z0 (execFinishedTileEntry c s) := by
  refine answers_next ?_
  repeat' first
    | (with_reducible first | assumption | exact Keeps.refl _ | intro _ | apply keeps_updCell | apply Keeps.ite)
    | fail_if_no_progress with_reducible refine Keeps.of ?_ rfl idp idp idp idp | dsimp only | split

theorem keeps_execCellScrub {z0 : State} (p : BitVec 13) (h : Hit) (s : State) (hK : Keeps z0 s) :
    Answers z0 (execCellScrub p h s) := by
  refine answers_next ?_
  repeat' first
    | (with_reducible first | assumption | exact Keeps.refl _ | intro _ | apply keeps_storeMeets | apply keeps_raiseCellFault
                            | apply keeps_fencing | apply keeps_raiseFault | apply keeps_tallyAdd | apply keeps_updCell
                            | apply Keeps.ite)
    | fail_if_no_progress with_reducible refine Keeps.of ?_ rfl idp idp idp idp | dsimp only | split

theorem keeps_execVmov {z0 : State} (c : LCell) (m : Meet) (s : State) (hK : Keeps z0 s) : Answers z0 (execVmov c m s) := by
  refine answers_next ?_
  repeat' first
    | (with_reducible first | assumption | exact Keeps.refl _ | intro _ | apply keeps_vecIssue | apply Keeps.ite)
    | fail_if_no_progress with_reducible refine Keeps.of ?_ rfl idp idp idp idp | dsimp only | split

theorem keeps_execNeg {z0 : State} (c : LCell) (m : Meet) (s : State) (hK : Keeps z0 s) : Answers z0 (execNeg c m s) := by
  refine answers_next ?_
  repeat' first
    | (with_reducible first | assumption | exact Keeps.refl _ | intro _ | apply keeps_vecIssue | apply Keeps.ite)
    | fail_if_no_progress with_reducible refine Keeps.of ?_ rfl idp idp idp idp | dsimp only | split

theorem keeps_execAbs {z0 : State} (c : LCell) (m : Meet) (s : State) (hK : Keeps z0 s) : Answers z0 (execAbs c m s) := by
  refine answers_next ?_
  repeat' first
    | (with_reducible first | assumption | exact Keeps.refl _ | intro _ | apply keeps_vecIssue | apply Keeps.ite)
    | fail_if_no_progress with_reducible refine Keeps.of ?_ rfl idp idp idp idp | dsimp only | split

theorem keeps_execCsgn {z0 : State} (c : LCell) (m : Meet) (s : State) (hK : Keeps z0 s) : Answers z0 (execCsgn c m s) := by
  refine answers_next ?_
  repeat' first
    | (with_reducible first | assumption | exact Keeps.refl _ | intro _ | apply keeps_vecIssue | apply Keeps.ite)
    | fail_if_no_progress with_reducible refine Keeps.of ?_ rfl idp idp idp idp | dsimp only | split

theorem keeps_execVecAnd {z0 : State} (c : LCell) (m : Meet) (s : State) (hK : Keeps z0 s) : Answers z0 (execVecAnd c m s) := by
  refine answers_next ?_
  repeat' first
    | (with_reducible first | assumption | exact Keeps.refl _ | intro _ | apply keeps_vecIssue | apply Keeps.ite)
    | fail_if_no_progress with_reducible refine Keeps.of ?_ rfl idp idp idp idp | dsimp only | split

theorem keeps_execVecOr {z0 : State} (c : LCell) (m : Meet) (s : State) (hK : Keeps z0 s) : Answers z0 (execVecOr c m s) := by
  refine answers_next ?_
  repeat' first
    | (with_reducible first | assumption | exact Keeps.refl _ | intro _ | apply keeps_vecIssue | apply Keeps.ite)
    | fail_if_no_progress with_reducible refine Keeps.of ?_ rfl idp idp idp idp | dsimp only | split

theorem keeps_execVecXor {z0 : State} (c : LCell) (m : Meet) (s : State) (hK : Keeps z0 s) : Answers z0 (execVecXor c m s) := by
  refine answers_next ?_
  repeat' first
    | (with_reducible first | assumption | exact Keeps.refl _ | intro _ | apply keeps_vecIssue | apply Keeps.ite)
    | fail_if_no_progress with_reducible refine Keeps.of ?_ rfl idp idp idp idp | dsimp only | split

theorem keeps_execSel {z0 : State} (c : LCell) (m : Meet) (s : State) (hK : Keeps z0 s) : Answers z0 (execSel c m s) := by
  refine answers_next ?_
  repeat' first
    | (with_reducible first | assumption | exact Keeps.refl _ | intro _ | apply keeps_vecIssue | apply Keeps.ite)
    | fail_if_no_progress with_reducible refine Keeps.of ?_ rfl idp idp idp idp | dsimp only | split

theorem keeps_execVecAdd {z0 : State} (c : LCell) (m : Meet) (s : State) (hK : Keeps z0 s) : Answers z0 (execVecAdd c m s) := by
  refine answers_next ?_
  repeat' first
    | (with_reducible first | assumption | exact Keeps.refl _ | intro _ | apply keeps_vecIssue | apply Keeps.ite)
    | fail_if_no_progress with_reducible refine Keeps.of ?_ rfl idp idp idp idp | dsimp only | split

theorem keeps_execVecSub {z0 : State} (c : LCell) (m : Meet) (s : State) (hK : Keeps z0 s) : Answers z0 (execVecSub c m s) := by
  refine answers_next ?_
  repeat' first
    | (with_reducible first | assumption | exact Keeps.refl _ | intro _ | apply keeps_vecIssue | apply Keeps.ite)
    | fail_if_no_progress with_reducible refine Keeps.of ?_ rfl idp idp idp idp | dsimp only | split

theorem keeps_execVecMul {z0 : State} (c : LCell) (m : Meet) (s : State) (hK : Keeps z0 s) : Answers z0 (execVecMul c m s) := by
  refine answers_next ?_
  repeat' first
    | (with_reducible first | assumption | exact Keeps.refl _ | intro _ | apply keeps_vecIssue | apply Keeps.ite)
    | fail_if_no_progress with_reducible refine Keeps.of ?_ rfl idp idp idp idp | dsimp only | split

theorem keeps_execFma {z0 : State} (c : LCell) (m : Meet) (s : State) (hK : Keeps z0 s) : Answers z0 (execFma c m s) := by
  refine answers_next ?_
  repeat' first
    | (with_reducible first | assumption | exact Keeps.refl _ | intro _ | apply keeps_vecIssue | apply Keeps.ite)
    | fail_if_no_progress with_reducible refine Keeps.of ?_ rfl idp idp idp idp | dsimp only | split

theorem keeps_execVecMax {z0 : State} (c : LCell) (m : Meet) (s : State) (hK : Keeps z0 s) : Answers z0 (execVecMax c m s) := by
  refine answers_next ?_
  repeat' first
    | (with_reducible first | assumption | exact Keeps.refl _ | intro _ | apply keeps_vecIssue | apply Keeps.ite)
    | fail_if_no_progress with_reducible refine Keeps.of ?_ rfl idp idp idp idp | dsimp only | split

theorem keeps_execVecMin {z0 : State} (c : LCell) (m : Meet) (s : State) (hK : Keeps z0 s) : Answers z0 (execVecMin c m s) := by
  refine answers_next ?_
  repeat' first
    | (with_reducible first | assumption | exact Keeps.refl _ | intro _ | apply keeps_vecIssue | apply Keeps.ite)
    | fail_if_no_progress with_reducible refine Keeps.of ?_ rfl idp idp idp idp | dsimp only | split

theorem keeps_execCmp {z0 : State} (c : LCell) (m : Meet) (s : State) (hK : Keeps z0 s) : Answers z0 (execCmp c m s) := by
  refine answers_next ?_
  repeat' first
    | (with_reducible first | assumption | exact Keeps.refl _ | intro _ | apply keeps_vecIssue | apply Keeps.ite)
    | fail_if_no_progress with_reducible refine Keeps.of ?_ rfl idp idp idp idp | dsimp only | split

theorem keeps_execDiv {z0 : State} (c : LCell) (m : Meet) (s : State) (hK : Keeps z0 s) : Answers z0 (execDiv c m s) := by
  refine answers_next ?_
  repeat' first
    | (with_reducible first | assumption | exact Keeps.refl _ | intro _ | apply keeps_vecIssue | apply Keeps.ite)
    | fail_if_no_progress with_reducible refine Keeps.of ?_ rfl idp idp idp idp | dsimp only | split

theorem keeps_execSqrt {z0 : State} (c : LCell) (m : Meet) (s : State) (hK : Keeps z0 s) : Answers z0 (execSqrt c m s) := by
  refine answers_next ?_
  repeat' first
    | (with_reducible first | assumption | exact Keeps.refl _ | intro _ | apply keeps_vecIssue | apply Keeps.ite)
    | fail_if_no_progress with_reducible refine Keeps.of ?_ rfl idp idp idp idp | dsimp only | split

theorem keeps_execRsqrt {z0 : State} (c : LCell) (m : Meet) (s : State) (hK : Keeps z0 s) : Answers z0 (execRsqrt c m s) := by
  refine answers_next ?_
  repeat' first
    | (with_reducible first | assumption | exact Keeps.refl _ | intro _ | apply keeps_vecIssue | apply Keeps.ite)
    | fail_if_no_progress with_reducible refine Keeps.of ?_ rfl idp idp idp idp | dsimp only | split

theorem keeps_execRcp {z0 : State} (c : LCell) (m : Meet) (s : State) (hK : Keeps z0 s) : Answers z0 (execRcp c m s) := by
  refine answers_next ?_
  repeat' first
    | (with_reducible first | assumption | exact Keeps.refl _ | intro _ | apply keeps_vecIssue | apply Keeps.ite)
    | fail_if_no_progress with_reducible refine Keeps.of ?_ rfl idp idp idp idp | dsimp only | split

theorem keeps_execExp2 {z0 : State} (c : LCell) (m : Meet) (s : State) (hK : Keeps z0 s) : Answers z0 (execExp2 c m s) := by
  refine answers_next ?_
  repeat' first
    | (with_reducible first | assumption | exact Keeps.refl _ | intro _ | apply keeps_vecIssue | apply Keeps.ite)
    | fail_if_no_progress with_reducible refine Keeps.of ?_ rfl idp idp idp idp | dsimp only | split

theorem keeps_execLog2 {z0 : State} (c : LCell) (m : Meet) (s : State) (hK : Keeps z0 s) : Answers z0 (execLog2 c m s) := by
  refine answers_next ?_
  repeat' first
    | (with_reducible first | assumption | exact Keeps.refl _ | intro _ | apply keeps_vecIssue | apply Keeps.ite)
    | fail_if_no_progress with_reducible refine Keeps.of ?_ rfl idp idp idp idp | dsimp only | split

theorem keeps_execTanh {z0 : State} (c : LCell) (m : Meet) (s : State) (hK : Keeps z0 s) : Answers z0 (execTanh c m s) := by
  refine answers_next ?_
  repeat' first
    | (with_reducible first | assumption | exact Keeps.refl _ | intro _ | apply keeps_vecIssue | apply Keeps.ite)
    | fail_if_no_progress with_reducible refine Keeps.of ?_ rfl idp idp idp idp | dsimp only | split

theorem keeps_execRred {z0 : State} (c : LCell) (m : Meet) (s : State) (hK : Keeps z0 s) : Answers z0 (execRred c m s) := by
  refine answers_next ?_
  repeat' first
    | (with_reducible first | assumption | exact Keeps.refl _ | intro _ | apply keeps_vecIssue | apply Keeps.ite)
    | fail_if_no_progress with_reducible refine Keeps.of ?_ rfl idp idp idp idp | dsimp only | split

theorem keeps_execCred {z0 : State} (c : LCell) (m : Meet) (s : State) (hK : Keeps z0 s) : Answers z0 (execCred c m s) := by
  refine answers_next ?_
  repeat' first
    | (with_reducible first | assumption | exact Keeps.refl _ | intro _ | apply keeps_vecIssue | apply Keeps.ite)
    | fail_if_no_progress with_reducible refine Keeps.of ?_ rfl idp idp idp idp | dsimp only | split

theorem keeps_execTrans {z0 : State} (c : LCell) (m : Meet) (s : State) (hK : Keeps z0 s) : Answers z0 (execTrans c m s) := by
  refine answers_next ?_
  repeat' first
    | (with_reducible first | assumption | exact Keeps.refl _ | intro _ | apply keeps_vecIssue | apply Keeps.ite)
    | fail_if_no_progress with_reducible refine Keeps.of ?_ rfl idp idp idp idp | dsimp only | split

theorem keeps_execCvt {z0 : State} (c : LCell) (m : Meet) (s : State) (hK : Keeps z0 s) : Answers z0 (execCvt c m s) := by
  refine answers_next ?_
  repeat' first
    | (with_reducible first | assumption | exact Keeps.refl _ | intro _ | apply keeps_vecIssue | apply Keeps.ite)
    | fail_if_no_progress with_reducible refine Keeps.of ?_ rfl idp idp idp idp | dsimp only | split

theorem keeps_execRand {z0 : State} (c : LCell) (m : Meet) (s : State) (hK : Keeps z0 s) : Answers z0 (execRand c m s) := by
  refine answers_next ?_
  repeat' first
    | (with_reducible first | assumption | exact Keeps.refl _ | intro _ | apply keeps_vecIssue | apply Keeps.ite)
    | fail_if_no_progress with_reducible refine Keeps.of ?_ rfl idp idp idp idp | dsimp only | split

theorem keeps_execDrop {z0 : State} (c : LCell) (m : Meet) (s : State) (hK : Keeps z0 s) : Answers z0 (execDrop c m s) := by
  refine answers_next ?_
  repeat' first
    | (with_reducible first | assumption | exact Keeps.refl _ | intro _ | apply keeps_vecIssue | apply Keeps.ite)
    | fail_if_no_progress with_reducible refine Keeps.of ?_ rfl idp idp idp idp | dsimp only | split

theorem keeps_execVenq {z0 : State} (c : LCell) (m : Meet) (s : State) (hK : Keeps z0 s) : Answers z0 (execVenq c m s) := by
  refine answers_next ?_
  repeat' first
    | (with_reducible first | assumption | exact Keeps.refl _ | intro _ | apply keeps_vecIssue | apply Keeps.ite)
    | fail_if_no_progress with_reducible refine Keeps.of ?_ rfl idp idp idp idp | dsimp only | split

theorem keeps_execAdrop {z0 : State} (c : LCell) (m : Meet) (s : State) (hK : Keeps z0 s) : Answers z0 (execAdrop c m s) := by
  refine answers_next ?_
  repeat' first
    | (with_reducible first | assumption | exact Keeps.refl _ | intro _ | apply keeps_vecIssue | apply Keeps.ite)
    | fail_if_no_progress with_reducible refine Keeps.of ?_ rfl idp idp idp idp | dsimp only | split

theorem keeps_execVecStart {z0 : State} (c : LCell) (h : Hit) (s : State) (hK : Keeps z0 s) :
    Answers z0 (execVecStart c h s) := by
  refine answers_next ?_
  repeat' first
    | (with_reducible first | assumption | exact Keeps.refl _ | intro _ | apply keeps_raiseCellFault | apply keeps_popVector
                            | apply keeps_vecDone | apply keeps_updCell | apply keeps_popEntry | apply keeps_vecRun
                            | apply Keeps.ite)
    | fail_if_no_progress with_reducible refine Keeps.of ?_ rfl idp idp idp idp | dsimp only | split

theorem keeps_execMove {z0 : State} (c : LCell) (m : Meet) (s : State) (hK : Keeps z0 s) : Answers z0 (execMove c m s) := by
  refine answers_next ?_
  repeat' first
    | (with_reducible first | assumption | exact Keeps.refl _ | intro _ | apply keeps_moveIssue | apply Keeps.ite)
    | fail_if_no_progress with_reducible refine Keeps.of ?_ rfl idp idp idp idp | dsimp only | split

theorem keeps_execRdef {z0 : State} (c : LCell) (m : Meet) (s : State) (hK : Keeps z0 s) : Answers z0 (execRdef c m s) := by
  refine answers_next ?_
  repeat' first
    | (with_reducible first | assumption | exact Keeps.refl _ | intro _ | apply keeps_moveIssue | apply Keeps.ite)
    | fail_if_no_progress with_reducible refine Keeps.of ?_ rfl idp idp idp idp | dsimp only | split

theorem keeps_execRconn {z0 : State} (c : LCell) (m : Meet) (s : State) (hK : Keeps z0 s) : Answers z0 (execRconn c m s) := by
  refine answers_next ?_
  repeat' first
    | (with_reducible first | assumption | exact Keeps.refl _ | intro _ | apply keeps_moveIssue | apply Keeps.ite)
    | fail_if_no_progress with_reducible refine Keeps.of ?_ rfl idp idp idp idp | dsimp only | split

theorem keeps_execRpush {z0 : State} (c : LCell) (m : Meet) (s : State) (hK : Keeps z0 s) : Answers z0 (execRpush c m s) := by
  refine answers_next ?_
  repeat' first
    | (with_reducible first | assumption | exact Keeps.refl _ | intro _ | apply keeps_moveIssue | apply Keeps.ite)
    | fail_if_no_progress with_reducible refine Keeps.of ?_ rfl idp idp idp idp | dsimp only | split

theorem keeps_execRwait {z0 : State} (c : LCell) (m : Meet) (s : State) (hK : Keeps z0 s) : Answers z0 (execRwait c m s) := by
  refine answers_next ?_
  repeat' first
    | (with_reducible first | assumption | exact Keeps.refl _ | intro _ | apply keeps_moveIssue | apply Keeps.ite)
    | fail_if_no_progress with_reducible refine Keeps.of ?_ rfl idp idp idp idp | dsimp only | split

theorem keeps_execRfree {z0 : State} (c : LCell) (m : Meet) (s : State) (hK : Keeps z0 s) : Answers z0 (execRfree c m s) := by
  refine answers_next ?_
  repeat' first
    | (with_reducible first | assumption | exact Keeps.refl _ | intro _ | apply keeps_moveIssue | apply Keeps.ite)
    | fail_if_no_progress with_reducible refine Keeps.of ?_ rfl idp idp idp idp | dsimp only | split

theorem keeps_execImload {z0 : State} (c : LCell) (m : Meet) (s : State) (hK : Keeps z0 s) : Answers z0 (execImload c m s) := by
  refine answers_next ?_
  repeat' first
    | (with_reducible first | assumption | exact Keeps.refl _ | intro _ | apply keeps_moveIssue | apply Keeps.ite)
    | fail_if_no_progress with_reducible refine Keeps.of ?_ rfl idp idp idp idp | dsimp only | split

theorem keeps_execAtomAdd {z0 : State} (c : LCell) (m : Meet) (s : State) (hK : Keeps z0 s) :
    Answers z0 (execAtomAdd c m s) := by
  refine answers_next ?_
  repeat' first
    | (with_reducible first | assumption | exact Keeps.refl _ | intro _ | apply keeps_moveIssue | apply Keeps.ite)
    | fail_if_no_progress with_reducible refine Keeps.of ?_ rfl idp idp idp idp | dsimp only | split

theorem keeps_execAtomMin {z0 : State} (c : LCell) (m : Meet) (s : State) (hK : Keeps z0 s) :
    Answers z0 (execAtomMin c m s) := by
  refine answers_next ?_
  repeat' first
    | (with_reducible first | assumption | exact Keeps.refl _ | intro _ | apply keeps_moveIssue | apply Keeps.ite)
    | fail_if_no_progress with_reducible refine Keeps.of ?_ rfl idp idp idp idp | dsimp only | split

theorem keeps_execAtomMax {z0 : State} (c : LCell) (m : Meet) (s : State) (hK : Keeps z0 s) :
    Answers z0 (execAtomMax c m s) := by
  refine answers_next ?_
  repeat' first
    | (with_reducible first | assumption | exact Keeps.refl _ | intro _ | apply keeps_moveIssue | apply Keeps.ite)
    | fail_if_no_progress with_reducible refine Keeps.of ?_ rfl idp idp idp idp | dsimp only | split

theorem keeps_execAtomSwap {z0 : State} (c : LCell) (m : Meet) (s : State) (hK : Keeps z0 s) :
    Answers z0 (execAtomSwap c m s) := by
  refine answers_next ?_
  repeat' first
    | (with_reducible first | assumption | exact Keeps.refl _ | intro _ | apply keeps_moveIssue | apply Keeps.ite)
    | fail_if_no_progress with_reducible refine Keeps.of ?_ rfl idp idp idp idp | dsimp only | split

theorem keeps_execAtomCas {z0 : State} (c : LCell) (m : Meet) (s : State) (hK : Keeps z0 s) :
    Answers z0 (execAtomCas c m s) := by
  refine answers_next ?_
  repeat' first
    | (with_reducible first | assumption | exact Keeps.refl _ | intro _ | apply keeps_moveIssue | apply Keeps.ite)
    | fail_if_no_progress with_reducible refine Keeps.of ?_ rfl idp idp idp idp | dsimp only | split

theorem keeps_execAtomVadd {z0 : State} (c : LCell) (m : Meet) (s : State) (hK : Keeps z0 s) :
    Answers z0 (execAtomVadd c m s) := by
  refine answers_next ?_
  repeat' first
    | (with_reducible first | assumption | exact Keeps.refl _ | intro _ | apply keeps_moveIssue | apply Keeps.ite)
    | fail_if_no_progress with_reducible refine Keeps.of ?_ rfl idp idp idp idp | dsimp only | split

theorem keeps_execGather {z0 : State} (c : LCell) (m : Meet) (s : State) (hK : Keeps z0 s) : Answers z0 (execGather c m s) := by
  refine answers_next ?_
  repeat' first
    | (with_reducible first | assumption | exact Keeps.refl _ | intro _ | apply keeps_moveIssue | apply Keeps.ite)
    | fail_if_no_progress with_reducible refine Keeps.of ?_ rfl idp idp idp idp | dsimp only | split

theorem keeps_execRscat {z0 : State} (c : LCell) (m : Meet) (s : State) (hK : Keeps z0 s) : Answers z0 (execRscat c m s) := by
  refine answers_next ?_
  repeat' first
    | (with_reducible first | assumption | exact Keeps.refl _ | intro _ | apply keeps_moveIssue | apply Keeps.ite)
    | fail_if_no_progress with_reducible refine Keeps.of ?_ rfl idp idp idp idp | dsimp only | split

theorem keeps_execReduce {z0 : State} (c : LCell) (m : Meet) (s : State) (hK : Keeps z0 s) : Answers z0 (execReduce c m s) := by
  refine answers_next ?_
  repeat' first
    | (with_reducible first | assumption | exact Keeps.refl _ | intro _ | apply keeps_moveIssue | apply Keeps.ite)
    | fail_if_no_progress with_reducible refine Keeps.of ?_ rfl idp idp idp idp | dsimp only | split

theorem keeps_execAllgath {z0 : State} (c : LCell) (m : Meet) (s : State) (hK : Keeps z0 s) :
    Answers z0 (execAllgath c m s) := by
  refine answers_next ?_
  repeat' first
    | (with_reducible first | assumption | exact Keeps.refl _ | intro _ | apply keeps_moveIssue | apply Keeps.ite)
    | fail_if_no_progress with_reducible refine Keeps.of ?_ rfl idp idp idp idp | dsimp only | split

theorem keeps_execPost {z0 : State} (c : LCell) (m : Meet) (s : State) (hK : Keeps z0 s) : Answers z0 (execPost c m s) := by
  refine answers_next ?_
  repeat' first
    | (with_reducible first | assumption | exact Keeps.refl _ | intro _ | apply keeps_syncIssue | apply Keeps.ite)
    | fail_if_no_progress with_reducible refine Keeps.of ?_ rfl idp idp idp idp | dsimp only | split

theorem keeps_execWait {z0 : State} (c : LCell) (m : Meet) (s : State) (hK : Keeps z0 s) : Answers z0 (execWait c m s) := by
  refine answers_next ?_
  repeat' first
    | (with_reducible first | assumption | exact Keeps.refl _ | intro _ | apply keeps_syncIssue | apply Keeps.ite)
    | fail_if_no_progress with_reducible refine Keeps.of ?_ rfl idp idp idp idp | dsimp only | split

theorem keeps_execTake {z0 : State} (c : LCell) (m : Meet) (s : State) (hK : Keeps z0 s) : Answers z0 (execTake c m s) := by
  refine answers_next ?_
  repeat' first
    | (with_reducible first | assumption | exact Keeps.refl _ | intro _ | apply keeps_syncIssue | apply Keeps.ite)
    | fail_if_no_progress with_reducible refine Keeps.of ?_ rfl idp idp idp idp | dsimp only | split

theorem keeps_execArrive {z0 : State} (c : LCell) (m : Meet) (s : State) (hK : Keeps z0 s) : Answers z0 (execArrive c m s) := by
  refine answers_next ?_
  repeat' first
    | (with_reducible first | assumption | exact Keeps.refl _ | intro _ | apply keeps_syncIssue | apply Keeps.ite)
    | fail_if_no_progress with_reducible refine Keeps.of ?_ rfl idp idp idp idp | dsimp only | split

theorem keeps_execLwait {z0 : State} (c : LCell) (m : Meet) (s : State) (hK : Keeps z0 s) : Answers z0 (execLwait c m s) := by
  refine answers_next ?_
  repeat' first
    | (with_reducible first | assumption | exact Keeps.refl _ | intro _ | apply keeps_syncIssue | apply Keeps.ite)
    | fail_if_no_progress with_reducible refine Keeps.of ?_ rfl idp idp idp idp | dsimp only | split

theorem keeps_execMoveStart {z0 : State} (c : LCell) (h : Hit) (lh : LineHit) (e : NetErr) (s : State) (hK : Keeps z0 s) :
    Answers z0 (execMoveStart c h lh e s) := by
  refine answers_next ?_
  repeat' first
    | (with_reducible first | assumption | exact Keeps.refl _ | intro _ | apply keeps_netError | apply keeps_startMove
                            | apply Keeps.ite)
    | fail_if_no_progress with_reducible refine Keeps.of ?_ rfl idp idp idp idp | dsimp only | split

theorem keeps_execMoveComplete {z0 : State} (c : LCell) (i : BitVec 2) (lh : LineHit) (e : NetErr) (s : State)
    (hK : Keeps z0 s) :
    Answers z0 (execMoveComplete c i lh e s) := by
  refine answers_next ?_
  repeat' first
    | (with_reducible first | assumption | exact Keeps.refl _ | intro _ | apply keeps_netError | apply keeps_finishFlight
                            | apply Keeps.ite)
    | fail_if_no_progress with_reducible refine Keeps.of ?_ rfl idp idp idp idp | dsimp only | split

theorem keeps_execRingSlotFill {z0 : State} (c : LCell) (i : BitVec 2) (s : State) (hK : Keeps z0 s) :
    Answers z0 (execRingSlotFill c i s) := by
  refine answers_next ?_
  repeat' first
    | (with_reducible first | assumption | exact Keeps.refl _ | intro _ | apply keeps_updFlight | apply keeps_raiseBlockFault
                            | apply keeps_updRing | apply keeps_applyWrites | apply Keeps.ite)
    | fail_if_no_progress with_reducible refine Keeps.of ?_ rfl idp idp idp idp | dsimp only | split

theorem keeps_execCreditReturn {z0 : State} (c : LCell) (i : BitVec 2) (s : State) (hK : Keeps z0 s) :
    Answers z0 (execCreditReturn c i s) := by
  refine answers_next ?_
  repeat' first
    | (with_reducible first | assumption | exact Keeps.refl _ | intro _ | apply keeps_updHandle | apply keeps_dropFlight
                            | apply keeps_raiseCellFault | apply Keeps.ite)
    | fail_if_no_progress with_reducible refine Keeps.of ?_ rfl idp idp idp idp | dsimp only | split

theorem keeps_execAtomicApply {z0 : State} (c : LCell) (i : BitVec 2) (e : Ecc) (s : State) (hK : Keeps z0 s) :
    Answers z0 (execAtomicApply c i e s) := by
  refine answers_next ?_
  repeat' first
    | (with_reducible first | assumption | exact Keeps.refl _ | intro _ | apply keeps_raiseSqEcc | apply keeps_dropFlight
                            | apply keeps_sramCorrected | apply keeps_atomApplyUnit | apply keeps_updFlight
                            | apply keeps_updDie | apply Keeps.ite)
    | fail_if_no_progress with_reducible refine Keeps.of ?_ rfl idp idp idp idp | dsimp only | split

theorem keeps_execGatherApply {z0 : State} (c : LCell) (i : BitVec 2) (lh : LineHit) (s : State) (hK : Keeps z0 s) :
    Answers z0 (execGatherApply c i lh s) := by
  refine answers_next ?_
  repeat' first
    | (with_reducible first | assumption | exact Keeps.refl _ | intro _ | apply keeps_gatherShard | apply Keeps.ite
                            | apply Keeps.foldl | apply Keeps.foldl_fst | apply Keeps.foldl_snd | apply Keeps.foldl_third)
    | fail_if_no_progress with_reducible refine Keeps.of ?_ rfl idp idp idp idp | dsimp only | split

theorem keeps_execSyncStart {z0 : State} (c : LCell) (s : State) (hK : Keeps z0 s) : Answers z0 (execSyncStart c s) := by
  refine answers_next ?_
  repeat' first
    | (with_reducible first | assumption | exact Keeps.refl _ | intro _ | apply keeps_startSync | apply keeps_popSync
                            | apply Keeps.ite)
    | fail_if_no_progress with_reducible refine Keeps.of ?_ rfl idp idp idp idp | dsimp only | split

theorem keeps_execBellOpApply {z0 : State} (i : BitVec 16) (e : Ecc) (s : State) (hK : Keeps z0 s) :
    Answers z0 (execBellOpApply i e s) := by
  refine answers_next ?_
  repeat' first
    | (with_reducible first | assumption | exact Keeps.refl _ | intro _ | apply keeps_applyBellOp | apply Keeps.ite)
    | fail_if_no_progress with_reducible refine Keeps.of ?_ rfl idp idp idp idp | dsimp only | split

theorem keeps_execBellRelease {z0 : State} (i : BitVec 16) (s : State) (hK : Keeps z0 s) :
    Answers z0 (execBellRelease i s) := by
  refine answers_next ?_
  repeat' first
    | (with_reducible first | assumption | exact Keeps.refl _ | intro _ | apply keeps_resumeCell | apply Keeps.ite)
    | fail_if_no_progress with_reducible refine Keeps.of ?_ rfl idp idp idp idp | dsimp only | split

theorem keeps_execWaitTimeout {z0 : State} (c : LCell) (s : State) (hK : Keeps z0 s) : Answers z0 (execWaitTimeout c s) := by
  refine answers_next ?_
  repeat' first
    | (with_reducible first | assumption | exact Keeps.refl _ | intro _ | apply Keeps.ite)
    | fail_if_no_progress with_reducible refine Keeps.of ?_ rfl idp idp idp idp | dsimp only | split

theorem keeps_execCancelApply {z0 : State} (i : BitVec 16) (s : State) (hK : Keeps z0 s) :
    Answers z0 (execCancelApply i s) := by
  refine answers_next ?_
  repeat' first
    | (with_reducible first | assumption | exact Keeps.refl _ | intro _ | apply keeps_applyCancel | apply Keeps.ite)
    | fail_if_no_progress with_reducible refine Keeps.of ?_ rfl idp idp idp idp | dsimp only | split

theorem keeps_execLineLatch {z0 : State} (l : BitVec 5) (s : State) (hK : Keeps z0 s) : Answers z0 (execLineLatch l s) := by
  refine answers_next ?_
  repeat' first
    | (with_reducible first | assumption | exact Keeps.refl _ | intro _ | apply keeps_updLine | apply keeps_resumeCell
                            | apply Keeps.ite | apply Keeps.foldl | apply Keeps.foldl_fst | apply Keeps.foldl_snd
                            | apply Keeps.foldl_third)
    | fail_if_no_progress with_reducible refine Keeps.of ?_ rfl idp idp idp idp | dsimp only | split

theorem keeps_execCellLend {z0 : State} (c : LCell) (s : State) (hK : Keeps z0 s) : Answers z0 (execCellLend c s) := by
  refine answers_next ?_
  repeat' first
    | (with_reducible first | assumption | exact Keeps.refl _ | intro _ | apply keeps_updCell | apply keeps_regCount
                            | apply keeps_lendPower | apply Keeps.ite)
    | fail_if_no_progress with_reducible refine Keeps.of ?_ rfl idp idp idp idp | dsimp only | split

theorem keeps_execDataFlit {z0 : State} (port : BitVec 5) (raw : BitVec 2048) (rs : Bool) (s : State) (hK : Keeps z0 s) :
    Answers z0 (execDataFlit port raw rs s) := by
  refine answers_next ?_
  repeat' first
    | (with_reducible first | assumption | exact Keeps.refl _ | intro _ | apply keeps_updPort | apply keeps_takeReturn
                            | apply keeps_flushOut | apply keeps_acceptFlit | apply Keeps.ite)
    | fail_if_no_progress with_reducible refine Keeps.of ?_ rfl idp idp idp idp | dsimp only | split

theorem keeps_execIdleFlit {z0 : State} (port : BitVec 5) (raw : BitVec 2048) (rs : Bool) (s : State) (hK : Keeps z0 s) :
    Answers z0 (execIdleFlit port raw rs s) := by
  refine answers_next ?_
  repeat' first
    | (with_reducible first | assumption | exact Keeps.refl _ | intro _ | apply keeps_returnFlit | apply Keeps.ite)
    | fail_if_no_progress with_reducible refine Keeps.of ?_ rfl idp idp idp idp | dsimp only | split

theorem keeps_execNakFlit {z0 : State} (port : BitVec 5) (raw : BitVec 2048) (rs : Bool) (s : State) (hK : Keeps z0 s) :
    Answers z0 (execNakFlit port raw rs s) := by
  refine answers_next ?_
  repeat' first
    | (with_reducible first | assumption | exact Keeps.refl _ | intro _ | apply keeps_returnFlit | apply keeps_demandReplay
                            | apply Keeps.ite)
    | fail_if_no_progress with_reducible refine Keeps.of ?_ rfl idp idp idp idp | dsimp only | split

theorem keeps_execAckTimeout {z0 : State} (port : BitVec 5) (s : State) (hK : Keeps z0 s) :
    Answers z0 (execAckTimeout port s) := by
  refine answers_next ?_
  repeat' first
    | (with_reducible first | assumption | exact Keeps.refl _ | intro _ | apply keeps_demandReplay | apply Keeps.ite)
    | fail_if_no_progress with_reducible refine Keeps.of ?_ rfl idp idp idp idp | dsimp only | split

theorem keeps_execLlrWindowExpiry {z0 : State} (port : BitVec 5) (s : State) (hK : Keeps z0 s) :
    Answers z0 (execLlrWindowExpiry port s) := by
  refine answers_next ?_
  repeat' first
    | (with_reducible first | assumption | exact Keeps.refl _ | intro _ | apply keeps_portDown | apply Keeps.ite)
    | fail_if_no_progress with_reducible refine Keeps.of ?_ rfl idp idp idp idp | dsimp only | split

theorem keeps_execBerWindowEnd {z0 : State} (engine : BitVec 3) (ber : BitVec 544) (eye : BitVec 272) (ce : BitVec 544)
    (ue : BitVec 544) (s : State) (hK : Keeps z0 s) :
    Answers z0 (execBerWindowEnd engine ber eye ce ue s) := by
  refine answers_next ?_
  repeat' first
    | (with_reducible first | assumption | exact Keeps.refl _ | intro _ | apply keeps_updEngine | apply keeps_tallyAdd
                            | apply keeps_tallyExtreme | apply keeps_tallyGauge | apply keeps_updPort | apply Keeps.ite
                            | apply Keeps.foldl | apply Keeps.foldl_fst | apply Keeps.foldl_snd | apply Keeps.foldl_third)
    | fail_if_no_progress with_reducible refine Keeps.of ?_ rfl idp idp idp idp | dsimp only | split

theorem keeps_execSpareReq {z0 : State} (i : BitVec 16) (s : State) (hK : Keeps z0 s) : Answers z0 (execSpareReq i s) := by
  refine answers_next ?_
  repeat' first
    | (with_reducible first | assumption | exact Keeps.refl _ | intro _ | apply keeps_linkCtlRow | apply keeps_updEngine
                            | apply keeps_sendOn | apply Keeps.ite)
    | fail_if_no_progress with_reducible refine Keeps.of ?_ rfl idp idp idp idp | dsimp only | split

theorem keeps_execSpareAck {z0 : State} (i : BitVec 16) (s : State) (hK : Keeps z0 s) : Answers z0 (execSpareAck i s) := by
  refine answers_next ?_
  repeat' first
    | (with_reducible first | assumption | exact Keeps.refl _ | intro _ | apply keeps_linkCtlRow | apply keeps_updEngine
                            | apply Keeps.ite)
    | fail_if_no_progress with_reducible refine Keeps.of ?_ rfl idp idp idp idp | dsimp only | split

theorem keeps_execHello {z0 : State} (i : BitVec 16) (s : State) (hK : Keeps z0 s) : Answers z0 (execHello i s) := by
  refine answers_next ?_
  repeat' first
    | (with_reducible first | assumption | exact Keeps.refl _ | intro _ | apply keeps_linkCtlRow | apply keeps_updPort
                            | apply keeps_sendEcho | apply Keeps.ite)
    | fail_if_no_progress with_reducible refine Keeps.of ?_ rfl idp idp idp idp | dsimp only | split

theorem keeps_execEchoInterval {z0 : State} (port : BitVec 5) (s : State) (hK : Keeps z0 s) :
    Answers z0 (execEchoInterval port s) := by
  refine answers_next ?_
  repeat' first
    | (with_reducible first | assumption | exact Keeps.refl _ | intro _ | apply keeps_sendEcho | apply Keeps.ite)
    | fail_if_no_progress with_reducible refine Keeps.of ?_ rfl idp idp idp idp | dsimp only | split

theorem keeps_execEcho {z0 : State} (i : BitVec 16) (turn : BitVec 32) (s : State) (hK : Keeps z0 s) :
    Answers z0 (execEcho i turn s) := by
  refine answers_next ?_
  repeat' first
    | (with_reducible first | assumption | exact Keeps.refl _ | intro _ | apply keeps_linkCtlRow | apply keeps_sendOn
                            | apply Keeps.ite)
    | fail_if_no_progress with_reducible refine Keeps.of ?_ rfl idp idp idp idp | dsimp only | split

theorem keeps_execEchoReply {z0 : State} (i : BitVec 16) (s : State) (hK : Keeps z0 s) : Answers z0 (execEchoReply i s) := by
  refine answers_next ?_
  repeat' first
    | (with_reducible first | assumption | exact Keeps.refl _ | intro _ | apply keeps_linkCtlRow | apply keeps_updPort
                            | apply keeps_sendEcho | apply Keeps.ite)
    | fail_if_no_progress with_reducible refine Keeps.of ?_ rfl idp idp idp idp | dsimp only | split

theorem keeps_execUnreach {z0 : State} (i : BitVec 16) (s : State) (hK : Keeps z0 s) : Answers z0 (execUnreach i s) := by
  refine answers_next ?_
  repeat' first
    | (with_reducible first | assumption | exact Keeps.refl _ | intro _ | apply keeps_linkCtlRow | apply keeps_raisePeerLost
                            | apply keeps_parPeerLost | apply Keeps.ite | apply Keeps.foldl | apply Keeps.foldl_fst
                            | apply Keeps.foldl_snd | apply Keeps.foldl_third)
    | fail_if_no_progress with_reducible refine Keeps.of ?_ rfl idp idp idp idp | dsimp only | split

theorem keeps_execArrived {z0 : State} (i : BitVec 16) (s : State) (hK : Keeps z0 s) : Answers z0 (execArrived i s) := by
  refine answers_next ?_
  repeat' first
    | (with_reducible first | assumption | exact Keeps.refl _ | intro _ | apply keeps_placeArrived | apply keeps_freeMsg
                            | apply Keeps.ite)
    | fail_if_no_progress with_reducible refine Keeps.of ?_ rfl idp idp idp idp | dsimp only | split

theorem keeps_execTrainingFrame {z0 : State} (port : BitVec 5) (lane : BitVec 5) (raw : BitVec 2048) (s : State)
    (hK : Keeps z0 s) :
    Answers z0 (execTrainingFrame port lane raw s) := by
  refine answers_next ?_
  repeat' first
    | (with_reducible first | assumption | exact Keeps.refl _ | intro _ | apply keeps_updPort | apply keeps_sendHello
                            | apply Keeps.ite)
    | fail_if_no_progress with_reducible refine Keeps.of ?_ rfl idp idp idp idp | dsimp only | split

theorem keeps_execTrainingPhaseTimeout {z0 : State} (port : BitVec 5) (s : State) (hK : Keeps z0 s) :
    Answers z0 (execTrainingPhaseTimeout port s) := by
  refine answers_next ?_
  repeat' first
    | (with_reducible first | assumption | exact Keeps.refl _ | intro _ | apply keeps_updPort | apply Keeps.ite)
    | fail_if_no_progress with_reducible refine Keeps.of ?_ rfl idp idp idp idp | dsimp only | split

theorem keeps_execLogProgram {z0 : State} (s : State) (hK : Keeps z0 s) : Answers z0 (execLogProgram s) := by
  refine answers_next ?_
  repeat' first
    | (with_reducible first | assumption | exact Keeps.refl _ | intro _ | apply keeps_programRec | apply Keeps.ite)
    | fail_if_no_progress with_reducible refine Keeps.of ?_ rfl idp idp idp idp | dsimp only | split

theorem keeps_execCheckpoint {z0 : State} (s : State) (hK : Keeps z0 s) : Answers z0 (execCheckpoint s) := by
  refine answers_next ?_
  repeat' first
    | (with_reducible first | assumption | exact Keeps.refl _ | intro _ | apply keeps_startCheckpoint | apply Keeps.ite)
    | fail_if_no_progress with_reducible refine Keeps.of ?_ rfl idp idp idp idp | dsimp only | split

theorem keeps_execReportGet {z0 : State} (r : Route) (s : State) (hK : Keeps z0 s) : Answers z0 (execReportGet r s) := by
  refine answers_next ?_
  repeat' first
    | (with_reducible first | assumption | exact Keeps.refl _ | intro _ | apply keeps_command | apply keeps_reportGet
                            | apply Keeps.ite)
    | fail_if_no_progress with_reducible refine Keeps.of ?_ rfl idp idp idp idp | dsimp only | split

theorem keeps_execDieTempRead {z0 : State} (die : BitVec 5) (temp : Int) (s : State) (hK : Keeps z0 s) :
    Answers z0 (execDieTempRead die temp s) := by
  refine answers_next ?_
  repeat' first
    | (with_reducible first | assumption | exact Keeps.refl _ | intro _ | apply keeps_updDie | apply Keeps.ite)
    | fail_if_no_progress with_reducible refine Keeps.of ?_ rfl idp idp idp idp | dsimp only | split

theorem keeps_execSenseReadSkip {z0 : State} (osc : Bool) (unit : BitVec 6) (s : State) (hK : Keeps z0 s) :
    Answers z0 (execSenseReadSkip osc unit s) := by
  refine answers_next ?_
  repeat' first
    | (with_reducible first | assumption | exact Keeps.refl _ | intro _ | apply keeps_regCount | apply keeps_tallyAdd
                            | apply Keeps.ite)
    | fail_if_no_progress with_reducible refine Keeps.of ?_ rfl idp idp idp idp | dsimp only | split

theorem keeps_execDroopEvent {z0 : State} (domain : BitVec 6) (s : State) (hK : Keeps z0 s) :
    Answers z0 (execDroopEvent domain s) := by
  refine answers_next ?_
  repeat' first
    | (with_reducible first | assumption | exact Keeps.refl _ | intro _ | apply keeps_tallyAdd | apply Keeps.ite)
    | fail_if_no_progress with_reducible refine Keeps.of ?_ rfl idp idp idp idp | dsimp only | split

theorem keeps_execAgeRead {z0 : State} (unit : BitVec 6) (hz : Nat) (s : State) (hK : Keeps z0 s) :
    Answers z0 (execAgeRead unit hz s) := by
  refine answers_next ?_
  repeat' first
    | (with_reducible first | assumption | exact Keeps.refl _ | intro _ | apply keeps_takeFree | apply keeps_tallyGauge
                            | apply Keeps.ite)
    | fail_if_no_progress with_reducible refine Keeps.of ?_ rfl idp idp idp idp | dsimp only | split

theorem keeps_execSensePeriodEnd {z0 : State} (s : State) (hK : Keeps z0 s) : Answers z0 (execSensePeriodEnd s) := by
  refine answers_next ?_
  repeat' first
    | (with_reducible first | assumption | exact Keeps.refl _ | intro _ | apply keeps_tallyAdd | apply keeps_tallyExtreme
                            | apply keeps_regEffSet | apply keeps_askCheckpoint | apply keeps_sendReports | apply Keeps.ite
                            | apply Keeps.foldl | apply Keeps.foldl_fst | apply Keeps.foldl_snd | apply Keeps.foldl_third)
    | fail_if_no_progress with_reducible refine Keeps.of ?_ rfl idp idp idp idp | dsimp only | split

theorem keeps_execNormalTail {z0 : State} (ctx : BitVec 14) (tail : BitVec 32) (s : State) (hK : Keeps z0 s) :
    Answers z0 (execNormalTail ctx tail s) := by
  refine answers_next ?_
  repeat' first
    | (with_reducible first | assumption | exact Keeps.refl _ | intro _ | apply keeps_publishTail | apply Keeps.ite)
    | fail_if_no_progress with_reducible refine Keeps.of ?_ rfl idp idp idp idp | dsimp only | split

theorem keeps_execUrgentTail {z0 : State} (ctx : BitVec 14) (tail : BitVec 32) (s : State) (hK : Keeps z0 s) :
    Answers z0 (execUrgentTail ctx tail s) := by
  refine answers_next ?_
  repeat' first
    | (with_reducible first | assumption | exact Keeps.refl _ | intro _ | apply keeps_publishTail | apply Keeps.ite)
    | fail_if_no_progress with_reducible refine Keeps.of ?_ rfl idp idp idp idp | dsimp only | split

theorem keeps_execCompletionHead {z0 : State} (ctx : BitVec 14) (head : BitVec 32) (s : State) (hK : Keeps z0 s) :
    Answers z0 (execCompletionHead ctx head s) := by
  refine answers_next ?_
  repeat' first
    | (with_reducible first | assumption | exact Keeps.refl _ | intro _ | apply keeps_publishHead | apply Keeps.ite)
    | fail_if_no_progress with_reducible refine Keeps.of ?_ rfl idp idp idp idp | dsimp only | split

theorem keeps_execReplyPost {z0 : State} (ctx : BitVec 14) (s : State) (hK : Keeps z0 s) :
    Answers z0 (execReplyPost ctx s) := by
  refine answers_next ?_
  repeat' first
    | (with_reducible first | assumption | exact Keeps.refl _ | intro _ | apply keeps_postReply | apply Keeps.ite)
    | fail_if_no_progress with_reducible refine Keeps.of ?_ rfl idp idp idp idp | dsimp only | split

theorem keeps_execRingSet {z0 : State} (r : Route) (s : State) (hK : Keeps z0 s) : Answers z0 (execRingSet r s) := by
  refine answers_next ?_
  repeat' first
    | (with_reducible first | assumption | exact Keeps.refl _ | intro _ | apply keeps_command | apply keeps_ringSetCmd
                            | apply Keeps.ite)
    | fail_if_no_progress with_reducible refine Keeps.of ?_ rfl idp idp idp idp | dsimp only | split

theorem keeps_execMgmtDatagram {z0 : State} (p : MgmtPacket) (s : State) (hK : Keeps z0 s) :
    Answers z0 (execMgmtDatagram p s) := by
  refine answers_next ?_
  repeat' first
    | (with_reducible first | assumption | exact Keeps.refl _ | intro _ | apply keeps_dropDatagram | apply keeps_regCount
                            | apply Keeps.ite)
    | fail_if_no_progress with_reducible refine Keeps.of ?_ rfl idp idp idp idp | dsimp only | split

theorem keeps_execSessionHello {z0 : State} (r : Route) (s : State) (hK : Keeps z0 s) : Answers z0 (execSessionHello r s) := by
  refine answers_next ?_
  repeat' first
    | (with_reducible first | assumption | exact Keeps.refl _ | intro _ | apply keeps_hello | apply keeps_command
                            | apply Keeps.ite)
    | fail_if_no_progress with_reducible refine Keeps.of ?_ rfl idp idp idp idp | dsimp only | split

theorem keeps_execSessionOpen {z0 : State} (r : Route) (s : State) (hK : Keeps z0 s) : Answers z0 (execSessionOpen r s) := by
  refine answers_next ?_
  repeat' first
    | (with_reducible first | assumption | exact Keeps.refl _ | intro _ | apply keeps_openSession | apply keeps_command
                            | apply Keeps.ite)
    | fail_if_no_progress with_reducible refine Keeps.of ?_ rfl idp idp idp idp | dsimp only | split

theorem keeps_execSessionClose {z0 : State} (r : Route) (s : State) (hK : Keeps z0 s) : Answers z0 (execSessionClose r s) := by
  refine answers_next ?_
  repeat' first
    | (with_reducible first | assumption | exact Keeps.refl _ | intro _ | apply keeps_command | apply keeps_closeSession
                            | apply keeps_completeCmd | apply Keeps.ite)
    | fail_if_no_progress with_reducible refine Keeps.of ?_ rfl idp idp idp idp | dsimp only | split

theorem keeps_execSessionIdleExpiry {z0 : State} (num : BitVec 32) (s : State) (hK : Keeps z0 s) :
    Answers z0 (execSessionIdleExpiry num s) := by
  refine answers_next ?_
  repeat' first
    | (with_reducible first | assumption | exact Keeps.refl _ | intro _ | apply keeps_closeSession | apply Keeps.ite)
    | fail_if_no_progress with_reducible refine Keeps.of ?_ rfl idp idp idp idp | dsimp only | split

theorem keeps_execSessionLifetimeExpiry {z0 : State} (num : BitVec 32) (s : State) (hK : Keeps z0 s) :
    Answers z0 (execSessionLifetimeExpiry num s) := by
  refine answers_next ?_
  repeat' first
    | (with_reducible first | assumption | exact Keeps.refl _ | intro _ | apply keeps_closeSession | apply Keeps.ite)
    | fail_if_no_progress with_reducible refine Keeps.of ?_ rfl idp idp idp idp | dsimp only | split

theorem keeps_execXferAck {z0 : State} (r : Route) (s : State) (hK : Keeps z0 s) : Answers z0 (execXferAck r s) := by
  refine answers_next ?_
  repeat' first
    | (with_reducible first | assumption | exact Keeps.refl _ | intro _ | apply keeps_command | apply keeps_ackXfer
                            | apply Keeps.ite)
    | fail_if_no_progress with_reducible refine Keeps.of ?_ rfl idp idp idp idp | dsimp only | split

theorem keeps_execXferResend {z0 : State} (num : BitVec 32) (tag : BitVec 32) (s : State) (hK : Keeps z0 s) :
    Answers z0 (execXferResend num tag s) := by
  refine answers_next ?_
  repeat' first
    | (with_reducible first | assumption | exact Keeps.refl _ | intro _ | apply keeps_pushXfer | apply keeps_putXfer
                            | apply Keeps.ite)
    | fail_if_no_progress with_reducible refine Keeps.of ?_ rfl idp idp idp idp | dsimp only | split

theorem keeps_execXferTimeout {z0 : State} (num : BitVec 32) (tag : BitVec 32) (s : State) (hK : Keeps z0 s) :
    Answers z0 (execXferTimeout num tag s) := by
  refine answers_next ?_
  repeat' first
    | (with_reducible first | assumption | exact Keeps.refl _ | intro _ | apply keeps_endXfer | apply Keeps.ite)
    | fail_if_no_progress with_reducible refine Keeps.of ?_ rfl idp idp idp idp | dsimp only | split

theorem keeps_execMgmtLinkUp {z0 : State} (speed : BitVec 2) (s : State) (hK : Keeps z0 s) :
    Answers z0 (execMgmtLinkUp speed s) := by
  refine answers_next ?_
  repeat' first
    | (with_reducible first | assumption | exact Keeps.refl _ | intro _ | apply Keeps.ite)
    | fail_if_no_progress with_reducible refine Keeps.of ?_ rfl idp idp idp idp | dsimp only | split

theorem keeps_execBootStage {z0 : State} (fails : BitVec 8) (torn : Option Nat) (s : State) (hK : Keeps z0 s) :
    Answers z0 (execBootStage fails torn s) := by
  refine answers_next ?_
  repeat' first
    | (with_reducible first | assumption | exact Keeps.refl _ | exact idp | refine memOf ?_ ?_ ?_ ?_ ?_ ?_ ?_ ?_ ?_
                            | refine sWf_refill _ (fun _ => rfl) ?_ | apply sWf_set | apply sWf_upd | intro _
                            | exact sWf_nil _ | apply keeps_bootFails | apply keeps_bootStage3 | apply keeps_bootStage4
                            | apply keeps_replayLog | apply keeps_bootStage7 | apply keeps_bootStage8 | apply Keeps.ite)
    | fail_if_no_progress with_reducible refine Keeps.of ?_ rfl idp idp idp idp | dsimp only | split
    | fail_if_no_progress (with_reducible refine Keeps.of ?_ rfl idp ?_ idp idp <;> try with_reducible exact idp)

theorem keeps_execOzminRestart {z0 : State} (s : State) (hK : Keeps z0 s) : Answers z0 (execOzminRestart s) := by
  refine answers_next ?_
  repeat' first
    | (with_reducible first | assumption | exact Keeps.refl _ | intro _ | apply keeps_restartOzmin | apply Keeps.ite)
    | fail_if_no_progress with_reducible refine Keeps.of ?_ rfl idp idp idp idp | dsimp only | split

theorem keeps_execFltHallFw {z0 : State} (s : State) (hK : Keeps z0 s) : Answers z0 (execFltHallFw s) := by
  refine answers_next ?_
  repeat' first
    | (with_reducible first | assumption | exact Keeps.refl _ | intro _ | apply keeps_restartOzmin | apply keeps_flushOut
                            | apply keeps_raiseDeviceFault | apply Keeps.ite)
    | fail_if_no_progress with_reducible refine Keeps.of ?_ rfl idp idp idp idp | dsimp only | split

theorem keeps_execTrialConfirm {z0 : State} (s : State) (hK : Keeps z0 s) : Answers z0 (execTrialConfirm s) := by
  refine answers_next ?_
  repeat' first
    | (with_reducible first | assumption | exact Keeps.refl _ | intro _ | apply keeps_rewriteBoot | apply Keeps.ite)
    | fail_if_no_progress with_reducible refine Keeps.of ?_ rfl idp idp idp idp | dsimp only | split

theorem keeps_execFwWrite {z0 : State} (r : Route) (h : LineHit) (s : State) (hK : Keeps z0 s) :
    Answers z0 (execFwWrite r h s) := by
  refine answers_next ?_
  repeat' first
    | (with_reducible first | assumption | exact Keeps.refl _ | intro _ | apply keeps_command | apply keeps_fwWrite
                            | apply Keeps.ite)
    | fail_if_no_progress with_reducible refine Keeps.of ?_ rfl idp idp idp idp | dsimp only | split

theorem keeps_execImageProgrammingDone {z0 : State} (s : State) (hK : Keeps z0 s) :
    Answers z0 (execImageProgrammingDone s) := by
  refine answers_next ?_
  repeat' first
    | (with_reducible first | assumption | exact Keeps.refl _ | intro _ | apply keeps_flashErase | apply keeps_endJob
                            | apply keeps_flashPut | apply Keeps.ite | apply Keeps.foldl | apply Keeps.foldl_fst
                            | apply Keeps.foldl_snd | apply Keeps.foldl_third)
    | fail_if_no_progress with_reducible refine Keeps.of ?_ rfl idp idp idp idp | dsimp only | split

theorem keeps_execFwActivate {z0 : State} (r : Route) (s : State) (hK : Keeps z0 s) : Answers z0 (execFwActivate r s) := by
  refine answers_next ?_
  repeat' first
    | (with_reducible first | assumption | exact Keeps.refl _ | intro _ | apply keeps_command | apply keeps_fwActivate
                            | apply Keeps.ite)
    | fail_if_no_progress with_reducible refine Keeps.of ?_ rfl idp idp idp idp | dsimp only | split

theorem keeps_execAttestQuote {z0 : State} (r : Route) (s : State) (hK : Keeps z0 s) : Answers z0 (execAttestQuote r s) := by
  refine answers_next ?_
  repeat' first
    | (with_reducible first | assumption | exact Keeps.refl _ | intro _ | apply keeps_command | apply keeps_attestQuote
                            | apply Keeps.ite)
    | fail_if_no_progress with_reducible refine Keeps.of ?_ rfl idp idp idp idp | dsimp only | split

theorem keeps_execTicketFloor {z0 : State} (r : Route) (s : State) (hK : Keeps z0 s) : Answers z0 (execTicketFloor r s) := by
  refine answers_next ?_
  repeat' first
    | (with_reducible first | assumption | exact Keeps.refl _ | intro _ | apply keeps_command | apply keeps_ticketFloor
                            | apply Keeps.ite)
    | fail_if_no_progress with_reducible refine Keeps.of ?_ rfl idp idp idp idp | dsimp only | split

theorem keeps_execOwnerRecordWritten {z0 : State} (s : State) (hK : Keeps z0 s) : Answers z0 (execOwnerRecordWritten s) := by
  refine answers_next ?_
  repeat' first
    | (with_reducible first | assumption | exact Keeps.refl _ | intro _ | apply keeps_flashErase | apply keeps_programOwner
                            | apply keeps_closeSessions | apply Keeps.ite | apply Keeps.foldl | apply Keeps.foldl_fst
                            | apply Keeps.foldl_snd | apply Keeps.foldl_third)
    | fail_if_no_progress with_reducible refine Keeps.of ?_ rfl idp idp idp idp | dsimp only | split

theorem keeps_execPwrCap {z0 : State} (r : Route) (s : State) (hK : Keeps z0 s) : Answers z0 (execPwrCap r s) := by
  refine answers_next ?_
  repeat' first
    | (with_reducible first | assumption | exact Keeps.refl _ | intro _ | apply keeps_command | apply keeps_pwrCap
                            | apply Keeps.ite)
    | fail_if_no_progress with_reducible refine Keeps.of ?_ rfl idp idp idp idp | dsimp only | split

theorem keeps_execPwrShare {z0 : State} (r : Route) (s : State) (hK : Keeps z0 s) : Answers z0 (execPwrShare r s) := by
  refine answers_next ?_
  repeat' first
    | (with_reducible first | assumption | exact Keeps.refl _ | intro _ | apply keeps_command | apply keeps_pwrShare
                            | apply Keeps.ite)
    | fail_if_no_progress with_reducible refine Keeps.of ?_ rfl idp idp idp idp | dsimp only | split

theorem keeps_execPowerInterval {z0 : State} (m : PowerReading) (s : State) (hK : Keeps z0 s) :
    Answers z0 (execPowerInterval m s) := by
  refine answers_next ?_
  repeat' first
    | (with_reducible first | assumption | exact Keeps.refl _ | intro _ | apply keeps_settleLoans | apply keeps_paceRegion
                            | apply keeps_regCount | apply keeps_divideInterval | apply Keeps.ite | apply Keeps.foldl
                            | apply Keeps.foldl_fst | apply Keeps.foldl_snd | apply Keeps.foldl_third)
    | fail_if_no_progress with_reducible refine Keeps.of ?_ rfl idp idp idp idp | dsimp only | split

theorem keeps_execInputQualified {z0 : State} (s : State) (hK : Keeps z0 s) : Answers z0 (execInputQualified s) := by
  refine answers_next ?_
  repeat' first
    | (with_reducible first | assumption | exact Keeps.refl _ | intro _ | apply Keeps.ite)
    | fail_if_no_progress with_reducible refine Keeps.of ?_ rfl idp idp idp idp | dsimp only | split

theorem keeps_execEnvSensorSample {z0 : State} (sensor : BitVec 2) (value : Int) (s : State) (hK : Keeps z0 s) :
    Answers z0 (execEnvSensorSample sensor value s) := by
  refine answers_next ?_
  repeat' first
    | (with_reducible first | assumption | exact Keeps.refl _ | intro _ | apply keeps_tallyExtreme | apply keeps_flushOut
                            | apply keeps_envTrigger | apply Keeps.ite)
    | fail_if_no_progress with_reducible refine Keeps.of ?_ rfl idp idp idp idp | dsimp only | split

theorem keeps_execRefclockLoss {z0 : State} (s : State) (hK : Keeps z0 s) : Answers z0 (execRefclockLoss s) := by
  refine answers_next ?_
  repeat' first
    | (with_reducible first | assumption | exact Keeps.refl _ | intro _ | apply keeps_flushOut | apply keeps_envTrigger
                            | apply Keeps.ite)
    | fail_if_no_progress with_reducible refine Keeps.of ?_ rfl idp idp idp idp | dsimp only | split

theorem keeps_execThermtrip {z0 : State} (die : BitVec 5) (s : State) (hK : Keeps z0 s) : Answers z0 (execThermtrip die s) := by
  refine answers_next ?_
  dsimp only
  split
  · exact hK
  · split
    · next h => exact ⟨hK.queue, fun _ => powerOff_wf s, fun a b => absurd (hK.hold a b).2 (by simp [h])⟩
    · refine keeps_flushOut _ (keeps_enterSafeHold _ _ ?_)
      with_reducible exact Keeps.of hK rfl idp idp idp idp

theorem keeps_execFltBeatMaster {z0 : State} (s : State) (hK : Keeps z0 s) : Answers z0 (execFltBeatMaster s) := by
  refine answers_next ?_
  repeat' first
    | (with_reducible first | assumption | exact Keeps.refl _ | intro _ | apply keeps_unitCheck | apply Keeps.ite)
    | fail_if_no_progress with_reducible refine Keeps.of ?_ rfl idp idp idp idp | dsimp only | split

theorem keeps_execFltPowerManager {z0 : State} (s : State) (hK : Keeps z0 s) : Answers z0 (execFltPowerManager s) := by
  refine answers_next ?_
  repeat' first
    | (with_reducible first | assumption | exact Keeps.refl _ | intro _ | apply keeps_unitCheck | apply Keeps.ite)
    | fail_if_no_progress with_reducible refine Keeps.of ?_ rfl idp idp idp idp | dsimp only | split

theorem keeps_execPllLockLoss {z0 : State} (domain : BitVec 6) (s : State) (hK : Keeps z0 s) :
    Answers z0 (execPllLockLoss domain s) := by
  refine answers_next ?_
  repeat' first
    | (with_reducible first | assumption | exact Keeps.refl _ | intro _ | apply keeps_unitCheck | apply Keeps.ite)
    | fail_if_no_progress with_reducible refine Keeps.of ?_ rfl idp idp idp idp | dsimp only | split

theorem keeps_execFltCellInternal {z0 : State} (c : LCell) (s : State) (hK : Keeps z0 s) :
    Answers z0 (execFltCellInternal c s) := by
  refine answers_next ?_
  repeat' first
    | (with_reducible first | assumption | exact Keeps.refl _ | intro _ | apply keeps_flushOut | apply keeps_raiseCellFault
                            | apply Keeps.ite)
    | fail_if_no_progress with_reducible refine Keeps.of ?_ rfl idp idp idp idp | dsimp only | split

theorem keeps_execFltGateInternal {z0 : State} (region : BitVec 2) (s : State) (hK : Keeps z0 s) :
    Answers z0 (execFltGateInternal region s) := by
  refine answers_next ?_
  repeat' first
    | (with_reducible first | assumption | exact Keeps.refl _ | intro _ | apply keeps_flushOut | apply keeps_raiseRegionFault
                            | apply Keeps.ite)
    | fail_if_no_progress with_reducible refine Keeps.of ?_ rfl idp idp idp idp | dsimp only | split

theorem keeps_execBeatSet {z0 : State} (r : Route) (s : State) (hK : Keeps z0 s) : Answers z0 (execBeatSet r s) := by
  refine answers_next ?_
  repeat' first
    | (with_reducible first | assumption | exact Keeps.refl _ | intro _ | apply keeps_command | apply keeps_beatSet
                            | apply Keeps.ite)
    | fail_if_no_progress with_reducible refine Keeps.of ?_ rfl idp idp idp idp | dsimp only | split

theorem keeps_execBeatJoin {z0 : State} (r : Route) (s : State) (hK : Keeps z0 s) : Answers z0 (execBeatJoin r s) := by
  refine answers_next ?_
  repeat' first
    | (with_reducible first | assumption | exact Keeps.refl _ | intro _ | apply keeps_command | apply keeps_beatJoin
                            | apply Keeps.ite)
    | fail_if_no_progress with_reducible refine Keeps.of ?_ rfl idp idp idp idp | dsimp only | split

theorem keeps_execStretchCheck {z0 : State} (s : State) (hK : Keeps z0 s) : Answers z0 (execStretchCheck s) := by
  refine answers_next ?_
  repeat' first
    | (with_reducible first | assumption | exact Keeps.refl _ | intro _ | apply keeps_updBeat | apply keeps_flushOut
                            | apply keeps_tellGroup | apply Keeps.ite)
    | fail_if_no_progress with_reducible refine Keeps.of ?_ rfl idp idp idp idp | dsimp only | split

theorem keeps_execStretch {z0 : State} (i : BitVec 16) (s : State) (hK : Keeps z0 s) : Answers z0 (execStretch i s) := by
  refine answers_next ?_
  repeat' first
    | (with_reducible first | assumption | exact Keeps.refl _ | intro _ | apply keeps_beatRow | apply keeps_raiseBeatAlign
                            | apply keeps_updBeat | apply Keeps.ite)
    | fail_if_no_progress with_reducible refine Keeps.of ?_ rfl idp idp idp idp | dsimp only | split

theorem keeps_execAdaptDecide {z0 : State} (s : State) (hK : Keeps z0 s) : Answers z0 (execAdaptDecide s) := by
  refine answers_next ?_
  repeat' first
    | (with_reducible first | assumption | exact Keeps.refl _ | intro _ | apply keeps_updBeat | apply keeps_addChange
                            | apply keeps_flushOut | apply keeps_tellGroup | apply Keeps.ite)
    | fail_if_no_progress with_reducible refine Keeps.of ?_ rfl idp idp idp idp | dsimp only | split

theorem keeps_execLenSet {z0 : State} (i : BitVec 16) (s : State) (hK : Keeps z0 s) : Answers z0 (execLenSet i s) := by
  refine answers_next ?_
  repeat' first
    | (with_reducible first | assumption | exact Keeps.refl _ | intro _ | apply keeps_beatRow | apply keeps_updBeat
                            | apply keeps_raiseBeatAlign | apply keeps_addChange | apply Keeps.ite)
    | fail_if_no_progress with_reducible refine Keeps.of ?_ rfl idp idp idp idp | dsimp only | split

theorem keeps_execSlack {z0 : State} (i : BitVec 16) (s : State) (hK : Keeps z0 s) : Answers z0 (execSlack i s) := by
  refine answers_next ?_
  repeat' first
    | (with_reducible first | assumption | exact Keeps.refl _ | intro _ | apply keeps_beatRow | apply keeps_updBeat
                            | apply Keeps.ite)
    | fail_if_no_progress with_reducible refine Keeps.of ?_ rfl idp idp idp idp | dsimp only | split

theorem keeps_execSync {z0 : State} (i : BitVec 16) (s : State) (hK : Keeps z0 s) : Answers z0 (execSync i s) := by
  refine answers_next ?_
  repeat' first
    | (with_reducible first | assumption | exact Keeps.refl _ | intro _ | apply keeps_beatRow | apply keeps_joinGroup
                            | apply keeps_updBeat | apply keeps_queueAt | apply Keeps.ite)
    | fail_if_no_progress with_reducible refine Keeps.of ?_ rfl idp idp idp idp | dsimp only | split

theorem keeps_execDelayReq {z0 : State} (i : BitVec 16) (s : State) (hK : Keeps z0 s) : Answers z0 (execDelayReq i s) := by
  refine answers_next ?_
  repeat' first
    | (with_reducible first | assumption | exact Keeps.refl _ | intro _ | apply keeps_beatRow | apply keeps_queueAt
                            | apply Keeps.ite)
    | fail_if_no_progress with_reducible refine Keeps.of ?_ rfl idp idp idp idp | dsimp only | split

theorem keeps_execDelayResp {z0 : State} (i : BitVec 16) (s : State) (hK : Keeps z0 s) : Answers z0 (execDelayResp i s) := by
  refine answers_next ?_
  repeat' first
    | (with_reducible first | assumption | exact Keeps.refl _ | intro _ | apply keeps_beatRow | apply keeps_endExchange
                            | apply Keeps.ite)
    | fail_if_no_progress with_reducible refine Keeps.of ?_ rfl idp idp idp idp | dsimp only | split

theorem keeps_execSyncTimeout {z0 : State} (s : State) (hK : Keeps z0 s) : Answers z0 (execSyncTimeout s) := by
  refine answers_next ?_
  repeat' first
    | (with_reducible first | assumption | exact Keeps.refl _ | intro _ | apply keeps_flushOut | apply keeps_raiseBeatAlign
                            | apply keeps_updBeat | apply Keeps.ite)
    | fail_if_no_progress with_reducible refine Keeps.of ?_ rfl idp idp idp idp | dsimp only | split

theorem keeps_execCfgWrite {z0 : State} (r : Route) (h : LineHit) (s : State) (hK : Keeps z0 s) :
    Answers z0 (execCfgWrite r h s) := by
  refine answers_next ?_
  repeat' first
    | (with_reducible first | assumption | exact Keeps.refl _ | intro _ | apply keeps_command | apply keeps_cfgWrite
                            | apply Keeps.ite)
    | fail_if_no_progress with_reducible refine Keeps.of ?_ rfl idp idp idp idp | dsimp only | split

theorem keeps_execCfgSwap {z0 : State} (r : Route) (h : LineHit) (s : State) (hK : Keeps z0 s) :
    Answers z0 (execCfgSwap r h s) := by
  refine answers_next ?_
  repeat' first
    | (with_reducible first | assumption | exact Keeps.refl _ | intro _ | apply keeps_command | apply keeps_cfgSwap
                            | apply Keeps.ite)
    | fail_if_no_progress with_reducible refine Keeps.of ?_ rfl idp idp idp idp | dsimp only | split

theorem keeps_execCtxCreate {z0 : State} (r : Route) (h : LineHit) (s : State) (hK : Keeps z0 s) :
    Answers z0 (execCtxCreate r h s) := by
  refine answers_next ?_
  repeat' first
    | (with_reducible first | assumption | exact Keeps.refl _ | intro _ | apply keeps_command | apply keeps_ctxCreate
                            | apply Keeps.ite)
    | fail_if_no_progress with_reducible refine Keeps.of ?_ rfl idp idp idp idp | dsimp only | split

theorem keeps_execCtxQuery {z0 : State} (r : Route) (s : State) (hK : Keeps z0 s) : Answers z0 (execCtxQuery r s) := by
  refine answers_next ?_
  repeat' first
    | (with_reducible first | assumption | exact Keeps.refl _ | intro _ | apply keeps_command | apply keeps_ctxQuery
                            | apply Keeps.ite)
    | fail_if_no_progress with_reducible refine Keeps.of ?_ rfl idp idp idp idp | dsimp only | split

theorem keeps_execMemMap {z0 : State} (r : Route) (h : LineHit) (s : State) (hK : Keeps z0 s) :
    Answers z0 (execMemMap r h s) := by
  refine answers_next ?_
  repeat' first
    | (with_reducible first | assumption | exact Keeps.refl _ | intro _ | apply keeps_command | apply keeps_memMap
                            | apply Keeps.ite)
    | fail_if_no_progress with_reducible refine Keeps.of ?_ rfl idp idp idp idp | dsimp only | split

theorem keeps_execCtxPark {z0 : State} (r : Route) (s : State) (hK : Keeps z0 s) : Answers z0 (execCtxPark r s) := by
  refine answers_next ?_
  repeat' first
    | (with_reducible first | assumption | exact Keeps.refl _ | intro _ | apply keeps_command | apply keeps_ctxPark
                            | apply Keeps.ite)
    | fail_if_no_progress with_reducible refine Keeps.of ?_ rfl idp idp idp idp | dsimp only | split

theorem keeps_execParkSaveDone {z0 : State} (ctx : BitVec 14) (hit : Option SaveHit) (s : State) (hK : Keeps z0 s) :
    Answers z0 (execParkSaveDone ctx hit s) := by
  refine answers_next ?_
  repeat' first
    | (with_reducible first | assumption | exact Keeps.refl _ | intro _ | apply keeps_saveMeets | apply keeps_writeSave
                            | apply keeps_updCtx | apply keeps_endJob | apply Keeps.ite)
    | fail_if_no_progress with_reducible refine Keeps.of ?_ rfl idp idp idp idp | dsimp only | split

theorem keeps_execCtxUnpark {z0 : State} (r : Route) (s : State) (hK : Keeps z0 s) : Answers z0 (execCtxUnpark r s) := by
  refine answers_next ?_
  repeat' first
    | (with_reducible first | assumption | exact Keeps.refl _ | intro _ | apply keeps_command | apply keeps_ctxUnpark
                            | apply Keeps.ite)
    | fail_if_no_progress with_reducible refine Keeps.of ?_ rfl idp idp idp idp | dsimp only | split

theorem keeps_execUnparkPrepDone {z0 : State} (ctx : BitVec 14) (h : LineHit) (s : State) (hK : Keeps z0 s) :
    Answers z0 (execUnparkPrepDone ctx h s) := by
  refine answers_next ?_
  repeat' first
    | (with_reducible first | assumption | exact Keeps.refl _ | intro _ | apply keeps_prepareUnpark | apply Keeps.ite)
    | fail_if_no_progress with_reducible refine Keeps.of ?_ rfl idp idp idp idp | dsimp only | split

theorem keeps_execCtxResize {z0 : State} (r : Route) (s : State) (hK : Keeps z0 s) : Answers z0 (execCtxResize r s) := by
  refine answers_next ?_
  repeat' first
    | (with_reducible first | assumption | exact Keeps.refl _ | intro _ | apply keeps_command | apply keeps_ctxResize
                            | apply Keeps.ite)
    | fail_if_no_progress with_reducible refine Keeps.of ?_ rfl idp idp idp idp | dsimp only | split

theorem keeps_execCtxDestroy {z0 : State} (r : Route) (s : State) (hK : Keeps z0 s) : Answers z0 (execCtxDestroy r s) := by
  refine answers_next ?_
  repeat' first
    | (with_reducible first | assumption | exact Keeps.refl _ | intro _ | apply keeps_command | apply keeps_ctxDestroy
                            | apply Keeps.ite)
    | fail_if_no_progress with_reducible refine Keeps.of ?_ rfl idp idp idp idp | dsimp only | split

theorem keeps_execGranarySwap {z0 : State} (r : Route) (s : State) (hK : Keeps z0 s) : Answers z0 (execGranarySwap r s) := by
  refine answers_next ?_
  repeat' first
    | (with_reducible first | assumption | exact Keeps.refl _ | intro _ | apply keeps_command | apply keeps_granarySwap
                            | apply Keeps.ite)
    | fail_if_no_progress with_reducible refine Keeps.of ?_ rfl idp idp idp idp | dsimp only | split

theorem keeps_execNorms {z0 : State} (i : BitVec 16) (s : State) (hK : Keeps z0 s) : Answers z0 (execNorms i s) := by
  refine answers_next ?_
  repeat' first
    | (with_reducible first | assumption | exact Keeps.refl _ | intro _ | apply keeps_updateRow | apply keeps_updUpdate
                            | apply keeps_castVote | apply keeps_sumGroup | apply Keeps.ite)
    | fail_if_no_progress with_reducible refine Keeps.of ?_ rfl idp idp idp idp | dsimp only | split

theorem keeps_execNormsSum {z0 : State} (i : BitVec 16) (s : State) (hK : Keeps z0 s) : Answers z0 (execNormsSum i s) := by
  refine answers_next ?_
  repeat' first
    | (with_reducible first | assumption | exact Keeps.refl _ | intro _ | apply keeps_updateRow | apply keeps_castVote
                            | apply keeps_takeSum | apply Keeps.ite | apply Keeps.foldl | apply Keeps.foldl_fst
                            | apply Keeps.foldl_snd | apply Keeps.foldl_third)
    | fail_if_no_progress with_reducible refine Keeps.of ?_ rfl idp idp idp idp | dsimp only | split

theorem keeps_execVote {z0 : State} (i : BitVec 16) (s : State) (hK : Keeps z0 s) : Answers z0 (execVote i s) := by
  refine answers_next ?_
  repeat' first
    | (with_reducible first | assumption | exact Keeps.refl _ | intro _ | apply keeps_updateRow | apply keeps_recordVote
                            | apply Keeps.ite)
    | fail_if_no_progress with_reducible refine Keeps.of ?_ rfl idp idp idp idp | dsimp only | split

theorem keeps_execVoteSum {z0 : State} (i : BitVec 16) (s : State) (hK : Keeps z0 s) : Answers z0 (execVoteSum i s) := by
  refine answers_next ?_
  repeat' first
    | (with_reducible first | assumption | exact Keeps.refl _ | intro _ | apply keeps_updateRow | apply keeps_takeDecision
                            | apply Keeps.ite)
    | fail_if_no_progress with_reducible refine Keeps.of ?_ rfl idp idp idp idp | dsimp only | split

theorem keeps_execDone {z0 : State} (i : BitVec 16) (s : State) (hK : Keeps z0 s) : Answers z0 (execDone i s) := by
  refine answers_next ?_
  repeat' first
    | (with_reducible first | assumption | exact Keeps.refl _ | intro _ | apply keeps_updateRow | apply keeps_recordDone
                            | apply Keeps.ite)
    | fail_if_no_progress with_reducible refine Keeps.of ?_ rfl idp idp idp idp | dsimp only | split

theorem keeps_execCommit {z0 : State} (i : BitVec 16) (s : State) (hK : Keeps z0 s) : Answers z0 (execCommit i s) := by
  refine answers_next ?_
  repeat' first
    | (with_reducible first | assumption | exact Keeps.refl _ | intro _ | apply keeps_updateRow | apply keeps_updUpdate
                            | apply Keeps.ite)
    | fail_if_no_progress with_reducible refine Keeps.of ?_ rfl idp idp idp idp | dsimp only | split

theorem keeps_execAbort {z0 : State} (i : BitVec 16) (s : State) (hK : Keeps z0 s) : Answers z0 (execAbort i s) := by
  refine answers_next ?_
  repeat' first
    | (with_reducible first | assumption | exact Keeps.refl _ | intro _ | apply keeps_updateRow | apply keeps_updUpdate
                            | apply keeps_updCode | apply Keeps.ite)
    | fail_if_no_progress with_reducible refine Keeps.of ?_ rfl idp idp idp idp | dsimp only | split

theorem keeps_execUpdateDeadline {z0 : State} (ctx : BitVec 14) (s : State) (hK : Keeps z0 s) :
    Answers z0 (execUpdateDeadline ctx s) := by
  refine answers_next ?_
  repeat' first
    | (with_reducible first | assumption | exact Keeps.refl _ | intro _ | apply keeps_flushOut | apply keeps_updateDeadline
                            | apply Keeps.ite)
    | fail_if_no_progress with_reducible refine Keeps.of ?_ rfl idp idp idp idp | dsimp only | split

theorem keeps_execLnkConfig {z0 : State} (r : Route) (s : State) (hK : Keeps z0 s) : Answers z0 (execLnkConfig r s) := by
  refine answers_next ?_
  repeat' first
    | (with_reducible first | assumption | exact Keeps.refl _ | intro _ | apply keeps_command | apply keeps_lnkConfig
                            | apply Keeps.ite)
    | fail_if_no_progress with_reducible refine Keeps.of ?_ rfl idp idp idp idp | dsimp only | split

theorem keeps_execLnkFec {z0 : State} (r : Route) (s : State) (hK : Keeps z0 s) : Answers z0 (execLnkFec r s) := by
  refine answers_next ?_
  repeat' first
    | (with_reducible first | assumption | exact Keeps.refl _ | intro _ | apply keeps_command | apply keeps_lnkFec
                            | apply Keeps.ite)
    | fail_if_no_progress with_reducible refine Keeps.of ?_ rfl idp idp idp idp | dsimp only | split

theorem keeps_execLnkSpare {z0 : State} (r : Route) (s : State) (hK : Keeps z0 s) : Answers z0 (execLnkSpare r s) := by
  refine answers_next ?_
  repeat' first
    | (with_reducible first | assumption | exact Keeps.refl _ | intro _ | apply keeps_command | apply keeps_lnkSpare
                            | apply Keeps.ite)
    | fail_if_no_progress with_reducible refine Keeps.of ?_ rfl idp idp idp idp | dsimp only | split

theorem keeps_execLnkMargin {z0 : State} (r : Route) (s : State) (hK : Keeps z0 s) : Answers z0 (execLnkMargin r s) := by
  refine answers_next ?_
  repeat' first
    | (with_reducible first | assumption | exact Keeps.refl _ | intro _ | apply keeps_command | apply keeps_lnkMargin
                            | apply Keeps.ite)
    | fail_if_no_progress with_reducible refine Keeps.of ?_ rfl idp idp idp idp | dsimp only | split

theorem keeps_execLnkMarginDone {z0 : State} (engine : BitVec 3) (phLow : BitVec 8) (phHigh : BitVec 8) (vLow : BitVec 8)
    (vHigh : BitVec 8) (s : State) (hK : Keeps z0 s) :
    Answers z0 (execLnkMarginDone engine phLow phHigh vLow vHigh s) := by
  refine answers_next ?_
  repeat' first
    | (with_reducible first | assumption | exact Keeps.refl _ | intro _ | apply keeps_updEngine | apply keeps_tallyMargin
                            | apply keeps_askSpare | apply keeps_flushOut | apply keeps_endJob | apply Keeps.ite)
    | fail_if_no_progress with_reducible refine Keeps.of ?_ rfl idp idp idp idp | dsimp only | split

theorem keeps_execLaneFail {z0 : State} (engine : BitVec 3) (lane : BitVec 5) (all : Bool) (s : State) (hK : Keeps z0 s) :
    Answers z0 (execLaneFail engine lane all s) := by
  refine answers_next ?_
  repeat' first
    | (with_reducible first | assumption | exact Keeps.refl _ | intro _ | apply keeps_flushOut | apply keeps_laneFails
                            | apply keeps_endJob | apply keeps_askSpare | apply Keeps.ite)
    | fail_if_no_progress with_reducible refine Keeps.of ?_ rfl idp idp idp idp | dsimp only | split

theorem keeps_execMemEcc {z0 : State} (r : Route) (s : State) (hK : Keeps z0 s) : Answers z0 (execMemEcc r s) := by
  refine answers_next ?_
  repeat' first
    | (with_reducible first | assumption | exact Keeps.refl _ | intro _ | apply keeps_command | apply keeps_memEcc
                            | apply Keeps.ite)
    | fail_if_no_progress with_reducible refine Keeps.of ?_ rfl idp idp idp idp | dsimp only | split

theorem keeps_execMemEccDone {z0 : State} (s : State) (hK : Keeps z0 s) : Answers z0 (execMemEccDone s) := by
  refine answers_next ?_
  repeat' first
    | (with_reducible first | assumption | exact Keeps.refl _ | intro _ | apply keeps_endJob | apply keeps_zeroJobSpace
                            | apply Keeps.ite)
    | fail_if_no_progress with_reducible refine Keeps.of ?_ rfl idp idp idp idp | dsimp only | split

theorem keeps_execMemMargin {z0 : State} (r : Route) (s : State) (hK : Keeps z0 s) : Answers z0 (execMemMargin r s) := by
  refine answers_next ?_
  repeat' first
    | (with_reducible first | assumption | exact Keeps.refl _ | intro _ | apply keeps_command | apply keeps_memMargin
                            | apply Keeps.ite)
    | fail_if_no_progress with_reducible refine Keeps.of ?_ rfl idp idp idp idp | dsimp only | split

theorem keeps_execMemMarginDone {z0 : State} (stack : BitVec 3) (lows : BitVec 512) (highs : BitVec 512) (s : State)
    (hK : Keeps z0 s) :
    Answers z0 (execMemMarginDone stack lows highs s) := by
  refine answers_next ?_
  repeat' first
    | (with_reducible first | assumption | exact Keeps.refl _ | intro _ | apply keeps_updDie | apply keeps_tallyMargin
                            | apply keeps_rewriteCopy | apply keeps_endJob | apply Keeps.ite | apply Keeps.foldl
                            | apply Keeps.foldl_fst | apply Keeps.foldl_snd | apply Keeps.foldl_third)
    | fail_if_no_progress with_reducible refine Keeps.of ?_ rfl idp idp idp idp | dsimp only | split

theorem keeps_execStop {z0 : State} (r : Route) (s : State) (hK : Keeps z0 s) : Answers z0 (execStop r s) := by
  refine answers_next ?_
  repeat' first
    | (with_reducible first | assumption | exact Keeps.refl _ | intro _ | apply keeps_command | apply keeps_stop
                            | apply Keeps.ite)
    | fail_if_no_progress with_reducible refine Keeps.of ?_ rfl idp idp idp idp | dsimp only | split

theorem keeps_execFenceCell {z0 : State} (r : Route) (s : State) (hK : Keeps z0 s) : Answers z0 (execFenceCell r s) := by
  refine answers_next ?_
  repeat' first
    | (with_reducible first | assumption | exact Keeps.refl _ | intro _ | apply keeps_command | apply keeps_fenceCell
                            | apply Keeps.ite)
    | fail_if_no_progress with_reducible refine Keeps.of ?_ rfl idp idp idp idp | dsimp only | split

theorem keeps_execQuarantine {z0 : State} (r : Route) (s : State) (hK : Keeps z0 s) : Answers z0 (execQuarantine r s) := by
  refine answers_next ?_
  repeat' first
    | (with_reducible first | assumption | exact Keeps.refl _ | intro _ | apply keeps_command | apply keeps_quarantine
                            | apply Keeps.ite)
    | fail_if_no_progress with_reducible refine Keeps.of ?_ rfl idp idp idp idp | dsimp only | split

theorem keeps_execMusterRun {z0 : State} (r : Route) (s : State) (hK : Keeps z0 s) : Answers z0 (execMusterRun r s) := by
  refine answers_next ?_
  repeat' first
    | (with_reducible first | assumption | exact Keeps.refl _ | intro _ | apply keeps_command | apply keeps_musterRun
                            | apply Keeps.ite)
    | fail_if_no_progress with_reducible refine Keeps.of ?_ rfl idp idp idp idp | dsimp only | split

theorem keeps_execMusterRunDone {z0 : State} (r : MusterResult) (s : State) (hK : Keeps z0 s) :
    Answers z0 (execMusterRunDone r s) := by
  refine answers_next ?_
  repeat' first
    | (with_reducible first | assumption | exact Keeps.refl _ | intro _ | apply keeps_musterEnds | apply keeps_dropJob
                            | apply keeps_flushOut | apply keeps_endJob | apply Keeps.ite)
    | fail_if_no_progress with_reducible refine Keeps.of ?_ rfl idp idp idp idp | dsimp only | split

theorem keeps_execFetch {z0 : State} (i : BitVec 16) (lh : LineHit) (s : State) (hK : Keeps z0 s) :
    Answers z0 (execFetch i lh s) := by
  refine answers_next ?_
  repeat' first
    | (with_reducible first | assumption | exact Keeps.refl _ | intro _ | apply keeps_gateRow | apply keeps_serveFetch
                            | apply Keeps.ite)
    | fail_if_no_progress with_reducible refine Keeps.of ?_ rfl idp idp idp idp | dsimp only | split

theorem keeps_execPull {z0 : State} (i : BitVec 16) (s : State) (hK : Keeps z0 s) : Answers z0 (execPull i s) := by
  refine answers_next ?_
  repeat' first
    | (with_reducible first | assumption | exact Keeps.refl _ | intro _ | apply keeps_gateRow | apply keeps_refuse
                            | apply keeps_servePull | apply Keeps.ite)
    | fail_if_no_progress with_reducible refine Keeps.of ?_ rfl idp idp idp idp | dsimp only | split

theorem keeps_execShard {z0 : State} (i : BitVec 16) (s : State) (hK : Keeps z0 s) : Answers z0 (execShard i s) := by
  refine answers_next ?_
  repeat' first
    | (with_reducible first | assumption | exact Keeps.refl _ | intro _ | apply keeps_gateRow | apply keeps_takeChunk
                            | apply Keeps.ite)
    | fail_if_no_progress with_reducible refine Keeps.of ?_ rfl idp idp idp idp | dsimp only | split

theorem keeps_execPart {z0 : State} (i : BitVec 16) (s : State) (hK : Keeps z0 s) : Answers z0 (execPart i s) := by
  refine answers_next ?_
  repeat' first
    | (with_reducible first | assumption | exact Keeps.refl _ | intro _ | apply keeps_gateRow | apply keeps_takeChunk
                            | apply Keeps.ite)
    | fail_if_no_progress with_reducible refine Keeps.of ?_ rfl idp idp idp idp | dsimp only | split

theorem keeps_execDoneAck {z0 : State} (i : BitVec 16) (s : State) (hK : Keeps z0 s) : Answers z0 (execDoneAck i s) := by
  refine answers_next ?_
  repeat' first
    | (with_reducible first | assumption | exact Keeps.refl _ | intro _ | apply keeps_gateRow | apply keeps_updGateOp
                            | apply Keeps.ite)
    | fail_if_no_progress with_reducible refine Keeps.of ?_ rfl idp idp idp idp | dsimp only | split

theorem keeps_execCollRefuse {z0 : State} (i : BitVec 16) (s : State) (hK : Keeps z0 s) : Answers z0 (execCollRefuse i s) := by
  refine answers_next ?_
  repeat' first
    | (with_reducible first | assumption | exact Keeps.refl _ | intro _ | apply keeps_gateRow | apply keeps_raiseShardCrc
                            | apply keeps_raiseFault | apply keeps_opCellFault | apply Keeps.ite)
    | fail_if_no_progress with_reducible refine Keeps.of ?_ rfl idp idp idp idp | dsimp only | split

theorem keeps_execCollTimeout {z0 : State} (i : BitVec 16) (s : State) (hK : Keeps z0 s) :
    Answers z0 (execCollTimeout i s) := by
  refine answers_next ?_
  repeat' first
    | (with_reducible first | assumption | exact Keeps.refl _ | intro _ | apply keeps_flushOut | apply keeps_raiseCollTimeout
                            | apply Keeps.ite)
    | fail_if_no_progress with_reducible refine Keeps.of ?_ rfl idp idp idp idp | dsimp only | split

theorem keeps_execJobFault {z0 : State} (i : BitVec 16) (s : State) (hK : Keeps z0 s) : Answers z0 (execJobFault i s) := by
  refine answers_next ?_
  repeat' first
    | (with_reducible first | assumption | exact Keeps.refl _ | intro _ | apply keeps_freeMsg | apply keeps_flushOut
                            | apply keeps_raiseRemote | apply Keeps.ite)
    | fail_if_no_progress with_reducible refine Keeps.of ?_ rfl idp idp idp idp | dsimp only | split

theorem keeps_execMillPassADone {z0 : State} (ctx : BitVec 14) (h : LineHit) (s : State) (hK : Keeps z0 s) :
    Answers z0 (execMillPassADone ctx h s) := by
  refine answers_next ?_
  repeat' first
    | (with_reducible first | assumption | exact Keeps.refl _ | intro _ | apply kept_passA | apply keeps_overTensors
                            | apply keeps_flushOut | apply keeps_tellNorms | apply keeps_updUpdate | apply Keeps.ite)
    | fail_if_no_progress with_reducible refine Keeps.of ?_ rfl idp idp idp idp | dsimp only | split

theorem keeps_execMillPassBDone {z0 : State} (ctx : BitVec 14) (h : LineHit) (s : State) (hK : Keeps z0 s) :
    Answers z0 (execMillPassBDone ctx h s) := by
  refine answers_next ?_
  repeat' first
    | (with_reducible first | assumption | exact Keeps.refl _ | intro _ | apply kept_passB | apply keeps_overTensors
                            | apply keeps_flushOut | apply keeps_afterPassB | apply Keeps.ite)
    | fail_if_no_progress with_reducible refine Keeps.of ?_ rfl idp idp idp idp | dsimp only | split

theorem keeps_execMillFusedDone {z0 : State} (ctx : BitVec 14) (h : LineHit) (s : State) (hK : Keeps z0 s) :
    Answers z0 (execMillFusedDone ctx h s) := by
  refine answers_next ?_
  repeat' first
    | (with_reducible first | assumption | exact Keeps.refl _ | intro _ | apply kept_passApply | apply kept_passRefresh
                            | apply keeps_overTensors | apply keeps_updUpdate | apply keeps_flushOut | apply Keeps.ite)
    | fail_if_no_progress with_reducible refine Keeps.of ?_ rfl idp idp idp idp | dsimp only | split

theorem keeps_execStep {z0 : State} (r : Route) (h : LineHit) (s : State) (hK : Keeps z0 s) : Answers z0 (execStep r h s) := by
  refine answers_next ?_
  repeat' first
    | (with_reducible first | assumption | exact Keeps.refl _ | intro _ | apply keeps_command | apply keeps_stepCommand
                            | apply Keeps.ite)
    | fail_if_no_progress with_reducible refine Keeps.of ?_ rfl idp idp idp idp | dsimp only | split

theorem keeps_execMillFused {z0 : State} (r : Route) (h : LineHit) (s : State) (hK : Keeps z0 s) :
    Answers z0 (execMillFused r h s) := by
  refine answers_next ?_
  repeat' first
    | (with_reducible first | assumption | exact Keeps.refl _ | intro _ | apply keeps_command | apply keeps_millFused
                            | apply Keeps.ite)
    | fail_if_no_progress with_reducible refine Keeps.of ?_ rfl idp idp idp idp | dsimp only | split

theorem keeps_execStepResolve {z0 : State} (r : Route) (s : State) (hK : Keeps z0 s) : Answers z0 (execStepResolve r s) := by
  refine answers_next ?_
  repeat' first
    | (with_reducible first | assumption | exact Keeps.refl _ | intro _ | apply keeps_command | apply keeps_stepResolve
                            | apply Keeps.ite)
    | fail_if_no_progress with_reducible refine Keeps.of ?_ rfl idp idp idp idp | dsimp only | split

theorem keeps_execCodeSet {z0 : State} (r : Route) (h : LineHit) (s : State) (hK : Keeps z0 s) :
    Answers z0 (execCodeSet r h s) := by
  refine answers_next ?_
  repeat' first
    | (with_reducible first | assumption | exact Keeps.refl _ | intro _ | apply keeps_command | apply keeps_codeSet
                            | apply Keeps.ite)
    | fail_if_no_progress with_reducible refine Keeps.of ?_ rfl idp idp idp idp | dsimp only | split

theorem keeps_execCodeRefresh {z0 : State} (r : Route) (h : LineHit) (s : State) (hK : Keeps z0 s) :
    Answers z0 (execCodeRefresh r h s) := by
  refine answers_next ?_
  repeat' first
    | (with_reducible first | assumption | exact Keeps.refl _ | intro _ | apply keeps_command | apply keeps_codeRefresh
                            | apply Keeps.ite)
    | fail_if_no_progress with_reducible refine Keeps.of ?_ rfl idp idp idp idp | dsimp only | split

theorem keeps_execCodeRefreshDone {z0 : State} (ctx : BitVec 14) (s : State) (hK : Keeps z0 s) :
    Answers z0 (execCodeRefreshDone ctx s) := by
  refine answers_next ?_
  repeat' first
    | (with_reducible first | assumption | exact Keeps.refl _ | intro _ | apply keeps_endJob | apply keeps_updCode
                            | apply keeps_finishRefresh | apply Keeps.ite)
    | fail_if_no_progress with_reducible refine Keeps.of ?_ rfl idp idp idp idp | dsimp only | split

theorem keeps_execCodeCommit {z0 : State} (r : Route) (s : State) (hK : Keeps z0 s) : Answers z0 (execCodeCommit r s) := by
  refine answers_next ?_
  repeat' first
    | (with_reducible first | assumption | exact Keeps.refl _ | intro _ | apply keeps_command | apply keeps_codeCommit
                            | apply Keeps.ite)
    | fail_if_no_progress with_reducible refine Keeps.of ?_ rfl idp idp idp idp | dsimp only | split

theorem keeps_execCodeRebuild {z0 : State} (r : Route) (h : LineHit) (s : State) (hK : Keeps z0 s) :
    Answers z0 (execCodeRebuild r h s) := by
  refine answers_next ?_
  repeat' first
    | (with_reducible first | assumption | exact Keeps.refl _ | intro _ | apply keeps_command | apply keeps_codeRebuild
                            | apply Keeps.ite)
    | fail_if_no_progress with_reducible refine Keeps.of ?_ rfl idp idp idp idp | dsimp only | split

theorem keeps_execCodeRebuildDone {z0 : State} (ctx : BitVec 14) (s : State) (hK : Keeps z0 s) :
    Answers z0 (execCodeRebuildDone ctx s) := by
  refine answers_next ?_
  repeat' first
    | (with_reducible first | assumption | exact Keeps.refl _ | intro _ | apply keeps_endJob | apply keeps_updCode
                            | apply keeps_finishRebuild | apply Keeps.ite)
    | fail_if_no_progress with_reducible refine Keeps.of ?_ rfl idp idp idp idp | dsimp only | split

theorem keeps_execPiece {z0 : State} (i : BitVec 16) (s : State) (hK : Keeps z0 s) : Answers z0 (execPiece i s) := by
  refine answers_next ?_
  repeat' first
    | (with_reducible first | assumption | exact Keeps.refl _ | intro _ | apply keeps_gateRow | apply keeps_refuse
                            | apply keeps_takeParChunk | apply keeps_settleRefresh | apply keeps_settlePiece | apply Keeps.ite)
    | fail_if_no_progress with_reducible refine Keeps.of ?_ rfl idp idp idp idp | dsimp only | split

theorem keeps_execPieceAck {z0 : State} (i : BitVec 16) (s : State) (hK : Keeps z0 s) : Answers z0 (execPieceAck i s) := by
  refine answers_next ?_
  repeat' first
    | (with_reducible first | assumption | exact Keeps.refl _ | intro _ | apply keeps_gateRow | apply keeps_settleRefresh
                            | apply keeps_updOp | apply Keeps.ite)
    | fail_if_no_progress with_reducible refine Keeps.of ?_ rfl idp idp idp idp | dsimp only | split

theorem keeps_execPieceReq {z0 : State} (i : BitVec 16) (lh : LineHit) (s : State) (hK : Keeps z0 s) :
    Answers z0 (execPieceReq i lh s) := by
  refine answers_next ?_
  repeat' first
    | (with_reducible first | assumption | exact Keeps.refl _ | intro _ | apply keeps_gateRow | apply keeps_refuse
                            | apply keeps_ctxReadAll | apply keeps_sendPiece | apply Keeps.ite)
    | fail_if_no_progress with_reducible refine Keeps.of ?_ rfl idp idp idp idp | dsimp only | split

theorem keeps_execSymbol {z0 : State} (i : BitVec 16) (s : State) (hK : Keeps z0 s) : Answers z0 (execSymbol i s) := by
  refine answers_next ?_
  repeat' first
    | (with_reducible first | assumption | exact Keeps.refl _ | intro _ | apply keeps_gateRow | apply keeps_updOp
                            | apply keeps_takeParChunk | apply keeps_settleSymbol | apply keeps_settleRefresh
                            | apply keeps_settlePiece | apply Keeps.ite)
    | fail_if_no_progress with_reducible refine Keeps.of ?_ rfl idp idp idp idp | dsimp only | split

theorem keeps_execParRefuse {z0 : State} (i : BitVec 16) (s : State) (hK : Keeps z0 s) : Answers z0 (execParRefuse i s) := by
  refine answers_next ?_
  repeat' first
    | (with_reducible first | assumption | exact Keeps.refl _ | intro _ | apply keeps_gateRow | apply keeps_updOp
                            | apply keeps_loseSymbol | apply keeps_raiseParCrc | apply keeps_refuseRefresh | apply Keeps.ite)
    | fail_if_no_progress with_reducible refine Keeps.of ?_ rfl idp idp idp idp | dsimp only | split

theorem keeps_execBulkData {z0 : State} (i : BitVec 16) (s : State) (hK : Keeps z0 s) : Answers z0 (execBulkData i s) := by
  refine answers_next ?_
  repeat' first
    | (with_reducible first | assumption | exact Keeps.refl _ | intro _ | apply keeps_bulkRow | apply keeps_sendBulk
                            | apply Keeps.ite)
    | fail_if_no_progress with_reducible refine Keeps.of ?_ rfl idp idp idp idp | dsimp only | split

theorem keeps_execReshard {z0 : State} (r : Route) (h : LineHit) (s : State) (hK : Keeps z0 s) :
    Answers z0 (execReshard r h s) := by
  refine answers_next ?_
  repeat' first
    | (with_reducible first | assumption | exact Keeps.refl _ | intro _ | apply keeps_command | apply keeps_reshard
                            | apply Keeps.ite)
    | fail_if_no_progress with_reducible refine Keeps.of ?_ rfl idp idp idp idp | dsimp only | split

theorem keeps_execReshardDone {z0 : State} (ctx : BitVec 14) (received : List Byte) (served : BitVec 64) (fails : Bool)
    (h : LineHit) (s : State) (hK : Keeps z0 s) :
    Answers z0 (execReshardDone ctx received served fails h s) := by
  refine answers_next ?_
  repeat' first
    | (with_reducible first | assumption | exact Keeps.refl _ | intro _ | apply keeps_writeItems | apply keeps_flushOut
                            | apply keeps_endJob | apply keeps_freeItems | apply keeps_updCtx | apply Keeps.ite
                            | apply Keeps.foldl | apply Keeps.foldl_fst | apply Keeps.foldl_snd | apply Keeps.foldl_third)
    | fail_if_no_progress with_reducible refine Keeps.of ?_ rfl idp idp idp idp | dsimp only | split

theorem keeps_execSnapshot {z0 : State} (r : Route) (h : LineHit) (s : State) (hK : Keeps z0 s) :
    Answers z0 (execSnapshot r h s) := by
  refine answers_next ?_
  repeat' first
    | (with_reducible first | assumption | exact Keeps.refl _ | intro _ | apply keeps_command | apply keeps_snapshot
                            | apply Keeps.ite)
    | fail_if_no_progress with_reducible refine Keeps.of ?_ rfl idp idp idp idp | dsimp only | split

theorem keeps_execSnapshotStageEnd {z0 : State} (ctx : BitVec 14) (h : LineHit) (s : State) (hK : Keeps z0 s) :
    Answers z0 (execSnapshotStageEnd ctx h s) := by
  refine answers_next ?_
  repeat' first
    | (with_reducible first | assumption | exact Keeps.refl _ | intro _ | apply keeps_ctxReadAll | apply keeps_flushOut
                            | apply keeps_endJob | apply keeps_writeRuns | apply keeps_updJob | apply keeps_shipStaged
                            | apply Keeps.ite)
    | fail_if_no_progress with_reducible refine Keeps.of ?_ rfl idp idp idp idp | dsimp only | split

theorem keeps_execBulkAck {z0 : State} (i : BitVec 16) (s : State) (hK : Keeps z0 s) : Answers z0 (execBulkAck i s) := by
  refine answers_next ?_
  repeat' first
    | (with_reducible first | assumption | exact Keeps.refl _ | intro _ | apply keeps_bulkRow | apply keeps_updJob
                            | apply Keeps.ite)
    | fail_if_no_progress with_reducible refine Keeps.of ?_ rfl idp idp idp idp | dsimp only | split

theorem keeps_execSnapshotShipDone {z0 : State} (ctx : BitVec 14) (s : State) (hK : Keeps z0 s) :
    Answers z0 (execSnapshotShipDone ctx s) := by
  refine answers_next ?_
  repeat' first
    | (with_reducible first | assumption | exact Keeps.refl _ | intro _ | apply keeps_endJob | apply Keeps.ite)
    | fail_if_no_progress with_reducible refine Keeps.of ?_ rfl idp idp idp idp | dsimp only | split

theorem keeps_execBeatBoundary {z0 : State} (s : State) (hK : Keeps z0 s) : Answers z0 (execBeatBoundary s) := by
  refine answers_next ?_
  repeat' first
    | (with_reducible first | assumption | exact Keeps.refl _ | intro _ | apply keeps_openBeat | apply keeps_boundaryActions
                            | apply keeps_guardActs | apply keeps_flushOut | apply Keeps.ite)
    | fail_if_no_progress with_reducible refine Keeps.of ?_ rfl idp idp idp idp | dsimp only | split

theorem keeps_execEarlyBoundary {z0 : State} (s : State) (hK : Keeps z0 s) : Answers z0 (execEarlyBoundary s) := by
  refine answers_next ?_
  repeat' first
    | (with_reducible first | assumption | exact Keeps.refl _ | intro _ | apply keeps_boundaryActions | apply keeps_guardActs
                            | apply keeps_takeFree | apply keeps_flushOut | apply keeps_openBeat | apply Keeps.ite)
    | fail_if_no_progress with_reducible refine Keeps.of ?_ rfl idp idp idp idp | dsimp only | split

theorem keeps_execRingNak {z0 : State} (link : BitVec 3) (dir : Bool) (again : Bool) (s : State) (hK : Keeps z0 s) :
    Answers z0 (execRingNak link dir again s) := by
  refine answers_next ?_
  repeat' first
    | (with_reducible first | assumption | exact Keeps.refl _ | intro _ | apply keeps_updReplay | apply Keeps.ite)
    | fail_if_no_progress with_reducible refine Keeps.of ?_ rfl idp idp idp idp | dsimp only | split

theorem keeps_execRingReplay {z0 : State} (link : BitVec 3) (dir : Bool) (e : NetErr) (s : State) (hK : Keeps z0 s) :
    Answers z0 (execRingReplay link dir e s) := by
  refine answers_next ?_
  repeat' first
    | (with_reducible first | assumption | exact Keeps.refl _ | intro _ | apply keeps_netError | apply keeps_updReplay
                            | apply keeps_tallyAdd | apply keeps_logRepair | apply keeps_linkDown | apply Keeps.ite)
    | fail_if_no_progress with_reducible refine Keeps.of ?_ rfl idp idp idp idp | dsimp only | split

theorem keeps_execRefresh {z0 : State} (_stack : BitVec 3) (_pc : BitVec 6) (_bank : BitVec 6) (s : State) (hK : Keeps z0 s) :
    Answers z0 (execRefresh _stack _pc _bank s) := by
  refine answers_next ?_
  repeat' first
    | (with_reducible first | assumption | exact Keeps.refl _ | intro _ | apply Keeps.ite)
    | fail_if_no_progress with_reducible refine Keeps.of ?_ rfl idp idp idp idp | dsimp only | split

theorem keeps_execHbmPatrolScrub {z0 : State} (stack : BitVec 3) (e : Ecc) (s : State) (hK : Keeps z0 s) :
    Answers z0 (execHbmPatrolScrub stack e s) := by
  refine answers_next ?_
  repeat' first
    | (with_reducible first | assumption | exact Keeps.refl _ | intro _ | apply keeps_updDie | apply keeps_correctedAt
                            | apply keeps_uncorrectableAt | apply keeps_scrubCarve | apply keeps_raiseHbmUe | apply Keeps.ite)
    | fail_if_no_progress with_reducible refine Keeps.of ?_ rfl idp idp idp idp | dsimp only | split

theorem keeps_execRepairCopyDone {z0 : State} (stack : BitVec 3) (la : BitVec 37) (s : State) (hK : Keeps z0 s) :
    Answers z0 (execRepairCopyDone stack la s) := by
  refine answers_next ?_
  repeat' first
    | (with_reducible first | assumption | exact Keeps.refl _ | intro _ | apply keeps_updRow | apply Keeps.ite)
    | fail_if_no_progress with_reducible refine Keeps.of ?_ rfl idp idp idp idp | dsimp only | split

theorem keeps_execHpprConversion {z0 : State} (stack : BitVec 3) (la : BitVec 37) (ok : Bool) (s : State) (hK : Keeps z0 s) :
    Answers z0 (execHpprConversion stack la ok s) := by
  refine answers_next ?_
  repeat' first
    | (with_reducible first | assumption | exact Keeps.refl _ | intro _ | apply keeps_updRow | apply keeps_updDie
                            | apply keeps_noteLast | apply keeps_logRepair | apply keeps_tallyAdd | apply Keeps.ite)
    | fail_if_no_progress with_reducible refine Keeps.of ?_ rfl idp idp idp idp | dsimp only | split

theorem keeps_execFrameRetire {z0 : State} (stack : BitVec 3) (la : BitVec 37) (s : State) (hK : Keeps z0 s) :
    Answers z0 (execFrameRetire stack la s) := by
  refine answers_next ?_
  repeat' first
    | (with_reducible first | assumption | exact Keeps.refl _ | intro _ | apply keeps_retireFrame | apply keeps_updDie
                            | apply Keeps.ite)
    | fail_if_no_progress with_reducible refine Keeps.of ?_ rfl idp idp idp idp | dsimp only | split

theorem keeps_execSquareClearDone {z0 : State} (die : BitVec 3) (unit : BitVec 4) (s : State) (hK : Keeps z0 s) :
    Answers z0 (execSquareClearDone die unit s) := by
  refine answers_next ?_
  repeat' first
    | (with_reducible first | assumption | exact Keeps.refl _ | exact idp | refine memOf ?_ ?_ ?_ ?_ ?_ ?_ ?_ ?_ ?_
                            | refine sWf_refill _ (fun _ => rfl) ?_ | apply sWf_set | apply sWf_upd | apply sWf_clear
                            | apply sWf_filter | intro _ | apply keeps_updDie | apply Keeps.ite)
    | fail_if_no_progress with_reducible refine Keeps.of ?_ rfl idp idp idp idp | dsimp only | split
    | fail_if_no_progress (with_reducible refine Keeps.of ?_ rfl idp ?_ idp idp <;> try with_reducible exact idp)

theorem keeps_execBeatCtlWrite {z0 : State} (core : Fin 36) (part : RegPart) (v : Word) (s : State) (hK : Keeps z0 s) :
    Answers z0 (execBeatCtlWrite core part v s) := by
  refine answers_next ?_
  repeat' first
    | (with_reducible first | assumption | exact Keeps.refl _ | intro _ | apply keeps_regCommand | apply Keeps.ite)
    | fail_if_no_progress with_reducible refine Keeps.of ?_ rfl idp idp idp idp | dsimp only | split

theorem keeps_execMgmtConfigWrite {z0 : State} (core : Fin 36) (reg : BitVec 2) (part : RegPart) (v : Word) (s : State)
    (hK : Keeps z0 s) :
    Answers z0 (execMgmtConfigWrite core reg part v s) := by
  refine answers_next ?_
  repeat' first
    | (with_reducible first | assumption | exact Keeps.refl _ | intro _ | apply keeps_regCommand | apply Keeps.ite)
    | fail_if_no_progress with_reducible refine Keeps.of ?_ rfl idp idp idp idp | dsimp only | split

theorem keeps_execCkptNow {z0 : State} (core : Fin 36) (wide : Bool) (v : Word) (s : State) (hK : Keeps z0 s) :
    Answers z0 (execCkptNow core wide v s) := by
  refine answers_next ?_
  repeat' first
    | (with_reducible first | assumption | exact Keeps.refl _ | intro _ | apply keeps_regCommand | apply Keeps.ite)
    | fail_if_no_progress with_reducible refine Keeps.of ?_ rfl idp idp idp idp | dsimp only | split

theorem keeps_execBootCommit {z0 : State} (core : Fin 36) (s : State) (hK : Keeps z0 s) :
    Answers z0 (execBootCommit core s) := by
  refine answers_next ?_
  repeat' first
    | (with_reducible first | assumption | exact Keeps.refl _ | intro _ | apply keeps_regCommand | apply Keeps.ite)
    | fail_if_no_progress with_reducible refine Keeps.of ?_ rfl idp idp idp idp | dsimp only | split

theorem keeps_execBootRelease {z0 : State} (core : Fin 36) (s : State) (hK : Keeps z0 s) :
    Answers z0 (execBootRelease core s) := by
  refine answers_next ?_
  repeat' first
    | (with_reducible first | assumption | exact Keeps.refl _ | intro _ | apply keeps_regCommand | apply Keeps.ite)
    | fail_if_no_progress with_reducible refine Keeps.of ?_ rfl idp idp idp idp | dsimp only | split

theorem keeps_execBootOwnData {z0 : State} (core : Fin 36) (i : BitVec 2) (part : RegPart) (v : Word) (s : State)
    (hK : Keeps z0 s) :
    Answers z0 (execBootOwnData core i part v s) := by
  refine answers_next ?_
  repeat' first
    | (with_reducible first | assumption | exact Keeps.refl _ | intro _ | apply keeps_regCommand | apply Keeps.ite)
    | fail_if_no_progress with_reducible refine Keeps.of ?_ rfl idp idp idp idp | dsimp only | split

theorem keeps_execHallAccess {z0 : State} (core : Fin 36) (addr : BitVec 40) (op : HallOp) (h : LineHit) (s : State)
    (hK : Keeps z0 s) :
    Answers z0 (execHallAccess core addr op h s) := by
  refine answers_next ?_
  repeat' first
    | (with_reducible first | assumption | exact Keeps.refl _ | intro _ | apply keeps_flushOut | apply keeps_hallLoad
                            | apply keeps_hallStore | apply Keeps.ite)
    | fail_if_no_progress with_reducible refine Keeps.of ?_ rfl idp idp idp idp | dsimp only | split

theorem keeps_execRegisterWrite {z0 : State} (core : Fin 36) (addr : BitVec 40) (n : BitVec 6) (v : BitVec 512) (s : State)
    (hK : Keeps z0 s) :
    Answers z0 (execRegisterWrite core addr n v s) := by
  refine answers_next ?_
  repeat' first
    | (with_reducible first | assumption | exact Keeps.refl _ | intro _ | apply keeps_flushOut | apply keeps_coreWrite
                            | apply Keeps.ite)
    | fail_if_no_progress with_reducible refine Keeps.of ?_ rfl idp idp idp idp | dsimp only | split

theorem keeps_execMemRead {z0 : State} (r : Route) (h : LineHit) (s : State) (hK : Keeps z0 s) :
    Answers z0 (execMemRead r h s) := by
  refine answers_next ?_
  repeat' first
    | (with_reducible first | assumption | exact Keeps.refl _ | intro _ | apply keeps_command | apply keeps_memRead
                            | apply Keeps.ite)
    | fail_if_no_progress with_reducible refine Keeps.of ?_ rfl idp idp idp idp | dsimp only | split

theorem keeps_execMemWrite {z0 : State} (r : Route) (h : LineHit) (s : State) (hK : Keeps z0 s) :
    Answers z0 (execMemWrite r h s) := by
  refine answers_next ?_
  repeat' first
    | (with_reducible first | assumption | exact Keeps.refl _ | intro _ | apply keeps_command | apply keeps_memWrite
                            | apply Keeps.ite)
    | fail_if_no_progress with_reducible refine Keeps.of ?_ rfl idp idp idp idp | dsimp only | split

theorem keeps_execExtest {z0 : State} (s : State) (hK : Keeps z0 s) : Answers z0 (execExtest s) := by
  refine answers_next ?_
  repeat' first
    | (with_reducible first | assumption | exact Keeps.refl _ | intro _ | apply keeps_scanCells | apply keeps_loadTap
                            | apply keeps_loadBypass | apply Keeps.ite)
    | fail_if_no_progress with_reducible refine Keeps.of ?_ rfl idp idp idp idp | dsimp only | split

theorem keeps_execSamplePreload {z0 : State} (s : State) (hK : Keeps z0 s) : Answers z0 (execSamplePreload s) := by
  refine answers_next ?_
  repeat' first
    | (with_reducible first | assumption | exact Keeps.refl _ | intro _ | apply keeps_scanCells | apply keeps_loadTap
                            | apply Keeps.ite)
    | fail_if_no_progress with_reducible refine Keeps.of ?_ rfl idp idp idp idp | dsimp only | split

theorem keeps_execIdcode {z0 : State} (s : State) (hK : Keeps z0 s) : Answers z0 (execIdcode s) := by
  refine answers_next ?_
  repeat' first
    | (with_reducible first | assumption | exact Keeps.refl _ | intro _ | apply keeps_loadTap | apply Keeps.ite)
    | fail_if_no_progress with_reducible refine Keeps.of ?_ rfl idp idp idp idp | dsimp only | split

theorem keeps_execBypass {z0 : State} (s : State) (hK : Keeps z0 s) : Answers z0 (execBypass s) := by
  refine answers_next ?_
  repeat' first
    | (with_reducible first | assumption | exact Keeps.refl _ | intro _ | apply keeps_loadBypass | apply Keeps.ite)
    | fail_if_no_progress with_reducible refine Keeps.of ?_ rfl idp idp idp idp | dsimp only | split

theorem keeps_execJtagClaim {z0 : State} (s : State) (hK : Keeps z0 s) : Answers z0 (execJtagClaim s) := by
  refine answers_next ?_
  repeat' first
    | (with_reducible first | assumption | exact Keeps.refl _ | intro _ | refine keeps_updPins _ _ (fun _ => rfl) ?_
                            | apply keeps_loadBypass | apply keeps_takeFree | apply keeps_loadTap | apply Keeps.ite)
    | fail_if_no_progress with_reducible refine Keeps.of ?_ rfl idp idp idp idp | dsimp only | split

theorem keeps_execMusterTap {z0 : State} (payload : Word) (r : MusterResult) (s : State) (hK : Keeps z0 s) :
    Answers z0 (execMusterTap payload r s) := by
  refine answers_next ?_
  repeat' first
    | (with_reducible first | assumption | exact Keeps.refl _ | intro _ | apply keeps_loadBypass | apply keeps_loadTap
                            | apply keeps_musterEnds | apply keeps_musterStarts | apply keeps_flushOut | apply Keeps.ite)
    | fail_if_no_progress with_reducible refine Keeps.of ?_ rfl idp idp idp idp | dsimp only | split

theorem keeps_execRegacc {z0 : State} (addr : BitVec 40) (v : Word) (write : Bool) (s : State) (hK : Keeps z0 s) :
    Answers z0 (execRegacc addr v write s) := by
  refine answers_next ?_
  repeat' first
    | (with_reducible first | assumption | exact Keeps.refl _ | intro _ | apply keeps_loadBypass | apply keeps_loadTap
                            | apply keeps_debugWrite | apply keeps_debugRead | apply Keeps.ite)
    | fail_if_no_progress with_reducible refine Keeps.of ?_ rfl idp idp idp idp | dsimp only | split

theorem keeps_execTestLogicReset {z0 : State} (s : State) (hK : Keeps z0 s) : Answers z0 (execTestLogicReset s) := by
  refine answers_next ?_
  repeat' first
    | (with_reducible first | assumption | exact Keeps.refl _ | intro _ | refine keeps_updPins _ _ (fun _ => rfl) ?_
                            | apply keeps_loadTap | apply Keeps.ite)
    | fail_if_no_progress with_reducible refine Keeps.of ?_ rfl idp idp idp idp | dsimp only | split

theorem keeps_execI3cClaim {z0 : State} (v : BitVec 8) (s : State) (hK : Keeps z0 s) : Answers z0 (execI3cClaim v s) := by
  refine answers_next ?_
  repeat' first
    | (with_reducible first | assumption | exact Keeps.refl _ | intro _ | refine keeps_updPins _ _ (fun _ => rfl) ?_
                            | apply keeps_i3cAnswer | apply Keeps.ite)
    | fail_if_no_progress with_reducible refine Keeps.of ?_ rfl idp idp idp idp | dsimp only | split

theorem keeps_execSetaddr {z0 : State} (addr : BitVec 40) (s : State) (hK : Keeps z0 s) : Answers z0 (execSetaddr addr s) := by
  refine answers_next ?_
  repeat' first
    | (with_reducible first | assumption | exact Keeps.refl _ | intro _ | refine keeps_updPins _ _ (fun _ => rfl) ?_
                            | apply keeps_i3cPrivate | apply keeps_i3cAnswer | apply Keeps.ite)
    | fail_if_no_progress with_reducible refine Keeps.of ?_ rfl idp idp idp idp | dsimp only | split

theorem keeps_execI3cRead {z0 : State} (s : State) (hK : Keeps z0 s) : Answers z0 (execI3cRead s) := by
  refine answers_next ?_
  repeat' first
    | (with_reducible first | assumption | exact Keeps.refl _ | intro _ | refine keeps_updPins _ _ (fun _ => rfl) ?_
                            | apply keeps_i3cPrivate | apply keeps_debugRead | apply keeps_i3cAnswer | apply keeps_i3cAdvance
                            | apply Keeps.ite)
    | fail_if_no_progress with_reducible refine Keeps.of ?_ rfl idp idp idp idp | dsimp only | split

theorem keeps_execI3cWrite {z0 : State} (v : Word) (s : State) (hK : Keeps z0 s) : Answers z0 (execI3cWrite v s) := by
  refine answers_next ?_
  repeat' first
    | (with_reducible first | assumption | exact Keeps.refl _ | intro _ | refine keeps_updPins _ _ (fun _ => rfl) ?_
                            | apply keeps_i3cPrivate | apply keeps_i3cAnswer | apply keeps_i3cAdvance | apply keeps_debugWrite
                            | apply Keeps.ite)
    | fail_if_no_progress with_reducible refine Keeps.of ?_ rfl idp idp idp idp | dsimp only | split

theorem keeps_execI3cBusReset {z0 : State} (s : State) (hK : Keeps z0 s) : Answers z0 (execI3cBusReset s) := by
  refine answers_next ?_
  repeat' first
    | (with_reducible first | assumption | exact Keeps.refl _ | intro _
                            | refine keeps_updPins _ _ (fun p => by dsimp only; split <;> rfl) ?_ | apply Keeps.ite)
    | fail_if_no_progress with_reducible refine Keeps.of ?_ rfl idp idp idp idp | dsimp only | split

theorem keeps_execEntdaa {z0 : State} (addr : BitVec 7) (s : State) (hK : Keeps z0 s) : Answers z0 (execEntdaa addr s) := by
  refine answers_next ?_
  repeat' first
    | (with_reducible first | assumption | exact Keeps.refl _ | intro _ | refine keeps_updPins _ _ (fun _ => rfl) ?_
                            | apply keeps_i3cAnswer | apply Keeps.ite)
    | fail_if_no_progress with_reducible refine Keeps.of ?_ rfl idp idp idp idp | dsimp only | split

theorem keeps_execSetdasa {z0 : State} (static : BitVec 7) (addr : BitVec 7) (s : State) (hK : Keeps z0 s) :
    Answers z0 (execSetdasa static addr s) := by
  refine answers_next ?_
  repeat' first
    | (with_reducible first | assumption | exact Keeps.refl _ | intro _ | refine keeps_updPins _ _ (fun _ => rfl) ?_
                            | apply keeps_i3cAnswer | apply Keeps.ite)
    | fail_if_no_progress with_reducible refine Keeps.of ?_ rfl idp idp idp idp | dsimp only | split

theorem keeps_execRstdaa {z0 : State} (s : State) (hK : Keeps z0 s) : Answers z0 (execRstdaa s) := by
  refine answers_next ?_
  repeat' first
    | (with_reducible first | assumption | exact Keeps.refl _ | intro _ | refine keeps_updPins _ _ (fun _ => rfl) ?_
                            | apply keeps_i3cAnswer | apply Keeps.ite)
    | fail_if_no_progress with_reducible refine Keeps.of ?_ rfl idp idp idp idp | dsimp only | split

theorem keeps_execGetpid {z0 : State} (s : State) (hK : Keeps z0 s) : Answers z0 (execGetpid s) := by
  refine answers_next ?_
  repeat' first
    | (with_reducible first | assumption | exact Keeps.refl _ | intro _ | apply keeps_i3cDirect | apply keeps_i3cAnswer
                            | apply Keeps.ite)
    | fail_if_no_progress with_reducible refine Keeps.of ?_ rfl idp idp idp idp | dsimp only | split

theorem keeps_execGetbcr {z0 : State} (s : State) (hK : Keeps z0 s) : Answers z0 (execGetbcr s) := by
  refine answers_next ?_
  repeat' first
    | (with_reducible first | assumption | exact Keeps.refl _ | intro _ | apply keeps_i3cDirect | apply keeps_i3cAnswer
                            | apply Keeps.ite)
    | fail_if_no_progress with_reducible refine Keeps.of ?_ rfl idp idp idp idp | dsimp only | split

theorem keeps_execGetdcr {z0 : State} (s : State) (hK : Keeps z0 s) : Answers z0 (execGetdcr s) := by
  refine answers_next ?_
  repeat' first
    | (with_reducible first | assumption | exact Keeps.refl _ | intro _ | apply keeps_i3cDirect | apply keeps_i3cAnswer
                            | apply Keeps.ite)
    | fail_if_no_progress with_reducible refine Keeps.of ?_ rfl idp idp idp idp | dsimp only | split

theorem keeps_execGetstatus {z0 : State} (s : State) (hK : Keeps z0 s) : Answers z0 (execGetstatus s) := by
  refine answers_next ?_
  repeat' first
    | (with_reducible first | assumption | exact Keeps.refl _ | intro _ | apply keeps_i3cDirect | apply keeps_freeBytes
                            | apply keeps_i3cAnswer | apply Keeps.ite)
    | fail_if_no_progress with_reducible refine Keeps.of ?_ rfl idp idp idp idp | dsimp only | split

theorem keeps_execEnec {z0 : State} (events : BitVec 8) (s : State) (hK : Keeps z0 s) : Answers z0 (execEnec events s) := by
  refine answers_next ?_
  repeat' first
    | (with_reducible first | assumption | exact Keeps.refl _ | intro _ | refine keeps_updPins _ _ (fun _ => rfl) ?_
                            | apply keeps_i3cAnswer | apply Keeps.ite)
    | fail_if_no_progress with_reducible refine Keeps.of ?_ rfl idp idp idp idp | dsimp only | split

theorem keeps_execDisec {z0 : State} (events : BitVec 8) (s : State) (hK : Keeps z0 s) : Answers z0 (execDisec events s) := by
  refine answers_next ?_
  repeat' first
    | (with_reducible first | assumption | exact Keeps.refl _ | intro _ | refine keeps_updPins _ _ (fun _ => rfl) ?_
                            | apply keeps_i3cAnswer | apply Keeps.ite)
    | fail_if_no_progress with_reducible refine Keeps.of ?_ rfl idp idp idp idp | dsimp only | split

theorem keeps_execRstact {z0 : State} (action : BitVec 8) (s : State) (hK : Keeps z0 s) : Answers z0 (execRstact action s) := by
  refine answers_next ?_
  repeat' first
    | (with_reducible first | assumption | exact Keeps.refl _ | intro _ | refine keeps_updPins _ _ (fun _ => rfl) ?_
                            | apply keeps_i3cAnswer | apply Keeps.ite)
    | fail_if_no_progress with_reducible refine Keeps.of ?_ rfl idp idp idp idp | dsimp only | split

end Sys2Proof.Machine
end

