-- ==== Sys2Proof/Tests/Slice0.lean ====
section
/-! SUPPORT. Tests of the model's own: terms that are not well formed, fixed values worked out from the spec by hand, and for
every statement with hypotheses a state and operands that meet them. -/

namespace Sys2Proof.Tests

open Sys2Proof Sys2Proof.Machine

set_option Elab.async false

/-! ### Small states -/

/-- The Bool that says what Issues says. -/
def issuesB (s : State) (c : LCell) (w : InsnWord) (k op : Nat) : Bool :=
  issuing s c.toNat && decide ((cellAt s (cellOfL s c)).seq.pc < 4096) &&
    !imloadCovers (cellAt s (cellOfL s c)).units (cellAt s (cellOfL s c)).seq.pc && decide (wordAt s c = w) &&
    decide (classOp w = (k, op)) && !interlocked (cellAt s (cellOfL s c)) w

theorem issues_iff (s : State) (c : LCell) (w : InsnWord) (k op : Nat) : Issues s c w k op ↔ issuesB s c w k op = true := by
  constructor
  · intro h; simp [issuesB, h.issuing, h.inMem, h.loaded, h.word, h.op, h.free]
  · intro h
    simp only [issuesB, Bool.and_eq_true, Bool.not_eq_true', decide_eq_true_eq] at h
    obtain ⟨⟨⟨⟨⟨h1, h2⟩, h3⟩, h4⟩, h5⟩, h6⟩ := h
    exact ⟨h1, h2, h3, h4, h5, h6⟩

/-- A word of class k and operation op, the other fields given as one number. -/
def word (k op rest : Nat) : InsnWord := BitVec.ofNat 128 (k * 2 ^ 124 + op * 2 ^ 116 + rest)

/-- RD, RA and RB of a control word. -/
def regs3 (rd ra rb : Nat) : Nat := rd * 2 ^ 112 + ra * 2 ^ 108 + rb * 2 ^ 104

/-- A tile descriptor (R172). -/
def desc (base rows cols rstride cstride code : Nat) : BitVec 128 :=
  BitVec.ofNat 128 (base + rows * 2 ^ 40 + cols * 2 ^ 56 + rstride * 2 ^ 72 + cstride * 2 ^ 96 + code * 2 ^ 120)

/-- Reset with blocks 0 and 1 given to context 1, which is unparked, and the cell at position 0 as given. -/
def withCell (x : Cell) : State :=
  { State.reset with
    sets := { part := { blocks := [(0, 2), (1, 2)] } }
    ctxs := [(1, { st := .unparked })]
    cells := [(0, x)] }

/-- Cell 0 runs and holds the word at its program counter. -/
def cellState (w : InsnWord) (x : Cell := {}) : State :=
  withCell { x with imem := if w = 0#128 then [] else [(0, w)], seq := { x.seq with running := true } }

def clean : Meet := ⟨.clean, .clean⟩

/-- The state that a row answers. -/
def ran (o : Host.Outcome State Fault Refusal) : State := match o with | .next t => t | _ => State.reset

/-- An instruction that has issued from index 0 with the cell's registers. -/
def op (w : InsnWord) (x : Cell := {}) : UnitOp := x.capture w

/-! ### Cells -/

theorem witness_ScalarResults : clean.imem ≠ .uncorrectable ∧ ∀ op ∈ [3, 4, 5, 6, 7, 8, 9, 10, 11],
    let w := word 0 op (if op = 3 then regs3 15 0 0 + 5 else if op = 9 ∨ op = 10 then regs3 1 2 0 + 63 else regs3 1 2 3)
    controlLegal w = true ∧ Issues (cellState w) 0 w 0 op := by
  simp only [issues_iff]; decide +kernel

/-- x1 := x2 + x3 + IMM wraps modulo 2^64 (R171). -/
theorem test_add_wraps : let w := word 0 0x04 (regs3 1 2 3 + 7)
    let s := cellState w { x := [(2, 0xFFFFFFFFFFFFFFFF#64), (3, 1#64)] }
    (cellAt (ran (exec (.add 0 clean) s)) 0).x = [(1, 7#64), (2, 0xFFFFFFFFFFFFFFFF#64), (3, 1#64)] := by decide +kernel

/-- A write of x0 is discarded (R157), and the cell goes on. -/
theorem test_li_x0 : let t := ran (exec (.li 0 clean) (cellState (word 0 0x03 (regs3 0 0 0 + 9))))
    (cellAt t 0).x = [] ∧ (cellAt t 0).seq.pc = 1 := by decide +kernel

/-- The last word of the store, and the last sixteen bytes. -/
theorem witness_StoreAccess :
    let ldx := word 0 0x0C (regs3 1 2 0)
    let stx := word 0 0x0D (regs3 0 2 3)
    let ldd := word 0 0x0E (2 * 2 ^ 108 + 4 * 2 ^ 100)
    let dadd := word 0 0x0F (2 * 2 ^ 108 + 4 * 2 ^ 100 + 1)
    let x : Cell := { x := [(2, 0x7FFF8#64)] }
    let y : Cell := { x := [(2, 0x7FFF0#64)] }
    clean.imem ≠ .uncorrectable ∧ clean.data ≠ .uncorrectable ∧
    (controlLegal ldx = true ∧ Issues (cellState ldx x) 0 ldx 0 0x0C ∧
      (raOf (issuer (cellState ldx x) 0) ldx + immOf ldx).toNat = 0x7FFF8) ∧
    (controlLegal stx = true ∧ Issues (cellState stx x) 0 stx 0 0x0D ∧
      (raOf (issuer (cellState stx x) 0) stx + immOf stx).toNat = 0x7FFF8) ∧
    (controlLegal ldd = true ∧ Issues (cellState ldd y) 0 ldd 0 0x0E ∧
      (raOf (issuer (cellState ldd y) 0) ldd + immOf ldd).toNat = 0x7FFF0) ∧
    controlLegal dadd = true ∧ Issues (cellState dadd) 0 dadd 0 0x0F := by
  simp only [issues_iff]; decide +kernel

/-- STX and LDX are little-endian (R87). -/
theorem test_stx_bytes : let w := word 0 0x0D (regs3 0 2 3)
    let s := cellState w { x := [(2, 8#64), (3, 0x0123456789ABCDEF#64)] }
    storeBytes (cellAt (ran (exec (.stx 0 clean) s)) 0) 8 8 =
      [0xEF#8, 0xCD#8, 0xAB#8, 0x89#8, 0x67#8, 0x45#8, 0x23#8, 0x01#8] := by decide +kernel

theorem witness_ControlFlow :
    let nop := word 0 0x01 0
    let yield := word 0 0x02 0
    let br := word 0 0x10 (regs3 0 1 2 + 6 * 2 ^ 60 + 4095)
    let loop := word 0 0x11 (regs3 0 1 0 + 1)
    let rdinfo := word 0 0x12 (regs3 1 0 0 + 5)
    let fence := word 0 0x13 15
    let full : Cell := { x := [(1, 1#64)], seq := { loops := [⟨0, 9, 1⟩, ⟨0, 9, 1⟩, ⟨0, 9, 1⟩] } }
    (∀ e ∈ [(nop, 0x01), (yield, 0x02), (br, 0x10), (loop, 0x11), (rdinfo, 0x12), (fence, 0x13)],
      controlLegal e.1 = true ∧ Issues (cellState e.1) 0 e.1 0 e.2) ∧
    ((raOf (issuer (cellState loop) 0) loop).toNat = 0 ∧ (issuer (cellState loop) 0).seq.pc + 1 ≤ wf loop 11 0) ∧
    (Issues (cellState loop full) 0 loop 0 0x11 ∧ 0 < (raOf (issuer (cellState loop full) 0) loop).toNat ∧
      (issuer (cellState loop full) 0).seq.pc + 1 ≤ wf loop 11 0 ∧ (issuer (cellState loop full) 0).seq.loops.length < 4) := by
  simp only [issues_iff]; decide +kernel

/-- A LOOP of three repeats whose body is one instruction pushes its level. -/
theorem test_loop_level : let w := word 0 0x11 (regs3 0 1 0 + 1)
    (cellAt (ran (exec (.loop 0 clean) (cellState w { x := [(1, 3#64)] }))) 0).seq.loops = [⟨1, 1, 3⟩] := by decide +kernel

/-- Seven operations wait, so an eighth has room. -/
theorem witness_VectorIssue :
    let vop : Nat → InsnWord := fun op => word 2 op (0x10 * 2 ^ 110 +
      (match vecShape op with
       | some (1, _) => 0x11 * 2 ^ 104
       | some (2, _) => 0x11 * 2 ^ 104 + 0x12 * 2 ^ 98
       | some (3, _) => 0x11 * 2 ^ 104 + 0x12 * 2 ^ 98 + 0x13 * 2 ^ 92
       | _ => 0) - if op = 0x38 ∨ op = 0x39 then 0x10 * 2 ^ 110 else 0)
    let x : Cell := { units := { vector := List.replicate 7 (op (vop 1)) } }
    ∀ op ∈ [1, 2, 3, 4, 5, 6, 7, 8, 0x10, 0x11, 0x12, 0x13, 0x14, 0x15, 0x16, 0x18, 0x19, 0x1A, 0x1B, 0x1C, 0x1D, 0x1E, 0x20,
      0x21, 0x22, 0x28, 0x30, 0x31, 0x38, 0x39],
      vecLegal (vop op) = true ∧ Issues (cellState (vop op) x) 0 (vop op) 2 op ∧
        (issuer (cellState (vop op) x) 0).units.vector.length < 8 := by
  simp only [issues_iff]; decide +kernel

def moveWord : Nat → Nat → InsnWord := fun op k => word 4 op (match op with
  | 1 => 1 * 2 ^ 112 + 2 * 2 ^ 108
  | 2 => 2 * 2 ^ 44 + 1 * 2 ^ 40 + 1 * 2 ^ 24
  | 4 => 1 * 2 ^ 112
  | 5 => 1 * 2 ^ 40
  | 8 => 1 * 2 ^ 112 + 2 * 2 ^ 108 + 3 * 2 ^ 102 + k * 2 ^ 20
  | 9 => 2 * 2 ^ 108 + 3 * 2 ^ 102 + 1 * 2 ^ 44
  | 10 => 1 * 2 ^ 112 + k * 2 ^ 79 + (if k = 0 then 1 * 2 ^ 44 else 2 * 2 ^ 108)
  | _ => 0)

theorem witness_MoveIssue :
    let x : Cell := { units := { move := List.replicate 7 (op (moveWord 1 0)) } }
    ∀ e ∈ [(1, 0), (2, 0), (3, 0), (4, 0), (5, 0), (6, 0), (7, 0), (9, 0), (8, 0), (8, 1), (8, 2), (8, 3), (8, 4), (8, 5), (10, 0),
      (10, 1), (10, 2)],
      let w := moveWord e.1 e.2
      moveLegal w = true ∧ Issues (cellState w x) 0 w 4 e.1 ∧ (issuer (cellState w x) 0).units.move.length < 8 ∧
        (e.1 = 8 → wf w 23 20 = e.2) ∧ (e.1 = 10 → wf w 80 79 = e.2) := by
  simp only [issues_iff]; decide +kernel

/-- A pass of one BF16 activation row and one weight row of two elements, in mode 0. -/
def mpassWord (rest : Nat) : InsnWord := word 1 1 (1 * 2 ^ 112 + 2 * 2 ^ 108 + rest)

def passCell : Cell := { d := [(1, desc 0 1 2 4 1 1), (2, desc 64 1 2 4 1 1)] }

theorem witness_MatrixIssue :
    let w := mpassWord 0
    let bad := mpassWord (1 * 2 ^ 93 + 1 * 2 ^ 95)
    let x : Cell := { passCell with units := { matrix := List.replicate 3 ⟨op w, false⟩ } }
    (mpassLegal w = true ∧ Issues (cellState w x) 0 w 1 1 ∧ mpassCheck (issuer (cellState w x) 0) w = .inr (2, 1, false) ∧
      (issuer (cellState w x) 0).units.matrix.length < 4) ∧
    (mpassLegal bad = true ∧ Issues (cellState bad x) 0 bad 1 1 ∧ mpassCheck (issuer (cellState bad x) 0) bad = .inl 0x0106) := by
  simp only [issues_iff]; decide +kernel

theorem witness_SyncIssue :
    let x : Cell := { units := { sync := List.replicate 3 (op (word 5 1 0)) } }
    ∀ k ∈ [1, 2, 3, 4, 5],
      let w := word 5 k (if k = 4 ∨ k = 5 then 31 * 2 ^ 90 else 65535 * 2 ^ 95)
      syncLegal w = true ∧ Issues (cellState w x) 0 w 5 k ∧ (issuer (cellState w x) 0).units.sync.length < 4 := by
  simp only [issues_iff]; decide +kernel

/-- A WAIT without a TIMEOUT of its own or of its context waits for BELL_CTL's 1,000 µs, 3,000,000 cycles (R305). -/
theorem test_wait_timeout : let w := word 5 2 (7 * 2 ^ 95 + 1 * 2 ^ 58)
    (cellAt (ran (exec (.wait 0 clean) (cellState w))) 0).seq.wait.map (fun v => (v.id, v.target, v.expires)) =
      some (7, 1#32, 3000000) := by decide +kernel

/-! ### Units of a cell -/

/-- A check of a store line that is clean. -/
def cleanHit : Hit := ⟨.store, 0, 0, .clean⟩

def noLine : LineHit := ⟨0, .clean⟩

theorem witness_WeightLoad :
    let w := mpassWord 0
    let s := withCell { passCell with units := { matrix := [⟨op (mpassWord (1 * 2 ^ 93)) passCell, false⟩, ⟨op w passCell, false⟩] } }
    cleanHit.ecc ≠ .uncorrectable ∧ (issuer s 0).units.matrix[(1#2).toNat]? = some ⟨op w passCell, false⟩ ∧ mpKeep w = false ∧
    (∀ e ∈ (issuer s 0).units.matrix.take (1#2).toNat, mpKeep e.op.word = true ∨ shareArray e.op.word w = false) ∧
    (arraysHeld w = [0] ∧ 3 ∉ arraysHeld w) := by decide +kernel

/-- WEIGHT_LOAD_START of one row of two BF16 weights loads its two elements into the first column (R123). -/
theorem test_weight_load :
    let s := withCell { passCell with
      store := [(0, 0x80#8), (1, 0x3F#8), (3, 0x40#8)], units := { matrix := [⟨op (mpassWord 0) passCell, false⟩] } }
    let a := arrayAt (cellAt (ran (exec (.weightLoadStart 0 0 cleanHit) s)) 0) 0
    (a.standby.loaded, a.standby.k, a.standby.n, (a.standby.cols.map (fun c => c.map (fun e => e.1))), a.active.loaded) =
      (true, 2, 1, [[0x3F80, 0x4000]], false) := by decide +kernel

def feedOp : MatrixOp := ⟨op (mpassWord (1 * 2 ^ 89)) passCell, true⟩

/-- A FINISH pass whose weights stand ready, and a finished tile of the last accumulator row. -/
def feedState : State := withCell { passCell with
  arrays := [(0, { standby := { loaded := true, k := 2, n := 1, elem := 1, cols := [[(0x3F80, 127), (0x4000, 127)]] } })]
  units := { matrix := [feedOp], ftq := [BitVec.ofNat 64 (2 ^ 21 + 2 ^ 10 + 1023)] } }

theorem witness_PassFeed : cleanHit.ecc ≠ .uncorrectable ∧ (issuer feedState 0).units.matrix[(0#2).toNat]? = some feedOp ∧
    (mpKeep feedOp.op.word = true ∨ feedOp.loaded = true) ∧
    (∀ e ∈ (issuer feedState 0).units.matrix.take (0#2).toNat, shareArray e.op.word feedOp.op.word = false) ∧
    (mpFinish feedOp.op.word = true ∧ entriesDue (issuer feedState 0).units < 2) ∧
    (issuer feedState 0).units.ftq.all (fun e => !rectsMeet (entryRects e) (tileRects (mpMode feedOp.op.word)
      (mpArray feedOp.op.word) (mpBase feedOp.op.word) (feedOp.op.tile (mpAd feedOp.op.word)).rows
      (arrayAt (issuer feedState 0) 0).standby.n)) = true := by
  decide +kernel

/-- A pass of one vector whose only product is 1.0 × 1.0. -/
def onePass : Pass :=
  ⟨op (mpassWord (1 * 2 ^ 89)) passCell, 2, 1, false, 1, [[(0x3F80, 127), (0, 127)]],
    [{ loaded := true, k := 2, n := 1, elem := 1, cols := [[(0x3F80, 127), (0, 127)]] }], 0, false⟩

def passState : State := withCell { passCell with units := { passes := [onePass] } }

theorem witness_Accumulate : cleanHit.ecc = .clean ∧ (issuer passState 0).units.passes = onePass :: [] ∧
    (checkAll (0 : LCell).toNat (cellOfL passState 0) onePass none ((onePass.targets onePass.next).foldl
      (fun s v => updCell s (cellOfL passState 0) (fun x => accumulateVector onePass none x v)) passState)).2 = none ∧
    (issuer (withCell { units := { finishing := [1#64] } }) 0).units.finishing = 1#64 :: [] := by decide +kernel

/-- 1.0 × 1.0 added to an accumulator at zero is FP32 1.0 (R100 to R103), and the FINISH pass has its entry to place. -/
theorem test_accumulate :
    let t := ran (exec (.accumulatorWrite 0 0 cleanHit none) passState)
    sGet 0#32 (cellAt t 0).acc 0 = 0x3F800000#32 ∧ (cellAt t 0).units.passes = [] ∧ (cellAt t 0).units.finishing.length = 1 := by
  decide +kernel

/-- VENQ, ADROP, and a VMOV of two FP32 elements from one tile to another. -/
theorem witness_VectorStart :
    let e := BitVec.ofNat 64 (1 * 2 ^ 21 + 1024 * 2 ^ 10)
    let venq := op (word 2 0x38 (3 * 2 ^ 52)) { x := [(3, e)] }
    let adrop := op (word 2 0x39 0)
    let x : Cell := { d := [(1, desc 0 1 2 8 1 0), (2, desc 64 1 2 8 1 0)] }
    let vmov := op (word 2 0x01 (0x12 * 2 ^ 110 + 0x11 * 2 ^ 104)) x
    let s := withCell { x with units := { vector := [vmov] } }
    let y := issuer (popVector 0 s) 0
    cleanHit.ecc = .clean ∧
    (venqOk (xGet venq.x (wf venq.word 55 52)) = true ∧
      entriesDue (issuer (withCell { units := { vector := [venq], ftq := [e] } }) 0).units < 2) ∧
    (vOp adrop.word = 0x39 ∧ (issuer (withCell { units := { vector := [adrop], ftq := [e] } }) 0).units.ftq ≠ []) ∧
    (vecShape (vOp vmov.word) = some (1, true) ∧ vOp vmov.word ≠ 0x38 ∧ vOp vmov.word ≠ 0x39 ∧
      (∃ vs d, vecSourceList y vmov (vSources vmov.word) = .inr vs ∧ vs.all (sourceFormatOk (vOp vmov.word) (vCt vmov.word)) = true ∧
        vecDest y vmov vs = .inr d ∧
        Nat.land (vecCompute false 0#128 vmov vs d).allFlags.toNat (effField s (regInst aVecCtl (regionOf 0)) 7 0) = 0) ∧
      (vSources vmov.word).any (fun sp => sp / 16 == 3) = false ∧ ctxAt s 1 = { st := .unparked }) := by
  refine ⟨by decide +kernel, by decide +kernel, by decide +kernel, by decide +kernel, by decide +kernel, by decide +kernel,
    ⟨_, _, rfl, by decide +kernel, rfl, by decide +kernel⟩, by decide +kernel, by decide +kernel⟩

/-- VEC_ADD of FP32 1.0 and 2.0 writes 3.0 (R214). -/
theorem test_vec_add :
    let x : Cell := { d := [(1, desc 0 1 1 4 1 0), (2, desc 4 1 1 4 1 0), (3, desc 8 1 1 4 1 0)] }
    let o := op (word 2 0x10 (0x13 * 2 ^ 110 + 0x11 * 2 ^ 104 + 0x12 * 2 ^ 98)) x
    let s := withCell { x with store := [(2, 0x80#8), (3, 0x3F#8), (7, 0x40#8)], units := { vector := [o] } }
    storeBytes (cellAt (ran (exec (.vecStart 0 cleanHit) s)) 0) 8 4 = [0#8, 0#8, 0x40#8, 0x40#8] := by decide +kernel

theorem witness_MoveStart :
    let go : UnitOp → Cell → State := fun o x => withCell { x with units := { x.units with
      move := [o], flights := List.replicate 3 ⟨op (moveWord 1 0), .copy, 0x20000, [], none⟩ } }
    let ops : List UnitOp := [op (moveWord 2 0), op (moveWord 5 0), op (moveWord 6 0), op (moveWord 1 0), op (moveWord 4 0)]
    (∀ o ∈ ops, cleanHit.ecc = .clean ∧ ownerOf (go o {}) (blockOf (0 : LCell).toNat) = some 1 ∧
      (issuer (go o {}) 0).units.move = o :: [] ∧ (issuer (go o {}) 0).units.flights.length < 4 ∧ postBell o.word = none) ∧
    (let o := op (moveWord 2 0) { x := [(1, 0x7FF80#64)] }
     classOp o.word = (4, 2) ∧ (ringAt (issuer (go o {}) 0) (wf o.word 54 52)).defined = false ∧ wf o.word 51 44 ≠ 0 ∧
      (xGet o.x (wf o.word 43 40)).toNat + wf o.word 51 44 * wf o.word 39 24 * 64 ≤ storeSize) ∧
    (let s := go (op (moveWord 5 0)) { rings := [(0, { defined := true, slots := 2, slotSz := 1 })] }
     classOp (moveWord 5 0) = (4, 5) ∧ (ringAt (issuer s 0) 0).defined = true) ∧
    (let s := go (op (moveWord 6 0)) { rings := [(0, { defined := true, slots := 2, slotSz := 1, returned := 1 })] }
     classOp (moveWord 6 0) = (4, 6) ∧ freesDue (issuer s 0) 0 < (ringAt (issuer s 0) 0).returned) := by decide +kernel

/-- A MOVE of the last 64 bytes of the store to its first, and a push of 64 bytes to a ring of cell 1. -/
theorem witness_MoveStart_copies :
    let x : Cell := { d := [(1, desc (0x80000 - 64) 1 64 64 1 3), (2, desc 0 1 64 64 1 3)],
                      handles := [(0, ⟨true, 1, 0, 1⟩)] }
    let y : Cell := { rings := [(0, { defined := true, base := 0, slots := 2, slotSz := 1, nextFill := 1 })] }
    let mv := op (moveWord 1 0) x
    let push := op (moveWord 4 0) x
    let s : State := { withCell x with cells := [(0, x), (1, y)] }
    let a := mv.tile (wf mv.word 115 112)
    let b := mv.tile (wf mv.word 111 108)
    (classOp mv.word = (4, 1) ∧ wf mv.word 107 105 = 0 ∧ wf mv.word 104 102 = 0 ∧ wf mv.word 81 81 = 0 ∧
      a.ok (spaceSize 0) = true ∧ b.destOk (spaceSize 0) = true ∧ a.rows = b.rows ∧ a.cols = b.cols ∧ a.code = b.code ∧
      ((a.scale == 0) = (b.scale == 0)) ∧ a.fmt.scaled = false ∧ a.overlaps b = false ∧
      routeDown s (regionOf (0 : LCell).toNat) (Space.region ⟨0, 0⟩) = false) ∧
    (classOp push.word = (4, 4) ∧ wf push.word 81 81 = 0 ∧ (handleAt x 0).bound = true ∧ (handleAt x 0).credits ≠ 0 ∧
      (push.tile (wf push.word 115 112)).ok storeSize = true ∧
      (packedBytes (push.tile (wf push.word 115 112)) (readStore x)).length ≤ 64 * (ringAt (cellAt s (physOf s 1)) 0).slotSz ∧
      routeDown s (regionOf (0 : LCell).toNat) (regionOf 1) = false ∧ physOf s 1 ≠ 0) := by decide +kernel

theorem witness_MoveComplete :
    let go : Flight → Cell → State := fun f x => withCell { x with units := { x.units with flights := [f] } }
    let copy : Flight := ⟨op (moveWord 1 0), .copy, 1, [byteWrite (.store 0) 5 9], none⟩
    let imload : Flight := ⟨op (moveWord 7 0), .imload 0 1, 0x20001, [], none⟩
    let rwait : Flight := ⟨op (moveWord 5 0), .rwait 0 1, 0x30000, [], none⟩
    let rfree : Flight := ⟨op (moveWord 6 0), .rfree 0 none, 0x30000, [], none⟩
    let rdef : Flight := ⟨op (moveWord 2 0), .rdef, 0x30000, [], none⟩
    (∀ f ∈ [copy, imload, rwait, rfree, rdef], ownerOf (go f {}) (blockOf (0 : LCell).toNat) = some 1 ∧
      (issuer (go f {}) 0).units.flights[(0#2).toNat]? = some f ∧ heldBack (issuer (go f {}) 0).units.flights (0#2).toNat = false) ∧
    copy.dest ≠ 0x20000 ∧ wf rdef.op.word 51 44 ≠ 0 ∧
    (let g : Ring := { defined := true, slots := 2, slotSz := 1, filled := [(1, 0), (2, 0)], returned := 1 }
     let s := go rwait { rings := [(0, g)] }
     (ringAt (issuer s 0) 0).returned < (ringAt (issuer s 0) 0).filled.length) := by decide +kernel

/-- RWAIT returns the address of the oldest filled slot that none has returned: base 128 and the second slot of 64 bytes. -/
theorem test_rwait :
    let g : Ring := { defined := true, base := 128, slots := 2, slotSz := 1, filled := [(1, 0), (2, 0)], returned := 1 }
    let s := withCell { rings := [(0, g)], units := { flights := [⟨op (moveWord 5 0), .rwait 0 1, 0x30000, [], none⟩] } }
    (cellAt (ran (exec (.moveComplete 0 0 noLine .none) s)) 0).x = [(1, 192#64)] := by decide +kernel

theorem witness_RingsAndCredits :
    let go : FlightKind → Cell → State := fun k x => withCell { x with units := { x.units with flights := [⟨op (moveWord 4 0), k, 2, [], none⟩] } }
    let g : Ring := { defined := true, slots := 2, slotSz := 1, filled := [(1, 0)] }
    (∀ k ∈ [FlightKind.push 0 0 1 false, .rfree 0 (some (1, 0)), .rconn 0 0 0],
      (issuer (go k {}) 0).units.flights[(0#2).toNat]? = some ⟨op (moveWord 4 0), k, 2, [], none⟩) ∧
    (let s := go (.push 0 0 1 false) { rings := [(0, g)] }
     (ringAt (cellAt s (physOf s 0)) 0).filled.length < (ringAt (cellAt s (physOf s 0)) 0).slots) ∧
    (let s := go (.rconn 0 0 0) { rings := [(0, g)] }
     (ringAt (cellAt s (physOf s 0)) 0).defined = true ∧ (handleAt (issuer s 0) 0).bound = false) := by decide +kernel

theorem witness_AtomicApply :
    let o := op (moveWord 8 0) { d := [(2, desc 0 1 2 4 1 0)] }
    let f : Flight := ⟨o, .atom [1, 2] [] [7] 0#8, 0, [], none⟩
    let s := withCell { units := { flights := [f] } }
    (issuer s 0).units.flights[(0#2).toNat]? = some f ∧ ownerOf s (blockOf (0 : LCell).toNat) = some 1 ∧ [7].length < atomUnits o ∧
    atomWaits s 1 ((issuer s 0).units.flights.take (0#2).toNat) (atomDie s 1 o [7].length) = false ∧
    (let q : GateOp := ⟨4, 1, 0, op (moveWord 9 0), 3, 0, 0, 0, 0, 0, 0, 0, [], 0, [], [], none⟩
     gateOp { s with gate := { ops := [q] } } 4 = some q ∧ q.fn = 3) := by decide +kernel

/-! ### Bells and lines -/

/-- Context 1 owns bell 0 of region 0 and line 0; cell 0's sync unit holds the operation. -/
def syncState (o : UnitOp) (line : Line := {}) : State :=
  { withCell { units := { sync := [o] } } with
    ctxs := [(1, { st := .unparked, desc := { bells := [2 ^ 16], lines := 2 ^ 5 } })]
    sync := { lines := if line = {} then [] else [(0, line)] } }

theorem witness_SyncStart :
    (∀ k ∈ [1, 2, 3, 4, 5], let o := op (word 5 k 0)
      ownerOf (syncState o) (blockOf (0 : LCell).toNat) = some 1 ∧ (issuer (syncState o) 0).units.sync = o :: [] ∧
      classOp o.word = (5, k) ∧ ownsBell (syncState o) 1 (syncBell o) = true ∧
      routeDown (syncState o) (regionOf (0 : LCell).toNat) (syncBell o / 16384) = false) ∧
    (let s := syncState (op (word 5 4 0)) { mask := [(0, true), (17, true)] }
     ownsLine s 1 0 = true ∧ sGet false (lineAt s 0).mask (lineBit s 1 0) = true ∧
      sGet false (lineAt s 0).arrived (lineBit s 1 0) = false ∧ sGet false (lineAt s 0).latch (lineBit s 1 0) = false ∧
      (lineAt s 0).latchDue = false) ∧
    (let s := syncState (op (word 5 5 0)) { mask := [(0, true)], latch := [(0, true)] }
     ownsLine s 1 0 = true ∧ sGet false (lineAt s 0).mask (lineBit s 1 0) = true ∧
      sGet false (lineAt s 0).latch (lineBit s 1 0) = true) := by decide +kernel

/-- A bell operation stands first on its way to bell 5, whose count is as given. -/
def bellState (k : BellOpKind) (n : BitVec 32) (ws : List Waiter := []) : State :=
  { State.reset with sync := { bells := [(5, { count := n, waiters := ws })], ops := [⟨5, k, some 3, 1, 0, 0#128⟩] } }

/-- The greatest POST that is valid; a WAIT just reached, one that is not, at the greatest distance on each side; a TAKE. -/
theorem witness_BellApply :
    (∀ e ∈ [(BellOpKind.post 0x7FFFFFFF#32, 7#32), (.wait 7#32, 7#32), (.wait 0x80000006#32, 7#32), (.take, 1#32), (.take, 0#32)],
      let s := bellState e.1 e.2
      s.sync.ops[(0#16).toNat]? = some ⟨5, e.1, some 3, 1, 0, 0#128⟩ ∧
      (s.sync.ops.take (0#16).toNat).any (fun q => q.cell == some 3 && q.bell == 5) = false ∧ (bellAt s 5).bad = false) ∧
    (0x7FFFFFFF#32).toNat < 2 ^ 31 ∧ reached 7#32 7#32 = true ∧ reached 7#32 0x80000006#32 = false ∧
    (0x80000006#32 - 7#32).toNat ≠ 2 ^ 31 ∧ reached 1#32 1#32 = true ∧ reached 0#32 1#32 = false := by decide +kernel

/-- The first example of chapter 09: two cells wait for 1, and one POST(1) releases both. -/
theorem test_post_releases_waiters :
    let t := ran (exec (.bellOpApply 0 .clean) (bellState (.post 1#32) 0#32 [⟨10, false, 1#32⟩, ⟨11, false, 1#32⟩]))
    t.sync.releases = [10, 11] ∧ (bellAt t 5).count = 1#32 ∧ (bellAt t 5).waiters = [] := by decide +kernel

/-- The second example: two cells take, and one POST(1) releases the first only. -/
theorem test_post_serves_one_take :
    let t := ran (exec (.bellOpApply 0 .clean) (bellState (.post 1#32) 0#32 [⟨10, true, 0#32⟩, ⟨11, true, 0#32⟩]))
    t.sync.releases = [10] ∧ (bellAt t 5).count = 0#32 ∧ (bellAt t 5).waiters = [⟨11, true, 0#32⟩] := by decide +kernel

theorem witness_PostServesWaiters :
    let s := bellState (.post 3#32) 0#32 [⟨10, false, 9#32⟩, ⟨11, true, 0#32⟩, ⟨12, true, 0#32⟩, ⟨13, true, 0#32⟩, ⟨14, true, 0#32⟩]
    let t := bellPost 5 3#32 s
    (bellAt t 5).waiters = [⟨10, false, 9#32⟩, ⟨14, true, 0#32⟩] ∧ bellAt t 6 = bellAt s 6 := by decide +kernel

/-- Cell 0 waits for bell 5 to reach 1. -/
def waitOf : PendingWait := ⟨false, false, 5, 1#32, 0, 3000000, false, 0, 0, word 5 2 0⟩

def waitState : State := { withCell { seq := { running := true, wait := some waitOf } } with
  sync := { releases := [0], cancels := [] } }

theorem witness_WaitsEnd :
    (waitState.sync.releases[(0#16).toNat]? = some 0 ∧ (cellAt waitState (physOf waitState 0)).seq.wait = some waitOf ∧
      waitOf.gated = false ∧ waitState.pwr.loans.find? (fun e => e.1 == 0) = none) ∧
    (waitState.sync.cancels.any (fun e => e.1 == (0 : LCell).toNat) = false) ∧
    (let s : State := { waitState with sync := { cancels := [(0, 7)] } }
     s.sync.cancels[(0#16).toNat]? = some (0, 7) ∧ (cellAt s (physOf s 0)).seq.wait = some waitOf ∧ waitOf.isLine = false ∧
      syncQuiet s 0 = true ∧ (bellAt s waitOf.id).waiters.any (fun v => v.cell == 0) = false) ∧
    (effField waitState aBellCtl 47 40 ≠ 0 ∧ (issuer waitState 0).units.sync = [] ∧
      waitState.sync.ops = [] ∧ matrixQuiet (issuer waitState 0).units = true ∧
      (issuer waitState 0).units.vector = [] ∧ moveQuiet (issuer waitState 0).units = true) := by decide +kernel

/-- An ARRIVED message of line key 9, epoch 2 and the given phase, from member 1. -/
def arrivedMsg (phase : Nat) : InMsg :=
  ⟨3, 0, 3, [1#8, 1#8] ++ natLe 2 1 ++ natLe 4 9 ++ natLe 2 2 ++ natLe 2 phase ++ natLe 4 0 ++ natLe 8 0, 0⟩

def lineState (phase : Nat) : State :=
  { syncState (op (word 5 4 0)) { phase := 0xFFFF#16, epoch := 2#16, members := 2, key := 9#32, mask := [(0, true)], latchDue := true,
                                  nodes := [0, 4] } with
    link := { inbox := [arrivedMsg phase] } }

/-- The phase of the line is the greatest, and the next one is 0. -/
theorem witness_LineMessages : ∀ phase ∈ [0xFFFF, 0],
    let s := lineState phase
    let m := arrivedMsg phase
    lineOwner s (0 : BitVec 5).toNat = some 1 ∧ (lineAt s 0).latchDue = true ∧
    (∀ k ∈ lineCells s 1 (lineAt s 0), (cellAt s (physOf s k)).seq.wait = none) ∧ ctlMsg s (0#16).toNat 3 1 = some m ∧
    (List.range 32).find? (fun l => decide ((lineAt s l).members ≥ 2 ∧ (lineAt s l).key.toNat = fieldAt m.bytes 4 4) &&
      (match lineOwner s l with | some c => decide ((ctxAt s c).st = .unparked) | none => false)) = some 0 ∧
    (lineAt s 0).refused = false ∧ fieldAt m.bytes 8 2 = (lineAt s 0).epoch.toNat ∧
    (BitVec.ofNat 16 (fieldAt m.bytes 0xA 2) = if phase = 0 then (lineAt s 0).phase + 1#16 else (lineAt s 0).phase) := by
  decide +kernel

/-! ### Memories -/

theorem witness_Scrubbing :
    ((4351#13).toNat < 4352 ∧ effField State.reset (regInst aCellCtl ((4351#13).toNat / 17 / 64)) 16 16 = 1) ∧
    (7#3).toNat ∉ State.reset.flt.linksDown ∧
    (let s : State := { State.reset with flt := { replays :=
        [(replayKey 3 true 0, 3), (replayKey 3 true 1, 2), (replayKey 3 true 2, 1)] } }
     (3#3).toNat < 4 ∧ (3#3).toNat ∉ s.flt.linksDown ∧ sGet 0 s.flt.replays (replayKey 3 true 2) ≠ 0 ∧
      sGet 0 s.flt.replays (replayKey 3 true 1) < 3 ∧ sGet 0 s.flt.replays (replayKey 3 true 0) + 1 < 5) ∧
    effField State.reset (regInst aSqCtl 7) 0 0 = 1 ∧
    sGet false [(hbmKey 7 0 / 64, true)] (hbmKey (7#3).toNat (64 * (dieAt State.reset 7).scrubLine) / 64) = true := by decide +kernel

/-- A row of stack 7, in the frame that the default map gives its first bytes to. -/
def rowState (r : Row) : State :=
  { State.reset with mem := { rows := [(rowKey 7 0, r)], retiring := [(286720, true)] } }

theorem witness_MemoryRepair :
    (rowAt (rowState { copying := true, slot := true, state := .remapped1 }) (rowKey (7#3).toNat (0#37).toNat)).copying = true ∧
    (let s := rowState { slot := true, state := .remapped1 }
     (rowAt s (rowKey (7#3).toNat (0#37).toNat)).state = .remapped1 ∧ (rowAt s (rowKey (7#3).toNat (0#37).toNat)).copying = false ∧
      effField s (regInst aSqCtl (7#3).toNat) 2 2 = 1 ∧ holdersOfStack s (7#3).toNat = [] ∧
      sGet 0 (dieAt s (7#3).toNat).hpprUsed (pcOf (0#37).toNat * 64 + bankOfBlock ((0#37).toNat / 65536)) < 2) ∧
    (let s := rowState { state := .retired }
     paOf s (7#3).toNat (0#37).toNat = some (286720 * 2 ^ 21 + 2 ^ 12) ∧ sGet false s.mem.retiring 286720 = true ∧
      mappers s 286720 = [] ∧ (rowAt s (rowKey (7#3).toNat (0#37).toNat)).state = .retired) ∧
    (15#4).toNat ∈ (dieAt { State.reset with mem := { dies := [(7, { clearing := [15] })] } } (7#3).toNat).clearing := by
  decide +kernel

/-- A margining run of stack 7 over channels 0 and 63. -/
def memMarginJob : Job := ⟨3, .session 1 0 0, 0x0702, 0, 0, 0, [7#8, 1#8] ++ natLe 6 0 ++ natLe 8 (2 ^ 63 + 1), 0, 0, [1], []⟩

theorem witness_MemoryService :
    (let s : State := { State.reset with jobs := [memMarginJob] }
     (7#3).toNat % 4 ≠ 0 ∧ (jobsOf s 0x0702 0).find? (fun j => j.field 0 1 == (7#3).toNat) = some memMarginJob ∧
      memMarginJob.field 8 8 / 2 ^ 63 % 2 = 1) ∧
    (let j : Job := { memMarginJob with opcode := 0x0402 }
     jobsOf { State.reset with jobs := [j] } 0x0402 0 = j :: []) := by decide +kernel

/-! ### Commands -/

theorem with_first {α β : Type} {a : α} {x : α × β} (h : x.1 = a) : x = (a, x.2) := by rw [← h]

/-- A command packet (R459) with TAG 7 and SEQ 1. -/
def packet (op ctx : Nat) (pl : List Byte) : List Byte :=
  natLe 2 op ++ natLe 2 0 ++ natLe 2 ctx ++ natLe 2 pl.length ++ natLe 4 7 ++ natLe 4 0 ++ natLe 8 1 ++ natLe 8 0 ++ pl

def cmdFor (op ctx : Nat) (pl : List Byte) : Cmd := cmdOf (.session 1 0 0) (packet op ctx pl)

/-- Ozmin runs, and its queue is empty. -/
def asked (s : State) : State := { s with oz := { s.oz with running := true, queue := [] } }

/-- Ozmin runs, and one command of session 1 waits in its queue. -/
def asks (op ctx : Nat) (pl : List Byte) (s : State) : State :=
  { s with oz := { s.oz with running := true, queue := [⟨.session 1 0 0, packet op ctx pl⟩] } }

/-- The command reaches Ozmin in a state made from s, and P holds of it and the state in which it is decided. -/
def Meets (op ctx : Nat) (pl : List Byte) (s : State) (P : State → Cmd → Prop) : Prop :=
  Reaches op (.queued 0) (asks op ctx pl s) (asked s) (cmdFor op ctx pl) ∧ P (asked s) (cmdFor op ctx pl)

theorem meets {op ctx : Nat} {pl : List Byte} {s : State} {P : State → Cmd → Prop}
    (h : (cmdFor op ctx pl).opcode = op ∧ mustWait (cmdFor op ctx pl) [] (asks op ctx pl s) = false)
    (hp : P (asked s) (cmdFor op ctx pl)) : Meets op ctx pl s P := by
  refine ⟨fun go => ?_, hp⟩
  simp only [cmdFor, asks] at h
  have e : pktField (packet op ctx pl) 0 2 = op := h.1
  simp [command, takeQueued, asks, asked, routeAfter, cmdFor, h.1, h.2, e]

/-- Ring set 0 with one packet at the head of its normal ring and of its urgent ring; SEQ due is as given. -/
def ringState (bs : List Byte) (seq : Nat := 1) (kept : List Reply := []) : State :=
  let r : RingSet := { sqBase := 0x100000, uqBase := 0x200000, cqBase := 0x300000, slots := 64, rights := 0xFFFFFFFF, sqTail := 1,
                       uqTail := 1, sqSeq := seq, uqSeq := seq, kept := kept }
  poke (poke { State.reset with oz := { running := true, rings := [(0, r)] } } 0x100000 bs) 0x200000 bs

/-- PWR_CAP with no cap. -/
def capPacket : List Byte := packet 0x0901 0 (natLe 8 0)

def key1 : List Byte := List.replicate 32 1#8

/-- A datagram of session n with its tag (R470). -/
def datagram (n : Nat) (key bs : List Byte) : Datagram :=
  let b := natLe 4 n ++ [1#8, 1#8, 0#8, 0#8] ++ bs
  ⟨0, 0, b ++ hmac256 key b⟩

/-- Session 1 is open, and the management lane is up. -/
def sessionState : State :=
  { State.reset with oz := { running := true, sessions := [(1, { isOpen := true, key := key1, rights := 0xFFFFFFFF })] }
                     pins := { mgmtSpeed := 2 } }

theorem witness_RoutesDeliver :
    (∀ urgent ∈ [false, true],
      let s := ringState capPacket
      let bs := (ringPacket s 0 urgent).getD []
      let c := cmdOf (.ring 0 urgent) bs
      let s₁ := popRing 0 urgent c.seq s
      ringPacket s 0 urgent = some bs ∧ pktField bs 0 2 = 0x0901 ∧
      c.seq = (if urgent then (ringSet s 0).uqSeq else (ringSet s 0).sqSeq) ∧ tagCheck c s₁ = none ∧
      headerFault s₁ c (pktField bs 6 2) bs = none ∧ mustWait c s₁.oz.queue s₁ = false) ∧
    (let s := sessionState
     let d := datagram 1 key1 capPacket
     let bs := datagramBody d true
     let n := fieldAt d.bytes 0 4
     let c := cmdOf (.session n d.addr.toNat d.port.toNat) bs
     let s₁ := noteSeq n c.seq (regCount aMgmtRx 1 s)
     mgmtOn s = true ∧ datagramOk d = true ∧ datagramAuth s d = true ∧ c.opcode = 0x0901 ∧
      seqFresh (sessionAt s n) c.seq = true ∧ tagCheck c s₁ = none ∧ headerFault s₁ c (pktField bs 6 2) bs = none ∧
      mustWait c s₁.oz.queue s₁ = false) ∧
    (let s := asks 0x0901 0 (natLe 8 0) State.reset
     s.oz.running = true ∧ s.oz.queue[(0#16).toNat]? = some ⟨.session 1 0 0, capPacket⟩ ∧
      mustWait (cmdFor 0x0901 0 (natLe 8 0)) (s.oz.queue.take (0#16).toNat) s = false ∧ s.oz.queue.length = 1) := by
  decide +kernel

/-- Tails at the ring's size past the head and heads at the replies written, with counts that wrap. -/
theorem witness_RingDoorbells :
    let reply : Reply := ⟨7, 0, 0, 1, 0, false, 0, []⟩
    let r : RingSet := { slots := 64, sqHead := 0xFFFFFFFF, uqHead := 0xFFFFFFFF, cqHead := 0xFFFFFFFF, cqTail := 78, held := [reply] }
    let s : State := { State.reset with oz := { running := true, rings := [(0x3FFF, r)] } }
    ringSet s (0x3FFF#14).toNat = r ∧ r.slots ≠ 0 ∧ ((63#32).toNat + 2 ^ 32 - r.sqHead) % 2 ^ 32 ≤ r.slots ∧
    ((15#32).toNat + 2 ^ 32 - r.uqHead) % 2 ^ 32 ≤ 16 ∧
    ((78#32).toNat + 2 ^ 32 - r.cqHead) % 2 ^ 32 ≤ (r.cqTail + 2 ^ 32 - r.cqHead) % 2 ^ 32 ∧
    s.oz.running = true ∧ s.flt.safeHold = false ∧ r.held = reply :: [] ∧
    (r.cqTail + 2 ^ 32 - r.cqHead) % 2 ^ 32 < r.slots + 16 := by decide +kernel

theorem witness_CommandsAreAdmitted :
    let badFlags := natLe 2 0x0901 ++ natLe 2 4 ++ natLe 2 0 ++ natLe 2 8 ++ natLe 4 7 ++ natLe 4 0 ++ natLe 8 1 ++ natLe 8 0 ++ natLe 8 0
    let kept : Reply := ⟨7, 0, 0x0901, 1, 0, false, 0, []⟩
    (let s := ringState capPacket 2
     let bs := (ringPacket s 0 false).getD []
     ringPacket s 0 false = some bs ∧ (cmdOf (.ring 0 false) bs).seq ≠ (ringSet s 0).sqSeq) ∧
    (let s := ringState badFlags
     let bs := (ringPacket s 0 false).getD []
     let m := cmdOf (.ring 0 false) bs
     ringPacket s 0 false = some bs ∧ m.seq = (ringSet s 0).sqSeq ∧ tagCheck m (popRing 0 false m.seq s) = none ∧
      headerFault (popRing 0 false m.seq s) m (pktField bs 6 2) bs = some (stReserved, [2])) ∧
    (∀ retry ∈ [0, 1],
      let s := ringState capPacket 1 [kept]
      let c := { cmdOf (.ring 0 false) capPacket with flags := 2 * retry }
      (keptReplies s c.origin).find? (fun x => x.tag == c.tag) = some kept ∧ c.flags / 2 % 2 = retry) := by decide +kernel

/-! ### Contexts and sessions -/

/-- A descriptor image with rings of 16 slots and one bell run that ends at the last bell of region 3. -/
def descImage : List Byte :=
  natLe 16 0 ++ natLe 12 0 ++ natLe 4 (1 + 16383 * 2 ^ 16) ++ natLe 96 0 ++ natLe 4 16 ++ natLe 4 65536 ++ natLe 120 0

/-- Context 1 as given, with two blocks, a descriptor image at 1 MiB and a plan for two blocks at 2 MiB. -/
def ctxState (x : Ctx) : State :=
  poke (poke { withCell {} with ctxs := if x.st = .free then [] else [(1, x)] } 0x100000 descImage) 0x20000A (natLe 2 2)

theorem witness_ContextCommands :
    Meets 0x0101 1 (natLe 8 0x100000 ++ natLe 8 0) (ctxState {}) (fun s₁ c =>
      let r := readRegions noLine [(c.field 0 8, 256), (peekNat s₁ (c.field 0 8 + 0x68) 8, 0x40)] 0 s₁
      let bs := peek r.2 (c.field 0 8) 256
      (ctxAt s₁ c.ctx).st = .free ∧ (claimants s₁).length < 256 ∧ r.1 = none ∧ descFail r.2 c.ctx bs = none ∧
        almCreateFail r.2 (fieldAt bs 0x68 8) = none ∧ bellsMeet r.2 c.ctx (descOf bs) = false ∧
        linesMeet r.2 c.ctx (descOf bs) = false) ∧
    Meets 0x0102 1 (natLe 8 0 ++ natLe 8 4) (ctxState { st := .parked }) (fun s₁ c =>
      c.field 8 4 = 4 ∧ (ctxAt s₁ c.ctx).st = .parked ∧ transferring s₁ c.ctx = false) ∧
    Meets 0x0102 1 (natLe 8 1 ++ natLe 8 2) (ctxState { st := .unparked, desc := { saveSize := 2 ^ 26 } }) (fun s₁ c =>
      c.field 8 4 ≠ 4 ∧ (ctxAt s₁ c.ctx).st = .unparked ∧ (c.field 0 8 = 0 ∨ s₁.beat.gnum < c.field 0 8) ∧
        resharding s₁ c.ctx = false ∧ jobsOf s₁ 0x0102 c.ctx = [] ∧ saveTooSmall s₁ c.ctx (c.field 8 4 / 2 % 2 == 1) = false) ∧
    Meets 0x0103 1 (natLe 8 1) (ctxState { st := .stored, desc := { planA := 0x200000 } }) (fun s₁ c => unparkFault s₁ c = none) ∧
    (∀ op ∈ [0x0104, 0x0105], Meets op 1 (natLe 8 0) { ctxState { st := .parked } with sets := {} } (fun s₁ c =>
      (ctxAt s₁ c.ctx).st = .parked ∧ transferring s₁ c.ctx = false ∧ holdsAny s₁ c.ctx = false)) ∧
    Meets 0x0106 1 (natLe 8 0) (ctxState {}) (fun _ c => deniedOut c (c.field 0 8) = false) ∧
    Meets 0x0107 1 (natLe 0x20 0) (ctxState {}) (fun s₁ c => s₁.jobs = [] ∧ s₁.oz.queue = [] ∧ c.field 0x18 4 = 0) ∧
    Meets 0x0108 1 [] (ctxState { st := .parked, desc := { gwCount := 1 } }) (fun s₁ c =>
      (ctxAt s₁ c.ctx).st.resident = true ∧ (ctxAt s₁ c.ctx).desc.gwCount ≠ 0 ∧ jobsOf s₁ 0x0108 c.ctx = [] ∧
        (∀ op ∈ writingOps, jobsOf s₁ op c.ctx = []) ∧ (∀ j ∈ jobsOf s₁ 0x0102 c.ctx, j.phase ≠ 1)) ∧
    Meets 0x0401 1 (natLe 8 0 ++ natLe 8 1) (ctxState { st := .stored }) (fun s₁ c =>
      let x := ctxAt s₁ c.ctx
      let ps := (List.range (c.field 8 4)).map (fun k =>
        512 * granaryIndex x ((c.field 0 8 / 2 ^ 21 + k) / 512) + (c.field 0 8 / 2 ^ 21 + k) % 512)
      let r := readRegions noLine (xlateRegions s₁ c.ctx (distinct (ps.map (fun p => p / 512)))) 0 s₁
      (x.st = .parked ∨ x.st = .stored) ∧ r.1 = none ∧ (match readPages r.2 c.ctx ps with
        | .inr m => !m.any (fun e => e.2.kind != 2 && frameShared r.2 c.ctx e.2.frame)
        | .inl _ => false) = true) := by
  refine ⟨meets (by decide +kernel) (by decide +kernel), meets (by decide +kernel) (by decide +kernel), meets (by decide +kernel) (by decide +kernel),
    meets (by decide +kernel) (by decide +kernel), ?_, meets (by decide +kernel) (by decide +kernel),
    meets (by decide +kernel) (by decide +kernel), meets (by decide +kernel) (by decide +kernel),
    meets (by decide +kernel) (by decide +kernel)⟩
  intro op h
  simp only [List.mem_cons, List.not_mem_nil, or_false] at h
  rcases h with rfl | rfl
  · exact meets (by decide +kernel) (by decide +kernel)
  · exact meets (by decide +kernel) (by decide +kernel)

/-- A job of session 1 for context 1 with zeros for a payload. -/
def someJob (op phase : Nat) : Job := ⟨3, .session 1 0 0, op, 0, 0, 1, natLe 32 0, 0, phase, [], []⟩

theorem witness_ParkAndPrepare :
    (let s : State := { ctxState { st := .parked } with jobs := [someJob 0x0102 1] }
     (jobsOf s 0x0102 (1#14).toNat).find? (fun j => j.phase == 1) = some (someJob 0x0102 1)) ∧
    (let s : State := { ctxState { st := .parked } with jobs := [someJob 0x0103 0] }
     (jobsOf s 0x0103 (1#14).toNat).find? (fun j => j.phase == 0) = some (someJob 0x0103 0) ∧ ∀ n < 8, (dieAt s n).clearing = []) := by
  decide +kernel

/-- A transfer of session 1 of four bytes, all sent. -/
def someXfer : Xfer := ⟨1, 0, 0, 9, 4, 3, 0, [], [1#8, 2#8, 3#8, 4#8], 4, 2, 0⟩

def xferState : State := { sessionState with oz := { sessionState.oz with xfers := [someXfer] } }

theorem witness_Sessions :
    (let s := sessionState
     let d : Datagram := ⟨0, 0, natLe 4 0 ++ [1#8, 1#8, 0#8, 0#8] ++ packet 0x0A01 0 (natLe 16 77)⟩
     let bs := datagramBody d false
     let c := cmdOf (.session 0 d.addr.toNat d.port.toNat) bs
     mgmtOn s = true ∧ datagramOk d = true ∧ fieldAt d.bytes 0 4 = 0 ∧ c.opcode = 0x0A01 ∧ openFault c bs 16 = none) ∧
    Meets 0x0A03 0 [] sessionState (fun _ _ => True) ∧
    Meets 0x0A08 0 (natLe 4 9 ++ natLe 4 0 ++ natLe 8 4) xferState (fun s₁ c =>
      xferOf (completeCmd c stOk s₁.beat.gnum [] [] s₁) c.sessionNum (c.field 0 4) = some someXfer ∧
        someXfer.acked < c.field 8 8 ∧ c.field 8 8 ≤ someXfer.sent ∧ c.field 8 8 = someXfer.data.length ∧ someXfer.kind ≠ 3) ∧
    (sessionAt sessionState (1#32).toNat).isOpen = true := by
  refine ⟨by decide +kernel, meets (by decide +kernel) trivial, meets (by decide +kernel) (by decide +kernel), by decide +kernel⟩

theorem witness_ManagementPort :
    mgmtOn sessionState = true ∧
    xferOf xferState (1#32).toNat (9#32).toNat = some someXfer ∧
    (2#2).toNat < 3 ∧ State.reset.pins.straps % 4 = 0 := by decide +kernel

/-- A neighbour solicitation is answered with MGMT_MAC (R488), and a fragment counts as a drop (R601). -/
theorem test_mgmt :
    (ran (exec (.mgmtDatagram (.solicit 5)) sessionState)).oz.sent = [⟨5, 0, true, natLe 6 (regGet sessionState aMgmtMac).toNat⟩] ∧
      (regGet (ran (exec (.mgmtDatagram .fragment) sessionState)) aMgmtDrops).toNat = 1 := by decide +kernel

/-- Cell 0 of context 1, which has a shard map at 4 MiB with lanes of three entries at 5 MiB; the lane's head and tail as given,
and an entry for index 9 in each slot. -/
def laneState (w : InsnWord) (x : Cell) (flags head tail : Nat) : State :=
  let entry := natLe 2 9 ++ natLe 2 0 ++ natLe 4 0 ++ natLe 8 0x1234
  let y : Ctx := { st := .unparked, desc := { shardA := 0x400000, bells := [2 ^ 16] }, run := { flags := flags } }
  let s : State := { cellState w x with ctxs := [(1, y)] }
  poke (poke (poke s 0x40000A (natLe 2 3)) 0x400028 (natLe 8 0x500000)) 0x500000
    (natLe 4 head ++ natLe 4 tail ++ natLe 56 0 ++ entry ++ entry ++ entry)

/-- A lane with its last place free and with wrapped counts; an empty lane; a full lane; a bell just reached; a cell that has
issued YIELD and is quiet. -/
theorem witness_DeferredLanes :
    let push := word 0 0x15 (2 * 2 ^ 108)
    let pop := word 0 0x16 (3 * 2 ^ 112)
    let test := word 0 0x17 (regs3 1 2 3)
    clean.imem ≠ .uncorrectable ∧ clean.data ≠ .uncorrectable ∧ controlLegal push = true ∧ controlLegal pop = true ∧
    controlLegal test = true ∧
    (let s := laneState push {} 0 0xFFFFFFFF 1
     let lane := laneOf s ((ownerOf s (blockOf 0)).getD 0) 0
     Issues s 0 push 0 0x15 ∧ lane.1 ≠ 0 ∧ laneCount s lane.2 < lane.1) ∧
    (let s := laneState pop {} 2 7 7
     let lane := laneOf s ((ownerOf s (blockOf 0)).getD 0) 0
     Issues s 0 pop 0 0x16 ∧ laneCount s lane.2 = 0) ∧
    (let s := laneState pop {} 2 7 10
     let ctx := (ownerOf s (blockOf 0)).getD 0
     let lane := laneOf s ctx 0
     let r := physRead (fetched s 0 clean) (lane.2 + 64 + 16 * (peekNat s lane.2 4 % lane.1)) 16 clean.data 0
     Issues s 0 pop 0 0x16 ∧ (ctxAt s ctx).run.flags / 2 % 2 = 1 ∧ lane.1 ≠ 0 ∧ laneCount s lane.2 ≠ 0 ∧ r.bad = none ∧
      r.st.cycle - r.st.beat.openAt + 16 * leNat ((r.bytes.drop 2).take 2) ≤ fillLimit r.st) ∧
    (let s := laneState test {} 0 0 0
     let ctx := (ownerOf s (blockOf 0)).getD 0
     let b := (raOf (issuer s 0) test).toNat % 65536
     Issues s 0 test 0 0x17 ∧ ownsBell s ctx b = true ∧ (bellAt s b).bad = false) ∧
    (let s := laneState 0#128 { seq := { yieldIssued := true } } 1 0 0
     let x := issuer s 0
     let ctx := (ownerOf s (blockOf 0)).getD 0
     let lane := laneOf s ctx 0
     x.seq.running = true ∧ x.seq.yieldIssued = true ∧ x.seq.yielded = false ∧ matrixQuiet x.units = true ∧
      x.units.vector = [] ∧ moveQuiet x.units = true ∧ syncQuiet s (0 : LCell).toNat = true ∧ (ctxAt s ctx).run.flags % 2 = 1 ∧
      laneCount s lane.2 = 0) := by
  simp only [issues_iff]; decide +kernel

/-- DQPOP takes the head entry: x3 is its VALUE and the cell goes on at its index (R360). -/
theorem test_dqpop :
    let t := ran (exec (.dqpop 0 clean) (laneState (word 0 0x16 (3 * 2 ^ 112)) {} 2 7 10))
    (cellAt t 0).x = [(3, 0x1234#64)] ∧ (cellAt t 0).seq.pc = 9 ∧ peekNat t 0x500000 4 = 8 := by decide +kernel

theorem witness_TrapDiscards :
    let w := word 0 0x14 0
    clean.imem ≠ .uncorrectable ∧ controlLegal w = true ∧ ∀ d ∈ [false, true],
      let s : State := { cellState w with ctxs := [(1, { st := .unparked, run := { discarded := d } })] }
      Issues s 0 w 0 0x14 ∧ ownerOf s (blockOf (0 : LCell).toNat) = some 1 ∧ (ctxAt s 1).st = .unparked ∧
        (ctxAt s 1).run.discarded = d := by
  simp only [issues_iff]; decide +kernel

/-! ### The beat -/

/-- An Elastic context 1 whose cell 0 has not yielded, at the last cycle before the guard point. -/
def elasticState : State :=
  { cellState 0#128 with ctxs := [(1, { st := .unparked, desc := { mode := 1 } })], cycle := 44999, beat := { deadline := 48000 } }

theorem witness_BeatBoundary :
    beatsRun State.reset = true ∧ State.reset.flt.safeHold = false ∧ unparked State.reset = [] ∧ beatRole State.reset = 0 ∧
    (let s : State := { State.reset with flt := { safeHold := true } }; beatsRun s = true ∧ s.flt.safeHold = true) ∧
    (let s := setField State.reset aBeatCtl 40 40 1
     beatsRun s = true ∧ s.flt.safeHold = false ∧ beatRole s = 0 ∧ regField s aBeatCtl 40 40 = 1 ∧ s.cycle < guardPoint s ∧
      ∀ c ∈ unparked s, partitionClosed s c = true) := by decide +kernel

/-- Reset's first boundary opens beat 1 at cycle 48,000, 16 µs on (R30, R490). -/
theorem test_beat_boundary :
    let t := ran (exec .beatBoundary State.reset)
    (t.beat.gnum, t.beat.count, t.beat.openAt, t.beat.deadline, t.cycle) = (1, 1, 48000, 96000, 48000) := by decide +kernel

/-- A message of the beat group stands in the inbox of a device of the given role, which has come by port 0. -/
def beatState (role type : Nat) (body : List Byte) : State :=
  { setField State.reset aBeatGroup 55 54 role with
    link := { inbox := [⟨0, 0, 2, natLe 1 type ++ natLe 1 1 ++ natLe 2 0 ++ natLe 4 6 ++ natLe 8 0 ++ body, 100⟩] } }

/-- The STRETCH at the guard point itself; the change of length for the next beat. -/
theorem witness_BeatLength :
    (let s := elasticState
     s.pins.inReset = false ∧ s.cycle < guardPoint s ∧ beatRole s = 0 ∧
      (∃ c ∈ unparked s, isElastic s c = true ∧ notYielded s c ≠ []) ∧
      s.beat.deadline + 3000 ≤ s.beat.openAt + 3000 * stretchLimit s) ∧
    (let s := State.reset
     s.pins.inReset = false ∧ s.cycle < guardPoint s ∧ beatRole s = 0 ∧ ∀ c ∈ unparked s, isElastic s c = false ∨ notYielded s c = []) ∧
    (∀ e ∈ [(2, 4, natLe 8 1), (1, 4, natLe 8 1), (1, 6, natLe 24 0), (2, 5, natLe 8 0x100010 ++ natLe 8 1)],
      let s : State := { beatState e.1 e.2.1 e.2.2 with cycle := 45000 }
      (ctlMsg s (0#16).toNat 2 e.2.1).isSome = true ∧ beatRole s = e.1 ∧
      (let m := ((ctlMsg s (0#16).toNat 2 e.2.1).getD ⟨0, 0, 0, [], 0⟩)
       fieldAt m.bytes 1 1 = 1 ∧ fieldAt m.bytes 2 2 = beatGroupId s ∧ (e.2.1 = 4 → fieldAt m.bytes 8 8 = s.beat.gnum) ∧
        (e.2.1 = 5 → s.beat.gnum < fieldAt m.bytes 0x18 8)) ∧ s.cycle ≤ guardPoint s) ∧
    (∀ role ∈ [0, 1],
      let s : State := { setField (setField State.reset aBeatGroup 55 54 role) aBeatCtl 41 41 1 with
        ctxs := [(0, { st := .unparked, run := { inFrame := true, flags := 1 } })] }
      beatRole s = role ∧ regField s aBeatCtl 41 41 = 1 ∧ s.beat.decided = false ∧ inLastBeat s = true) := by decide +kernel

/-- The check point moves the deadline of a standalone device by 1 µs (R57). -/
theorem test_stretch : (ran (exec .stretchCheck elasticState)).beat.deadline = 51000 := by decide +kernel

/-- The offset is the greatest that the alignment takes, and one that locks. -/
theorem witness_BeatAlignment :
    (let s := beatState 2 1 (natLe 15 0 ++ natLe 1 1 ++ natLe 10 0 ++ natLe 2 5)
     let m := (ctlMsg s (0#16).toNat 2 1).getD ⟨0, 0, 0, [], 0⟩
     ctlMsg s (0#16).toNat 2 1 = some m ∧ fieldAt m.bytes 1 1 = 1 ∧ fieldAt m.bytes 2 2 = beatGroupId s ∧ beatRole s = 2 ∧
      m.port = parentPort s ∧ s.beat.joining = false ∧ fieldAt m.bytes 0x1F 1 ≠ 0) ∧
    (let s := beatState 1 2 (natLe 2 5)
     let m := (ctlMsg s (0#16).toNat 2 2).getD ⟨0, 0, 0, [], 0⟩
     ctlMsg s (0#16).toNat 2 2 = some m ∧ fieldAt m.bytes 2 2 = beatGroupId s ∧ beatRole s ≠ 0 ∧ m.port < 32) ∧
    (∀ t2 ∈ [2 * 500 * 65536, 2 * 100 * 65536, 0],
      let s₀ := beatState 2 3 (natLe 10 0 ++ natLe 2 5)
      let x : SyncExchange := ⟨5, 0, t2, 0⟩
      let s : State := { s₀ with beat := { exchange := some x, good := 1 } }
      let m := (ctlMsg s (0#16).toNat 2 3).getD ⟨0, 0, 0, [], 0⟩
      ctlMsg s (0#16).toNat 2 3 = some m ∧ fieldAt m.bytes 1 1 = 1 ∧ beatRole s = 2 ∧ s.beat.exchange = some x ∧
      m.port = parentPort s ∧ fieldAt m.bytes 0x1A 2 = x.seq ∧
      (((x.t2 - x.t1) - (msgTime m.bytes 0x10 - x.t3)) / 2).natAbs ≤ 500 * 65536 ∧ 1 ≤ s.beat.good) ∧
    (let s : State := { setField State.reset aBeatGroup 55 54 2 with beat := { gnum := 8 * syncInt (setField State.reset aBeatGroup 55 54 2) } }
     beatRole s = 2 ∧ s.beat.joining = false ∧ s.beat.timedOut = false ∧ s.beat.lastSync + 8 * syncInt s ≤ s.beat.gnum ∧
      unparked s = []) := by decide +kernel

/-! ### Configuration sets -/

def zeros (n : Nat) : List Byte := List.replicate n 0#8

/-- A fold with each step evaluated before the next, which the kernel can follow over a thousand bytes. -/
def foldNow (f : Nat → Byte → Nat) : List Byte → Nat → Nat
  | [], c => c
  | b :: t, c => match f c b with
    | 0 => foldNow f t 0
    | n + 1 => foldNow f t (n + 1)

theorem fold_now (f : Nat → Byte → Nat) (bs : List Byte) : ∀ c, bs.foldl f c = foldNow f bs c := by
  induction bs with
  | nil => intro c; rfl
  | cons b t ih => intro c; simp only [List.foldl_cons, foldNow]; split <;> rename_i e <;> rw [e, ih]

def crcNow (bs : List Byte) : Nat := Nat.xor (foldNow (crcByte 0x82F63B78) bs 0xFFFFFFFF) 0xFFFFFFFF

theorem crc_now : crc32c = crcNow := by
  funext bs
  exact congrArg (fun x => Nat.xor x 0xFFFFFFFF) (fold_now _ _ _)

/-- A structure and its CRC-32C, at its end or after its head. -/
def withCrc (bs : List Byte) : List Byte := bs ++ natLe 4 (crcNow bs)
def headCrc (a b : List Byte) : List Byte := a ++ natLe 4 (crcNow (a ++ b)) ++ b

/-- A plan at 2 MiB for two blocks: one frame, one empty slot table, and one segment of one word for index 4095. -/
def planImages : List (Nat × List Byte) :=
  [(0x200000, withCrc (natLe 4 0x4E414C50 ++ natLe 2 1 ++ natLe 2 4 ++ natLe 2 0 ++ natLe 2 2 ++ natLe 4 0 ++ natLe 8 0x201000 ++
      natLe 8 0x202000 ++ natLe 8 0x203000 ++ natLe 8 0 ++ natLe 4 0x50 ++ natLe 8 0)),
   (0x201000, headCrc (natLe 2 0 ++ natLe 2 1 ++ natLe 2 0 ++ natLe 2 0 ++ natLe 8 (2 ^ 64 - 1) ++ zeros 12) (zeros 64)),
   (0x203000, headCrc (natLe 4 0x544F4C53 ++ natLe 2 1 ++ natLe 2 1 ++ natLe 4 0) (natLe 8 0x204000)),
   (0x204000, headCrc (zeros 28) []),
   (0x202000, headCrc (natLe 4 0x4D475250 ++ natLe 2 1 ++ natLe 2 1 ++ zeros 20) []),
   (0x202020, headCrc (natLe 4 0x40 ++ natLe 2 4095 ++ natLe 2 1 ++ natLe 2 0 ++ natLe 2 1 ++ natLe 2 1 ++ zeros 14)
      (natLe 16 (word 0 2 0).toNat))]

/-- A shard map at 3 MiB: one group of which this device is the only member, and one tensor of 8 × 4 elements in two shards. -/
def shardImages : List (Nat × List Byte) :=
  let head := natLe 4 0x44524853 ++ natLe 2 1 ++ natLe 2 1 ++ natLe 2 1 ++ natLe 2 16 ++ natLe 4 2 ++ natLe 8 0x301000 ++
    natLe 8 0x302000 ++ natLe 8 0x303000 ++ natLe 8 0x304000 ++ natLe 8 0 ++ natLe 4 0 ++ natLe 4 0 ++ zeros 28
  let group := natLe 2 1 ++ natLe 2 0 ++ natLe 4 77 ++ natLe 8 0x305000
  let tensor := natLe 4 0 ++ natLe 4 8 ++ natLe 4 4 ++ natLe 2 2 ++ natLe 2 0 ++ natLe 8 0 ++ natLe 8 0x600000 ++ natLe 8 0x601000 ++
    natLe 8 0x602000 ++ zeros 48
  [(0x300000, head ++ natLe 4 (crcNow (head ++ group ++ natLe 4 0 ++ tensor))), (0x301000, group), (0x302000, tensor)]

/-- A state with structures in its memory. -/
def holding (l : List (Nat × List Byte)) (s : State) : State := l.foldl (fun s e => poke s e.1 e.2) s

/-- A partition map that gives nothing away. -/
def partImage : List Byte := withCrc (zeros 1020)

def policyImage : List Byte :=
  withCrc (natLe 4 0x594C4F50 ++ natLe 2 1 ++ natLe 1 8 ++ natLe 1 1 ++ natLe 2 200 ++ natLe 2 800 ++ natLe 2 200 ++ natLe 2 800 ++ zeros 44)

/-- A table whose CRC is taken with its own field as zero. -/
def tableCrcAt (a b : List Byte) : List Byte := a ++ natLe 4 (crcNow (a ++ natLe 4 0 ++ b)) ++ b

/-- A port table with every port disabled, and a route table of two nodes with no route. -/
def portImage : List Byte := tableCrcAt (natLe 4 0x54524F50 ++ natLe 2 1 ++ natLe 2 0 ++ zeros 20) (zeros 512)
def routeImage : List Byte := tableCrcAt (natLe 4 0x54554F52 ++ natLe 2 1 ++ natLe 2 2 ++ zeros 20) (zeros 8)

/-- Context 1 as given, with the structures given in memory, and a shadow set of every device scope. -/
def configState (x : Ctx) (l : List (Nat × List Byte) := []) : State :=
  { holding l { withCell {} with ctxs := [(1, x)] } with
    sets := { part := { blocks := [(0, 2), (1, 2)] }, partShadow := some partImage, powerShadow := some policyImage,
              routeShadow := some (portImage, routeImage) } }

/-- CFG_WRITE or CFG_SWAP of a scope. -/
def cfgPayload (scope v : Nat) : List Byte := natLe 8 scope ++ natLe 8 v ++ natLe 8 0

def imapImage : List Byte := List.replicate 12032 0#8

def imapState : State := { withCell {} with sets := { imapShadow := some imapImage } }

theorem leNat_zeros (m : Nat) : leNat (List.replicate m 0#8) = 0 := by
  induction m with
  | zero => rfl
  | succ m ih => simp [List.replicate_succ, leNat, ih]

theorem fieldAt_zeros (k o n : Nat) : fieldAt (List.replicate k 0#8) o n = 0 := by
  simp [fieldAt, List.drop_replicate, List.take_replicate, leNat_zeros]

/-- A field within leading zeros, and one within trailing zeros. -/
theorem fieldAt_lead {k o n : Nat} (z : List Byte) (h : o + n ≤ k) : fieldAt (zeros k ++ z) o n = 0 := by
  have e : (zeros k ++ z).drop o = zeros (k - o) ++ z := by
    rw [List.drop_append_of_le_length (by simp [zeros]; omega)]; simp [zeros, List.drop_replicate]
  rw [fieldAt, e, List.take_append_of_le_length (by simp [zeros]; omega)]
  simp [zeros, List.take_replicate, leNat_zeros]

theorem fieldAt_trail {a : List Byte} {o : Nat} (k n : Nat) (h : a.length ≤ o) : fieldAt (a ++ zeros k) o n = 0 := by
  obtain ⟨d, rfl⟩ := Nat.exists_eq_add_of_le h
  rw [fieldAt, ← List.drop_drop, List.drop_left]
  simp [zeros, List.drop_replicate, List.take_replicate, leNat_zeros]

/-- An interleave map that gives no granule is valid. -/
theorem imapFail_zeros (s : State) (k : Nat) : imapFail s (List.replicate k 0#8) = none := by
  have e : imapOf (List.replicate k 0#8) = ⟨some []⟩ := by
    delta imapOf
    generalize List.range 3008 = l
    simp only [fieldAt_zeros]
    congr
    induction l with
    | nil => rfl
    | cons a l ih => simp
  have st : ∀ l : List Nat, ∀ f : Option CfgFail × List (Nat × Nat) → Nat → Option CfgFail × List (Nat × Nat),
      (∀ g, f (none, []) g = (none, [])) → l.foldl f (none, []) = (none, []) := by
    intro l f hf; induction l with
    | nil => rfl
    | cons a l ih => simpa [hf] using ih
  rw [imapFail]
  generalize List.range 3008 = l
  rw [st]
  intro g
  have y : ∀ k, sGet 0 ([] : Sparse Nat) k = 0 := fun _ => rfl
  simp only [e, fieldAt_zeros, IMap.entry, y]
  simp [entryUnits, bitsOf]

theorem partImage_valid (s : State) : partFail s partImage = none := by
  have c : crc32c (partImage.take 0x3FC) = fieldAt partImage 0x3FC 4 := by
    have e : partImage.take 0x3FC = zeros 1020 := List.take_left' List.length_replicate
    have d : partImage.drop 0x3FC = natLe 4 (crcNow (zeros 1020)) := List.drop_left' List.length_replicate
    rw [e, fieldAt, d, crc_now]; decide +kernel
  have z : ∀ o n, o + n ≤ 1020 → fieldAt partImage o n = 0 := fun o n h => fieldAt_lead _ h
  rw [partFail, c, z 0x300 252 (by omega)]
  simp only [badField, Option.map_eq_none_iff, List.find?_eq_none, List.mem_append, List.mem_map, List.mem_range, List.mem_cons,
    List.not_mem_nil, or_false]
  rintro e (((rfl | ⟨g, h, rfl⟩) | ⟨u, h, rfl⟩) | rfl)
  · simp
  · simp [z (2 * g) 2 (by omega)]
  · simp [z (0x200 + 2 * u) 2 (by omega)]
  · simp

theorem partOf_partImage : partOf partImage = {} := by
  have z : ∀ o n, o + n ≤ 1020 → fieldAt partImage o n = 0 := fun o n h => fieldAt_lead _ h
  have st : ∀ (l : List Nat) (f : Sparse Nat → Nat → Sparse Nat), (∀ g ∈ l, f [] g = []) → l.foldl f [] = [] := by
    intro l f hf
    induction l with
    | nil => rfl
    | cons a l ih => rw [List.foldl_cons, hf a (by simp)]; exact ih (fun g h => hf g (by simp [h]))
  rw [partOf, st _ _ ?_, st _ _ ?_]
  · intro u h; simp [z (0x200 + 2 * u) 2 (by simp at h; omega)]
  · intro g h; simp [z (2 * g) 2 (by simp at h; omega)]

theorem routeImage_valid : routeFail portImage routeImage = none := by
  have z : ∀ o n, 32 ≤ o → fieldAt portImage o n = 0 := fun o n h =>
    fieldAt_trail _ _ (Nat.le_trans (show _ ≤ 32 by decide +kernel) h)
  rw [routeFail]
  simp (disch := omega) only [z]
  unfold tableCrc
  rw [crc_now]
  decide +kernel

theorem tablesOf_images : tablesOf portImage routeImage = { nodes := 2 } := by
  have z : ∀ o n, 32 ≤ o → fieldAt portImage o n = 0 := fun o n h =>
    fieldAt_trail _ _ (Nat.le_trans (show _ ≤ 32 by decide +kernel) h)
  rw [tablesOf]
  simp (disch := omega) only [z]
  decide +kernel

theorem witness_ConfigCommands :
    (∀ scope ∈ [0, 1], Meets 0x0201 1 (cfgPayload scope 64) (configState { st := .stored }) (fun s₁ c =>
      c.field 0 1 ≤ 1 ∧ (ctxAt s₁ c.ctx).st ≠ .free ∧ swapPending s₁ (c.field 0 1) c.ctx = false ∧ resharding s₁ c.ctx = false ∧
        (ctxAt s₁ c.ctx).upd = none)) ∧
    (∀ scope ∈ [2, 3, 4, 5], Meets 0x0201 0 (cfgPayload scope 64) State.reset (fun s₁ c =>
      2 ≤ c.field 0 1 ∧ swapPending s₁ (c.field 0 1) c.ctx = false ∧
        (readRegions noLine (setRuns s₁ (c.field 0 1) (c.field 8 8) (c.field 0x10 8)) 0 s₁).1 = none)) ∧
    Meets 0x0202 0 (cfgPayload 2 1) (configState { st := .parked }) (fun s₁ c =>
      swapPending s₁ (c.field 0 1) c.ctx = false ∧ s₁.beat.gnum < c.field 8 8 ∧ c.field 0 1 = 2 ∧
        s₁.sets.partShadow = some partImage ∧ partFail s₁ partImage = none ∧ partBusy s₁ (partOf partImage) = false ∧
        assignsUnderTest s₁ (partOf partImage) = false) ∧
    Meets 0x0202 0 (cfgPayload 3 0) imapState (fun s₁ c =>
      (swapPending s₁ (c.field 0 1) c.ctx = false ∧ c.field 8 8 = 0 ∧ c.field 0 1 = 3) ∧
        s₁.sets.imapShadow = some imapImage ∧ imapFail s₁ imapImage = none ∧ imapBusy s₁ (imapOf imapImage) = false) ∧
    Meets 0x0202 0 (cfgPayload 4 0) (configState { st := .unparked }) (fun s₁ c =>
      swapPending s₁ (c.field 0 1) c.ctx = false ∧ c.field 0 1 = 4 ∧ s₁.sets.powerShadow = some policyImage ∧
        policyFail policyImage = none) ∧
    Meets 0x0202 0 (cfgPayload 5 0) (configState { st := .parked }) (fun s₁ c =>
      swapPending s₁ (c.field 0 1) c.ctx = false ∧ c.field 0 1 = 5 ∧ s₁.sets.routeShadow = some (portImage, routeImage) ∧
        routeFail portImage routeImage = none ∧ routeBusy s₁ (tablesOf portImage routeImage) = false) ∧
    Meets 0x0202 1 (cfgPayload 0 0) (configState { st := .unparked, desc := { planB := 0x200000 } } planImages) (fun s₁ c =>
      let t := (readRegions noLine (planRegions s₁ (shadowPlan (ctxAt s₁ c.ctx))) 0 s₁).2
      let plan := shadowPlan (ctxAt s₁ c.ctx)
      swapPending s₁ (c.field 0 1) c.ctx = false ∧ c.field 0 1 = 0 ∧ (ctxAt s₁ c.ctx).st ≠ .free ∧ resharding s₁ c.ctx = false ∧
        (readRegions noLine (planRegions s₁ plan) 0 s₁).1 = none ∧ planFail t c.ctx plan = none ∧
        slotConflict t c.ctx plan = false ∧ linkConflict t c.ctx plan = false ∧ planLenMin t plan ≤ beatLen t) ∧
    Meets 0x0202 1 (cfgPayload 1 0) (configState { st := .unparked, desc := { shardB := 0x300000 }, resharded := true } shardImages) (fun s₁ c =>
      let map := shadowShard (ctxAt s₁ c.ctx)
      let t := (readRegions noLine (shardRegions s₁ map) 0 s₁).2
      swapPending s₁ (c.field 0 1) c.ctx = false ∧ c.field 0 1 = 1 ∧ (ctxAt s₁ c.ctx).st ≠ .free ∧ resharding s₁ c.ctx = false ∧
        (readRegions noLine (shardRegions s₁ map) 0 s₁).1 = none ∧ map ≠ 0 ∧ shardFail t c.ctx map = none ∧
        (ctxAt s₁ c.ctx).resharded = true) ∧
    (∀ role ∈ [0, 1], Meets 0x0203 0 (natLe 8 20 ++ natLe 4 0 ++ natLe 4 1) (setField State.reset aBeatGroup 55 54 role) (fun s₁ c =>
      c.field 0x0C 2 = 1 ∧ planFloor s₁ ≤ c.field 0 2 ∧ lenFits (c.field 0 2) (adaptMin s₁) (adaptMax s₁) = true ∧
        beatRole s₁ = role)) ∧
    (∀ role ∈ [0, 1, 2], Meets 0x0204 0 (natLe 32 role) State.reset (fun s₁ c =>
      unparked s₁ = [] ∧ c.field 0 1 = role ∧ noticeFits s₁ (beatNotice s₁) = true)) := by
  refine ⟨?_, ?_,
    meets (by decide +kernel) ⟨by decide +kernel, by decide +kernel, by decide +kernel, rfl, partImage_valid _,
      by rw [partOf_partImage]; decide +kernel, by rw [partOf_partImage]; decide +kernel⟩,
    meets (by decide +kernel) ⟨by decide +kernel, rfl, imapFail_zeros _ _, by decide +kernel⟩, meets (by decide +kernel) (by decide +kernel),
    meets (by decide +kernel) ⟨by decide +kernel, by decide +kernel, rfl, routeImage_valid, by rw [tablesOf_images]; decide +kernel⟩,
    meets (by decide +kernel) (by decide +kernel), meets (by decide +kernel) (by decide +kernel), ?_, ?_⟩ <;>
  · intro k h
    simp only [List.mem_cons, List.not_mem_nil, or_false] at h
    obtain rfl | rfl | rfl | rfl | h := h <;> exact meets (by decide +kernel) (by decide +kernel)

/-! ### A step with UPDATE: its structures lie in the first scratch window -/

theorem linePieces_cover (fuel : Nat) : ∀ (a n : Nat) (bs : List Byte), n ≤ fuel → n ≤ bs.length →
    (linePieces a fuel n).flatMap (fun p => (bs.drop p.1).take p.2) = bs.take n := by
  induction fuel with
  | zero => intro a n bs h _; obtain rfl : n = 0 := by omega
            simp [linePieces]
  | succ fuel ih =>
    intro a n bs h hb
    cases n with
    | zero => simp [linePieces]
    | succ n =>
      simp only [linePieces]
      have hl : 0 < 64 - a % 64 := by omega
      generalize hl' : min (n + 1) (64 - a % 64) = l
      have h1 : 1 ≤ l ∧ l ≤ n + 1 := by omega
      have e := ih (a + l) (n + 1 - l) (bs.drop l) (by omega) (by simp; omega)
      simp only [List.drop_drop] at e
      rw [List.flatMap_cons, List.flatMap_map]
      have c : ∀ p : Nat × Nat, (fun q : Nat × Nat => (bs.drop q.1).take q.2) (p.1 + l, p.2) = (bs.drop (l + p.1)).take p.2 := by
        intro p; simp [Nat.add_comm]
      simp only [c, e, List.drop_zero]
      rw [← List.take_add]
      congr 1; omega

theorem linePieces_within (fuel : Nat) : ∀ a n, ∀ p ∈ linePieces a fuel n, p.1 + p.2 ≤ n := by
  induction fuel with
  | zero => intro a n p h; simp [linePieces] at h
  | succ fuel ih =>
    intro a n p h
    cases n with
    | zero => simp [linePieces] at h
    | succ n =>
      simp only [linePieces, List.mem_cons, List.mem_map] at h
      obtain rfl | ⟨q, hq, rfl⟩ := h
      · simp
      · have := ih _ _ q hq
        simp; omega

/-- The first scratch window holds these bytes from its start on. -/
def InScratch (s : State) (img : List Byte) : Prop := s.mem.scratch = sSetAll 0#8 [] 0 img ∧ img.length < 2 ^ 30

theorem physAt_scratch (s : State) (o : Nat) (h : o < 2 ^ 30) : physAt s (0xC000000000 + o) = .scratch o := by
  have j : jobBytes s ≤ 0xBC00000000 := by unfold jobBytes; split <;> decide
  rw [physAt, if_neg (by omega), if_neg (by omega), if_pos (by omega), Nat.add_sub_cancel_left]

theorem getAll_scratch {s : State} {img : List Byte} (hs : InScratch s img) (o n : Nat) (h : o + n ≤ img.length) :
    sGetAll 0#8 s.mem.scratch o n = (img.drop o).take n := by
  refine List.ext_getElem (by simp [sGetAll]; omega) (fun i h1 h2 => ?_)
  have hi : i < n := by simpa [sGetAll] using h1
  have e := sGet_setAll_same (0#8 : Byte) [] 0 img (o + i) (by omega)
  rw [Nat.zero_add] at e
  simp [sGetAll, hs.1, e]

theorem readPieces_scratch {s : State} {img : List Byte} (hs : InScratch s img) (o : Nat) (e : Ecc) (w : Nat) :
    ∀ (ps : List (Nat × Nat)) (i : Nat), (∀ p ∈ ps, o + p.1 + p.2 ≤ img.length) →
      readPieces s (0xC000000000 + o) e w ps i = ⟨s, none, ps.flatMap (fun p => ((img.drop o).drop p.1).take p.2)⟩ := by
  intro ps
  induction ps with
  | nil => intro i _; rfl
  | cons p t ih =>
    intro i h
    obtain ⟨a, b⟩ := p
    have hp := h (a, b) (by simp)
    have hl := hs.2
    have e1 : ∀ k, readPiece s (0xC000000000 + o + a) b k = ⟨s, none, ((img.drop o).drop a).take b⟩ := by
      intro k
      rw [readPiece, Nat.add_assoc, physAt_scratch s (o + a) (by simp only at hp; omega)]
      simp only [getAll_scratch hs (o + a) b (by simpa using hp), List.drop_drop]
    simp only [readPieces, e1, ih (i + 1) (fun q hq => h q (by simp [hq])), List.flatMap_cons]
    simp

theorem physRead_scratch {s : State} {img : List Byte} (hs : InScratch s img) (o n : Nat) (h : o + n ≤ img.length) (e : Ecc) (w : Nat) :
    physRead s (0xC000000000 + o) n e w = ⟨s, none, (img.drop o).take n⟩ := by
  rw [physRead, readPieces_scratch hs o e w _ 0 (fun p hp => by have := linePieces_within _ _ _ p hp; omega), pieces,
    linePieces_cover _ _ _ _ (Nat.le_refl _) (by simp; omega)]

theorem peek_scratch {s : State} {img : List Byte} (hs : InScratch s img) (o n : Nat) (h : o + n ≤ img.length) :
    peek s (0xC000000000 + o) n = (img.drop o).take n := by rw [peek, physRead_scratch hs o n h]

/-- A parameter group whose last factor is the least positive number. -/
def groupEntry : List Byte := zeros 20 ++ natLe 4 1 ++ zeros 8

/-- A parameter group table: 64 groups, every tensor of group 0. -/
def groupBody : List Byte := (List.replicate 64 groupEntry).flatten ++ zeros 4096
def groupImage : List Byte := groupBody ++ (natLe 4 (crc32c groupBody) ++ zeros 12)

theorem leNat_natLe4 (v : Nat) : leNat (natLe 4 v) = v % 2 ^ 32 := by
  simp [natLe, leNat, BitVec.toNat_ofNat]; omega

theorem crc32c_lt (bs : List Byte) : crc32c bs < 2 ^ 32 := by
  have bit : ∀ c, c < 2 ^ 32 → crcBit 0x82F63B78 c < 2 ^ 32 := by
    intro c h
    unfold crcBit; split
    · exact Nat.xor_lt_two_pow (by omega) (by decide)
    · omega
  have all : ∀ (l : List Byte) c, c < 2 ^ 32 → l.foldl (crcByte 0x82F63B78) c < 2 ^ 32 := by
    intro l
    induction l with
    | nil => intro c h; exact h
    | cons b t ih =>
      intro c h
      have x : Nat.xor c b.toNat < 2 ^ 32 := Nat.xor_lt_two_pow h (by omega)
      exact ih _ (bit _ (bit _ (bit _ (bit _ (bit _ (bit _ (bit _ (bit _ x))))))))
  exact Nat.xor_lt_two_pow (all _ _ (by decide)) (by decide)

theorem groupEntry_length : groupEntry.length = 32 := by decide

theorem flatten_drop (e z : List Byte) (k : Nat) : ∀ g ≤ k, ((List.replicate k e).flatten ++ z).drop (e.length * g) =
    (List.replicate (k - g) e).flatten ++ z := by
  induction k with
  | zero => intro g h; obtain rfl : g = 0 := by omega
            simp
  | succ k ih =>
    intro g h
    cases g with
    | zero => simp
    | succ g =>
      rw [List.replicate_succ, List.flatten_cons, Nat.mul_succ, Nat.add_comm, ← List.drop_drop, List.append_assoc, List.drop_left,
        ih g (by omega), Nat.add_sub_add_right]

theorem groupEntries_length : ((List.replicate 64 groupEntry).flatten).length = 0x800 := by simp [groupEntry_length]

theorem groupBody_length : groupBody.length = 6144 := by
  rw [groupBody, List.length_append, groupEntries_length, zeros, List.length_replicate]

/-- A field of group g of the table is that field of the entry. -/
theorem groupImage_entry (g o n : Nat) (hg : g < 64) (h : o + n ≤ 32) : fieldAt groupImage (32 * g + o) n = fieldAt groupEntry o n := by
  have e := flatten_drop groupEntry (zeros 4096 ++ (natLe 4 (crc32c groupBody) ++ zeros 12)) 64 g (by omega)
  rw [groupEntry_length] at e
  obtain ⟨k, hk⟩ : ∃ k, 64 - g = k + 1 := ⟨63 - g, by omega⟩
  rw [hk, show (List.replicate (k + 1) groupEntry).flatten = groupEntry ++ (List.replicate k groupEntry).flatten from rfl,
    List.append_assoc] at e
  rw [fieldAt, ← List.drop_drop, groupImage, show groupBody ++ (natLe 4 (crc32c groupBody) ++ zeros 12) = (List.replicate 64 groupEntry).flatten ++
    (zeros 4096 ++ (natLe 4 (crc32c groupBody) ++ zeros 12)) by rw [groupBody, List.append_assoc], e,
    List.drop_append_of_le_length (by rw [groupEntry_length]; omega),
    List.take_append_of_le_length (by rw [List.length_drop, groupEntry_length]; omega), fieldAt]

theorem groupImage_map (i : Nat) (h : i < 4096) : fieldAt groupImage (0x800 + i) 1 = 0 := by
  have e : groupImage = (List.replicate 64 groupEntry).flatten ++ (zeros 4096 ++ (natLe 4 (crc32c groupBody) ++ zeros 12)) := by
    rw [groupImage, groupBody, List.append_assoc]
  have := fieldAt_lead (k := 4096) (o := i) (n := 1) (natLe 4 (crc32c groupBody) ++ zeros 12) (by omega)
  rw [fieldAt, ← List.drop_drop, e, List.drop_left' groupEntries_length]
  exact this

theorem groupImage_valid : groupTableFail groupImage = none := by
  have d : groupImage.drop 0x1800 = natLe 4 (crc32c groupBody) ++ zeros 12 := List.drop_left' groupBody_length
  have c : crc32c (groupImage.take 0x1800) = fieldAt groupImage 0x1800 4 := by
    rw [fieldAt, d, show groupImage.take 0x1800 = groupBody from List.take_left' groupBody_length, List.take_left' (by rfl), leNat_natLe4,
      Nat.mod_eq_of_lt (crc32c_lt _)]
  have z : fieldAt groupImage 0x1804 12 = 0 := by
    rw [show (0x1804 : Nat) = 0x1800 + 4 from rfl, fieldAt, ← List.drop_drop, d, List.drop_left' (by rfl)]
    exact fieldAt_zeros 12 0 12
  have en : ∀ g < 64, ∀ o n, o + n ≤ 32 → fieldAt groupImage (32 * g + o) n = fieldAt groupEntry o n :=
    fun g hg o n h => groupImage_entry g o n hg h
  rw [groupTableFail, c, z]
  simp only [badField, Option.map_eq_none_iff, List.find?_eq_none, List.mem_append, List.mem_map, List.mem_range, List.mem_cons,
    List.mem_flatMap, List.not_mem_nil, or_false]
  rintro e (((rfl | ⟨g, h, he⟩) | ⟨i, h, rfl⟩) | rfl)
  · simp
  · have e0 := en g h 0
    rw [Nat.add_zero] at e0
    rw [en g h 1 1 (by omega), en g h 2 2 (by omega), en g h 4 4 (by omega), en g h 8 4 (by omega), en g h 0xC 4 (by omega),
      en g h 0x10 4 (by omega), en g h 0x14 4 (by omega), en g h 0x18 4 (by omega), en g h 0x1C 4 (by omega), e0 1 (by omega)] at he
    rcases he with rfl | rfl | rfl | rfl | rfl | rfl | rfl | rfl | rfl | rfl <;> simp only <;> decide +kernel
  · simp [groupImage_map i h]
  · simp

/-- An Almanac block of one segment for this device alone, its node list at 0xC000001A40. -/
def almanacBody : List Byte :=
  natLe 4 0x4E4D4C41 ++ natLe 2 1 ++ natLe 1 1 ++ natLe 1 0 ++ zeros 8 ++ natLe 4 0 ++ natLe 2 1 ++ natLe 2 0 ++ natLe 4 77 ++ natLe 4 0 ++
    natLe 8 0xC000001A40 ++ zeros 32 ++ natLe 8 1 ++ zeros 436
def almanacImage : List Byte :=
  almanacBody.take 508 ++ natLe 4 (crcNow (almanacBody.take 7 ++ (almanacBody.drop 0x12).take 0x26 ++ (almanacBody.drop 0x40).take 0x1BC))

def stepImage : List Byte := groupImage ++ (zeros 48 ++ (almanacImage ++ zeros 64))

theorem groupImage_length : groupImage.length = 6160 := by
  rw [groupImage, List.length_append, groupBody_length]; rfl

theorem stepImage_length : stepImage.length = 6784 := by
  have : (zeros 48 ++ (almanacImage ++ zeros 64)).length = 624 := by decide +kernel
  rw [stepImage, List.length_append, groupImage_length, this]

theorem stepImage_drop (o : Nat) : stepImage.drop (0x1840 + o) = (almanacImage ++ zeros 64).drop o := by
  rw [← List.drop_drop, stepImage, ← List.append_assoc, List.drop_left' (by rw [List.length_append, groupImage_length]; rfl)]

/-- Context 1 unparked, with its structures in the first scratch window. -/
def millCtx : Ctx := { st := .unparked, kept := { resume := 0xFFFF }, desc := { almanac := 0xC000001840, groups := 0xC000000000, planA := 0x200000 },
                       alm := { placed := true } }

def updateState : State := { withCell {} with ctxs := [(1, millCtx)], mem := { scratch := sSetAll 0#8 [] 0 stepImage } }

theorem updateState_reads (s : State) (hs : InScratch s stepImage) (hx : ctxAt s 1 = millCtx) :
    readRegions noLine (almanacRegions s 1) 0 s = (none, s) := by
  have pk : ∀ o n, o + n ≤ 6784 → ∀ e w, physRead s (0xC000000000 + o) n e w = ⟨s, none, (stepImage.drop o).take n⟩ :=
    fun o n h => physRead_scratch hs o n (by rw [stepImage_length]; exact h)
  have n1 : peekNat s (0xC000000000 + 0x1860) 8 = 0xC000001A40 := by
    rw [peekNat, peek, pk _ _ (by decide)]
    simp only [show (0x1860 : Nat) = 0x1840 + 0x20 from rfl, stepImage_drop]; decide +kernel
  have n2 : peekNat s (0xC000000000 + 0x1854) 2 = 1 := by
    rw [peekNat, peek, pk _ _ (by decide)]
    simp only [show (0x1854 : Nat) = 0x1840 + 0x14 from rfl, stepImage_drop]; decide +kernel
  have e : almanacRegions s 1 = [(0xC000000000 + 0x1840, 512), (0xC000000000 + 0, 6160), (0xC000000000 + 0x1A40, 4)] := by
    rw [almanacRegions, hx]
    exact congrArg₂ (fun (a b : Nat) => [(0xC000000000 + 0x1840, 512), (0xC000000000 + 0, 6160), (a, 4 * b)]) n1 n2
  rw [e]
  simp only [readRegions, pk 0x1840 512 (by decide), pk 0 6160 (by decide), pk 0x1A40 4 (by decide)]

theorem updateState_valid (s : State) (hs : InScratch s stepImage) (hx : ctxAt s 1 = millCtx) (hn : ownNode s = 0)
    (ht : smTensors s 0 = 0) : updateFault s 1 = none := by
  have pk : ∀ o n, o + n ≤ 6784 → peek s (0xC000000000 + o) n = (stepImage.drop o).take n :=
    fun o n h => peek_scratch hs o n (by rw [stepImage_length]; exact h)
  have b : peek s 0xC000001840 512 = almanacImage := by
    rw [show (0xC000001840 : Nat) = 0xC000000000 + (0x1840 + 0) from rfl, pk _ _ (by decide), stepImage_drop, List.drop_zero,
      List.take_left' (by decide +kernel)]
  have g : peek s 0xC000000000 6160 = groupImage := by
    rw [show (0xC000000000 : Nat) = 0xC000000000 + 0 from rfl, pk _ _ (by decide), List.drop_zero, stepImage,
      List.take_left' groupImage_length]
  have m : peekNat s 0xC000001A40 4 = 0 := by
    rw [show (0xC000001A40 : Nat) = 0xC000000000 + (0x1840 + 0x200) from rfl, peekNat, pk _ _ (by decide), stepImage_drop]; decide +kernel
  have n : fieldAt almanacImage 0x20 8 + 4 * fieldAt almanacImage 0x16 2 = 0xC000001A40 := by decide +kernel
  have a : almanacFail s 1 almanacImage = none := by
    rw [almanacFail, hx, show shardMapOf millCtx = 0 from rfl, ht, n, m, hn, crc_now]
    decide +kernel
  rw [updateFault, hx]
  simp only [show millCtx.desc.almanac = 0xC000001840 from rfl, show millCtx.desc.groups = 0xC000000000 from rfl, b, g, a, groupImage_valid]
  rfl

/-- STEP with UPDATE in frame 0 of a plan of two frames, and MILL_FUSED. -/
def updatePlanState : State := { updateState with mem := { (poke State.reset 0x200008 (natLe 2 1)).mem with
  scratch := sSetAll 0#8 [] 0 stepImage } }

theorem updatePlan_meets : readRegions noLine (almanacRegions (asked updatePlanState) 1) 0 (asked updatePlanState) = (none, asked updatePlanState) ∧
    updateFault (asked updatePlanState) 1 = none := by
  have hs : InScratch (asked updatePlanState) stepImage :=
    ⟨by simp only [asked, updatePlanState], by rw [stepImage_length]; decide⟩
  have hx : ctxAt (asked updatePlanState) 1 = millCtx := by decide +kernel
  exact ⟨updateState_reads _ hs hx, updateState_valid _ hs hx (by decide +kernel) (by decide +kernel)⟩

theorem witness_StepCommands :
    Meets 0x0301 1 (natLe 8 0 ++ natLe 8 0) (configState millCtx) (fun s₁ c =>
      (ctxAt s₁ c.ctx).st = .unparked ∧ resharding s₁ c.ctx = false ∧ (ctxAt s₁ c.ctx).alm.upd = 0 ∧
        (jobsOf s₁ 0x0301 c.ctx).length < 2 ∧ awaitingCells s₁ c.ctx = [] ∧ c.field 8 2 ≠ 1) ∧
    Meets 0x0301 1 (natLe 8 0 ++ natLe 2 1 ++ natLe 6 0) updatePlanState (fun s₁ c =>
      (c.ctx = 1 ∧ resharding s₁ 1 = false ∧ awaitingCells s₁ 1 = [] ∧ jobsOf s₁ 0x0301 1 = [] ∧ c.field 8 2 = 1 ∧
        nextStepStart s₁ 1 ≤ c.field 0x0A 2 ∧
        c.field 0x0A 2 < stepEnd s₁ (planOf (ctxAt s₁ 1)) (nextStepStart s₁ 1)) ∧
        readRegions noLine (almanacRegions s₁ 1) 0 s₁ = (none, s₁) ∧ updateFault s₁ 1 = none) ∧
    Meets 0x0304 1 (natLe 8 2) updatePlanState (fun s₁ c =>
      (c.ctx = 1 ∧ (ctxAt s₁ 1).st = .unparked ∧ (ctxAt s₁ 1).alm.upd = 0 ∧ stepInFlight s₁ 1 = false) ∧
        readRegions noLine (almanacRegions s₁ 1) 0 s₁ = (none, s₁) ∧ updateFault s₁ 1 = none) ∧
    Meets 0x0302 1 (natLe 8 2) (configState { millCtx with alm := { passSince := false } }) (fun s₁ c =>
      c.field 0 1 = 2 ∧ (ctxAt s₁ c.ctx).alm.upd = 0 ∧ (ctxAt s₁ c.ctx).alm.passSince = false) ∧
    Meets 0x0302 1 (natLe 8 1) (configState { millCtx with alm := { upd := 4 } }) (fun s₁ c =>
      c.field 0 1 ≠ 2 ∧ (ctxAt s₁ c.ctx).alm.upd = 4 ∧ jobsOf s₁ 0x0302 c.ctx = []) ∧
    Meets 0x0303 1 [] (configState { millCtx with desc := { shardB := 0x300000 } } shardImages) (fun s₁ c =>
      let x := ctxAt s₁ c.ctx
      let r := readRegions noLine (shardRegions s₁ (shadowShard x)) 0 s₁
      x.st = .unparked ∧ x.alm.upd ≠ 4 ∧ resharding s₁ c.ctx = false ∧ stepInFlight s₁ c.ctx = false ∧ shadowShard x ≠ 0 ∧
        r.1 = none ∧ shardFail r.2 c.ctx (shadowShard x) = none ∧ overlapFail r.2 c.ctx (shardMapOf x) (shadowShard x) = none ∧
        reshardable r.2 (shardMapOf x) (shadowShard x) = true) :=
  ⟨meets (by decide +kernel) (by decide +kernel), meets (by decide +kernel) ⟨by decide +kernel, updatePlan_meets⟩,
    meets (by decide +kernel) ⟨by decide +kernel, updatePlan_meets⟩, meets (by decide +kernel) (by decide +kernel),
    meets (by decide +kernel) (by decide +kernel), meets (by decide +kernel) (by decide +kernel)⟩

/-! ### Mills, bulk and commit -/

/-- An update of step 6, its pass running on Mill 7. -/
def someUpdate : Update := { t := 6, frame := 0, blk := [], grp := [], mills := [7] }

def updatingState (phase : Nat) (u : Update) : State := configState { millCtx with alm := { upd := phase }, upd := some u }

theorem witness_MillPasses :
    (∀ e ∈ [(1, someUpdate), (2, someUpdate), (5, { someUpdate with fused := true }), (5, { someUpdate with fused := true, apply_ := true })],
      let s := updatingState e.1 e.2
      let x := ctxAt s (1#14).toNat
      let over_ : Bool := (overTensors (passA 1 x.alm.cb e.2 noLine) (millTensors s 1 e.2) ⟨0, s⟩).1 &&
        (overTensors (passB 1 x.alm.cb e.2 noLine) (millTensors s 1 e.2) ⟨0, s⟩).1 &&
        (overTensors (if e.2.apply_ then passApply 1 x.alm.cb e.2 noLine else passRefresh 1 x.alm.cb e.2 noLine)
          (millTensors s 1 e.2) ⟨0, s⟩).1
      x.upd = some e.2 ∧ e.2.mills ≠ [] ∧ e.2.abort = none ∧ x.alm.upd = e.1 ∧ e.2.fused = (e.1 == 5) ∧ over_ = true) ∧
    (let s : State := { configState millCtx with jobs := [someJob 0x0303 0] }
     jobsOf s 0x0303 (1#14).toNat = someJob 0x0303 0 :: [] ∧ (writeItems 1 noLine (reshardItems s 1) 0 [] s).1 = true) ∧
    (let s : State := { configState millCtx with jobs := [someJob 0x0605 1] }
     (jobsOf s 0x0605 (1#14).toNat).find? (fun j => j.phase == 1) = some (someJob 0x0605 1) ∧
      (ctxReadAll 1 noLine ((someJob 0x0605 1).extents.map (fun e => (e.1, e.2.2))) 0 s).1 = some []) ∧
    (let j : Job := { someJob 0x0605 2 with payload := zeros 18 ++ [1#8] ++ zeros 13, vals := [0, 4, 0, 4] }
     let s : State := { configState millCtx with jobs := [j] }
     (jobsOf s 0x0605 (1#14).toNat).find? (fun j => j.phase == 2) = some j ∧ j.field 0x12 1 = 1 ∧ j.vals.getD 1 0 ≤ j.vals.getD 3 0) := by
  decide +kernel

/-- A message of an update of step 6 with the shard group's key or the commit key. -/
def updateMsg (type key : Nat) : InMsg := ⟨0, 0, 4, updateBytes type 1 key 0 0 6 (zeros 8 ++ natLe 1 1), 0⟩

/-- Context 1, which is member `self` of the commit group 55 of nodes 0 and 9, and of the shard group 77; its update has the message
waiting. -/
def commitState (type key self : Nat) (u : Update) : State :=
  { configState { millCtx with desc := { shardA := 0x300000 }, alm := { upd := 1 }, upd := some u, cKey := 55, cNodes := [0, 9], cSelf := self }
      shardImages with
    link := { inbox := [updateMsg type key] } }

/-- The same with the shard map's group of two members of which this is member 1. -/
def commitState2 : State := holding [(0x301000, natLe 2 2 ++ natLe 2 1)] (commitState 2 77 1 someUpdate)

theorem witness_CommitProtocol :
    (∀ e ∈ [(1, 77, 0), (3, 55, 0), (4, 55, 1), (5, 55, 0), (6, 55, 1), (7, 55, 1)],
      let u := { someUpdate with voted := decide (e.1 = 4) }
      let s := commitState e.1 e.2.1 e.2.2 u
      let m := updateMsg e.1 e.2.1
      let s₁ := freeMsg 0 m s
      ctlMsg s (0#16).toNat 4 e.1 = some m ∧ updateFor s₁ m.bytes (decide (e.1 ≤ 2)) = some 1 ∧ (ctxAt s₁ 1).upd = some u ∧
        (e.1 = 1 → (groupByKey s₁ 1 (fieldAt m.bytes 4 4)).isSome = true) ∧ (ctxAt s₁ 1).cSelf = e.2.2 ∧ u.decision = none ∧
        u.abort = none ∧ fieldAt m.bytes 0x20 1 = 1) ∧
    (let s := commitState2
     let m := updateMsg 2 77
     let s₁ := freeMsg 0 m s
     ctlMsg s (0#16).toNat 4 2 = some m ∧ updateFor s₁ m.bytes true = some 1 ∧ (ctxAt s₁ 1).upd = some someUpdate ∧
      ((groupByKey s₁ 1 (fieldAt m.bytes 4 4)).map (fun e => e.2.self)) = some 1) ∧
    (let u := { someUpdate with dones := [(0, true)] }
     let s := commitState 5 55 0 u
     (ctxAt s 1).upd = some u ∧ u.settled = false ∧ u.decision = none ∧
      (∀ k < (ctxAt s 1).cNodes.length, k = 1 ∨ (k, true) ∈ u.dones) ∧ commitLate s 1 = false) ∧
    (let s := configState { millCtx with alm := { upd := 3 }, upd := some someUpdate, run := { inFrame := true, flags := 1 } }
     (ctxAt s (1#14).toNat).upd = some someUpdate ∧ someUpdate.fused = false ∧ someUpdate.settled = false ∧
      (ctxAt s 1).cSelf = 0 ∧ (ctxAt s 1).alm.upd = 3 ∧ (ctxAt s 1).run.inFrame = true ∧ (ctxAt s 1).run.flags % 2 = 1) := by
  decide +kernel

/-! ### Gates and coded state -/

/-- A COLL or PAR message of node 4. -/
def collMsg (cls op key shard gnum : Nat) : InMsg :=
  ⟨0, cls, 0, ({ op := op, key := key, tag := 5, shard := shard, gnum := gnum, src := 4 } : CollHead).bytes [], 0⟩

/-- An operation of cell 0 of context 1 with key 77, tag 5, one item and a deadline. -/
def someOp (fn : Nat) : GateOp :=
  ⟨8, 1, 0, op (moveWord 10 0), fn, 77, 5, 0, 0, 0, 1, 0, [0], 0, [⟨0, 1, [], [], [], 0⟩], [(0, 0)], some 3000⟩

/-- Context 1 with the shard map, whose page 3 is mapped, a message, and an operation. -/
def gateState (m : InMsg) (ops : List GateOp) : State :=
  let x : Ctx := { millCtx with desc := { shardA := 0x300000 }, xlate := [(3, ⟨3, 1, false⟩)] }
  { configState x shardImages with link := { inbox := [m] }, gate := { ops := ops } }

theorem witness_GateExchanges :
    (∀ op ∈ [1, 3],
      let m := collMsg 1 op 76 0 0
      gateMsg (gateState m []) (0#16).toNat 1 op = some m ∧ servingCtx (freeMsg 0 m (gateState m [])) (CollHead.ofBytes m.bytes).key = none) ∧
    (let m := collMsg 1 1 77 1 0
     let s₁ := freeMsg 0 m (gateState m [])
     let h := CollHead.ofBytes m.bytes
     let map := shardMapOf (ctxAt s₁ 1)
     let e := smTensor s₁ map h.tensor
     let g := ctxGroup s₁ 1 map e.group
     gateMsg (gateState m []) (0#16).toNat 1 1 = some m ∧ servingCtx s₁ h.key = some 1 ∧ h.tensor < smTensors s₁ map ∧ h.shard < e.shards ∧
      g.members ≠ 0 ∧ h.shard % g.members = g.self ∧
      (ctxRead 1 (e.image 0 + e.slotOff (h.shard / g.members) e.gsize) (e.shardBytes e.gsize) noLine s₁).1.isSome = true) ∧
    (let m := collMsg 1 1 77 1 0
     let s := holding [(0x301000, natLe 2 2)] (gateState m [])
     let s₁ := freeMsg 0 m s
     let h := CollHead.ofBytes m.bytes
     let map := shardMapOf (ctxAt s₁ 1)
     let e := smTensor s₁ map h.tensor
     let g := ctxGroup s₁ 1 map e.group
     gateMsg s (0#16).toNat 1 1 = some m ∧ servingCtx s₁ h.key = some 1 ∧ h.tensor < smTensors s₁ map ∧ h.shard < e.shards ∧
      h.shard % g.members ≠ g.self) ∧
    (∀ e ∈ [(2, 3), (6, 3), (3, 0), (4, 1), (5, 2)],
      let m := collMsg 1 e.1 77 0 0
      let s := gateState m [someOp e.2]
      let s₁ := freeMsg 0 m s
      gateMsg s (0#16).toNat 1 e.1 = some m ∧ opOf s₁ (e.2 == 3) (CollHead.ofBytes m.bytes).key (CollHead.ofBytes m.bytes).tag = some (someOp e.2) ∧
        servingCtx s₁ (CollHead.ofBytes m.bytes).key = some 1 ∧ (CollHead.ofBytes m.bytes).tensor = (someOp e.2).tensor ∧
        (someOp e.2).item 0 = some ⟨0, 1, [], [], [], 0⟩) ∧
    (let m := collMsg 1 3 77 0 0
     opOf (freeMsg 0 m (gateState m [])) false 77 5 = none) ∧
    ((gateState (collMsg 1 1 77 0 0) [someOp 1]).gate.ops[(0#16).toNat]? = some (someOp 1) ∧ (someOp 1).deadline = some 3000 ∧
      (someOp 1).complete = false) ∧
    (∀ key ∈ [55, 56],
      let m : InMsg := ⟨0, 0, 5, natLe 4 1 ++ natLe 4 key ++ zeros 24, 0⟩
      let s : State := { configState { millCtx with cKey := 55, cNodes := [0] } with link := { inbox := [m] } }
      let s₁ := freeMsg 0 m s
      ctlMsg s (0#16).toNat 5 1 = some m ∧
        ((unparked s₁).filter (fun c => (ctxAt s₁ c).cKey == fieldAt m.bytes 4 4 && !(ctxAt s₁ c).cNodes.isEmpty &&
          (ctxAt s₁ c).run.epoch == fieldAt m.bytes 0x10 2)) = (if key = 55 then [1] else [])) := by
  decide +kernel

/-- Coded state of three members, this one member 0, with an operation. -/
def codedCtx (o : Option ParOp) : Ctx :=
  { millCtx with code := { present := true, k := 1, n := 3, key := 66, nodes := [0, 1, 2], p := 64, op := o } }

def codedState (m : InMsg) (o : Option ParOp) : State :=
  { configState (codedCtx o) with link := { inbox := [m] }, jobs := [someJob 0x0602 0] }

/-- A refresh and a rebuild under way, for the job of number 3. -/
def refreshOp : ParOp := { rebuild := false, job := some 3, buf := 0, area := 0, cstep := 6, applied := [(0, 0), (1, 0)] }
def rebuildOp : ParOp := { rebuild := true, job := some 3, buf := 0, area := 0, cstep := 6, want := [(0, 0)] }

theorem witness_CodedMessages :
    (∀ e ∈ [(1, refreshOp), (2, refreshOp), (3, refreshOp), (4, rebuildOp), (5, rebuildOp)],
      let m := collMsg 3 e.1 66 0 6
      let s := codedState m (some e.2)
      let s₁ := freeMsg 0 m s
      let d := (ctxAt s₁ 1).code
      let h := CollHead.ofBytes m.bytes
      gateMsg s (0#16).toNat 3 e.1 = some m ∧ codingCtx s₁ h.key = some 1 ∧ d.op = some e.2 ∧
        h.shard < d.k ∧ h.tensor = d.ownStripe 0 ∧ (e.2.rebuild = true → (h.tensor, h.shard) ∈ e.2.want) ∧ h.gnum = e.2.cstep ∧ h.status ≠ 4) ∧
    (let m : InMsg := ⟨0, 3, 0, ({ op := 3, key := 66, tag := 5, tensor := 1, gnum := 6 } : CollHead).bytes [], 0⟩
     let s := codedState m (some refreshOp)
     let s₁ := freeMsg 0 m s
     gateMsg s (0#16).toNat 3 3 = some m ∧ codingCtx s₁ (CollHead.ofBytes m.bytes).key = some 1 ∧
      symbolRuns s₁ 1 (CollHead.ofBytes m.bytes) = .inl (6, []) ∧ (ctxReadAll 1 noLine [] 0 s₁).1 = some []) ∧
    (let m := collMsg 3 3 66 1 6
     symbolRuns (freeMsg 0 m (codedState m (some refreshOp))) 1 (CollHead.ofBytes m.bytes) = .inr 4) ∧
    (let o := refreshOp
     let s := codedState (collMsg 3 1 66 0 6) (some o)
     let x := ctxAt s (1#14).toNat
     x.code.op = some o ∧ o.job = some 3 ∧ jobById s 3 = some (someJob 0x0602 0) ∧ (someJob 0x0602 0).opcode = 0x0602 ∧ x.code.refreshed = true) ∧
    (let o := { rebuildOp with got := [(0, 0, []), (1, 0, []), (2, 0, [])] }
     let x := ctxAt (codedState (collMsg 3 1 66 0 6) (some o)) (1#14).toNat
     x.code.op = some o ∧ o.rebuild = true ∧ o.fail = none ∧ x.code.rebuilt = true) := by
  decide +kernel

/-- A coding descriptor of the largest K, 16 members of which this device is the last, with nothing of its image; areas at 2 MiB
and at 4 MiB. -/
def codingImage : List Byte :=
  withCrc (natLe 4 0x45444F43 ++ natLe 2 1 ++ natLe 1 14 ++ natLe 1 64 ++ natLe 2 16 ++ natLe 2 15 ++ natLe 4 66 ++ natLe 8 0x3000 ++ natLe 8 0 ++
    natLe 8 0x200000 ++ natLe 8 0x400000 ++ zeros 12)

/-- Two lost members, both at the ends of their range, and new nodes. -/
def lostPayload (role : Nat) : List Byte := natLe 1 role ++ natLe 1 2 ++ natLe 2 0 ++ natLe 2 2 ++ zeros 2 ++ natLe 2 8 ++ natLe 2 9 ++ zeros 4

def validCtx : Ctx := { codedCtx none with code := { (codedCtx none).code with valid := true, ready := true } }

theorem witness_CodeCommands :
    (∀ a ∈ [0, 0x2000], Meets 0x0601 1 (natLe 8 a) (configState millCtx [(0x2000, codingImage)]) (fun s₁ c =>
      let r := readRegions noLine [(c.field 0 8, 64), (peekNat s₁ (c.field 0 8 + 0x10) 8, 4 * peekNat s₁ (c.field 0 8 + 8) 2)] 0 s₁
      (ctxAt s₁ c.ctx).st ≠ .free ∧ (ctxAt s₁ c.ctx).alm.upd = 0 ∧ codeBusy (ctxAt s₁ c.ctx) = false ∧ c.field 0 8 = a ∧
        (a ≠ 0 → r.1 = none ∧ codingFail r.2 c.ctx a = none))) ∧
    (∀ op ∈ [0x0602, 0x0604], ∀ role ∈ [1, 2], Meets op 1 (lostPayload role) (configState validCtx) (fun s₁ c =>
      let x := ctxAt s₁ c.ctx
      x.st = .unparked ∧ x.alm.upd = 0 ∧ stepInFlight s₁ c.ctx = false ∧ codeBusy x = false ∧ x.code.present = true ∧
        (ctxReadAll c.ctx noLine (imageRuns (acceptCmd c 0 0 [] s₁) c.ctx (shardMapOf x) x.alm.cb) 0 (acceptCmd c 0 0 [] s₁)).1.isSome = true ∧
        c.field 1 1 ≤ 2 ∧ (∀ i < c.field 1 1, c.field (2 + 2 * i) 2 < x.code.members) ∧ c.field 0 1 = role ∧ x.code.valid = true ∧
        (rollBack c.ctx noLine (((List.range (c.field 1 1)).map (fun i => (c.field (2 + 2 * i) 2, c.field (8 + 2 * i) 2))).foldl
          (fun s e => renameNode c.ctx e.1 e.2 s) s₁)).1 = true)) ∧
    Meets 0x0603 1 (natLe 8 0) (configState validCtx) (fun s₁ c => (ctxAt s₁ c.ctx).st ≠ .free ∧ (ctxAt s₁ c.ctx).code.ready = true) ∧
    Meets 0x0605 1 (natLe 8 0 ++ natLe 8 0x3000 ++ natLe 2 0 ++ natLe 1 2 ++ zeros 13) (configState millCtx) (fun s₁ c =>
      (ctxAt s₁ c.ctx).st.resident = true ∧ ¬(c.field 0x12 1 = 2 ∧ c.fromRing = true) ∧
        (∀ j ∈ s₁.jobs, j.opcode = 0x0605 → j.phase = 0) ∧
        (readRegions noLine [(c.field 8 8, 24 * c.field 0x10 2)] 0 s₁).1 = none ∧
        (∀ i < c.field 0x10 2, extentFail s₁ c.ctx (c.field 8 8) i = none)) := by
  refine ⟨?_, ?_, meets (by decide +kernel) (by decide +kernel), meets (by decide +kernel) (by decide +kernel)⟩
  · intro a h
    simp only [List.mem_cons, List.not_mem_nil, or_false] at h
    obtain rfl | rfl := h <;> exact meets (by decide +kernel) (by decide +kernel)
  · intro op h role h'
    simp only [List.mem_cons, List.not_mem_nil, or_false] at h h'
    obtain rfl | rfl := h <;> obtain rfl | rfl := h' <;> exact meets (by decide +kernel) (by decide +kernel)

/-! ### Links -/

/-- A flit of the given header, its payload zero, with its CRC-64 (R403, R404). -/
def flitRaw (head : Nat) : BitVec 2048 :=
  let bs := natLe 8 head ++ zeros 240
  BitVec.ofNat 2048 (leNat bs + 2 ^ 1984 * foldNow crc64Byte bs (2 ^ 64 - 1))

theorem crc_64_now (bs : List Byte) : crc64 bs = foldNow crc64Byte bs (2 ^ 64 - 1) := fold_now _ _ _

theorem flitRaw_good : ∀ head ∈ [65535 * 2 ^ 32 + 2 ^ 13, 32766 * 2 ^ 32 + 2 ^ 13, 2 ^ 17, 2 ^ 18], flitGood (flitBytes (flitRaw head)) true = true := by
  unfold flitGood; simp only [crc_64_now]; decide +kernel

/-- Port 0 is up as given, its engine's port 0 a partner's, and the far end is port 5 of node 9. -/
def linkState (t : Port) (inbox : List InMsg := []) (e : Engine := {}) : State :=
  { State.reset with link := { ports := [(0, t)], engines := [(0, e)], tables := { ports := [(0, 3 + 5 * 2 ^ 8 + 9 * 2 ^ 16)] }, inbox := inbox } }

def upPort : Port := { state := 2, expect := 65535 }

theorem witness_LinkFlits :
    (portAt (linkState upPort) (0#5).toNat).coded = true ∧ flitGood (flitBytes (flitRaw 0)) false = false ∧
    (∀ head ∈ [65535 * 2 ^ 32 + 2 ^ 13, 32766 * 2 ^ 32 + 2 ^ 13, 2 ^ 17, 2 ^ 18], flitGood (flitBytes (flitRaw head)) true = true) ∧
    (let h := flitHead (fieldAt (flitBytes (flitRaw (65535 * 2 ^ 32 + 2 ^ 13))) 0 8)
     h.kind = 0 ∧ h.seq = upPort.expect ∧ h.dest = ownNode (linkState upPort) ∧ h.cls = 0 ∧ h.sub = 1 ∧
      poolHeld (linkState upPort) 0 h.cls < poolSize h.cls) ∧
    (let h := flitHead (fieldAt (flitBytes (flitRaw (32766 * 2 ^ 32 + 2 ^ 13))) 0 8)
     h.kind = 0 ∧ seqAhead upPort.expect h.seq = 32767) ∧
    (flitHead (fieldAt (flitBytes (flitRaw (2 ^ 17))) 0 8)).kind = 1 ∧ (flitHead (fieldAt (flitBytes (flitRaw (2 ^ 18))) 0 8)).kind = 2 ∧
    (let f : TxFlit := ⟨0, 9, 0, 1, 1, [], 0, true, 0, 0, 0, 0, 0⟩
     let t : Port := { state := 2, unacked := [f], episode := some ⟨0, 0, 1⟩ }
     (portAt (linkState t) (0#5).toNat).coded = true ∧ (portAt (linkState t) (0#5).toNat).unacked ≠ [] ∧
      (portAt (linkState t) (0#5).toNat).episode = some ⟨0, 0, 1⟩) ∧
    (let m := collMsg 2 1 0 0 0
     gateMsg (linkState upPort [m]) (0#16).toNat 2 1 = some m) ∧
    (let m : InMsg := ⟨0, 2, 0, natLe 2 4 ++ natLe 2 1 ++ natLe 2 2 ++ zeros 10 ++ natLe 4 7 ++ zeros 4 ++ natLe 8 4 ++ zeros 16, 0⟩
     let j : Job := { someJob 0x0605 2 with payload := zeros 18 ++ [1#8] ++ zeros 1 ++ natLe 2 4 ++ zeros 2 ++ natLe 4 7 ++ zeros 4 }
     let s : State := { linkState upPort [m] with jobs := [j] }
     gateMsg s (0#16).toNat 2 2 = some m ∧
      (freeMsg 0 m s).jobs.find? (fun j => j.opcode == 0x0605 && j.phase == 2 && j.field 0x12 1 == 1 &&
        j.field 0x14 2 == fieldAt m.bytes 0 2 && j.field 0x18 4 == fieldAt m.bytes 0x10 4) = some j) :=
  ⟨by decide +kernel, by decide +kernel, flitRaw_good, by decide +kernel, by decide +kernel, by decide +kernel, by decide +kernel,
    by decide +kernel, by decide +kernel, by decide +kernel⟩

theorem witness_LinkLanes :
    (∀ lane ∈ [0, 3], let s := linkState upPort
      let k := (0#3).toNat
      let p := 4 * k + lane / 4
      Machine.marginJob s k = none ∧ lane < 16 ∧ (engineAt s k).spareRx = 0 ∧ (engineAt s k).switchRx = none ∧ (portAt s p).state = 2 ∧
        portIsPartner s p = true ∧ lnkCtl s p 1 1 = 1) ∧
    (let m : InMsg := ⟨0, 0, 1, natLe 16 4 ++ [3#8, 1#8] ++ zeros 6 ++ natLe 8 1, 0⟩
     let s := linkState upPort [m]
     let f := fieldAt m.bytes
     ctlMsg s (0#16).toNat 1 4 = some m ∧ f 0x11 1 = 1 ∧ s.beat.gnum < f 0x18 8 ∧ portIsPartner s m.port = true ∧
      (engineAt s (m.port / 4)).spareTx = 0 ∧ (engineAt s (m.port / 4)).switchTx = none) ∧
    (∀ status ∈ [0, 1],
      let m : InMsg := ⟨0, 0, 1, natLe 16 5 ++ [3#8, 1#8, BitVec.ofNat 8 status] ++ zeros 5 ++ natLe 8 2, 0⟩
      let w : SpareSwitch := ⟨3, 1, 2, false⟩
      let s := linkState upPort [m] { switchRx := some w }
      let f := fieldAt m.bytes
      ctlMsg s (0#16).toNat 1 5 = some m ∧ (engineAt s (m.port / 4)).switchRx = some w ∧ w.lane % 4 = f 0x10 1 % 4 ∧
        w.lane / 4 = m.port % 4 ∧ w.action = f 0x11 1 ∧ w.at_ = f 0x18 8 ∧ f 0x12 1 = status) ∧
    16 < 17 := by decide +kernel

/-- A training frame from lane `lane` of port 5 of node `node`, with the given state. -/
def trainingRaw (lane node st : Nat) : BitVec 2048 :=
  let bs := natLe 8 0x5A5AA5A50FF0C33C ++ natLe 1 lane ++ natLe 1 5 ++ natLe 2 node ++ natLe 2 0 ++ natLe 2 st ++ zeros 236
  BitVec.ofNat 2048 (leNat bs + 2 ^ 2016 * crcNow bs)

theorem trainingRaw_crc : ∀ e ∈ [(4, 9, 4), (4, 9, 2), (4, 8, 0)],
    let bs := flitBytes (trainingRaw e.1 e.2.1 e.2.2)
    fieldAt bs 0 8 = 0x5A5AA5A50FF0C33C ∧ crc32c (bs.take 0xFC) = fieldAt bs 0xFC 4 := by rw [crc_now]; decide +kernel

theorem witness_LinkTraining :
    (∀ e ∈ [(4, 9, 4), (4, 9, 2), (4, 8, 0)],
      let bs := flitBytes (trainingRaw e.1 e.2.1 e.2.2)
      fieldAt bs 0 8 = 0x5A5AA5A50FF0C33C ∧ crc32c (bs.take 0xFC) = fieldAt bs 0xFC 4) ∧
    (∀ phase ∈ [1, 3], let s := linkState { state := 1, phase := phase }
      let t := portAt s (0#5).toNat
      t.state = 1 ∧ 1 ≤ t.phase ∧ t.phase < 4 ∧
      (∀ st ∈ [4, 2], let bs := flitBytes (trainingRaw 4 9 st)
        fieldAt bs 8 1 = farLane s 0 0 ∧ fieldAt bs 9 1 = expectedPort s 0 ∧ fieldAt bs 0xA 2 = expectedNode s 0 ∧ fieldAt bs 0xE 2 = st) ∧
      fieldAt (flitBytes (trainingRaw 4 8 0)) 0xA 2 ≠ expectedNode s 0) ∧
    (let m : InMsg := ⟨0, 0, 1, natLe 2 1 ++ natLe 2 9 ++ natLe 1 5 ++ zeros 27, 0⟩
     let s := linkState { state := 1, phase := 5 } [m]
     let t := portAt (freeMsg 0 m s) m.port
     ctlMsg s (0#16).toNat 1 1 = some m ∧ t.state = 1 ∧ t.phase = 5 ∧ fieldAt m.bytes 2 2 = expectedNode s 0 ∧
      fieldAt m.bytes 4 1 = expectedPort s 0) ∧
    (let m : InMsg := ⟨0, 0, 1, natLe 16 2 ++ zeros 16, 0⟩
     ctlMsg (linkState upPort [m]) (0#16).toNat 1 2 = some m) ∧
    (let m : InMsg := ⟨0, 0, 1, natLe 16 3 ++ zeros 8 ++ natLe 2 16 ++ zeros 6, 0⟩
     let s := linkState { state := 1, phase := 6, echoSeq := 16, echoes := 15 } [m]
     let t := portAt (freeMsg 0 m s) m.port
     let rtt := m.at_ * 65536 / 3 - t.echoT1 * 65536 - fieldAt m.bytes 0x1C 4
     ctlMsg s (0#16).toNat 1 3 = some m ∧ fieldAt m.bytes 0x18 2 = t.echoSeq ∧ t.state = 1 ∧ t.phase = 6 ∧ t.echoes = 15 ∧
      4 * ((rtt + 65536 * 1000) * 3 / 65536) ≤ 3000 * lnkCtl (freeMsg 0 m s) 0 12 8) ∧
    (portAt (linkState upPort) (0#5).toNat).state = 2 ∧
    (∀ phase ∈ [1, 6], let t := portAt (linkState { state := 1, phase := phase }) (0#5).toNat
      t.state = 1 ∧ 1 ≤ t.phase ∧ t.phase < 7) ∧
    (let m : InMsg := ⟨0, 0, 1, natLe 16 6 ++ natLe 2 9 ++ zeros 6, 0⟩
     let o : GateOp := { someOp 1 with nodes := [0, 9] }
     let s : State := { linkState upPort [m] with gate := { ops := [o] } }
     let s₁ := freeMsg 0 m s
     ctlMsg s (0#16).toNat 1 6 = some m ∧ s₁.gate.ops.filter (fun o => o.nodes.contains (fieldAt m.bytes 0x10 2)) = [o] ∧
      gateOp s₁ o.id = some o ∧ parAwaiting (raisePeerLost (regionOf o.cell) o.ctx 0 9 5 3 o.key o.tag s₁) 9 = []) :=
  ⟨trainingRaw_crc, by decide +kernel, by decide +kernel, by decide +kernel, by decide +kernel, by decide +kernel, by decide +kernel,
    by decide +kernel⟩

theorem witness_LinkCommands :
    Meets 0x0501 0 (natLe 2 2 ++ zeros 6) (linkState upPort) (fun _ c => c.field 0 2 = 2) ∧
    Meets 0x0502 0 (natLe 1 31 ++ natLe 1 2 ++ zeros 6) (linkState upPort) (fun _ _ => True) ∧
    Meets 0x0503 0 ([0#8, 1#8, 3#8] ++ zeros 5) (linkState upPort) (fun s₁ c =>
      let e := engineAt s₁ (c.field 0 1)
      c.field 1 1 = 1 ∧ e.spareRx = 0 ∧ e.switchRx = none ∧ Machine.marginJob s₁ (c.field 0 1) = none ∧
        portIsPartner s₁ (4 * c.field 0 1 + c.field 2 1 / 4) = true) ∧
    (∀ lane ∈ [3, 4], Meets 0x0503 0 ([0#8, 2#8, BitVec.ofNat 8 lane] ++ zeros 5) (linkState upPort [] { spareRx := 4 }) (fun s₁ c =>
      c.field 1 1 ≠ 1 ∧ (lane = 3 → (engineAt s₁ (c.field 0 1)).spareRx = c.field 2 1 + 1) ∧
        (lane = 4 → (engineAt s₁ (c.field 0 1)).spareRx ≠ c.field 2 1 + 1) ∧ Machine.marginJob s₁ (c.field 0 1) = none)) ∧
    (∀ lane ∈ [3, 16], Meets 0x0703 0 ([0#8, BitVec.ofNat 8 lane] ++ zeros 6) (linkState upPort) (fun s₁ c =>
      let k := c.field 0 1
      (engineAt s₁ k).spareRx = 0 ∧ (engineAt s₁ k).switchRx = none ∧ Machine.marginJob s₁ k = none ∧ musterScope s₁ ≠ some (4, k) ∧
        c.field 1 1 = lane ∧ (lane ≠ 16 → portIsPartner s₁ (4 * k + c.field 1 1 / 4) = true))) ∧
    (let j := someJob 0x0703 1
     let s : State := { linkState upPort with jobs := [j] }
     Machine.marginJob s (0#3).toNat = some j ∧ j.phase ≠ 0) := by
  refine ⟨meets (by decide +kernel) (by decide +kernel), meets (by decide +kernel) trivial, meets (by decide +kernel) (by decide +kernel), ?_, ?_,
    by decide +kernel⟩ <;>
  · intro lane h
    simp only [List.mem_cons, List.not_mem_nil, or_false] at h
    obtain rfl | rfl := h <;> exact meets (by decide +kernel) (by decide +kernel)

theorem witness_MemoryAndTestCommands :
    Meets 0x0402 0 (natLe 8 1) State.reset (fun s₁ _ => residents s₁ = [] ∧ jobsOf s₁ 0x0402 0 = []) ∧
    Meets 0x0403 0 (natLe 8 0x1000 ++ natLe 8 64 ++ natLe 8 0) State.reset (fun s₁ c =>
      deniedOut c (c.field 0x10 8) = false ∧ rangeFault (c.field 0 8) (c.field 8 4) = none ∧
        (memPieces (c.field 0 8) noLine (pieces (c.field 0 8) (c.field 8 4)) 0 s₁).bad = none) ∧
    Meets 0x0404 0 (natLe 8 0x1000 ++ natLe 8 4 ++ natLe 8 0 ++ natLe 4 7) State.reset (fun s₁ c =>
      rangeFault (c.field 0 8) (c.field 8 4) = none ∧ c.field 0x10 8 = 0 ∧ c.fromRing = false ∧
        (putPieces (c.field 0 8) ((c.payload.drop 0x18).take (c.field 8 4)) (pieces (c.field 0 8) (c.field 8 4)) s₁).1 = none) ∧
    Meets 0x0404 0 (natLe 8 0x1000 ++ natLe 8 64 ++ natLe 8 0x2000) State.reset (fun s₁ c =>
      let q := memPieces (c.field 0x10 8) noLine (pieces (c.field 0x10 8) (c.field 8 4)) 0 s₁
      rangeFault (c.field 0 8) (c.field 8 4) = none ∧ c.field 0x10 8 ≠ 0 ∧ q.bad = none ∧
        (putPieces (c.field 0 8) q.bytes (pieces (c.field 0 8) (c.field 8 4)) q.st).1 = none) ∧
    Meets 0x0702 0 (natLe 8 7 ++ natLe 8 1) State.reset (fun s₁ c =>
      stackBusy s₁ (c.field 0 1) = false ∧ musterScope s₁ ≠ some (3, c.field 0 1)) ∧
    (∀ e ∈ [(0, 4095), (6, 0)], Meets 0x0701 0 (natLe 1 e.1 ++ natLe 1 1 ++ natLe 2 e.2 ++ zeros 4) State.reset (fun s₁ c =>
      ¬(c.field 0 1 = 0 ∧ c.field 2 2 < 4096 ∧ isVacant s₁ (c.field 2 2) = true) ∧
        musterBusy s₁ (c.field 0 1) (c.field 1 1) (if c.field 0 1 = 0 then scopeCell s₁ (c.field 2 2) else c.field 2 2) = false)) ∧
    Meets 0x0801 0 (zeros 40) { State.reset with boot := { idOk := true } } (fun s₁ c =>
      s₁.boot.idOk = true ∧ deniedOut c (c.field 0x18 8) = false ∧ c.field 0x18 8 = 0) ∧
    (let j := someJob 0x0701 0
     ({ State.reset with jobs := [j] } : State).jobs.find? (fun j => j.opcode == 0x0701) = some j) := by
  refine ⟨meets (by decide +kernel) (by decide +kernel), meets (by decide +kernel) (by decide +kernel), meets (by decide +kernel) (by decide +kernel),
    meets (by decide +kernel) (by decide +kernel), meets (by decide +kernel) (by decide +kernel), ?_, meets (by decide +kernel) (by decide +kernel),
    by decide +kernel⟩
  intro e h
  simp only [List.mem_cons, List.not_mem_nil, or_false] at h
  obtain rfl | rfl := h <;> exact meets (by decide +kernel) (by decide +kernel)

/-- The least and the greatest cap, and none; before the guard point and at it. -/
theorem witness_PowerAndUrgentCommands :
    (∀ v ∈ [0, 1500, 3600], Meets 0x0901 0 (natLe 8 v) State.reset (fun _ c => c.field 0 4 = 0 ∨ (1500 ≤ c.field 0 4 ∧ c.field 0 4 ≤ 3600))) ∧
    Meets 0x0902 1 (natLe 8 255) (ctxState { st := .stored }) (fun s₁ c => (ctxAt s₁ c.ctx).st ≠ .free) ∧
    (∀ st ∈ [CtxSt.unparked, .parked, .stored], Meets 0x0F01 1 (natLe 8 0) { ctxState { st := st } with cycle := 45000 } (fun s₁ c =>
      c.field 0 1 ≠ 1 ∧ (ctxAt s₁ c.ctx).st = st)) ∧
    Meets 0x0F01 0 (natLe 8 1) (ctxState { st := .unparked }) (fun s₁ c => c.field 0 1 = 1 ∧ parkedOrStored s₁ = []) ∧
    Meets 0x0F02 0 (natLe 8 4095) State.reset (fun _ _ => True) ∧ Meets 0x0F03 0 (natLe 8 1) State.reset (fun _ _ => True) := by
  refine ⟨?_, meets (by decide +kernel) (by decide +kernel), ?_, meets (by decide +kernel) (by decide +kernel), meets (by decide +kernel) trivial,
    meets (by decide +kernel) trivial⟩
  · intro v h
    simp only [List.mem_cons, List.not_mem_nil, or_false] at h
    obtain rfl | rfl | rfl := h <;> exact meets (by decide +kernel) (by decide +kernel)
  · intro v h
    simp only [List.mem_cons, List.not_mem_nil, or_false] at h
    obtain rfl | rfl | rfl := h <;> exact meets (by decide +kernel) (by decide +kernel)

/-! ### Firmware, boot and the flash

The signature algorithm, its keys and the ROM hash have no body in Config. A witness that needs a signature that verifies
takes that as its hypothesis. -/

/-- A flash that holds images of bytes at offsets. -/
def flashing (l : List (Nat × List Byte)) (s : State) : State := l.foldl (fun s e => flashPut e.1 e.2 s) s

/-- A Boot Record with ACTIVE 0, TRIAL set, SERIAL 1 and a root key of zeros. -/
def bootImage : List Byte := withCrc (natLe 4 0x44425242 ++ natLe 2 1 ++ natLe 1 0 ++ natLe 1 1 ++ natLe 8 1 ++ zeros 236)

/-- An Ozmin image of version 3 that requires 2, with an empty body. -/
def fwImage : List Byte :=
  natLe 4 0x4E494D4F ++ natLe 2 1 ++ [1#8, 0#8] ++ natLe 4 3 ++ natLe 4 2 ++ natLe 4 0 ++ natLe 4 0 ++ zeros 40 ++ sha512 [] ++ zeros 64

/-- An owner record of SERIAL 1 with a key in ticket slot 0 and zeros for its other fields. -/
def ownerImage : List Byte :=
  withCrc (natLe 4 0x44524E4F ++ natLe 2 1 ++ natLe 2 0 ++ natLe 8 1 ++ zeros 80 ++ [1#8] ++ zeros 411)

/-- Every signature verifies, and the ROM mask holds the hash of a root key of zeros. -/
def SignaturesPass : Prop := (∀ k m g, Config.ed25519Verify k m g = true) ∧ Config.romHash = sha512Head (zeros 32)

/-- What is left of the check of a Boot Record. -/
theorem bootCopyOk_passes (h : SignaturesPass) : bootCopyOk = fun s k =>
    let b := flashGet s (0x10000 * k) 256
    decide (fieldAt b 0 4 = 0x44425242) && decide (fieldAt b 4 2 = 1) && decide (fieldAt b 0xFC 4 = crcNow (b.take 0xFC)) &&
      decide (sha512Head ((b.drop 0x20).take 32) = sha512Head (zeros 32)) := by
  funext s k
  simp only [bootCopyOk, h.1, h.2, crc_now, Bool.and_true]

def trialState : State := flashing [(0, bootImage)] { State.reset with oz := { running := true } }

theorem flashGet_put (off : Nat) (bs : List Byte) (s : State) : flashGet (flashPut off bs s) off bs.length = bs := by
  refine List.ext_getElem (by simp [flashGet, sGetAll]) fun i h _ => ?_
  simp [flashGet, sGetAll] at h
  simp [flashGet, sGetAll, flashPut, sGet_setAll_same _ _ _ _ i h]

theorem flashGet_beyond {off o n : Nat} {bs : List Byte} (s : State) (h : o + n ≤ off ∨ off + bs.length ≤ o) :
    flashGet (flashPut off bs s) o n = flashGet s o n := by
  refine List.map_congr_left fun i hi => ?_
  simp only [List.mem_range] at hi
  exact sGet_setAll_other _ _ _ (by omega)

theorem bootImage_length : bootImage.length = 256 := by decide +kernel

theorem bootImage_ok (h : SignaturesPass) (s : State) (e : flashGet s 0 256 = bootImage) : bootCopyOk s 0 = true := by
  rw [bootCopyOk_passes h]
  simp only [Nat.mul_zero, e]
  decide +kernel

theorem trialState_boot (h : SignaturesPass) : bootCopy trialState = some 0 := by
  have e := flashGet_put 0 bootImage { State.reset with oz := { running := true } }
  rw [bootImage_length] at e
  have f : bootCopyOk trialState 1 = false := by
    have g : flashGet trialState (0x10000 * 1) 256 = List.replicate 256 0xFF#8 :=
      (flashGet_beyond _ (by rw [bootImage_length]; omega)).trans (by decide +kernel)
    rw [bootCopyOk_passes h]
    simp only [g]
    decide +kernel
  simp [bootCopy, newerCopy, bootImage_ok h trialState e, f]

theorem ownerCopyOk_now : ownerCopyOk = fun s k =>
    let b := flashGet s (ownerOff k) 512
    decide (fieldAt b 0 4 = 0x44524E4F) && decide (fieldAt b 4 2 = 1) && decide (fieldAt b 0x1FC 4 = crcNow (b.take 0x1FC)) := by
  funext s k
  simp only [ownerCopyOk, crc_now]

/-- A claimed device whose owner record is the one above. -/
def ownedState : State := flashing [(0xA0000, ownerImage)] { State.reset with boot := { secret := some key1 } }

/-- An image that lies in the shadow slot of a device just reset. -/
def imageState : State := flashing [(0x2000000, fwImage)] State.reset

theorem imageState_image : flashGet (asked imageState) 0x2000000 192 = fwImage := by
  have e := flashGet_put 0x2000000 fwImage State.reset
  rwa [show fwImage.length = 192 by decide +kernel] at e

theorem imageState_ok (h : SignaturesPass) : ozminImageOk (asked imageState) (shadowSlot (asked imageState)) = true := by
  have o : slotOff (shadowSlot (asked imageState)) = 0x2000000 := rfl
  have b : flashGet (asked imageState) (0x2000000 + 192) 0 = [] := rfl
  have n : fieldAt fwImage 0x10 4 = 0 := by decide +kernel
  simp only [ozminImageOk, imageOk, h.1, o, imageState_image, n, b, Bool.and_true]
  decide +kernel

theorem ownerImage_length : ownerImage.length = 512 := by decide +kernel

theorem ownedState_record (s : State) (h : s.boot.flash = ownedState.boot.flash) : ownerRecord s = some ownerImage := by
  have f : flashGet s = flashGet ownedState := by funext o n; simp only [flashGet, h]
  have e : flashGet s (ownerOff 0) 512 = ownerImage := by
    have e := flashGet_put 0xA0000 ownerImage { State.reset with boot := { secret := some key1 } }
    rw [f]
    rwa [ownerImage_length] at e
  have g : flashGet s (ownerOff 1) 512 = List.replicate 512 0xFF#8 := by
    rw [f]
    exact (flashGet_beyond _ (by rw [ownerImage_length]; decide)).trans (by decide +kernel)
  have p : ownerCopyOk s 0 = true := by rw [ownerCopyOk_now]; simp only [e]; decide +kernel
  have q : ownerCopyOk s 1 = false := by rw [ownerCopyOk_now]; simp only [g]; decide +kernel
  simp [ownerRecord, ownerCopy, newerCopy, p, q, e]

theorem witness_FirmwareCommands (h : SignaturesPass) :
    (∀ src ∈ [0, 0x100000], Meets 0x0A04 0 (natLe 4 0xFFFFF8 ++ natLe 4 8 ++ natLe 8 src ++ if src = 0 then natLe 8 5 else [])
      State.reset (fun s₁ c => c.field 0 4 + c.field 4 4 ≤ 0x1000000 ∧ bootActive s₁ ≠ shadowSlot s₁ ∧
        (c.field 8 8 = 0 → c.fromRing = false) ∧ (readRegions noLine [(c.field 8 8, c.field 4 4)] 0 s₁).1 = none)) ∧
    Meets 0x0A05 0 (natLe 4 192 ++ natLe 4 0) imageState (fun s₁ c =>
      flashNat s₁ (slotOff (shadowSlot s₁) + 0x10) 4 + 192 = c.field 0 4 ∧ ozminImageOk s₁ (shadowSlot s₁) = true ∧
        bootFloor s₁ ≤ imageVersion s₁ (slotOff (shadowSlot s₁)) ∧ (bootTrial s₁ = false ∨ bootActive s₁ ≠ s₁.boot.slot) ∧
        c.field 4 4 ≠ 1) ∧
    Meets 0x0A06 0 (natLe 32 9 ++ natLe 8 0) { State.reset with boot := { idOk := true } } (fun s₁ c =>
      s₁.boot.idOk = true ∧ deniedOut c (c.field 0x20 8) = false) ∧
    (∀ v ∈ [0, 1], Meets 0x0A07 0 (natLe 8 7 ++ natLe 8 v) ownedState (fun s₁ c =>
      s₁.boot.secret = some key1 ∧ ownerRecord s₁ = some ownerImage ∧
        fieldAt ownerImage (0x160 + 8 * c.field 0 1) 8 + v = c.field 8 8)) ∧
    (let s : State := { State.reset with jobs := [someJob 0x0A04 0] }
     s.jobs.find? (fun j => j.opcode == 0x0A04) = some (someJob 0x0A04 0)) ∧
    (trialState.oz.running = true ∧ bootTrial trialState = true ∧ bootActive trialState = trialState.boot.slot) ∧
    ({ State.reset with boot := { writing := some .release } } : State).boot.writing = some .release := by
  refine ⟨?_, meets (by decide +kernel) ⟨by decide +kernel, imageState_ok h, by decide +kernel, by decide +kernel, by decide +kernel⟩,
    meets (by decide +kernel) (by decide +kernel), ?_, by decide +kernel, ⟨rfl, ?_, ?_⟩, rfl⟩
  · intro k h
    simp only [List.mem_cons, List.not_mem_nil, or_false] at h
    obtain rfl | rfl := h <;> exact meets (by decide +kernel) (by decide +kernel)
  · intro v hv
    simp only [List.mem_cons, List.not_mem_nil, or_false] at hv
    obtain rfl | rfl := hv <;> exact meets (by decide +kernel) ⟨rfl, ownedState_record _ rfl, by decide +kernel⟩
  · rw [bootTrial, bootRecord, trialState_boot h]; decide +kernel
  · rw [bootActive, bootRecord, trialState_boot h]; decide +kernel

/-- Bytes are programmed at the shadow slot after an erase (R550). -/
theorem test_programming :
    let j : Job := ⟨3, .session 1 0 0, 0x0A04, 0, 0, 0, natLe 4 1 ++ natLe 4 2 ++ natLe 8 0 ++ [0xAA#8, 0xBB#8], 0, 0, [], []⟩
    let t := ran (exec .imageProgrammingDone (flashing [(0x2000000, [0#8, 0#8]), (0x2010000, [7#8])] { State.reset with jobs := [j] }))
    flashGet t 0x2000000 4 = [0xFF#8, 0xAA#8, 0xBB#8, 0xFF#8] ∧ flashGet t 0x2010000 1 = [7#8] := by decide +kernel

/-- The device at stage k of the boot sequence. -/
def stageState (k : Nat) (flash : Sparse Byte := []) : State := { State.reset with boot := { stage := k, flash := flash } }

theorem witness_BootSequence :
    (let s : State := { State.reset with pins := { inReset := true } }
     s.pins.inReset = true ∧ s.pins.pwrgd = true ∧ s.pins.alert = false) ∧
    (∀ k ∈ [1, 2, 4, 6, 8], let s := stageState k
      s.pins.inReset = false ∧ s.boot.status = 0 ∧ s.boot.stage = k) ∧
    (stageState 1).pins.straps < 8 ∧ bootCopy (stageState 2) = none ∧
    (let s : State := { State.reset with boot := { restart := true }, oz := { running := true } }
     s.boot.restart = true ∧ s.oz.running = true) := by decide +kernel

theorem witness_BootSequence_record (h : SignaturesPass) :
    let s := flashing [(0, bootImage)] (stageState 2)
    s.pins.inReset = false ∧ s.boot.status = 0 ∧ s.boot.stage = 2 ∧ (bootCopy s).isSome = true := by
  intro s
  have e := flashGet_put 0 bootImage (stageState 2)
  rw [bootImage_length] at e
  have p : bootCopyOk s 0 = true := bootImage_ok h s e
  refine ⟨rfl, rfl, rfl, ?_⟩
  simp [bootCopy, newerCopy, p]
  split <;> rfl

/-- Training that fails on stacks 0 and 7 leaves the other six in service (R548). -/
theorem test_stack_training : let t := ran (exec (.bootStage 0x81 none) (stageState 4))
    (List.range 8).map (fun n => (dieAt t n).state) = [2, 1, 1, 1, 1, 1, 1, 2] := by decide +kernel

/-- Values at the ends of the ranges, and counts just before the last. -/
theorem witness_Environment :
    (let s := State.reset
     s.pins.inReset = false ∧ s.flt.safeHold = false ∧ s.out = [] ∧ residents s = [] ∧
      (sensorRule 3 (sGet {} s.pwr.sensors 3).value).1 = false) ∧
    (∀ e ∈ [(0, 60001, 50), (1, 401, 3), (2, 2499, 10), (3, -50001, 3)],
      let s : State := { State.reset with pwr := { sensors := [(e.1, ⟨0, e.2.2 - 1⟩)] } }
      (sensorRule e.1 e.2.1).1 = true ∧ (sGet {} s.pwr.sensors e.1).outside + 1 = (sensorRule e.1 e.2.1).2.1) ∧
    (∀ e ∈ [(0, 60000), (1, 200), (2, 2500), (3, 50000)], (sensorRule e.1 e.2).1 = false ∧ 0 ≠ (sensorRule e.1 e.2).2.1) ∧
    (let s : State := { State.reset with boot := { booted := true } }; s.flt.safeHold = false ∧ s.boot.booted = true) ∧
    (28#5).toNat < 29 ∧ isVacant (withCell {}) (0 : LCell).toNat = false := by decide +kernel

/-- The second coolant temperature out of range in a row does not trip, and the third does (Environment, chapter 19). -/
theorem test_sensor : let s := { State.reset with boot := { booted := true }, pwr := { sensors := [(1, ⟨401, 1⟩)] } }
    (ran (exec (.envSensorSample 1 500) s)).flt.safeHold = false ∧
      (ran (exec (.envSensorSample 1 500) { s with pwr := { sensors := [(1, ⟨401, 2⟩)] } })).flt.safeHold = true := by decide +kernel

/-! ### A session opens -/

theorem shaRound_length {v : List Word} (kw : Word × Word) (h : v.length = 8) : (shaRound v kw).length = 8 := by
  match v, h with
  | [_, _, _, _, _, _, _, _], _ => rfl

theorem shaBlock_length {v : List Word} (bs : List Byte) (h : v.length = 8) : (shaBlock v bs).length = 8 := by
  have f : ∀ (l : List (Word × Word)) (v : List Word), v.length = 8 → (l.foldl shaRound v).length = 8 := by
    intro l
    induction l with
    | nil => exact fun v h => h
    | cons a l ih => exact fun v h => ih _ (shaRound_length a h)
  simp [shaBlock, f _ _ h, h]

theorem sha512From_length {init : List Word} (bs : List Byte) (h : init.length = 8) : (sha512From init bs).length = 64 := by
  have f : ∀ (n : Nat) (v : List Word) (bs : List Byte), v.length = 8 → (shaBlocks n v bs).length = 8 := by
    intro n
    induction n with
    | zero => exact fun v bs h => h
    | succ n ih => exact fun v bs h => ih _ _ (shaBlock_length bs h)
  have g : ∀ l : List Word, (l.flatMap (fun w => natBe 8 w.toNat)).length = 8 * l.length := by
    intro l
    induction l with
    | nil => rfl
    | cons a l ih => simp [natBe, natLe]; omega
  simp [sha512From, g, f _ _ _ h]

theorem hmac256_length (k bs : List Byte) : (hmac256 k bs).length = 32 := by
  simp [hmac256, sha512t256, sha512From_length _ (show sha512t256Init.length = 8 from rfl)]

theorem deviceDigest_length (s : State) : (deviceDigest s).length = 32 := by
  simp [deviceDigest, sha512Head, sha512, sha512From_length _ (show sha512Init.length = 8 from rfl)]

theorem fieldAt_left {a : List Byte} (z : List Byte) {o n : Nat} (h : o + n ≤ a.length) : fieldAt (a ++ z) o n = fieldAt a o n := by
  rw [fieldAt, fieldAt, List.drop_append_of_le_length (by omega), List.take_append_of_le_length (by simp; omega)]

/-- A ticket of slot 0 for the device of a digest, before and after the digest: all rights, 86,400 s. -/
def ticketLead : List Byte := natLe 4 0x54454B54 ++ natLe 2 1 ++ [0#8, 0#8] ++ natLe 4 0xFFFFFFFF ++ natLe 4 86400 ++ natLe 8 0

def ticketOf (digest : List Byte) : List Byte := ticketLead ++ (digest ++ zeros 72)

theorem ticketOf_length {d : List Byte} (h : d.length = 32) : (ticketOf d).length = 128 := by
  simp [ticketOf, h, show ticketLead.length = 24 by decide, zeros]

/-- Half-open session 5 of a claimed device. -/
def openHalf : HalfOpen := ⟨5, zeros 16, zeros 16⟩

def opening (s : State) : State := { s with
  oz := { running := true, half := [openHalf] }, pins := { mgmtSpeed := 2 }, boot := { s.boot with idOk := true } }

theorem opening_flash (s : State) : (opening s).boot.flash = s.boot.flash := rfl

def openState : State := opening ownedState

def openTicket : List Byte := ticketOf (deviceDigest (regCount aMgmtRx 1 openState))

def openHead : List Byte := natLe 2 0x0A02 ++ natLe 4 0 ++ natLe 2 128 ++ natLe 4 7 ++ natLe 4 0 ++ natLe 8 1 ++ natLe 8 0

def openDatagram : Datagram := datagram 5 (sessionKey key1 openTicket openHalf) (openHead ++ openTicket)

theorem openTicket_length : openTicket.length = 128 := ticketOf_length (deviceDigest_length _)

theorem openDatagram_body : datagramBody openDatagram true = openHead ++ openTicket := by
  have n : (openHead ++ openTicket).length = 160 := by simp [openTicket_length, show openHead.length = 32 by decide]
  have p : (natLe 4 5 ++ [1#8, 1#8, 0#8, 0#8] : List Byte).length = 8 := rfl
  simp only [datagramBody, openDatagram, datagram, List.append_assoc _ _ (openHead ++ openTicket)]
  rw [show ∀ t : List Byte, (natLe 4 5 ++ ([1#8, 1#8, 0#8, 0#8] ++ (openHead ++ openTicket)) ++ t : List Byte) =
    (natLe 4 5 ++ [1#8, 1#8, 0#8, 0#8]) ++ ((openHead ++ openTicket) ++ t) from fun t => by simp]
  rw [List.drop_left' p]
  simp only [List.length_append, hmac256_length]
  refine List.take_left' ?_
  simp [openTicket_length, show openHead.length = 32 by decide]
  decide

theorem regCount_flash (s : State) (a n : Nat) : (regCount a n s).boot.flash = s.boot.flash := rfl

theorem ticketKey_of {s : State} {b : List Byte} {n : Nat} (h : ownerRecord s = some b) :
    ticketKey s n = (b.drop (0x60 + 32 * n)).take 32 := by
  unfold ticketKey; split
  · rename_i h'; rw [h] at h'; cases h'; exact rfl
  · rename_i h'; rw [h] at h'; cases h'

theorem ownerField_of {s : State} {k b : List Byte} {o n : Nat} (hk : s.boot.secret = some k) (h : ownerRecord s = some b) :
    ownerField s o n = fieldAt b o n := by
  rw [ownerField, hk, h]

theorem ownerImage_key : (ownerImage.drop (0x60 + 32 * 0)).take 32 = 1#8 :: zeros 31 := by decide +kernel

theorem ownerImage_floor : fieldAt ownerImage 0x160 8 = 0 := by decide +kernel

theorem witness_Sessions_open (h : SignaturesPass) :
    let s := openState
    let d := openDatagram
    let n := fieldAt d.bytes 0 4
    let bs := datagramBody d true
    let c := cmdOf (.session n d.addr.toNat d.port.toNat) bs
    mgmtOn s = true ∧ datagramOk d = true ∧ s.oz.half.find? (fun h => h.num == n) = some openHalf ∧ c.opcode = 0x0A02 ∧
    openFault c bs 128 = none ∧ s.boot.secret = some key1 ∧ ticketGood (regCount aMgmtRx 1 s) c.payload = true ∧
    datagramTagged d (sessionKey key1 c.payload openHalf) = true ∧ (openSessions s).length < 16 := by
  intro s d n bs c
  have hb : bs = openHead ++ openTicket := openDatagram_body
  have hl : openHead.length = 32 := rfl
  have bytes : d.bytes = (natLe 4 5 ++ [1#8, 1#8, 0#8, 0#8]) ++ ((openHead ++ openTicket) ++
      hmac256 (sessionKey key1 openTicket openHalf) (natLe 4 5 ++ [1#8, 1#8, 0#8, 0#8] ++ (openHead ++ openTicket))) := by
    simp [d, openDatagram, datagram]
  have len : d.bytes.length = 200 := by
    rw [bytes]; simp [hmac256_length, openTicket_length, hl]; decide
  have f : ∀ o k, o + k ≤ 8 → fieldAt d.bytes o k = fieldAt (natLe 4 5 ++ [1#8, 1#8, 0#8, 0#8]) o k := fun o k h => by
    rw [bytes]; exact fieldAt_left _ h
  have g : ∀ o k, o + k ≤ 32 → fieldAt bs o k = fieldAt openHead o k := fun o k h => by rw [hb]; exact fieldAt_left _ h
  have pay : c.payload = openTicket := by
    have e : (bs.drop 32).take (fieldAt bs 6 2) = openTicket := by
      rw [g 6 2 (by omega), hb, List.drop_left' hl]
      exact List.take_of_length_le (by rw [openTicket_length]; decide)
    exact e
  have tf : ∀ o k, o + k ≤ 24 → fieldAt openTicket o k = fieldAt ticketLead o k := fun o k h => fieldAt_left _ h
  have tail : fieldAt openTicket 0x38 8 = 0 := by
    rw [openTicket, ticketOf, ← List.append_assoc]
    exact fieldAt_trail _ _ (by simp [deviceDigest_length]; decide)
  refine ⟨by decide +kernel, ?_, ?_, ?_, ?_, rfl, ?_, ?_, by decide +kernel⟩
  · simp (disch := omega) only [datagramOk, len, f]; decide +kernel
  · rw [show n = 5 from (f 0 4 (by omega)).trans (by decide +kernel)]; decide +kernel
  · exact (g 0 2 (by omega)).trans (by decide +kernel)
  · have a1 : c.flags = 0 := (g 2 2 (by omega)).trans (by decide +kernel)
    have a2 : c.ctx = 0 := (g 4 2 (by omega)).trans (by decide +kernel)
    have a3 : c.opcode = 0x0A02 := (g 0 2 (by omega)).trans (by decide +kernel)
    simp (disch := omega) only [openFault, a1, a2, a3, pay, pktField, g, payloadChecks, tf, tail]
    decide +kernel
  · have r : ownerRecord (regCount aMgmtRx 1 s) = some ownerImage :=
      ownedState_record _ ((regCount_flash (opening ownedState) aMgmtRx 1).trans (opening_flash ownedState))
    have k : ticketKey (regCount aMgmtRx 1 s) 0 = 1#8 :: zeros 31 := (ticketKey_of r).trans ownerImage_key
    have w : ownerField (regCount aMgmtRx 1 s) 0x160 8 = 0 := (ownerField_of (k := key1) rfl r).trans ownerImage_floor
    have dg : (openTicket.drop 0x18).take 32 = deviceDigest (regCount aMgmtRx 1 s) := by
      rw [openTicket, ticketOf, List.drop_left' (by decide)]
      exact List.take_left' (deviceDigest_length _)
    have z : fieldAt ticketLead 6 1 = 0 := by decide
    simp (disch := omega) only [ticketGood, pay, tf, z, Nat.mul_zero, Nat.add_zero, k, w, dg, h.1]
    decide +kernel
  · rw [pay, datagramTagged, len]
    have e : d.bytes.take 168 = natLe 4 5 ++ [1#8, 1#8, 0#8, 0#8] ++ (openHead ++ openTicket) := by
      rw [bytes, ← List.append_assoc]
      exact List.take_left' (by simp [openTicket_length, hl]; decide)
    have t : d.bytes.drop 168 =
        hmac256 (sessionKey key1 openTicket openHalf) (natLe 4 5 ++ [1#8, 1#8, 0#8, 0#8] ++ (openHead ++ openTicket)) := by
      rw [bytes, ← List.append_assoc]
      exact List.drop_left' (by simp [openTicket_length, hl]; decide)
    simp [e, t]

/-! ### Tally, registers and ports -/

/-- A Factory Record whose oscillator 59 runs at 1.0 Hz, and a reading of it due. -/
def ageState : State :=
  flashing [(0x20000, natLe 4 0x44465246 ++ natLe 2 1), (0x20000 + 0x9A00 + 8 * 59, natLe 4 0x3F800000 ++ natLe 4 0)]
    { State.reset with tly := { ageLate := [59] } }

theorem ageState_factory (h : SignaturesPass) : factoryBase ageState = some 0x20000 := by
  have e : factoryCopyOk ageState 0 = true := by simp only [factoryCopyOk, h.1, Bool.and_true]; decide +kernel
  rw [factoryBase, e]; rfl

theorem witness_TallyEvents (h : SignaturesPass) :
    ((28#5).toNat < 29 ∧ (28#5).toNat ∉ State.reset.tly.tempsNew) ∧
    (∀ e ∈ [(1001, 4000, true), (1001, 4001, false), (0, 5, false)],
      let s : State := { State.reset with cycle := e.2.1 - 1, pwr := { domains := [(7, { last := e.1 })] } }
      let d := sGet {} s.pwr.domains (7#6).toNat
      decide (d.last ≠ 0 ∧ s.cycle + 1 < d.last + 3000) = e.2.2) ∧
    ((59#6).toNat < 60 ∧ (59#6).toNat ∈ ageState.tly.ageLate ∧
      fp32Ratio (factoryNat ageState (0x9A00 + 8 * (59#6).toNat) 4) = some (2 ^ 23, 2 ^ 23) ∧
      (fp32Ratio (factoryNat ageState (0x9A00 + 8 * (59#6).toNat + 4) 4)).isSome = true ∧ (0 : Int) < 2 ^ 23) ∧
    (State.reset.tly.temps = [] ∧ State.reset.tly.ready = false ∧ ∀ j ∈ State.reset.jobs, j.opcode ≠ 0x0801) ∧
    (let s : State := { State.reset with tly := { ready := true, ckptLeft := 0 } }; s.tly.ready = true ∧ s.tly.ckptLeft = 0) ∧
    (let s : State := { State.reset with oz := { running := true }, tly := { queue := [⟨2, 0, 0, 0, 0, [], []⟩] } }
     s.oz.running = true ∧ s.tly.queue = ⟨2, 0, 0, 0, 0, [], []⟩ :: []) ∧
    (State.reset.pins.inReset = false ∧ State.reset.flt.safeHold = false ∧ State.reset.pwr.loans = []) := by
  refine ⟨by decide +kernel, by decide +kernel, ⟨by decide +kernel, by decide +kernel, ?_, ?_, by decide +kernel⟩, by decide +kernel,
    by decide +kernel, by decide +kernel, by decide +kernel⟩ <;>
  · rw [factoryNat, factoryGet, ageState_factory h]; decide +kernel

/-- Die 2 at 100 °C heats its region (R563). -/
theorem test_hot : (ran (exec (.dieTempRead 2 100) State.reset)).pwr.hot = [2] ∧
    (ran (exec (.dieTempRead 2 99) State.reset)).pwr.hot = [] := by decide +kernel

/-- BEAT_CTL, its high half, and an address that 4 does not divide; the doorbell of an OS core; the last word of a page. -/
theorem witness_RegisterAccesses :
    coreRuns State.reset (35 : Fin 36).val = true ∧
    coreRuns { State.reset with boot := { osRun := true } } (31 : Fin 36).val = true ∧
    (∀ e ∈ [(35, 0xE000010010#40, 7#6, RegPart.whole), (32, 0xE000010010#40, 3#6, .low), (35, 0xE000010014#40, 3#6, .high),
        (0, 0xE000000000#40, 7#6, .whole)],
      let a := e.2.1.toNat
      isRegAddr a = true ∧ accessPart a (e.2.2.1.toNat + 1) = some e.2.2.2 ∧ coreAdmitted e.1 (a - a % 8) = true) ∧
    (∀ e ∈ [(0xE000010012, 4), (0xE000010014, 8), (0xE000010010, 64)],
      let a : Nat := e.1
      let k : Nat := e.2
      isRegAddr a = true ∧ ¬(k = 8 ∧ a % 8 = 0) ∧ ¬(k = 4 ∧ a % 4 = 0)) ∧
    logQueued State.reset + 96 ≤ 192 * 1024 := by decide +kernel

/-- A core's write of BEAT_CTL's high half: BARRIER is bit 40, and takes effect at a boundary (R45). -/
theorem test_register_write : let t := ran (exec (.beatCtlWrite 35 .high 0x100#64) State.reset)
    (regField t aBeatCtl 40 40, effField t aBeatCtl 40 40) = (1, 0) := by decide +kernel

/-- The first job byte, the scratchpad's last, an address between windows, and a word of a register; a check that fails, and a
poisoned line that a partial store meets. -/
theorem witness_HallAccesses :
    let s := State.reset
    let held : State := { s with flt := { safeHold := true } }
    let bad : State := { s with mem := { poison := [(hbmKey 1 0 / 64, true)] } }
    coreRuns s (35 : Fin 36).val = true ∧ coreRuns held (35 : Fin 36).val = true ∧ s.flt.safeHold = false ∧
    held.flt.safeHold = true ∧
    (∀ pa ∈ [4096, 0xC03FFFFFFF], physAt s pa ≠ .reg ∧ physAt s pa ≠ .reserved ∧ (physRead s pa 1 .clean 0).bad = none ∧
      (physWrite s pa [1#8]).2 = none ∧ physAt held pa ≠ .reg ∧ physAt held pa ≠ .reserved) ∧
    (physRead s 4096 8 .uncorrectable 0).bad = some 4096 ∧ physAt s 4096 = .hbm 1 0 ∧ (physWrite bad 4096 [1#8]).2 = some 4096 ∧
    physAt s 0xC040000000 = .reserved ∧ physAt s 0xE000010010 = .reg ∧ accessPart 0xE000010010 8 = some .whole := by decide +kernel

/-- The debug owner as given, the device claimable, past stage 3. -/
def debugState (owner : Nat) : State := { State.reset with pins := { owner := owner, i3cAddr := 9, i3cReg := aBootCtl }, boot := { stage := 3 } }

theorem witness_DebugPorts :
    (∀ k ∈ [0, 1, 2], (debugState k).pins.owner = k ∧ (debugState k).pins.inReset = false ∧ 3 ≤ (debugState k).boot.stage ∧
      (debugState k).pins.i3cAddr ≠ 0) ∧
    (let s : State := { State.reset with pins := { inReset := true } }; s.pins.inReset = true) ∧
    State.reset.pins.i3cAddr = 0 ∧ (0x3A#7).toNat = staticAddr State.reset ∧
    tapMusterOpen State.reset = false ∧ tapMusterOpen (debugState 1) = true ∧
    (tapScope 0x100#64 (debugState 1)).isSome = true ∧ tapScope 0xFF#64 (debugState 1) = none ∧
    (∀ k ∈ [1, 2], isRegAddr aBootCtl = true ∧ aBootCtl % 8 = 0 ∧ debugAdmitted (debugState k) aBootCtl = true ∧
      debugAdmitted (debugState k) aBeatCtl = false ∧ aBeatCtl < 2 ^ 40 ∧
      debugAdmitted { debugState k with boot := { stage := 3, secret := some key1 } } aBootCtl = false) ∧
    (2#8).toNat ≤ 2 := by decide +kernel

/-- The device identification register, least significant byte first (R606). -/
theorem test_idcode : (ran (exec .idcode State.reset)).pins.tapOut = [0x5F#8, 0x0C#8, 0x40#8, 0x1B#8] := by decide +kernel

theorem witness_StorageKeepsWrites : (2 ^ 37 - 2) + ([1#8, 2#8] : List Byte).length ≤ 2 ^ 37 ∧ (regDescAt aBeatCtl).isSome = true := by
  decide +kernel

/-- The last two bytes of a stack's address space. -/
theorem test_last_bytes : hbmBytes (hbmPut State.reset 7 (2 ^ 37 - 2) [1#8, 0#8]) 7 (2 ^ 37 - 3) 3 = [0#8, 1#8, 0#8] := by
  decide +kernel

/-! ### The machine -/

theorem witness_StepRunsTheFront : State.reset.pending = [] ∧ State.reset.out = [] := ⟨rfl, rfl⟩

theorem witness_StepKeepsForm : State.reset.wf = true ∧ step State.reset = .next (tick State.reset) := ⟨by decide +kernel, rfl⟩

theorem witness_SafeHoldLasts :
    let s : State := { State.reset with flt := { safeHold := true } }
    s.flt.safeHold = true ∧ s.pins.inReset = false ∧ Instr.idcode ≠ .perstNAssert ∧ Instr.idcode ≠ .inputProtect ∧
      (∀ straps, Instr.idcode ≠ .resetRelease straps) ∧ ∃ t, exec .idcode s = .next t :=
  ⟨rfl, rfl, by decide, by decide, (fun _ h => by cases h), _, rfl⟩

/-- A command at the front of the queue is taken; an idle block counts cycles. -/
theorem test_step :
    (ran (step { State.reset with pending := [.idcode, .bypass] })).pending = [.bypass] ∧
      (ran (step State.reset)).cycle = 1 := by decide +kernel

/-- The table gives no row any bits: no word spells a command, and none is placed. -/
theorem test_no_words (s : State) (n w : Nat) : decodeTableWord n w = none ∧ s.withFetchWord n w = s := ⟨rfl, rfl⟩

/-! ### Terms that are not well formed -/

def hit (m : CellMem) (u l : Nat) : Hit := ⟨m, u, l, .clean⟩

/-- The commands that carry a check in a cell. -/
def hitting (h : Hit) : List Instr :=
  [.vecStart 0 h, .weightLoadStart 0 0 h, .passFeedStart 0 0 h, .accumulatorWrite 0 0 h none, .moveStart 0 h noLine .none]

def reading (n : Nat) (d : List (Nat × Nat)) (shares : List (Nat × Nat × Nat × Nat) := []) : PowerReading :=
  ⟨List.replicate n (3, 3), List.replicate 8 (5, 2), d, 1, 1, shares, 0⟩

def found (a : List MusterArray) (m : List MusterMem) : MusterResult := ⟨[], a, m, 0⟩

/-- The greatest operands that are well formed. -/
theorem well_formed : ([.cellScrub 4351 cleanHit, .refresh 0 0 47, .repairCopyDone 0 0x17FFFFFFFF, .hpprConversion 0 0x17FFFFFFFF true,
    .frameRetire 0 0x17FFFFFFFF, .laneFail 0 16 true, .trainingFrame 0 16 0, .powerInterval (reading 4 (List.replicate 8 (4, 4))),
    .dieTempRead 28 0, .thermtrip 28, .senseReadSkip false 28, .senseReadSkip true 59, .ageRead 59 0, .mgmtConfigWrite 35 2 .whole 0,
    .mgmtLinkUp 2, .musterRunDone (found [⟨17407, 0, [16], [16]⟩] [.cell 4351, .row 0 0x17FFFFFFFF]), .musterTap 0 (found [] []),
    .entdaa 1, .setdasa 0 1, .rstact 2] : List Instr).all (fun i => i.wf) = true := by decide +kernel

/-- An ill-formed term for each check of Instr.wf. -/
theorem ill_formed : ([.cellScrub 4352 cleanHit, .cellScrub 0 (hit .buf 6 0), .refresh 0 0 48, .repairCopyDone 0 0x1800000000,
    .hpprConversion 0 0x1800000000 true, .frameRetire 0 0x1800000000, .laneFail 0 17 true, .trainingFrame 0 17 0,
    .powerInterval (reading 3 (List.replicate 8 (4, 4))), .powerInterval (reading 4 [(4, 4)]),
    .powerInterval (reading 4 (List.replicate 8 (4, 5))), .powerInterval (reading 4 (List.replicate 8 (4, 4)) [(16384, 0, 0, 0)]),
    .dieTempRead 29 0, .thermtrip 29, .senseReadSkip false 29, .senseReadSkip true 60, .ageRead 60 0, .mgmtConfigWrite 35 3 .whole 0,
    .mgmtLinkUp 3, .musterRunDone (found [⟨17408, 0, [], []⟩] []), .musterRunDone (found [⟨0, 0, [17], []⟩] []),
    .musterRunDone (found [⟨0, 0, [], [17]⟩] []), .musterTap 0 (found [] [.cell 4352]), .musterTap 0 (found [] [.row 0 0x1800000000]),
    .entdaa 0, .setdasa 0 0, .rstact 3] : List Instr).all (fun i => !i.wf) = true := by decide +kernel

theorem ill_formed_checks :
    [hit .store 0 (2 ^ 23), hit .imem 0 4096, hit .acc 4 0, hit .acc 0 16384, hit .buf 6 0].all
      (fun h => (hitting h).all (fun i => !i.wf)) = true ∧
    [hit .store 0 (2 ^ 23 - 1), hit .imem 0 4095, hit .acc 3 16383, hit .buf 5 0].all
      (fun h => (hitting h).all (fun i => i.wf)) = true := by decide +kernel

theorem datagram_wf (n : Nat) : (⟨0, 0, zeros n⟩ : Datagram).wf = decide (n ≤ 65527) := by simp [Datagram.wf, zeros]

/-- A datagram holds 65,527 bytes at most. -/
theorem ill_formed_datagram :
    let d : Nat → Datagram := fun n => ⟨0, 0, zeros n⟩
    (Instr.mgmtDatagram (.udp (d 65528))).wf = false ∧ (Instr.lnkFec (.session (d 65528))).wf = false ∧
      (Instr.mgmtDatagram (.udp (d 65527))).wf = true ∧ (Instr.cfgSwap (.session (d 65527)) noLine).wf = true := by
  intro d
  simp only [Instr.wf, Route.wf, d, datagram_wf]
  decide

end Sys2Proof.Tests
end

/-! What every step keeps (O59): the rows' Keeps lemmas put together for exec, the three rows of resets apart, and the clock by
keeps_tick. -/

namespace Sys2Proof.Machine

/-- Every row keeps the queue, the canonical form and Safe-Hold, but the three that bring the device into or out of reset: those
end Safe-Hold (R509) and keep the queue and the form. -/
theorem keeps_exec {z0 : State} (i : Instr) (s : State) (hperst : i ≠ .perstNAssert) (hprot : i ≠ .inputProtect)
    (hrel : ∀ straps, i ≠ .resetRelease straps) (hK : Keeps z0 s) : Answers z0 (exec i s) := by
  cases i with
  | beatBoundary => exact keeps_execBeatBoundary s hK
  | earlyBoundary => exact keeps_execEarlyBoundary s hK
  | stretchCheck => exact keeps_execStretchCheck s hK
  | stretch idx => exact keeps_execStretch idx s hK
  | slack idx => exact keeps_execSlack idx s hK
  | adaptDecide => exact keeps_execAdaptDecide s hK
  | lenSet idx => exact keeps_execLenSet idx s hK
  | syncMsg idx => exact keeps_execSync idx s hK
  | delayReq idx => exact keeps_execDelayReq idx s hK
  | delayResp idx => exact keeps_execDelayResp idx s hK
  | syncTimeout => exact keeps_execSyncTimeout s hK
  | nop c m => exact keeps_execNop c m s hK
  | yield c m => exact keeps_execYield c m s hK
  | yieldRetire c => exact keeps_execYieldRetire c s hK
  | li c m => exact keeps_execLi c m s hK
  | add c m => exact keeps_execAdd c m s hK
  | sub c m => exact keeps_execSub c m s hK
  | andOp c m => exact keeps_execAnd c m s hK
  | orOp c m => exact keeps_execOr c m s hK
  | xorOp c m => exact keeps_execXor c m s hK
  | shl c m => exact keeps_execShl c m s hK
  | shr c m => exact keeps_execShr c m s hK
  | mul c m => exact keeps_execMul c m s hK
  | ldx c m => exact keeps_execLdx c m s hK
  | stx c m => exact keeps_execStx c m s hK
  | ldd c m => exact keeps_execLdd c m s hK
  | dadd c m => exact keeps_execDadd c m s hK
  | br c m => exact keeps_execBr c m s hK
  | loop c m => exact keeps_execLoop c m s hK
  | rdinfo c m => exact keeps_execRdinfo c m s hK
  | fence c m => exact keeps_execFence c m s hK
  | trap c m => exact keeps_execTrap c m s hK
  | dqpush c m => exact keeps_execDqpush c m s hK
  | dqpop c m => exact keeps_execDqpop c m s hK
  | btest c m => exact keeps_execBtest c m s hK
  | mpass c m => exact keeps_execMpass c m s hK
  | weightLoadStart c idx h => exact keeps_execWeightLoadStart c idx h s hK
  | passFeedStart c idx h => exact keeps_execPassFeedStart c idx h s hK
  | accumulatorWrite c idx h u => exact keeps_execAccumulatorWrite c idx h u s hK
  | finishedTileEntry c => exact keeps_execFinishedTileEntry c s hK
  | move c m => exact keeps_execMove c m s hK
  | rdef c m => exact keeps_execRdef c m s hK
  | rconn c m => exact keeps_execRconn c m s hK
  | rpush c m => exact keeps_execRpush c m s hK
  | rwait c m => exact keeps_execRwait c m s hK
  | rfree c m => exact keeps_execRfree c m s hK
  | imload c m => exact keeps_execImload c m s hK
  | moveStart c h lh e => exact keeps_execMoveStart c h lh e s hK
  | moveComplete c idx lh e => exact keeps_execMoveComplete c idx lh e s hK
  | ringSlotFill c idx => exact keeps_execRingSlotFill c idx s hK
  | creditReturn c idx => exact keeps_execCreditReturn c idx s hK
  | atomAdd c m => exact keeps_execAtomAdd c m s hK
  | atomMin c m => exact keeps_execAtomMin c m s hK
  | atomMax c m => exact keeps_execAtomMax c m s hK
  | atomSwap c m => exact keeps_execAtomSwap c m s hK
  | atomCas c m => exact keeps_execAtomCas c m s hK
  | atomVadd c m => exact keeps_execAtomVadd c m s hK
  | atomicApply c idx e => exact keeps_execAtomicApply c idx e s hK
  | gather c m => exact keeps_execGather c m s hK
  | gatherApply c idx lh => exact keeps_execGatherApply c idx lh s hK
  | rscat c m => exact keeps_execRscat c m s hK
  | reduce c m => exact keeps_execReduce c m s hK
  | allgath c m => exact keeps_execAllgath c m s hK
  | post c m => exact keeps_execPost c m s hK
  | wait c m => exact keeps_execWait c m s hK
  | take c m => exact keeps_execTake c m s hK
  | arrive c m => exact keeps_execArrive c m s hK
  | lwait c m => exact keeps_execLwait c m s hK
  | bellOpApply idx e => exact keeps_execBellOpApply idx e s hK
  | bellRelease idx => exact keeps_execBellRelease idx s hK
  | waitTimeout c => exact keeps_execWaitTimeout c s hK
  | cancelApply idx => exact keeps_execCancelApply idx s hK
  | lineLatch l => exact keeps_execLineLatch l s hK
  | arrived idx => exact keeps_execArrived idx s hK
  | cellLend c => exact keeps_execCellLend c s hK
  | vmov c m => exact keeps_execVmov c m s hK
  | neg c m => exact keeps_execNeg c m s hK
  | abs c m => exact keeps_execAbs c m s hK
  | csgn c m => exact keeps_execCsgn c m s hK
  | vecAnd c m => exact keeps_execVecAnd c m s hK
  | vecOr c m => exact keeps_execVecOr c m s hK
  | vecXor c m => exact keeps_execVecXor c m s hK
  | sel c m => exact keeps_execSel c m s hK
  | vecAdd c m => exact keeps_execVecAdd c m s hK
  | vecSub c m => exact keeps_execVecSub c m s hK
  | vecMul c m => exact keeps_execVecMul c m s hK
  | fma c m => exact keeps_execFma c m s hK
  | vecMax c m => exact keeps_execVecMax c m s hK
  | vecMin c m => exact keeps_execVecMin c m s hK
  | cmp c m => exact keeps_execCmp c m s hK
  | div c m => exact keeps_execDiv c m s hK
  | sqrt c m => exact keeps_execSqrt c m s hK
  | rsqrt c m => exact keeps_execRsqrt c m s hK
  | rcp c m => exact keeps_execRcp c m s hK
  | exp2 c m => exact keeps_execExp2 c m s hK
  | log2 c m => exact keeps_execLog2 c m s hK
  | tanh c m => exact keeps_execTanh c m s hK
  | rred c m => exact keeps_execRred c m s hK
  | cred c m => exact keeps_execCred c m s hK
  | trans c m => exact keeps_execTrans c m s hK
  | cvt c m => exact keeps_execCvt c m s hK
  | rand c m => exact keeps_execRand c m s hK
  | drop c m => exact keeps_execDrop c m s hK
  | venq c m => exact keeps_execVenq c m s hK
  | adrop c m => exact keeps_execAdrop c m s hK
  | vecStart c h => exact keeps_execVecStart c h s hK
  | cellScrub p h => exact keeps_execCellScrub p h s hK
  | ringNak link dir again => exact keeps_execRingNak link dir again s hK
  | ringReplay link dir e => exact keeps_execRingReplay link dir e s hK
  | refresh stack pc bank => exact keeps_execRefresh stack pc bank s hK
  | hbmPatrolScrub stack e => exact keeps_execHbmPatrolScrub stack e s hK
  | repairCopyDone stack la => exact keeps_execRepairCopyDone stack la s hK
  | hpprConversion stack la ok => exact keeps_execHpprConversion stack la ok s hK
  | frameRetire stack la => exact keeps_execFrameRetire stack la s hK
  | squareClearDone die unit => exact keeps_execSquareClearDone die unit s hK
  | memMarginDone stack lows highs => exact keeps_execMemMarginDone stack lows highs s hK
  | memEccDone => exact keeps_execMemEccDone s hK
  | parkSaveDone ctx hit => exact keeps_execParkSaveDone ctx hit s hK
  | unparkPrepDone ctx h => exact keeps_execUnparkPrepDone ctx h s hK
  | snapshotStageEnd ctx h => exact keeps_execSnapshotStageEnd ctx h s hK
  | snapshotShipDone ctx => exact keeps_execSnapshotShipDone ctx s hK
  | reshardDone ctx received served fails h => exact keeps_execReshardDone ctx received served fails h s hK
  | millPassADone ctx h => exact keeps_execMillPassADone ctx h s hK
  | millPassBDone ctx h => exact keeps_execMillPassBDone ctx h s hK
  | millFusedDone ctx h => exact keeps_execMillFusedDone ctx h s hK
  | norms idx => exact keeps_execNorms idx s hK
  | normsSum idx => exact keeps_execNormsSum idx s hK
  | vote idx => exact keeps_execVote idx s hK
  | voteSum idx => exact keeps_execVoteSum idx s hK
  | doneMsg idx => exact keeps_execDone idx s hK
  | commitMsg idx => exact keeps_execCommit idx s hK
  | abortMsg idx => exact keeps_execAbort idx s hK
  | updateDeadline ctx => exact keeps_execUpdateDeadline ctx s hK
  | fetch idx lh => exact keeps_execFetch idx lh s hK
  | shard idx => exact keeps_execShard idx s hK
  | pull idx => exact keeps_execPull idx s hK
  | partMsg idx => exact keeps_execPart idx s hK
  | doneAck idx => exact keeps_execDoneAck idx s hK
  | collRefuse idx => exact keeps_execCollRefuse idx s hK
  | collTimeout idx => exact keeps_execCollTimeout idx s hK
  | jobFault idx => exact keeps_execJobFault idx s hK
  | piece idx => exact keeps_execPiece idx s hK
  | pieceAck idx => exact keeps_execPieceAck idx s hK
  | pieceReq idx lh => exact keeps_execPieceReq idx lh s hK
  | symbol idx => exact keeps_execSymbol idx s hK
  | parRefuse idx => exact keeps_execParRefuse idx s hK
  | codeRebuildDone ctx => exact keeps_execCodeRebuildDone ctx s hK
  | codeRefreshDone ctx => exact keeps_execCodeRefreshDone ctx s hK
  | dataFlit port raw rs => exact keeps_execDataFlit port raw rs s hK
  | idleFlit port raw rs => exact keeps_execIdleFlit port raw rs s hK
  | nakFlit port raw rs => exact keeps_execNakFlit port raw rs s hK
  | ackTimeout port => exact keeps_execAckTimeout port s hK
  | llrWindowExpiry port => exact keeps_execLlrWindowExpiry port s hK
  | bulkData idx => exact keeps_execBulkData idx s hK
  | bulkAck idx => exact keeps_execBulkAck idx s hK
  | laneFail engine lane all => exact keeps_execLaneFail engine lane all s hK
  | spareReq idx => exact keeps_execSpareReq idx s hK
  | spareAck idx => exact keeps_execSpareAck idx s hK
  | berWindowEnd engine ber eye ce ue => exact keeps_execBerWindowEnd engine ber eye ce ue s hK
  | trainingFrame port lane raw => exact keeps_execTrainingFrame port lane raw s hK
  | trainingPhaseTimeout port => exact keeps_execTrainingPhaseTimeout port s hK
  | hello idx => exact keeps_execHello idx s hK
  | echoInterval port => exact keeps_execEchoInterval port s hK
  | echo idx turn => exact keeps_execEcho idx turn s hK
  | echoReply idx => exact keeps_execEchoReply idx s hK
  | unreach idx => exact keeps_execUnreach idx s hK
  | normalTail ctx tail => exact keeps_execNormalTail ctx tail s hK
  | urgentTail ctx tail => exact keeps_execUrgentTail ctx tail s hK
  | completionHead ctx head => exact keeps_execCompletionHead ctx head s hK
  | replyPost ctx => exact keeps_execReplyPost ctx s hK
  | mgmtDatagram p => exact keeps_execMgmtDatagram p s hK
  | xferResend num tag => exact keeps_execXferResend num tag s hK
  | xferTimeout num tag => exact keeps_execXferTimeout num tag s hK
  | sessionIdleExpiry num => exact keeps_execSessionIdleExpiry num s hK
  | sessionLifetimeExpiry num => exact keeps_execSessionLifetimeExpiry num s hK
  | ctxCreate r h => exact keeps_execCtxCreate r h s hK
  | ctxPark r => exact keeps_execCtxPark r s hK
  | ctxUnpark r => exact keeps_execCtxUnpark r s hK
  | ctxResize r => exact keeps_execCtxResize r s hK
  | ctxDestroy r => exact keeps_execCtxDestroy r s hK
  | ctxQuery r => exact keeps_execCtxQuery r s hK
  | ringSet r => exact keeps_execRingSet r s hK
  | granarySwap r => exact keeps_execGranarySwap r s hK
  | cfgWrite r h => exact keeps_execCfgWrite r h s hK
  | cfgSwap r h => exact keeps_execCfgSwap r h s hK
  | beatSet r => exact keeps_execBeatSet r s hK
  | beatJoin r => exact keeps_execBeatJoin r s hK
  | stepCmd r h => exact keeps_execStep r h s hK
  | stepResolve r => exact keeps_execStepResolve r s hK
  | reshard r h => exact keeps_execReshard r h s hK
  | millFused r h => exact keeps_execMillFused r h s hK
  | memMap r h => exact keeps_execMemMap r h s hK
  | memEcc r => exact keeps_execMemEcc r s hK
  | memRead r h => exact keeps_execMemRead r h s hK
  | memWrite r h => exact keeps_execMemWrite r h s hK
  | lnkConfig r => exact keeps_execLnkConfig r s hK
  | lnkFec r => exact keeps_execLnkFec r s hK
  | lnkSpare r => exact keeps_execLnkSpare r s hK
  | codeSet r h => exact keeps_execCodeSet r h s hK
  | codeRefresh r h => exact keeps_execCodeRefresh r h s hK
  | codeCommit r => exact keeps_execCodeCommit r s hK
  | codeRebuild r h => exact keeps_execCodeRebuild r h s hK
  | snapshot r h => exact keeps_execSnapshot r h s hK
  | musterRun r => exact keeps_execMusterRun r s hK
  | musterRunDone r => exact keeps_execMusterRunDone r s hK
  | memMargin r => exact keeps_execMemMargin r s hK
  | lnkMargin r => exact keeps_execLnkMargin r s hK
  | lnkMarginDone engine phLow phHigh vLow vHigh => exact keeps_execLnkMarginDone engine phLow phHigh vLow vHigh s hK
  | reportGet r => exact keeps_execReportGet r s hK
  | pwrCap r => exact keeps_execPwrCap r s hK
  | pwrShare r => exact keeps_execPwrShare r s hK
  | sessionHello r => exact keeps_execSessionHello r s hK
  | sessionOpen r => exact keeps_execSessionOpen r s hK
  | sessionClose r => exact keeps_execSessionClose r s hK
  | fwWrite r h => exact keeps_execFwWrite r h s hK
  | fwActivate r => exact keeps_execFwActivate r s hK
  | attestQuote r => exact keeps_execAttestQuote r s hK
  | ticketFloor r => exact keeps_execTicketFloor r s hK
  | xferAck r => exact keeps_execXferAck r s hK
  | stop r => exact keeps_execStop r s hK
  | fenceCell r => exact keeps_execFenceCell r s hK
  | quarantine r => exact keeps_execQuarantine r s hK
  | beatCtlWrite core part v => exact keeps_execBeatCtlWrite core part v s hK
  | mgmtConfigWrite core reg part v => exact keeps_execMgmtConfigWrite core reg part v s hK
  | ckptNow core wide v => exact keeps_execCkptNow core wide v s hK
  | bootCommit core => exact keeps_execBootCommit core s hK
  | bootRelease core => exact keeps_execBootRelease core s hK
  | bootOwnData core idx part v => exact keeps_execBootOwnData core idx part v s hK
  | ownerRecordWritten => exact keeps_execOwnerRecordWritten s hK
  | registerWrite core addr n v => exact keeps_execRegisterWrite core addr n v s hK
  | sensePeriodEnd => exact keeps_execSensePeriodEnd s hK
  | dieTempRead die temp => exact keeps_execDieTempRead die temp s hK
  | senseReadSkip osc unit => exact keeps_execSenseReadSkip osc unit s hK
  | droopEvent domain => exact keeps_execDroopEvent domain s hK
  | ageRead unit hz => exact keeps_execAgeRead unit hz s hK
  | checkpoint => exact keeps_execCheckpoint s hK
  | logProgram => exact keeps_execLogProgram s hK
  | powerInterval m => exact keeps_execPowerInterval m s hK
  | envSensorSample sensor value => exact keeps_execEnvSensorSample sensor value s hK
  | refclockLoss => exact keeps_execRefclockLoss s hK
  | thermtrip die => exact keeps_execThermtrip die s hK
  | pllLockLoss domain => exact keeps_execPllLockLoss domain s hK
  | inputQualified => exact keeps_execInputQualified s hK
  | inputProtect => exact absurd rfl hprot
  | perstNAssert => exact absurd rfl hperst
  | resetRelease straps => exact absurd rfl (hrel straps)
  | bootStage fails torn => exact keeps_execBootStage fails torn s hK
  | ozminRestart => exact keeps_execOzminRestart s hK
  | fltHallFw => exact keeps_execFltHallFw s hK
  | trialConfirm => exact keeps_execTrialConfirm s hK
  | extest => exact keeps_execExtest s hK
  | samplePreload => exact keeps_execSamplePreload s hK
  | idcode => exact keeps_execIdcode s hK
  | bypass => exact keeps_execBypass s hK
  | jtagClaim => exact keeps_execJtagClaim s hK
  | musterTap payload r => exact keeps_execMusterTap payload r s hK
  | regacc addr v write => exact keeps_execRegacc addr v write s hK
  | testLogicReset => exact keeps_execTestLogicReset s hK
  | i3cClaim v => exact keeps_execI3cClaim v s hK
  | setaddr addr => exact keeps_execSetaddr addr s hK
  | i3cRead => exact keeps_execI3cRead s hK
  | i3cWrite v => exact keeps_execI3cWrite v s hK
  | i3cBusReset => exact keeps_execI3cBusReset s hK
  | entdaa addr => exact keeps_execEntdaa addr s hK
  | setdasa static addr => exact keeps_execSetdasa static addr s hK
  | rstdaa => exact keeps_execRstdaa s hK
  | getpid => exact keeps_execGetpid s hK
  | getbcr => exact keeps_execGetbcr s hK
  | getdcr => exact keeps_execGetdcr s hK
  | getstatus => exact keeps_execGetstatus s hK
  | enec events => exact keeps_execEnec events s hK
  | disec events => exact keeps_execDisec events s hK
  | rstact action => exact keeps_execRstact action s hK
  | syncStart c => exact keeps_execSyncStart c s hK
  | fltCellInternal c => exact keeps_execFltCellInternal c s hK
  | fltGateInternal region => exact keeps_execFltGateInternal region s hK
  | fltBeatMaster => exact keeps_execFltBeatMaster s hK
  | fltPowerManager => exact keeps_execFltPowerManager s hK
  | hallAccess core addr op h => exact keeps_execHallAccess core addr op h s hK
  | mgmtLinkUp speed => exact keeps_execMgmtLinkUp speed s hK
  | imageProgrammingDone => exact keeps_execImageProgrammingDone s hK

/-- A release from reset that the device takes starts from the reset state, and one that it does not take changes nothing
(R559, R562). -/
theorem execResetRelease_keeps_form {s t : State} {straps : BitVec 4} (hwf : s.wf = true)
    (h : execResetRelease straps s = .next t) : t.wf = true ∧ t.pending = s.pending := by
  cases h
  split
  · exact ⟨resetDevice_wf s, resetDevice_pending s⟩
  · exact ⟨hwf, rfl⟩

theorem exec_keeps_form {i : Instr} {s t : State} (hwf : s.wf = true) (h : exec i s = .next t) :
    t.wf = true ∧ t.pending = s.pending := by
  by_cases hperst : i = .perstNAssert
  · subst hperst; cases h
    exact ⟨resetDevice_wf s, resetDevice_pending s⟩
  by_cases hprot : i = .inputProtect
  · subst hprot; cases h
    exact ⟨powerOff_wf s, powerOff_pending s⟩
  by_cases hrel : ∃ straps, i = .resetRelease straps
  · obtain ⟨straps, rfl⟩ := hrel
    exact execResetRelease_keeps_form hwf h
  have hans : Answers s (exec i s) := keeps_exec i s hperst hprot (fun straps e => hrel ⟨straps, e⟩) (Keeps.refl s)
  rw [h] at hans
  have hkeeps : Keeps s t := hans
  exact ⟨hkeeps.form hwf, hkeeps.queue⟩

/-- Settles O59: on an empty queue the clock keeps the form and the queue, and on any other the command at the front runs on the
queue's rest, which it keeps with the form. -/
theorem stepKeepsForm : Obligations.StepKeepsForm := by
  intro s t hwf h
  unfold step at h
  split at h
  case h_1 hempty =>
    cases h
    have hkeeps := keeps_tick s (Keeps.refl s)
    exact ⟨hkeeps.form hwf, by rw [hkeeps.queue, hempty]; rfl⟩
  case h_2 i rest hcons =>
    rw [hcons]
    exact exec_keeps_form (s := { s with pending := rest }) hwf h

end Sys2Proof.Machine

/-! What a cell fault does to the context that holds the cell (O33): the records that a fault writes change nothing of a
context's work, and the first fault since the last discard boundary stops the context's cells and starts the discard. -/

namespace Sys2Proof.Machine

/-! ### What the operations of a fault leave alone -/

/-- The cell does not issue and waits for nothing. -/
def Cell.Stopped (x : Cell) : Prop := x.seq.running = false ∧ x.seq.wait = none

/-- The cell stopped, with its pending wait removed. -/
def Cell.halted (x : Cell) : Cell := { x with seq := { x.seq with running := false, wait := none } }

/-- The time, the beat, the names of cells and the partitions stay. -/
structure SameMap (s t : State) : Prop where
  cycle : t.cycle = s.cycle
  beat : t.beat = s.beat
  blocks : t.blocks = s.blocks
  sets : t.sets = s.sets

/-- Each cell stays as it is or is stopped. -/
structure HaltsCells (s t : State) : Prop extends SameMap s t where
  cell : ∀ p, cellAt t p = cellAt s p ∨ cellAt t p = (cellAt s p).halted

/-- A context keeps its state, what it runs and its count of faults. -/
structure SameFaults (x y : Ctx) : Prop where
  st : y.st = x.st
  run : y.run = x.run
  count : y.kept.faultCount = x.kept.faultCount

/-- The bells, the gates and the contexts' faults stay. -/
structure SameWork (s t : State) : Prop extends SameMap s t where
  sync : t.sync = s.sync
  gate : t.gate = s.gate
  ctx : ∀ c, SameFaults (ctxAt s c) (ctxAt t c)

/-- Nothing but records and counts changes, and cells that are stopped. -/
structure WorkKept (s t : State) : Prop extends HaltsCells s t, SameWork s t

theorem SameMap.trans {s t u : State} (h : SameMap s t) (g : SameMap t u) : SameMap s u :=
  ⟨g.cycle.trans h.cycle, g.beat.trans h.beat, g.blocks.trans h.blocks, g.sets.trans h.sets⟩

theorem SameMap.physOf {s t : State} (h : SameMap s t) (l : Nat) : physOf t l = physOf s l := by
  simp [Machine.physOf, blk, h.blocks]

theorem SameMap.ownerOf {s t : State} (h : SameMap s t) (g : Nat) : ownerOf t g = ownerOf s g := by
  simp [Machine.ownerOf, h.sets]

theorem SameMap.partCells {s t : State} (h : SameMap s t) (c : Nat) : partCells t c = partCells s c := by
  simp [Machine.partCells, partBlocks, isVacant, blk, h.ownerOf, h.blocks]

theorem HaltsCells.trans {s t u : State} (h : HaltsCells s t) (g : HaltsCells t u) : HaltsCells s u := by
  refine ⟨h.toSameMap.trans g.toSameMap, fun p => ?_⟩
  rcases h.cell p with hp | hp <;> rcases g.cell p with gp | gp
  · exact .inl (gp.trans hp)
  · exact .inr (by rw [gp, hp])
  · exact .inr (gp.trans hp)
  · exact .inr (by rw [gp, hp]; rfl)

/-- A cell that is stopped stays stopped. -/
theorem HaltsCells.stopped {s t : State} (h : HaltsCells s t) {p : Nat} (hs : (cellAt s p).Stopped) :
    (cellAt t p).Stopped := by
  rcases h.cell p with hp | hp <;> rw [hp]
  · exact hs
  · exact ⟨rfl, rfl⟩

theorem HaltsCells.pc {s t : State} (h : HaltsCells s t) (p : Nat) : (cellAt t p).seq.pc = (cellAt s p).seq.pc := by
  rcases h.cell p with hp | hp
  · rw [hp]
  · rw [hp]; rfl

theorem HaltsCells.cnt {s t : State} (h : HaltsCells s t) (p : Nat) : (cellAt t p).cnt = (cellAt s p).cnt := by
  rcases h.cell p with hp | hp
  · rw [hp]
  · rw [hp]; rfl

theorem SameFaults.refl (x : Ctx) : SameFaults x x := ⟨rfl, rfl, rfl⟩

theorem SameFaults.trans {x y z : Ctx} (h : SameFaults x y) (g : SameFaults y z) : SameFaults x z :=
  ⟨g.st.trans h.st, g.run.trans h.run, g.count.trans h.count⟩

theorem SameWork.trans {s t u : State} (h : SameWork s t) (g : SameWork t u) : SameWork s u :=
  ⟨h.toSameMap.trans g.toSameMap, g.sync.trans h.sync, g.gate.trans h.gate, fun c => (h.ctx c).trans (g.ctx c)⟩

namespace WorkKept

variable {s t u : State}

theorem trans (h : WorkKept s t) (g : WorkKept t u) : WorkKept s u :=
  ⟨h.toHaltsCells.trans g.toHaltsCells, (h.toSameWork.trans g.toSameWork).sync, (h.toSameWork.trans g.toSameWork).gate,
    (h.toSameWork.trans g.toSameWork).ctx⟩

/-- Two states that differ in memory, registers, records and messages only. -/
theorem of_same (cycle : t.cycle = s.cycle := by rfl) (beat : t.beat = s.beat := by rfl)
    (blocks : t.blocks = s.blocks := by rfl) (sets : t.sets = s.sets := by rfl) (cells : t.cells = s.cells := by rfl)
    (sync : t.sync = s.sync := by rfl) (gate : t.gate = s.gate := by rfl) (ctxs : t.ctxs = s.ctxs := by rfl) :
    WorkKept s t :=
  ⟨⟨⟨cycle, beat, blocks, sets⟩, fun p => .inl (by simp [cellAt, cells])⟩, sync, gate, fun c => by
    simpa [ctxAt, ctxs] using SameFaults.refl _⟩

theorem refl (s : State) : WorkKept s s := of_same

theorem tallyAdd (h : WorkKept s t) (q st u n : Nat) : WorkKept s (Machine.tallyAdd t q st u n) := h.trans of_same

end WorkKept

/-! ### Contexts after updates -/

@[simp] theorem ctxAt_updCtx (s : State) (c : Nat) (f : Ctx → Ctx) : ctxAt (updCtx s c f) c = f (ctxAt s c) := by
  simp [ctxAt, updCtx]

theorem ctxAt_updCtx_other (s : State) {c d : Nat} (f : Ctx → Ctx) (h : d ≠ c) : ctxAt (updCtx s c f) d = ctxAt s d := by
  simp [ctxAt, updCtx, sGet_upd_other _ _ f h]

@[simp] theorem ctxAt_updKept (s : State) (c : Nat) (f : Kept → Kept) :
    ctxAt (updKept s c f) c = { ctxAt s c with kept := f (ctxAt s c).kept } :=
  ctxAt_updCtx s c _

@[simp] theorem ctxAt_updRun (s : State) (c : Nat) (f : Run → Run) :
    ctxAt (updRun s c f) c = { ctxAt s c with run := f (ctxAt s c).run } :=
  ctxAt_updCtx s c _

@[simp] theorem ctxAt_tallyAdd (s : State) (q st u n c : Nat) : ctxAt (tallyAdd s q st u n) c = ctxAt s c := rfl

theorem haltsCells_updCtx (s : State) (c : Nat) (f : Ctx → Ctx) : HaltsCells s (updCtx s c f) :=
  ⟨⟨rfl, rfl, rfl, rfl⟩, fun _ => .inl rfl⟩

theorem workKept_updCtx (s : State) (c : Nat) {f : Ctx → Ctx} (hf : ∀ x, SameFaults x (f x)) :
    WorkKept s (updCtx s c f) := by
  refine ⟨haltsCells_updCtx s c f, rfl, rfl, fun d => ?_⟩
  by_cases hd : d = c
  · subst hd; rw [ctxAt_updCtx]; exact hf _
  · rw [ctxAt_updCtx_other s f hd]; exact .refl _

theorem workKept_updKept (s : State) (c : Nat) {f : Kept → Kept} (hf : ∀ k, (f k).faultCount = k.faultCount) :
    WorkKept s (updKept s c f) :=
  workKept_updCtx s c fun x => ⟨rfl, rfl, hf x.kept⟩

/-! ### Records -/

theorem workKept_writePiece (s : State) (pa : Nat) (bs : List Byte) : WorkKept s (writePiece s pa bs).1 := by
  unfold writePiece
  split
  · split <;> exact .of_same
  · dsimp only; split <;> exact .of_same
  all_goals exact .of_same

theorem workKept_writePieces (pa : Nat) (bs : List Byte) (l : List (Nat × Nat)) (s : State) :
    WorkKept s (writePieces s pa bs l).1 := by
  induction l generalizing s with
  | nil => exact .refl s
  | cons p l ih => exact (workKept_writePiece s _ _).trans (ih _)

theorem workKept_poke (s : State) (pa : Nat) (bs : List Byte) : WorkKept s (poke s pa bs) :=
  workKept_writePieces pa bs _ s

theorem workKept_logAppend (s : State) (type flags : Nat) (body : List Byte) :
    WorkKept s (logAppend s type flags body) := by
  unfold logAppend
  dsimp only
  split <;> exact .of_same

theorem workKept_record0 (f : FaultRec) (s : State) : WorkKept s (record0 f s) := by
  unfold record0
  extract_lets s₁ s₂ s₃ s₄ s₅
  have hcounted : WorkKept s s₂ := by
    unfold s₂; split
    · exact (WorkKept.refl s).tallyAdd .. |>.tallyAdd ..
    · exact (WorkKept.refl s).tallyAdd ..
  have hlogged : WorkKept s s₃ := hcounted.trans (workKept_logAppend ..)
  clear_value s₃
  split
  · exact hlogged
  · have hpoked : WorkKept s s₄ := hlogged.trans (workKept_poke ..)
    clear_value s₄
    exact (hpoked.tallyAdd 0x40 0x20 0 1).trans .of_same

/-! ### Stopping cells -/

theorem workKept_halt (s : State) (p : Nat) : WorkKept s (updCell s p Cell.halted) := by
  refine ⟨⟨⟨rfl, rfl, rfl, rfl⟩, fun q => ?_⟩, rfl, rfl, fun c => .refl _⟩
  by_cases hq : q = p
  · subst hq; exact .inr (cellAt_updCell s q _)
  · exact .inl (cellAt_updCell_other s _ hq)

theorem workKept_addGated (c n : Nat) (s : State) : WorkKept s (addGated c n s) := by
  unfold addGated
  apply WorkKept.tallyAdd
  exact workKept_updKept s c fun _ => rfl

/-- Stopping a cell is halting it and counting the cycles that it was gated. -/
theorem halt_workKept_stopCell (c l : Nat) (s : State) :
    WorkKept (updCell s (physOf s l) Cell.halted) (stopCell c l s) := by
  unfold stopCell
  dsimp only
  split
  · split
    · exact workKept_addGated ..
    · exact .refl _
  · exact .refl _

theorem workKept_stopCell (c l : Nat) (s : State) : WorkKept s (stopCell c l s) :=
  (workKept_halt s _).trans (halt_workKept_stopCell c l s)

theorem stopCell_stopped (c l : Nat) (s : State) : (cellAt (stopCell c l s) (physOf s l)).Stopped :=
  (halt_workKept_stopCell c l s).stopped (by rw [cellAt_updCell]; exact ⟨rfl, rfl⟩)

theorem workKept_stopAll (c : Nat) (ls : List Nat) (s : State) :
    WorkKept s (ls.foldl (fun s l => stopCell c l s) s) := by
  induction ls generalizing s with
  | nil => exact .refl s
  | cons l ls ih => exact (workKept_stopCell c l s).trans (ih _)

theorem stopAll_stopped (c : Nat) (ls : List Nat) (s : State) :
    ∀ l ∈ ls, (cellAt (ls.foldl (fun s l => stopCell c l s) s) (physOf s l)).Stopped := by
  induction ls generalizing s with
  | nil => simp
  | cons a ls ih =>
    intro l hl
    rcases List.mem_cons.mp hl with rfl | hl
    · exact (workKept_stopAll c ls _).stopped (stopCell_stopped c l s)
    · have hrest := ih (stopCell c a s) l hl
      rwa [(workKept_stopCell c a s).physOf] at hrest

/-! ### The discard -/

theorem workKept_tellJob (c code : Nat) (s : State) : WorkKept s (tellJob c code s) := .of_same

theorem workKept_tellCommit (c : Nat) (members : List Nat) (type : Nat) (body : List Byte) (s : State) :
    WorkKept s (tellCommit c members type body s) := by
  unfold tellCommit
  dsimp only
  split <;> exact .of_same

theorem workKept_updUpdate (c : Nat) (f : Update → Update) (s : State) : WorkKept s (updUpdate c f s) :=
  workKept_updCtx s c fun _ => ⟨rfl, rfl, rfl⟩

theorem workKept_sendAbort (c cause : Nat) (s : State) : WorkKept s (sendAbort c cause s) := by
  unfold sendAbort
  dsimp only
  split
  · exact .refl s
  · split
    · exact .refl s
    · exact (workKept_tellCommit ..).trans (workKept_updUpdate ..)

theorem workKept_quitUpdate (c : Nat) (s : State) : WorkKept s (quitUpdate c s) := by
  unfold quitUpdate
  dsimp only
  split
  case h_1 => exact .refl s
  case h_2 =>
    split
    · exact workKept_updUpdate ..
    split
    · exact .refl s
    split
    · exact workKept_sendAbort ..
    split
    · exact .refl s
    · exact (workKept_tellCommit ..).trans (workKept_updUpdate ..)

/-- The work of context c is discarded: its cells have stopped, its requests at gates are gone, and the discard boundary is
awaited (R307, R444, R496). -/
structure DiscardStarted (c : Nat) (s t : State) : Prop extends HaltsCells s t where
  stopped : ∀ l ∈ partCells s c, (cellAt t (physOf s l)).Stopped
  discarding : (ctxAt t c).run.discarding = true
  discarded : (ctxAt t c).run.discarded = true
  lastFault : (ctxAt t c).run.lastFault = (ctxAt s c).run.lastFault
  count : (ctxAt t c).kept.faultCount = (ctxAt s c).kept.faultCount
  ops : ∀ o ∈ t.gate.ops, o.ctx ≠ c

/-- The discard stays started while records are written. -/
theorem DiscardStarted.trans {c : Nat} {s t u : State} (h : DiscardStarted c s t) (g : WorkKept t u) :
    DiscardStarted c s u where
  toHaltsCells := h.toHaltsCells.trans g.toHaltsCells
  stopped l hl := g.stopped (h.stopped l hl)
  discarding := by rw [(g.ctx c).run]; exact h.discarding
  discarded := by rw [(g.ctx c).run]; exact h.discarded
  lastFault := by rw [(g.ctx c).run]; exact h.lastFault
  count := (g.ctx c).count.trans h.count
  ops := by rw [g.gate]; exact h.ops

theorem discardStarted_startDiscard (c code : Nat) (remote : Bool) (s : State) :
    DiscardStarted c s (startDiscard c code remote s) := by
  unfold startDiscard
  extract_lets cells s₁ s₂ sync s₃ gate s₄ s₅
  have hstop : WorkKept s s₁ := workKept_stopAll c _ s
  have hmark : HaltsCells s₁ s₄ := ⟨⟨rfl, rfl, rfl, rfl⟩, fun _ => .inl rfl⟩
  have hops : s₄.gate.ops = s₃.gate.ops.filter (fun o => o.ctx != c) := rfl
  have hctx : ctxAt s₄ c = ctxAt s₂ c := rfl
  have hgone : DiscardStarted c s s₄ :=
    { toHaltsCells := hstop.toHaltsCells.trans hmark
      stopped := fun l hl => hmark.stopped (stopAll_stopped c _ s l hl)
      discarding := by rw [hctx, ctxAt_updRun]
      discarded := by rw [hctx, ctxAt_updRun]
      lastFault := by rw [hctx, ctxAt_updRun, (hstop.ctx c).run]
      count := by rw [hctx, ctxAt_updRun, (hstop.ctx c).count]
      ops := fun o ho => by rw [hops] at ho; exact bne_iff_ne.mp (List.mem_filter.mp ho).2 }
  have htold : WorkKept s₄ s₅ := by
    unfold s₅; split
    · exact .refl _
    · exact workKept_tellJob ..
  refine (hgone.trans htold).trans (WorkKept.trans ?_ (workKept_quitUpdate ..))
  exact workKept_updCtx s₅ c fun _ => ⟨rfl, rfl, rfl⟩

/-! ### The record for an affected context -/

/-- The first fault since the last discard boundary: it is recorded and counted once, and the discard starts (R494, R496). -/
theorem recordFor_first {f : FaultRec} {remote : Bool} {s : State} {c : Nat} (hres : (ctxAt s c).st.resident = true)
    (hnew : (ctxAt s c).run.discarded = false) :
    ∃ u, HaltsCells s u ∧ (ctxAt u c).run.lastFault = some (s.cycle, f.code, (ctxAt s c).kept.faultCount) ∧
      (ctxAt u c).kept.faultCount = satAdd 64 (ctxAt s c).kept.faultCount 1 ∧
      DiscardStarted c u (recordFor f remote s c) := by
  unfold recordFor
  extract_lets x k s₁ s₂ s₃ s₄
  rw [if_neg (by simp [x, hres]), if_neg (by simp [x, hnew])]
  have hpoke : WorkKept s s₁ := by
    unfold s₁; split
    · exact .refl s
    · exact workKept_poke ..
  clear_value s₁
  have hmark : HaltsCells s₁ s₄ := ⟨⟨rfl, rfl, rfl, rfl⟩, fun _ => .inl rfl⟩
  refine ⟨s₄, hpoke.toHaltsCells.trans hmark, ?_, ?_, discardStarted_startDiscard ..⟩
  · simp [s₄, s₃, s₂, k, x, (hpoke.ctx c).run, hpoke.cycle]
  · simp [s₄, s₃, s₂, (hpoke.ctx c).count]

/-- A later fault before the discard boundary: no count, and nothing more is discarded (R494). -/
theorem recordFor_again {f : FaultRec} {remote : Bool} {s : State} {c : Nat} (hres : (ctxAt s c).st.resident = true)
    (hold : (ctxAt s c).run.discarded = true) :
    let t := recordFor f remote s c
    HaltsCells s t ∧ t.sync = s.sync ∧ t.gate = s.gate ∧ (ctxAt t c).kept.faultCount = (ctxAt s c).kept.faultCount := by
  have hself : HaltsCells s s := (WorkKept.refl s).toHaltsCells
  unfold recordFor
  simp only [hres, hold, Bool.true_eq_false, if_false, if_true]
  split
  · split
    · generalize hp : poke s _ _ = s₁
      have hpoke : WorkKept s s₁ := hp ▸ workKept_poke ..
      exact ⟨hpoke.toHaltsCells.trans (haltsCells_updCtx ..), hpoke.sync, hpoke.gate, by
        rw [ctxAt_updRun]; exact (hpoke.ctx c).count⟩
    · exact ⟨hself, rfl, rfl, rfl⟩
  · exact ⟨hself, rfl, rfl, rfl⟩

theorem haltsCells_recordFor (f : FaultRec) (remote : Bool) (s : State) (c : Nat) :
    HaltsCells s (recordFor f remote s c) := by
  by_cases hres : (ctxAt s c).st.resident = true
  · cases hdis : (ctxAt s c).run.discarded
    · obtain ⟨u, hu, -, -, hd⟩ := recordFor_first (f := f) (remote := remote) hres hdis
      exact hu.trans hd.toHaltsCells
    · exact (recordFor_again hres hdis).1
  · simp only [recordFor, hres]
    exact (WorkKept.refl s).toHaltsCells

/-! ### A fault that affects one context -/

theorem haltsCells_raiseFault (f : FaultRec) (c : Nat) (s : State) : HaltsCells s (raiseFault f [c] s) :=
  (haltsCells_recordFor f false s c).trans (workKept_record0 f _).toHaltsCells

theorem raiseFault_first {f : FaultRec} {c : Nat} {s : State} (hres : (ctxAt s c).st.resident = true)
    (hnew : (ctxAt s c).run.discarded = false) :
    let t := raiseFault f [c] s
    (∀ l ∈ partCells s c, (cellAt t (physOf s l)).Stopped) ∧ (ctxAt t c).run.discarding = true ∧
      (ctxAt t c).run.discarded = true ∧
      (ctxAt t c).run.lastFault = some (s.cycle, f.code, (ctxAt s c).kept.faultCount) ∧
      (ctxAt t c).kept.faultCount = satAdd 64 (ctxAt s c).kept.faultCount 1 ∧ ∀ o ∈ t.gate.ops, o.ctx ≠ c := by
  obtain ⟨u, hu, hlast, hcount, hstart⟩ := recordFor_first (remote := false) (f := f) hres hnew
  have hd : DiscardStarted c u (raiseFault f [c] s) := hstart.trans (workKept_record0 f _)
  refine ⟨fun l hl => ?_, hd.discarding, hd.discarded, hd.lastFault.trans hlast, hd.count.trans hcount, hd.ops⟩
  rw [← hu.physOf]
  exact hd.stopped l (by rwa [hu.partCells])

theorem raiseFault_again {f : FaultRec} {c : Nat} {s : State} (hres : (ctxAt s c).st.resident = true)
    (hold : (ctxAt s c).run.discarded = true) :
    let t := raiseFault f [c] s
    (ctxAt t c).kept.faultCount = (ctxAt s c).kept.faultCount ∧ t.sync = s.sync ∧ t.gate = s.gate := by
  obtain ⟨-, hsync, hgate, hcount⟩ := recordFor_again (remote := false) (f := f) hres hold
  have hrec : WorkKept (recordFor f false s c) (raiseFault f [c] s) := workKept_record0 f _
  exact ⟨(hrec.ctx c).count.trans hcount, hrec.sync.trans hsync, hrec.gate.trans hgate⟩

/-! ### A fault in a cell -/

/-- The cell that holds a logical number stops and counts a fault (R32, R195). -/
def cellFaulted (l : Nat) (s : State) : State :=
  updCell (stopCell ((ownerOf s (blockOf l)).getD 0) l s) (physOf s l)
    (fun x => { x with cnt := { x.cnt with faults := satAdd 64 x.cnt.faults 1 } })

theorem sameWork_cellFaulted (l : Nat) (s : State) : SameWork s (cellFaulted l s) :=
  (workKept_stopCell _ l s).toSameWork.trans ⟨⟨rfl, rfl, rfl, rfl⟩, rfl, rfl, fun _ => .refl _⟩

theorem cellFaulted_cell (l : Nat) (s : State) : let x := cellAt (cellFaulted l s) (physOf s l)
    x.Stopped ∧ x.seq.pc = (cellAt s (physOf s l)).seq.pc ∧
      x.cnt.faults = satAdd 64 (cellAt s (physOf s l)).cnt.faults 1 := by
  have hstop := workKept_stopCell ((ownerOf s (blockOf l)).getD 0) l s
  simp only [cellFaulted, cellAt_updCell]
  exact ⟨stopCell_stopped _ l s, hstop.pc _, by rw [hstop.cnt]⟩

/-- A cell fault that does not fence is recorded for the unparked context that holds the cell, and for context 0. -/
theorem raiseCellFault_held {f : FaultRec} {l c : Nat} {s : State} (hf : fencesCell f.code = false)
    (hown : ownerOf s (blockOf l) = some c) (hst : (ctxAt s c).st = .unparked) :
    raiseCellFault f l s = raiseFault { f with lcell := l, pcell := physOf s l } [c] (cellFaulted l s) := by
  have hwork := sameWork_cellFaulted l s
  have hholder : ctxOfCell (cellFaulted l s) l = some c := by
    simp [ctxOfCell, hwork.ownerOf, hown, (hwork.ctx c).st, hst]
  unfold raiseCellFault
  extract_lets p f' s₁ s₂
  have hs : s₂ = cellFaulted l s := rfl
  rw [if_neg (by simp [f', hf]), hs, hholder]

/-! ### TRAP -/

theorem sameWork_fetched (s : State) (c : LCell) (m : Meet) : SameWork s (fetched s c m) := by
  unfold fetched
  split <;> exact ⟨⟨rfl, rfl, rfl, rfl⟩, rfl, rfl, fun _ => .refl _⟩

theorem fetched_faults (s : State) (c : LCell) (m : Meet) :
    (cellAt (fetched s c m) (cellOfL s c)).cnt.faults = (issuer s c).cnt.faults := by
  unfold fetched
  split <;> simp

/-- A TRAP that issues raises FLT_TRAP, and nothing else, for the context that holds its cell. -/
theorem execTrap_raises {s : State} {c : LCell} {m : Meet} {w : InsnWord} {ctx : Nat} (h : Issues s c w 0 0x14)
    (hm : m.imem ≠ .uncorrectable) (hl : controlLegal w = true) (hown : ownerOf s (blockOf c.toNat) = some ctx)
    (hst : (ctxAt s ctx).st = .unparked) :
    ∃ f : FaultRec, f.code = 0x010C ∧
      exec (.trap c m) s = .next (raiseFault f [ctx] (cellFaulted c.toNat (fetched s c m))) := by
  have hfetch := sameWork_fetched s c m
  have hheld := raiseCellFault_held (f := { insnFault 0x010C (issuer s c).seq.pc w with arg := wf w 15 0 }) rfl
    ((hfetch.ownerOf _).trans hown) ((hfetch.ctx ctx).st.trans hst)
  refine ⟨_, rfl, Eq.trans ?_ (congrArg Host.Outcome.next hheld)⟩
  change execTrap c m s = _
  rw [execTrap, control_go h hm hl, fetched_seq]

/-- Settles O33: TRAP stops its cell and counts there, and its fault starts the discard of the context's work where none is
awaited and adds nothing where one is. -/
theorem trapDiscards : Obligations.TrapDiscards := by
  unfold Obligations.TrapDiscards
  intro s c m w ctx hm hl hiss hown hst p x
  obtain ⟨f, hcode, hrun⟩ := execTrap_raises hiss hm hl hown hst
  have hcell := cellFaulted_cell c.toNat (fetched s c m)
  rw [physOf_fetched, fetched_faults, fetched_seq] at hcell
  obtain ⟨hstopped, hpc, hfaults⟩ := hcell
  have hwork := (sameWork_fetched s c m).trans (sameWork_cellFaulted c.toNat (fetched s c m))
  refine ⟨_, hrun, ?_⟩
  generalize cellFaulted c.toNat (fetched s c m) = u at *
  have hctx := hwork.ctx ctx
  have hres : (ctxAt u ctx).st.resident = true := by rw [hctx.st, hst]; rfl
  have hhalt := haltsCells_raiseFault f ctx u
  have hfirst := raiseFault_first (f := f) hres
  have hagain := raiseFault_again (f := f) hres
  simp only [hwork.partCells, hwork.physOf, hwork.cycle, hctx.run, hctx.count, hcode] at hfirst
  simp only [hwork.sync, hwork.gate, hctx.run, hctx.count] at hagain
  generalize raiseFault f [ctx] u = t at *
  exact ⟨(hhalt.stopped hstopped).1, (congrArg _ (hhalt.cnt p)).trans hfaults, (hhalt.pc p).trans hpc,
    hhalt.beat.trans hwork.beat, hhalt.cycle.trans hwork.cycle, hfirst, hagain⟩

end Sys2Proof.Machine

/-! Where the cell goes on (O4): what the control instructions read is the same before and after their word is fetched. -/

namespace Sys2Proof.Machine

@[simp] theorem raOf_fetched (s : State) (c : LCell) (m : Meet) (w : InsnWord) :
    raOf (cellAt (fetched s c m) (cellOfL s c)) w = raOf (issuer s c) w := by
  rw [raOf, fetched_x]; rfl

@[simp] theorem rbOf_fetched (s : State) (c : LCell) (m : Meet) (w : InsnWord) :
    rbOf (cellAt (fetched s c m) (cellOfL s c)) w = rbOf (issuer s c) w := by
  rw [rbOf, fetched_x]; rfl

theorem rdinfoItem_fetched (s : State) (c : LCell) (m : Meet) (l item : Nat) :
    rdinfoItem (fetched s c m) l item = rdinfoItem s l item := by
  unfold fetched; split <;> rfl

theorem fenceOpen_fetched (s : State) (c : LCell) (m : Meet) (mask : Nat) :
    fenceOpen (fetched s c m) c.toNat mask = fenceOpen s c.toNat mask := by
  have hsync : (fetched s c m).sync = s.sync := (sameWork_fetched s c m).sync
  simp only [fenceOpen, syncQuiet, physOf_fetched, fetched_units, hsync]

theorem execNop_issues {s : State} {c : LCell} {m : Meet} {w : InsnWord} (h : Issues s c w 0 0x01)
    (hm : m.imem ≠ .uncorrectable) (hl : controlLegal w = true) :
    exec (.nop c m) s = .next (issued s c m Cell.next) := by
  have hdefined : wordDefined w = true := by simp [wordDefined, h.op, controlFields]
  have hinside : ¬ (cellAt s (physOf s c.toNat)).seq.pc ≥ 4096 := Nat.not_le.mpr h.inMem
  change execNop c m s = _
  rw [execNop, if_neg (by simp [hinside]), fetchFor_go h hm (by simp [h.op]) (by simp [hdefined, hl])]
  rfl

/-- A branch compares registers as they stood before the fetch, and leaves the loop stack as it is where it is taken (R171,
log entry 8). -/
theorem execBr_issues {s : State} {c : LCell} {m : Meet} {w : InsnWord} (h : Issues s c w 0 0x10)
    (hm : m.imem ≠ .uncorrectable) (hl : controlLegal w = true) :
    exec (.br c m) s = .next (issued s c m (fun y =>
      if branchHolds (wf w 63 60) (raOf (issuer s c) w) (rbOf (issuer s c) w) then
        { y with seq := { y.seq with pc := wf w 11 0 } }
      else y.next)) := by
  change execBr c m s = _
  rw [execBr, control_go h hm hl, raOf_fetched, rbOf_fetched]
  cases branchHolds (wf w 63 60) (raOf (issuer s c) w) (rbOf (issuer s c) w) <;> rfl

/-- LOOP whose body does not end before it, and which has room for a level where it needs one, skips the body or pushes the
level. -/
theorem execLoop_issues {s : State} {c : LCell} {m : Meet} {w : InsnWord} (h : Issues s c w 0 0x11)
    (hm : m.imem ≠ .uncorrectable) (hl : controlLegal w = true) (hlast : (issuer s c).seq.pc + 1 ≤ wf w 11 0)
    (hroom : (raOf (issuer s c) w).toNat = 0 ∨ (issuer s c).seq.loops.length < 4) :
    exec (.loop c m) s = .next (
      if (raOf (issuer s c) w).toNat = 0 then issued s c m (fun y => { y with seq := y.seq.advance (wf w 11 0) })
      else issued s c m (fun y => { y with seq := { y.seq with
        pc := y.seq.pc + 1, loops := ⟨y.seq.pc + 1, wf w 11 0, (raOf (issuer s c) w).toNat⟩ :: y.seq.loops } })) := by
  change execLoop c m s = _
  rw [execLoop, control_go h hm hl, raOf_fetched, fetched_seq, if_neg (by omega)]
  rfl

/-- Settles O4: each instruction is fetched (control_go), and its own row then changes the cell. -/
theorem controlFlow : Obligations.ControlFlow := by
  unfold Obligations.ControlFlow
  intro s c m w hm hl x
  refine ⟨fun h => execNop_issues h hm hl, fun h => execBr_issues h hm hl, fun h hzero hlast => ?skip,
    fun h hpos hlast hroom => ?push, fun h => ?rdinfo, fun h => ?fence, fun h => ?yield⟩
  case skip => rw [execLoop_issues h hm hl hlast (.inl hzero), if_pos hzero]
  case push => rw [execLoop_issues h hm hl hlast (.inr hroom), if_neg (Nat.ne_of_gt hpos)]
  case rdinfo =>
    change execRdinfo c m s = _
    rw [execRdinfo, control_go h hm hl, rdinfoItem_fetched]
    rfl
  case fence =>
    change execFence c m s = _
    rw [execFence, control_go h hm hl, fenceOpen_fetched]
    rfl
  case yield => exact congrArg Host.Outcome.next (control_go h hm hl)

end Sys2Proof.Machine

/-! Alignment (O36): a beat message is taken from the inbox, which changes the links alone, and answered on its port. -/

namespace Sys2Proof.Machine

section
variable (i : Nat) (m : InMsg) (s : State)

/-- Taking a message changes the links alone. -/
theorem freeMsg_link : freeMsg i m s = { s with link := (freeMsg i m s).link } := by
  unfold freeMsg; dsimp only; split <;> rfl

@[simp] theorem freeMsg_beat : (freeMsg i m s).beat = s.beat := by rw [freeMsg_link]

@[simp] theorem beatRole_freeMsg : beatRole (freeMsg i m s) = beatRole s := by rw [freeMsg_link]; rfl

@[simp] theorem beatGroupId_freeMsg : beatGroupId (freeMsg i m s) = beatGroupId s := by rw [freeMsg_link]; rfl

@[simp] theorem parentPort_freeMsg : parentPort (freeMsg i m s) = parentPort s := by rw [freeMsg_link]; rfl

@[simp] theorem timebase_freeMsg : timebase (freeMsg i m s) = timebase s := by rw [freeMsg_link]; rfl

@[simp] theorem timebaseAt_freeMsg (t : Nat) : timebaseAt (freeMsg i m s) t = timebaseAt s t := by rw [freeMsg_link]; rfl

end

/-- A beat message for this device's group is taken and its row's rule runs (R73). -/
theorem beatRow_takes {s : State} {i type : Nat} {m : InMsg} {go : InMsg → State → State}
    (hmsg : ctlMsg s i 2 type = some m) (hversion : fieldAt m.bytes 1 1 = 1) (hgroup : fieldAt m.bytes 2 2 = beatGroupId s)
    (hrole : beatRole s ≠ 0) : beatRow i type go s = flushOut (go m (freeMsg i m s)) := by
  simp [beatRow, hmsg, hversion, hgroup, hrole]

/-- An exchange with an offset of 500 ns at most steers the timebase by the whole offset and raises nothing (R70, R72, log
entry 51). -/
theorem endExchange_near {x : SyncExchange} {t4 : Int} {s : State}
    (hnear : (((x.t2 - x.t1) - (t4 - x.t3)) / 2).natAbs ≤ 500 * 65536) :
    let off := ((x.t2 - x.t1) - (t4 - x.t3)) / 2
    let b := (endExchange x t4 s).beat
    b.offset = off ∧ b.delay = (((x.t2 - x.t1) + (t4 - x.t3)) / 2).toNat ∧ b.adjust = s.beat.adjust - off ∧
      b.exchange = none ∧ (s.beat.locked = true → b.locked = true) ∧
      (off.natAbs ≤ 100 * 65536 → 1 ≤ s.beat.good → b.locked = true) := by
  intro off
  unfold endExchange
  rw [if_neg (Nat.not_lt.mpr hnear)]
  refine ⟨rfl, rfl, rfl, rfl, fun hlocked => ?_, fun hclose hgood => ?_⟩
  · simp [hlocked]
  · have htwice : 2 ≤ s.beat.good + 1 := Nat.succ_le_succ hgood
    simp only [off] at hclose
    rw [if_pos hclose, decide_eq_true htwice, Bool.or_true]

/-- With no unparked context the fault is only recorded, and LOCKED is cleared (R61, R491). -/
theorem raiseBeatAlign_unlocks {s : State} (h : unparked s = []) :
    (raiseBeatAlign s).beat = { s.beat with locked := false } := by
  unfold raiseBeatAlign raiseFault
  rw [h]
  exact (workKept_record0 _ _).beat

/-- Settles O36: the three messages by the rule of their rows, and the loss of SYNC by its record. -/
theorem beatAlignment : Obligations.BeatAlignment := by
  unfold Obligations.BeatAlignment
  refine ⟨fun s i m hversion hgroup => ?_, fun s hrole hjoined hwaiting hlate => ?_⟩
  · intro f s₁
    refine ⟨fun hmsg hrole hport hjoined hdepth => ?sync, fun hmsg hrole hport => ?request,
      fun x hmsg hrole hx hport hseq => ?answer⟩
    case sync =>
      intro asym t
      have hbelow : fieldAt m.bytes 0x1F 1 ≠ 0 := hdepth
      change execSync i s = _
      rw [execSync, beatRow_takes hmsg hversion hgroup (by omega), if_neg (by simp [hrole, hport])]
      simp only [freeMsg_beat, hjoined, Bool.false_eq_true, if_false, beatRole_freeMsg, hrole, ne_eq, not_true_eq_false,
        timebase_freeMsg, timebaseAt_freeMsg, if_neg hbelow]
      rfl
    case request =>
      change execDelayReq i s = _
      rw [execDelayReq, beatRow_takes hmsg hversion hgroup hrole, if_pos hport, timebaseAt_freeMsg]
    case answer =>
      intro t4 off hnear t
      refine ⟨?_, ?_⟩
      · change execDelayResp i s = _
        rw [execDelayResp, beatRow_takes hmsg hversion hgroup (by omega)]
        simp only [freeMsg_beat, hx, parentPort_freeMsg]
        rw [if_pos ⟨hport, hseq⟩]
      · simpa [s₁] using endExchange_near (s := s₁) hnear
  · intro t
    refine ⟨?_, fun hnone => ?_⟩
    · change execSyncTimeout s = _
      rw [execSyncTimeout, if_pos ⟨hrole, hjoined, hwaiting, hlate⟩]
    · have hbeat : t.beat = _ := raiseBeatAlign_unlocks hnone
      rw [hbeat]
      exact ⟨rfl, rfl⟩

end Sys2Proof.Machine

/-! Steps and updates (O38): a command that reaches Ozmin is decided by its own rule, and one that reads structures by what
follows once they have been read. -/

namespace Sys2Proof.Machine

/-- The rule of its opcode decides what a row gives to a command that reaches Ozmin. -/
theorem Reaches.gives {op : Nat} {r : Route} {s s₁ t : State} {c : Cmd} {i : Instr} {go : Cmd → State → State}
    (h : Reaches op r s s₁ c) (hrow : exec i s = .next (command op r go s)) (hgo : go c s₁ = t) : RowGives i r s t := by
  rw [RowGives, hrow, h go, hgo]

/-- Structures whose lines are all good let the command go on (R609). -/
theorem readingCmd_good {c : Cmd} {regions : List (Nat × Nat)} {h : LineHit} {go : State → State} {s t : State}
    (hread : readRegions h regions 0 s = (none, t)) : readingCmd c regions h go s = go t := by
  rw [readingCmd, hread]

theorem acceptStep_plain (c : Cmd) (s : State) :
    acceptStep c false s = acceptCmd c (if c.field 0 8 = 0 then s.beat.gnum + 1 else c.field 0 8) 0 [] s := by
  unfold acceptStep
  dsimp only
  split <;> rfl

/-! ### STEP (R45, R375) -/

/-- A step without UPDATE that nothing refuses is accepted. -/
theorem stepCommand_plain {h : LineHit} {c : Cmd} {s : State} (hst : (ctxAt s c.ctx).st = .unparked)
    (hmap : resharding s c.ctx = false) (hupd : (ctxAt s c.ctx).alm.upd = 0) (hjobs : (jobsOf s 0x0301 c.ctx).length < 2)
    (hcells : awaitingCells s c.ctx = []) (hplain : c.field 8 2 ≠ 1) : stepCommand h c s = acceptStep c false s := by
  simp [stepCommand, hst, hmap, hupd, hcells, hplain, Nat.not_le.mpr hjobs]

/-- A step with UPDATE that nothing refuses is accepted once the structures of the update have been read. -/
theorem stepCommand_update {h : LineHit} {c : Cmd} {s t : State} (hst : (ctxAt s c.ctx).st = .unparked)
    (hmap : resharding s c.ctx = false) (hupd : (ctxAt s c.ctx).alm.upd = 0) (hjobs : (jobsOf s 0x0301 c.ctx).length < 2)
    (hcells : awaitingCells s c.ctx = []) (hwith : c.field 8 2 = 1) (hfrom : nextStepStart s c.ctx ≤ c.field 0x0A 2)
    (hto : c.field 0x0A 2 < stepEnd s (planOf (ctxAt s c.ctx)) (nextStepStart s c.ctx))
    (hread : readRegions h (almanacRegions s c.ctx) 0 s = (none, t)) (hgood : updateFault t c.ctx = none) :
    stepCommand h c s = acceptStep c true t := by
  simp [stepCommand, hst, hmap, hupd, hcells, hwith, Nat.not_le.mpr hjobs, Nat.not_lt.mpr hfrom, Nat.not_le.mpr hto,
    readingCmd_good hread, hgood]

/-! ### MILL_FUSED (R389) -/

theorem millFused_starts {h : LineHit} {c : Cmd} {s t : State} (hst : (ctxAt s c.ctx).st = .unparked)
    (hupd : (ctxAt s c.ctx).alm.upd = 0) (hidle : stepInFlight s c.ctx = false)
    (hread : readRegions h (almanacRegions s c.ctx) 0 s = (none, t)) (hgood : updateFault t c.ctx = none) :
    millFused h c s = startFused c t := by
  simp [millFused, hst, hupd, hidle, readingCmd_good hread, hgood]

/-- A fused pass stands open in UPD 5, on all eight Mills, for the step after the last. -/
theorem startFused_opens (c : Cmd) (s : State) : let x := ctxAt (startFused c s) c.ctx
    x.alm.upd = 5 ∧ x.upd.map (fun u => (u.fused, u.apply_, u.mills, u.t)) =
      some (true, c.field 0 1 == 2, List.range 8, (ctxAt s c.ctx).alm.step + 1) := by
  simp [startFused, updAlm]

/-! ### STEP_RESOLVE (R387) -/

theorem writePiece_ctxs (s : State) (pa : Nat) (bs : List Byte) : (writePiece s pa bs).1.ctxs = s.ctxs := by
  unfold writePiece
  split
  case h_1 => split <;> rfl
  case h_2 => dsimp only; split <;> rfl
  all_goals rfl

theorem writePieces_ctxs (s : State) (pa : Nat) (bs : List Byte) (l : List (Nat × Nat)) :
    (writePieces s pa bs l).1.ctxs = s.ctxs := by
  induction l generalizing s with
  | nil => rfl
  | cons p l ih => exact (ih _).trans (writePiece_ctxs ..)

@[simp] theorem poke_ctxs (s : State) (pa : Nat) (bs : List Byte) : (poke s pa bs).ctxs = s.ctxs :=
  writePieces_ctxs s pa bs _

@[simp] theorem ctxAt_poke (s : State) (pa : Nat) (bs : List Byte) (c : Nat) : ctxAt (poke s pa bs) c = ctxAt s c := by
  rw [ctxAt, poke_ctxs]; rfl

@[simp] theorem ctxAt_writeAlmanac (s : State) (b c : Nat) : ctxAt (writeAlmanac b s) c = ctxAt s c := by
  unfold writeAlmanac
  dsimp only
  split
  · rfl
  · rw [ctxAt_poke, ctxAt_poke]

theorem alm_unflipCode (c : Nat) (s : State) : (ctxAt (unflipCode c s) c).alm = (ctxAt s c).alm := by
  unfold unflipCode
  split
  · rw [updCode, ctxAt_updCtx]
  · rfl

/-- BACK turns the committed buffer and lowers the step at once (R387, log entry 60). -/
theorem alm_stepBack (c : Nat) (s : State) : (ctxAt (stepBack c s) c).alm = { (ctxAt s c).alm with
    cb := 1 - (ctxAt s c).alm.cb, step := ((ctxAt s c).alm.step + 2 ^ 64 - 1) % 2 ^ 64, passSince := true
    refreshed := false } := by
  rw [stepBack, ctxAt_writeAlmanac, updAlm, ctxAt_updCtx, alm_unflipCode]

theorem stepResolve_back {c : Cmd} {s : State} (hback : c.field 0 1 = 2) (hupd : (ctxAt s c.ctx).alm.upd = 0)
    (hpass : (ctxAt s c.ctx).alm.passSince = false) :
    let t := stepBack c.ctx s
    stepResolve c s = completeCmd c stOk t.beat.gnum [(ctxAt t c.ctx).alm.step] [] t := by
  simp [stepResolve, hback, hupd, hpass]

/-- FORWARD or DISCARD awaits the next boundary. -/
theorem stepResolve_later {c : Cmd} {s : State} (hother : c.field 0 1 ≠ 2) (hupd : (ctxAt s c.ctx).alm.upd = 4)
    (hjobs : jobsOf s 0x0302 c.ctx = []) : stepResolve c s = acceptCmd c (s.beat.gnum + 1) 0 [] s := by
  simp [stepResolve, hother, hupd, hjobs]

/-! ### RESHARD (R366) -/

theorem reshard_accepts {h : LineHit} {c : Cmd} {s t : State} (hst : (ctxAt s c.ctx).st = .unparked)
    (hupd : (ctxAt s c.ctx).alm.upd ≠ 4) (hmap : resharding s c.ctx = false) (hidle : stepInFlight s c.ctx = false)
    (hshadow : shadowShard (ctxAt s c.ctx) ≠ 0)
    (hread : readRegions h (shardRegions s (shadowShard (ctxAt s c.ctx))) 0 s = (none, t))
    (hshard : shardFail t c.ctx (shadowShard (ctxAt s c.ctx)) = none)
    (hapart : overlapFail t c.ctx (shardMapOf (ctxAt s c.ctx)) (shadowShard (ctxAt s c.ctx)) = none)
    (hmoves : reshardable t (shardMapOf (ctxAt s c.ctx)) (shadowShard (ctxAt s c.ctx)) = true) :
    reshard h c s = acceptCmd c 0 0 [] t := by
  simp [reshard, hst, hupd, hmap, hidle, hshadow, readingCmd_good hread, hshard, hapart, hmoves]

/-- Settles O38: each command reaches Ozmin and is decided by its own rule. -/
theorem stepCommands : Obligations.StepCommands := by
  unfold Obligations.StepCommands
  intro r h s s₁ c x at_ due
  refine ⟨fun hreach hst hmap hupd hjobs hcells => ⟨fun hplain => ?_, fun t hwith hfrom hto hread hgood => ?_⟩,
    fun t hreach hst hupd hidle hread hgood => ⟨?_, startFused_opens c t⟩,
    fun hreach hback hupd hpass => ⟨?_, ?_⟩, fun hreach hother hupd hjobs => ?_,
    fun t hreach hst hupd hmap hidle hshadow hread hshard hapart hmoves => ?_⟩
  · exact hreach.gives rfl ((stepCommand_plain hst hmap hupd hjobs hcells hplain).trans (acceptStep_plain c s₁))
  · exact hreach.gives rfl (stepCommand_update hst hmap hupd hjobs hcells hwith hfrom hto hread hgood)
  · exact hreach.gives rfl (millFused_starts hst hupd hidle hread hgood)
  · exact hreach.gives rfl (stepResolve_back hback hupd hpass)
  · rw [alm_stepBack]
    exact ⟨rfl, rfl⟩
  · exact hreach.gives rfl (stepResolve_later hother hupd hjobs)
  · exact hreach.gives rfl (reshard_accepts hst hupd hmap hidle hshadow hread hshard hapart hmoves)

end Sys2Proof.Machine

/-! The reset state (O57): its tables list nothing, so that every read gives the value of an unlisted key. -/

namespace Sys2Proof.Machine

theorem regGet_reset (a : Nat) : regGet State.reset a = regResetAt a := rfl

theorem regEff_reset (a : Nat) : regEff State.reset a = (regResetAt a).toNat := rfl

theorem sGetAll_nil {α : Type} (d : α) (k n : Nat) : sGetAll d [] k n = List.replicate n d := by
  simp [sGetAll, List.map_const']

/-- L after reset is the reset value of its field of BEAT_CTL (R37, R83). -/
theorem beatLen_reset : beatLen State.reset = 16 := by
  rw [beatLen, regField, regGet_reset]
  decide

/-- Settles O57: registers and memory by their empty tables, and the canonical form as resets leave it. -/
theorem resetValues : Obligations.ResetValues := by
  unfold Obligations.ResetValues
  refine ⟨fun a => ⟨regGet_reset a, regEff_reset a⟩, beatLen_reset, rfl, rfl, rfl, rfl, rfl, rfl, rfl, rfl, rfl, ?_, rfl,
    resetDevice_wf State.reset⟩
  exact fun st la n => sGetAll_nil 0#8 _ n

end Sys2Proof.Machine

/-! Accumulation (O11): the vectors of a pass change the accumulators and flags of its cell, the checks only its arrays' counts,
and the row then moves the pass on. -/

namespace Sys2Proof.Machine

/-! ### The vectors of one step -/

/-- Nothing but accumulators and flags differs between two cells. -/
def OnlyAccs (x y : Cell) : Prop := y = { x with acc := y.acc, flags := y.flags }

theorem OnlyAccs.trans {x y z : Cell} (h : OnlyAccs x y) (g : OnlyAccs y z) : OnlyAccs x z := by
  unfold OnlyAccs at *
  rw [g, h]

theorem OnlyAccs.foldl {β : Type} {f : Cell → β → Cell} (h : ∀ x v, OnlyAccs x (f x v)) (l : List β) (x : Cell) :
    OnlyAccs x (l.foldl f x) :=
  l.foldlRecOn f (motive := OnlyAccs x) rfl fun y hy v _ => hy.trans (h y v)

theorem OnlyCell.foldl {β : Type} {p : Nat} {f : State → β → State} (h : ∀ s v, OnlyCell p s (f s v)) (l : List β)
    (s : State) : OnlyCell p s (l.foldl f s) :=
  l.foldlRecOn f (motive := OnlyCell p s) (.refl p s) fun t ht v _ => ht.trans (h t v)

/-- The cell of a logical number is the one that it was. -/
theorem OnlyCell.issuer {p : Nat} {s t : State} (h : OnlyCell p s t) (c : LCell) :
    issuer t c = cellAt t (cellOfL s c) := by
  rw [Machine.issuer, cellOfL, h.physOf]

/-- Updates of one cell in turn come to the cell's own changes in turn. -/
theorem cellAt_foldl_updCell {β : Type} (p : Nat) (f : Cell → β → Cell) (l : List β) (s : State) :
    cellAt (l.foldl (fun s v => updCell s p (fun x => f x v)) s) p = l.foldl f (cellAt s p) :=
  (List.foldl_hom (cellAt · p) fun s v => (cellAt_updCell s p fun x => f x v).symm).symm

/-- A cell's own updates leave the names of cells alone, so that its logical number leads to it throughout. -/
theorem foldl_updCell_cellOfL {β : Type} (c : LCell) (f : Cell → β → Cell) (l : List β) (s : State) :
    l.foldl (fun t v => updCell t (cellOfL t c) (fun x => f x v)) s =
      l.foldl (fun t v => updCell t (cellOfL s c) (fun x => f x v)) s := by
  induction l generalizing s with
  | nil => rfl
  | cons v l ih => exact ih _

/-- The cell after the next vector of pass q in every array that it reaches. -/
def Pass.accumulated (q : Pass) (u : Option Upset) (x : Cell) : Cell := (q.targets q.next).foldl (accumulateVector q u) x

/-- The machine after the next vector of pass q of cell p in every array that it reaches. -/
def vectorWritten (p : Nat) (q : Pass) (u : Option Upset) (s : State) : State :=
  (q.targets q.next).foldl (fun s v => updCell s p (fun x => accumulateVector q u x v)) s

theorem onlyAccs_accumulateVector (q : Pass) (u : Option Upset) (x : Cell) (v : Nat × List (Nat × Nat) × Nat) :
    OnlyAccs x (accumulateVector q u x v) := by
  unfold accumulateVector
  refine .foldl (fun _ _ => ?_) _ x
  rfl

theorem onlyAccs_accumulated (q : Pass) (u : Option Upset) (x : Cell) : OnlyAccs x (q.accumulated u x) :=
  .foldl (onlyAccs_accumulateVector q u) _ x

theorem cellAt_vectorWritten (p : Nat) (q : Pass) (u : Option Upset) (s : State) :
    cellAt (vectorWritten p q u s) p = q.accumulated u (cellAt s p) :=
  cellAt_foldl_updCell p (accumulateVector q u) _ s

theorem onlyCell_vectorWritten (p : Nat) (q : Pass) (u : Option Upset) (s : State) : OnlyCell p s (vectorWritten p q u s) :=
  .foldl (fun s _ => .updCell p s _) _ s

/-! ### The checks of a vector -/

/-- Nothing but the arrays of cell p differs, apart from the Tally. -/
structure OnlyArrays (p : Nat) (s t : State) : Prop where
  only : OnlyCell p s t
  cell : cellAt t p = { cellAt s p with arrays := (cellAt t p).arrays }

theorem OnlyArrays.updArray {p : Nat} {s t : State} (h : OnlyArrays p s t) (a : Nat) (f : MatrixArray → MatrixArray) :
    OnlyArrays p s (updCell t p (fun x => x.updArray a f)) where
  only := h.only.trans (.updCell p t _)
  cell := by rw [cellAt_updCell, Cell.updArray, h.cell]

/-- An array without check mode is passed by, and a check counts at most in its own array (R147). -/
theorem onlyArrays_checkAll (l p : Nat) (q : Pass) (u : Option Upset) (s : State) :
    OnlyArrays p s (checkAll l p q u s).1 := by
  unfold checkAll
  refine List.foldlRecOn _ _ (motive := fun (r : State × Option (Nat × Nat)) => OnlyArrays p s r.1)
    ⟨.refl p s, rfl⟩ fun r hr v _ => ?_
  split
  · exact hr
  · split
    case h_1 => exact hr
    case h_2 => exact hr.updArray _ _
    case h_3 => exact hr.updArray _ _

/-! ### The row -/

/-- The first pass of a cell has written one more vector. -/
def firstAdvanced (x : Cell) : Cell :=
  { x with units := passWritten 0 { x.units with passes := updAt x.units.passes 0 (fun q => { q with next := q.next + 1 }) } }

/-- No earlier pass holds the first one back, and clean check bits count nothing and leave no entry free. -/
theorem execAccumulatorWrite_clean {s : State} {c : LCell} {h : Hit} {u : Option Upset} {q : Pass} {rest : List Pass}
    (hclean : h.ecc = .clean) (hq : (issuer s c).units.passes = q :: rest)
    (hcheck : (checkAll c.toNat (cellOfL s c) q u (vectorWritten (cellOfL s c) q u s)).2 = none) :
    execAccumulatorWrite c 0 h u s = .next (updCell
      (checkAll c.toNat (cellOfL s c) q u (vectorWritten (cellOfL s c) q u s)).1 (cellOfL s c) firstAdvanced) := by
  unfold execAccumulatorWrite
  have hzero : (0 : BitVec 8).toNat = 0 := rfl
  unfold vectorWritten at *
  simp only [hzero, hq, List.getElem?_cons_zero, List.take_zero, List.any_nil, Bool.false_eq_true, ↓reduceIte, hclean,
    accMeets, ite_self, reduceCtorEq, decide_false, Bool.and_false, Bool.false_and, hcheck, Option.isSome_none, Bool.or_false]
  rfl

/-- The cell that the pass moves on in is the accumulated one, but for its arrays' counts. -/
theorem accumulatorWrite_clean {s : State} {c : LCell} {h : Hit} {u : Option Upset} {q : Pass} {rest : List Pass}
    (hclean : h.ecc = .clean) (hq : (issuer s c).units.passes = q :: rest)
    (hcheck : (checkAll c.toNat (cellOfL s c) q u (vectorWritten (cellOfL s c) q u s)).2 = none) :
    ∃ t arrays, exec (.accumulatorWrite c 0 h u) s = .next t ∧ OnlyCell (cellOfL s c) s t ∧
      issuer t c = firstAdvanced { q.accumulated u (issuer s c) with arrays := arrays } := by
  have harr := onlyArrays_checkAll c.toNat (cellOfL s c) q u (vectorWritten (cellOfL s c) q u s)
  have honly := ((onlyCell_vectorWritten (cellOfL s c) q u s).trans harr.only).trans (.updCell _ _ firstAdvanced)
  refine ⟨_, (cellAt (checkAll c.toNat (cellOfL s c) q u (vectorWritten (cellOfL s c) q u s)).1 (cellOfL s c)).arrays,
    execAccumulatorWrite_clean hclean hq hcheck, honly, ?_⟩
  rw [honly.issuer, cellAt_updCell, harr.cell, cellAt_vectorWritten]

/-- Settles O11: the row's cell is the accumulated one with its first pass moved on, and a finished tile's entry moves from the
one queue to the other. -/
theorem Pass.accumulate : Obligations.Accumulate := by
  unfold Obligations.Accumulate
  refine ⟨fun s c h u q rest hclean hq hcheck => ?_, fun s c e rest he => ?_⟩
  · obtain ⟨t, arrays, hexec, honly, hcell⟩ :=
      accumulatorWrite_clean (u := u) hclean hq (by rwa [vectorWritten, ← foldl_updCell_cellOfL])
    rw [onlyAccs_accumulated] at hcell
    refine ⟨t, hexec, honly, ?_⟩
    rw [hcell]
    simp only [firstAdvanced, Pass.accumulated, hq, updAt, and_self]
  · change execFinishedTileEntry c s = _
    simp only [execFinishedTileEntry, he]

end Sys2Proof.Machine

/-! Scalar results, and the loads and stores of the sequencer (O2, O3): each is fetched and then changes its own cell, from
registers that the fetch leaves as they were. -/

namespace Sys2Proof.Machine

section
variable {s : State} {c : LCell} {m : Meet} {w : InsnWord}

/-- An operation of x[RA], x[RB] and IMM that issues writes its value to x[RD] and goes on (R171). -/
theorem scalarOp_issues {op : Nat} {f : Word → Word → Word → Word} (hm : m.imem ≠ .uncorrectable)
    (hl : controlLegal w = true) (h : Issues s c w 0 op) :
    scalarOp op f c m s = issued s c m (fun x =>
      { x with x := xSet x.x (wf w 115 112) (f (raOf (issuer s c) w) (rbOf (issuer s c) w) (immOf w)) }.next) := by
  rw [scalarOp, control_go h hm hl, raOf_fetched, rbOf_fetched]
  rfl

/-- An address aligned to its size and inside the store is taken, and the fetch leaves it as it was. -/
theorem seqAddress_fetched {n a : Nat} (ha : (raOf (issuer s c) w + immOf w).toNat = a) (halign : a % n = 0)
    (hin : a + n ≤ 0x80000) : seqAddress n (cellAt (fetched s c m) (cellOfL s c)) w = some a := by
  simp only [seqAddress, raOf_fetched, ha, halign, hin, and_self, if_true]

/-- A load that issues, with no uncorrectable error in its bytes, goes on from the bytes of the store, its check counted
(R158). -/
theorem seqLoad_go {n a : Nat} {go : State → List Byte → State} (hdata : m.data ≠ .uncorrectable)
    (ha : (raOf (issuer s c) w + immOf w).toNat = a) (halign : a % n = 0) (hin : a + n ≤ 0x80000) :
    seqLoad n c m (fetched s c m) (cellOfL s c) (cellAt (fetched s c m) (cellOfL s c)) w go =
      go (storeMeets (cellOfL s c) m.data (fetched s c m)) (storeBytes (issuer s c) a n) := by
  simp only [seqLoad, seqAddress_fetched ha halign hin, if_neg hdata, storeBytes, fetched_store]

end

/-- Settles O2: every row is a scalar operation with the function that R171 gives it. -/
theorem scalarResults : Obligations.ScalarResults := by
  unfold Obligations.ScalarResults
  intro s c m w hm hl a b gives
  have row {i : Instr} {op : Nat} (f : Word → Word → Word → Word) (hi : exec i s = .next (scalarOp op f c m s)) :
      gives i op (f a b (immOf w)) :=
    fun h => hi.trans (congrArg Host.Outcome.next (scalarOp_issues hm hl h))
  exact ⟨row (fun _ _ i => i) rfl, row (fun a b i => a + b + i) rfl, row (fun a b _ => a - b) rfl,
    row (fun a b _ => a &&& b) rfl, row (fun a b _ => a ||| b) rfl, row (fun a b _ => a ^^^ b) rfl,
    row (fun a _ i => a <<< (i.toNat % 64)) rfl, row (fun a _ i => a >>> (i.toNat % 64)) rfl,
    row (fun a b _ => a * b) rfl⟩

/-- Settles O3: the two loads by what a load goes on from, the store and DADD by what they read after the fetch. -/
theorem storeAccess : Obligations.StoreAccess := by
  unfold Obligations.StoreAccess
  intro s c m w a hm hl x at_
  refine ⟨fun h hdata ha halign hin => ?ldx, fun h ha halign hin => ?stx, fun h hdata ha halign hin => ?ldd,
    fun h => ?dadd⟩
  case ldx =>
    change execLdx c m s = _
    rw [execLdx, control_go h hm hl, seqLoad_go hdata ha halign hin]
    rfl
  case stx =>
    change execStx c m s = _
    rw [execStx, control_go h hm hl, seqAddress_fetched ha halign hin, rbOf_fetched]
    rfl
  case ldd =>
    change execLdd c m s = _
    rw [execLdd, control_go h hm hl, seqLoad_go hdata ha halign hin]
    rfl
  case dadd =>
    change execDadd c m s = _
    rw [execDadd, control_go h hm hl, raOf_fetched, fetched_d]
    rfl

end Sys2Proof.Machine

/-! Issue into the vector, move and matrix queues (O5 to O7): the row's operation names its queue, and an MPASS is checked on
registers and arrays that the fetch leaves as they were. -/

namespace Sys2Proof.Machine

/-- Settles O5: every row of the vector class is the issue of its own operation. -/
theorem vectorIssue : Obligations.VectorIssue := by
  unfold Obligations.VectorIssue
  intro s c m w hm hl hroom joins
  have row {i : Instr} {op : Nat} (hi : exec i s = .next (vecIssue op c m s)) : joins i op :=
    fun h => hi.trans (congrArg Host.Outcome.next (vecIssue_go h hm hl hroom))
  exact ⟨⟨row rfl, row rfl, row rfl, row rfl, row rfl, row rfl, row rfl, row rfl⟩,
    ⟨row rfl, row rfl, row rfl, row rfl, row rfl, row rfl, row rfl, row rfl⟩,
    ⟨row rfl, row rfl, row rfl, row rfl, row rfl, row rfl, row rfl, row rfl⟩,
    row rfl, row rfl, row rfl, row rfl, row rfl, row rfl⟩

/-- Settles O6: every row of the move class is the issue of the words of its operation, which for ATOM and COLL are told apart by
OPC and FN. -/
theorem Cell.moveIssue : Obligations.MoveIssue := by
  unfold Obligations.MoveIssue
  intro s c m w hm hl hroom joins any opc fn
  have row {i : Instr} {op : Nat} (mine : InsnWord → Bool) (hi : exec i s = .next (Machine.moveIssue mine c m s))
      (own : InsnWord → Bool) (hmine : moveOp op w = true → own w = true → mine w = true) : joins i op own :=
    fun h how => hi.trans (congrArg Host.Outcome.next
      (moveIssue_go h hm (hmine (decide_eq_true h.op) how) hl hroom))
  have plain {i : Instr} {op : Nat} (hi : exec i s = .next (Machine.moveIssue (moveOp op) c m s)) : joins i op any :=
    row (moveOp op) hi any fun hop _ => hop
  have atom {i : Instr} {k : Nat} (hi : exec i s = .next (Machine.moveIssue (atomOp k) c m s)) : joins i 8 (opc k) :=
    row (atomOp k) hi (opc k) fun hop hk => Bool.and_eq_true_iff.mpr ⟨hop, hk⟩
  have coll {i : Instr} {k : Nat} (hi : exec i s = .next (Machine.moveIssue (collOp k) c m s)) : joins i 10 (fn k) :=
    row (collOp k) hi (fn k) fun hop hk => Bool.and_eq_true_iff.mpr ⟨hop, hk⟩
  exact ⟨⟨plain rfl, plain rfl, plain rfl, plain rfl, plain rfl, plain rfl, plain rfl, plain rfl⟩,
    ⟨atom rfl, atom rfl, atom rfl, atom rfl, atom rfl, atom rfl⟩, coll rfl, coll rfl, coll rfl⟩

/-- An update of a cell depends on what it makes of that cell alone. -/
theorem updCell_congr {s : State} {p : Nat} {f g : Cell → Cell} (h : f (cellAt s p) = g (cellAt s p)) :
    updCell s p f = updCell s p g := by
  simp only [updCell, sUpd, show f (sGet {} s.cells p) = g (sGet {} s.cells p) from h]

/-- Updates of arrays in turn change the arrays alone. -/
theorem foldl_updArray (f : MatrixArray → MatrixArray) (l : List Nat) (x : Cell) :
    l.foldl (fun z a => z.updArray a f) x = { x with arrays := (l.foldl (fun z a => z.updArray a f) x).arrays } := by
  induction l generalizing x with
  | nil => rfl
  | cons a l ih => exact ih (x.updArray a f)

/-- The cell whose arrays are marked with the pass that loads them, where a pass loads weights (R177). -/
def Cell.marked (x : Cell) (w : InsnWord) (d : Loader) : Cell :=
  if mpKeep w then x else (arraysHeld w).foldl (fun z a => z.updArray a (fun r => { r with loader := some d })) x

section
variable (x : Cell) (w : InsnWord) (d : Loader)

/-- Marking changes the arrays alone. -/
theorem Cell.marked_arrays : x.marked w d = { x with arrays := (x.marked w d).arrays } := by
  unfold Cell.marked
  split
  · rfl
  · exact foldl_updArray _ _ x

@[simp] theorem Cell.marked_seq : (x.marked w d).seq = x.seq := by rw [marked_arrays]

@[simp] theorem Cell.marked_units : (x.marked w d).units = x.units := by rw [marked_arrays]

@[simp] theorem Cell.marked_capture (v : InsnWord) : (x.marked w d).capture v = x.capture v := by
  rw [marked_arrays]
  rfl

end

/-- The cell once an MPASS of the next serial has joined its queue, its arrays marked with it (R161, R177). -/
def Cell.passJoined (x : Cell) (w : InsnWord) (k n : Nat) (integer : Bool) : Cell :=
  Cell.next { x.marked w ⟨x.seq.passSerial + 1, mpMode w, k, n, integer⟩ with
    seq := { x.seq with passSerial := x.seq.passSerial + 1 }
    units := { x.units with matrix := x.units.matrix ++ [⟨x.capture w, false⟩] } }

/-- The check of an MPASS reads registers, index and arrays, which the fetch leaves as they were (R180). -/
theorem mpassCheck_fetched (s : State) (c : LCell) (m : Meet) (w : InsnWord) :
    mpassCheck (cellAt (fetched s c m) (cellOfL s c)) w = mpassCheck (issuer s c) w := by
  rw [issuer_fetched]
  rfl

section
variable {s : State} {c : LCell} {m : Meet} {w : InsnWord}

/-- An MPASS that issues and fails its check raises the fault that the check names (R180). -/
theorem execMpass_faults {code : Nat} (hm : m.imem ≠ .uncorrectable) (hl : mpassLegal w = true) (h : Issues s c w 1 1)
    (hcheck : mpassCheck (issuer s c) w = .inl code) :
    execMpass c m s = .next (faultHere code c.toNat w (fetched s c m)) := by
  rw [execMpass, fetchFor_go h hm (decide_eq_true h.op) hl, issueWith, mpassCheck_fetched, hcheck]

/-- One that passes it joins the queue where that has room; what the marking leaves of the cell is as it was (R161, R177). -/
theorem execMpass_joins {k n : Nat} {integer : Bool} (hm : m.imem ≠ .uncorrectable) (hl : mpassLegal w = true)
    (h : Issues s c w 1 1) (hcheck : mpassCheck (issuer s c) w = .inr (k, n, integer))
    (hroom : (issuer s c).units.matrix.length < 4) :
    execMpass c m s = .next (issued s c m (fun y => y.passJoined w k n integer)) := by
  rw [execMpass, fetchFor_go h hm (decide_eq_true h.op) hl, issueWith, mpassCheck_fetched, hcheck]
  simp only [fetched_units, ge_iff_le, if_neg (Nat.not_le.mpr hroom)]
  refine congrArg Host.Outcome.next (updCell_congr ?_)
  generalize cellAt (fetched s c m) (cellOfL s c) = y
  change Cell.next { y.marked w ⟨y.seq.passSerial + 1, mpMode w, k, n, integer⟩ with
    seq := { (y.marked w _).seq with passSerial := y.seq.passSerial + 1 }
    units := { (y.marked w _).units with matrix := (y.marked w _).units.matrix ++ [⟨(y.marked w _).capture w, false⟩] } } =
      _
  rw [Cell.marked_seq, Cell.marked_units, Cell.marked_capture]
  rfl

end

/-- Settles O7: by the outcome of the check, on the state once the word is read. -/
theorem matrixIssue : Obligations.MatrixIssue := by
  unfold Obligations.MatrixIssue
  intro s c m w hm hl h
  exact ⟨fun code hcheck => execMpass_faults hm hl h hcheck,
    fun k n integer hcheck hroom => execMpass_joins hm hl h hcheck hroom⟩

end Sys2Proof.Machine

/-! The move engine (O13 to O15): a clean start of the queue's head comes to its flight, and a completion or a credit goes by the
rule of the flight's kind. -/

namespace Sys2Proof.Machine

/-! ### Flights, rings and handles after updates -/

section
variable (p : Nat) (s : State)

theorem onlyCell_fly (f : Flight) : OnlyCell p s (fly p f s) :=
  (OnlyCell.updCell p s _).trans (.updCell ..)

/-- The head of the queue is gone and the flight stands behind the others. -/
theorem cellAt_fly (f : Flight) : cellAt (fly p f s) p =
    { cellAt s p with units := { (cellAt s p).units with move := (cellAt s p).units.move.drop 1
                                                         flights := (cellAt s p).units.flights ++ [f] } } := by
  simp only [fly, popMove, cellAt_updCell]

@[simp] theorem cellAt_updHandle (h : Nat) (f : RingHandle → RingHandle) :
    cellAt (updHandle p h f s) p = { cellAt s p with handles := sUpd {} (cellAt s p).handles h f } :=
  cellAt_updCell ..

@[simp] theorem cellAt_updRing (r : Nat) (f : Ring → Ring) :
    cellAt (updRing p r f s) p = { cellAt s p with rings := sUpd {} (cellAt s p).rings r f } :=
  cellAt_updCell ..

end

/-- The operation takes a credit of its handle in cell p and the next slot of a ring of another cell q, and is in flight
(R187, R614). -/
def pushed (p q h r : Nat) (f : Flight) (s : State) : State :=
  fly p f (updRing q r (fun g => { g with nextFill := (g.nextFill + 1) % g.slots })
    (updHandle p h (fun d => { d with credits := d.credits - 1 }) s))

/-! ### Starting (R184, R614, R615) -/

section
variable {s : State} {c : LCell} {h : Hit} {lh : LineHit} {ctx : Nat} {o : UnitOp} {rest : List UnitOp}

/-- The head of a queue with a place in flight, and no bell to post to, starts by the rule of its operation. -/
theorem moveStart_head (hown : ownerOf s (blockOf c.toNat) = some ctx) (hmove : (issuer s c).units.move = o :: rest)
    (hroom : (issuer s c).units.flights.length < 4) (hpost : postBell o.word = none) :
    exec (.moveStart c h lh .none) s = .next (startMove.go ctx c.toNat (cellOfL s c) o h lh s) := by
  change execMoveStart c h lh .none s = _
  simp only [execMoveStart, hmove, hown, ge_iff_le, if_neg (Nat.not_le.mpr hroom), startMove, hpost, netError]

/-- A start that only takes the head in flight changes the move unit of its cell alone. -/
theorem fly_frame {f : Flight} (hmove : (issuer s c).units.move = o :: rest) :
    OnlyCell (cellOfL s c) s (fly (cellOfL s c) f s) ∧ issuer (fly (cellOfL s c) f s) c =
      { issuer s c with units := { (issuer s c).units with move := rest, flights := (issuer s c).units.flights ++ [f] } } := by
  refine ⟨onlyCell_fly .., ?_⟩
  rw [(onlyCell_fly ..).issuer, cellAt_fly, hmove]
  rfl

/-- A source in a cell store whose check is clean is read, and nothing changes (R158). -/
theorem sourceMeets_clean {c l q : Nat} {t : TileDesc} {resv : Bool} {pas : List Nat} (hclean : h.ecc = .clean) :
    sourceMeets c l o ⟨0, q⟩ t resv pas h lh s = (false, s) := by
  simp [sourceMeets, hclean, storeMeets]

/-- RDEF of an undefined ring whose slots lie in the store (R186). -/
theorem startRdef_flies {c l p : Nat} (hnew : (ringAt (cellAt s p) (wf o.word 54 52)).defined = false)
    (hin : (xGet o.x (wf o.word 43 40)).toNat + wf o.word 51 44 * wf o.word 39 24 * 64 ≤ storeSize) :
    startRdef c l p o s = fly p ⟨o, .rdef, 0x30000 + wf o.word 54 52, [], none⟩ s := by
  simp [startRdef, hnew, Nat.not_lt.mpr hin]

/-- RWAIT of a defined ring (R189). -/
theorem startRwait_flies {l p : Nat} (hdefined : (ringAt (cellAt s p) (wf o.word 54 52)).defined = true) :
    startRwait l p o s = fly p ⟨o, .rwait (wf o.word 54 52) (wf o.word 43 40), 0x30000 + wf o.word 54 52, [], none⟩ s := by
  simp [startRwait, hdefined]

/-- RFREE of a ring with a returned slot that no earlier one is to release (R189). -/
theorem startRfree_flies {l p : Nat}
    (hdue : freesDue (cellAt s p) (wf o.word 54 52) < (ringAt (cellAt s p) (wf o.word 54 52)).returned) :
    startRfree l p o s = fly p ⟨o, .rfree (wf o.word 54 52) none, 0x30000 + wf o.word 54 52, [], none⟩ s := by
  simp [startRfree, Nat.not_le.mpr hdue]

/-- A MOVE between two tiles of one cell's store that agree and do not overlap captures what it is to write (R182, R183, log
entry 19). -/
theorem startCopy_flies {c l : Nat} {a b : TileDesc} (ha : o.tile (wf o.word 115 112) = a)
    (hb : o.tile (wf o.word 111 108) = b) (hclean : h.ecc = .clean) (hsrc : wf o.word 107 105 = 0)
    (hdst : wf o.word 104 102 = 0) (hresv : wf o.word 81 81 = 0) (haok : a.ok (spaceSize 0) = true)
    (hbok : b.destOk (spaceSize 0) = true) (hrows : a.rows = b.rows) (hcols : a.cols = b.cols) (hcode : a.code = b.code)
    (hscale : (a.scale == 0) = (b.scale == 0)) (hphase : a.fmt.scaled = true → a.phase = b.phase)
    (hapart : a.overlaps b = false) (hpost : postBell o.word = none)
    (hup : routeDown s (regionOf l) (Space.region ⟨0, physOf s l⟩) = false) :
    startCopy c l (physOf s l) o h lh s = fly (physOf s l)
      ⟨o, .copy, 1 + physOf s l, copyWrites s a b ⟨0, physOf s l⟩ ⟨0, physOf s l⟩, none⟩ s := by
  have hphases : (a.fmt.scaled && a.phase != b.phase) = false := by
    cases hs : a.fmt.scaled
    · rfl
    · simp [hphase hs]
  simp [startCopy, ha, hb, hsrc, hdst, hresv, moveSpace, haok, hbok, hrows, hcols, hcode, hscale, hphases, hapart, tileLines,
    spaceLines, spaceCut, hup, sourceMeets_clean hclean, hpost, Space.order]

/-- RPUSH through a bound handle with a credit takes the credit and the consumer's next slot, and captures the bytes of its tile
(R187, R188, R614). -/
theorem startRpush_flies {c l p : Nat} {hd : RingHandle} {g : Ring} {bs : List Byte}
    (hhd : handleAt (cellAt s p) (wf o.word 54 52) = hd) (hg : ringAt (cellAt s (physOf s hd.peer)) hd.ring = g)
    (hbs : packedBytes (o.tile (wf o.word 115 112)) (readStore (cellAt s p)) = bs) (hclean : h.ecc = .clean)
    (hresv : wf o.word 81 81 = 0) (hbound : hd.bound = true) (hcredit : hd.credits ≠ 0)
    (hok : (o.tile (wf o.word 115 112)).ok storeSize = true) (hfits : bs.length ≤ 64 * g.slotSz)
    (hup : routeDown s (regionOf l) (regionOf hd.peer) = false) (hpost : postBell o.word = none) :
    startRpush c l p o h s = pushed p (physOf s hd.peer) (wf o.word 54 52) hd.ring
      ⟨o, .push hd.peer hd.ring g.nextFill false, 1 + physOf s hd.peer, (bs.zipIdx).map (fun e =>
        byteWrite (.store (physOf s hd.peer)) (g.base + 64 * g.slotSz * g.nextFill + e.2) e.1.toNat), none⟩ s := by
  simp [pushed, startRpush, hhd, hg, hbs, hresv, hbound, hcredit, hok, Nat.not_lt.mpr hfits, hup, sourceMeets_clean hclean,
    hpost]

end

section
variable {p q h r : Nat} {f : Flight} {s : State}

/-- The producer's cell takes its own handle's credit and its operation in flight. -/
theorem cellAt_pushed_producer (hother : q ≠ p) : cellAt (pushed p q h r f s) p =
    { cellAt s p with handles := sUpd {} (cellAt s p).handles h (fun d => { d with credits := d.credits - 1 })
                      units := { (cellAt s p).units with move := (cellAt s p).units.move.drop 1
                                                         flights := (cellAt s p).units.flights ++ [f] } } := by
  rw [pushed, cellAt_fly, updRing, cellAt_updCell_other _ _ hother.symm, cellAt_updHandle]

/-- The consumer's cell has its ring's next slot taken. -/
theorem cellAt_pushed_consumer (hother : q ≠ p) : cellAt (pushed p q h r f s) q =
    { cellAt s q with rings := sUpd {} (cellAt s q).rings r (fun g => { g with nextFill := (g.nextFill + 1) % g.slots }) } := by
  rw [pushed, (onlyCell_fly ..).2 q hother, cellAt_updRing, updHandle, cellAt_updCell_other _ _ hother]

theorem issuer_pushed (c : LCell) : issuer (pushed p q h r f s) c = cellAt (pushed p q h r f s) (cellOfL s c) := by
  simp only [issuer, cellOfL, pushed, fly, popMove, updRing, updHandle, physOf_updCell]

theorem pushed_mem : (pushed p q h r f s).mem = s.mem := by
  simp only [pushed, fly, popMove, updRing, updHandle, updCell_mem]

/-- What a push leaves: the credit taken, the slot taken, the head in flight, and every byte where it was. -/
theorem pushed_frame {c : LCell} (hother : q ≠ cellOfL s c) : let t := pushed (cellOfL s c) q h r f s
    (handleAt (issuer t c) h).credits = (handleAt (issuer s c) h).credits - 1 ∧
    (ringAt (cellAt t q) r).nextFill = ((ringAt (cellAt s q) r).nextFill + 1) % (ringAt (cellAt s q) r).slots ∧
    (issuer t c).units = { (issuer s c).units with move := (issuer s c).units.move.drop 1
                                                   flights := (issuer s c).units.flights ++ [f] } ∧
    (cellAt t q).store = (cellAt s q).store ∧ (issuer t c).store = (issuer s c).store ∧ t.mem = s.mem := by
  simp only [issuer_pushed, cellAt_pushed_producer hother, cellAt_pushed_consumer hother, handleAt, ringAt, sGet_upd_same,
    pushed_mem, and_self]

end

/-- Settles O13: each start comes to its flight, whose frame is that of the move unit; a push changes its own handle and the
consumer's ring besides. -/
theorem moveStart : Obligations.MoveStart := by
  unfold Obligations.MoveStart
  intro s c h lh ctx o rest hclean hown hmove hroom hpost p w x flies
  have hrun := moveStart_head (h := h) (lh := lh) hown hmove hroom hpost
  have hflies {f : Flight} (hgo : startMove.go ctx c.toNat p o h lh s = fly p f s) : flies f :=
    ⟨_, hrun.trans (congrArg _ hgo), fly_frame hmove⟩
  refine ⟨fun hop hnew _ hin => hflies ?rdef, fun hop hdefined => hflies ?rwait, fun hop hdue => hflies ?rfree, ?copy, ?push⟩
  case rdef =>
    rw [startMove.go, show classOp o.word = _ from hop]
    exact startRdef_flies hnew hin
  case rwait =>
    rw [startMove.go, show classOp o.word = _ from hop]
    exact startRwait_flies hdefined
  case rfree =>
    rw [startMove.go, show classOp o.word = _ from hop]
    exact startRfree_flies hdue
  case copy =>
    intro hop hsrc hdst hresv a b haok hbok hrows hcols hcode hscale hphase hapart hup
    refine hflies ?_
    rw [startMove.go, show classOp o.word = _ from hop]
    exact startCopy_flies rfl rfl hclean hsrc hdst hresv haok hbok hrows hcols hcode hscale hphase hapart hpost hup
  case push =>
    intro hop hresv hd q g bs hbound hcredit hok hfits hup hother
    have hgo := startRpush_flies (c := ctx) rfl rfl rfl hclean hresv hbound hcredit hok hfits hup hpost
    rw [startMove.go, show classOp o.word = _ from hop] at hrun
    obtain ⟨hcredits, hfill, hunits, hfrom, hto, hmem⟩ := pushed_frame (s := s) (h := wf w 54 52) (r := hd.ring) hother
    rw [hmove] at hunits
    exact ⟨_, hrun.trans (congrArg _ hgo), hcredits, hfill, hunits, hfrom, hto, hmem⟩

/-! ### Completing (R184 to R189) -/

/-- An operation that no earlier one holds back completes by the rule of its kind. -/
theorem moveComplete_free {s : State} {c : LCell} {i : BitVec 2} {lh : LineHit} {ctx : Nat} {f : Flight}
    (hown : ownerOf s (blockOf c.toNat) = some ctx) (hf : (issuer s c).units.flights[i.toNat]? = some f)
    (hfree : heldBack (issuer s c).units.flights i.toNat = false) :
    exec (.moveComplete c i lh .none) s = .next (finishFlight ctx c.toNat (cellOfL s c) i.toNat f lh s) := by
  change execMoveComplete c i lh .none s = _
  simp only [execMoveComplete, hf, hown, hfree, netError, Bool.false_eq_true, if_false]

/-- A copy outside the context space needs no access to lines before it writes (R184). -/
theorem copyLands_outside {c l : Nat} {f : Flight} {lh : LineHit} {s : State} (hdest : f.dest ≠ 0x20000) :
    copyLands c l f lh s = (false, s) := by
  rw [copyLands, if_pos hdest]

/-- Settles O14: the flight's kind picks the rule of its completion. -/
theorem moveComplete : Obligations.MoveComplete := by
  unfold Obligations.MoveComplete
  intro s c i lh ctx f hown hf hfree p done gives
  have hgives {t : State} (hfinish : finishFlight ctx c.toNat (cellOfL s c) i.toNat f lh s = t) : gives t :=
    (moveComplete_free hown hf hfree).trans (congrArg _ hfinish)
  refine ⟨fun hkind hdest => hgives ?copy, fun a n hkind => hgives ?imload, fun r ra hkind hfilled => hgives ?rwait,
    fun r hkind => hgives ?rfree, fun hkind hslots => hgives ?rdef⟩
  case copy =>
    simp only [finishFlight, hkind, copyLands_outside hdest]
    rfl
  case imload =>
    simp only [finishFlight, hkind]
    rfl
  case rwait =>
    simp only [finishFlight, hkind, if_pos hfilled]
    rfl
  case rfree =>
    simp only [finishFlight, hkind]
    rfl
  case rdef =>
    simp only [finishFlight, hkind, if_neg hslots]
    rfl

/-! ### Slots and credits (R187 to R189, R614) -/

/-- A flight that goes takes nothing of its cell's handles with it. -/
theorem handleAt_dropFlight (p i h : Nat) (s : State) :
    handleAt (cellAt (dropFlight p i s) p) h = handleAt (cellAt s p) h := by
  rw [dropFlight, cellAt_updCell]
  rfl

/-- Settles O15: a push fills its slot where the ring has room, and a credit goes to the producer's handle or binds the handle of
the flight's own cell. -/
theorem ringsAndCredits : Obligations.RingsAndCredits := by
  unfold Obligations.RingsAndCredits
  intro s c i f hf p
  refine ⟨fun peer r slot hkind => ?push, fun r peer h hkind => ?credit, fun h peer r hkind hdefined hunbound => ?connect⟩
  case push =>
    intro q g n hroom
    refine ⟨_, ?_, rfl⟩
    have hfits : ¬ (ringAt (cellAt s (physOf s peer)) r).filled.length ≥ (ringAt (cellAt s (physOf s peer)) r).slots :=
      Nat.not_le.mpr hroom
    change execRingSlotFill c i s = _
    simp only [execRingSlotFill, hf, hkind, if_neg hfits]
    rfl
  case credit =>
    change execCreditReturn c i s = _
    simp only [execCreditReturn, hf, hkind]
    rfl
  case connect =>
    have hfree : (handleAt (cellAt s (physOf s c.toNat)) h).bound = false := hunbound
    change execCreditReturn c i s = _
    simp only [execCreditReturn, hf, hkind, hdefined, handleAt_dropFlight, hfree, Bool.not_true, Bool.or_false,
      Bool.false_eq_true, if_false]
    rfl

end Sys2Proof.Machine

/-! The vector engine (O12): a result changes the store or a tile buffer of its own cell alone, and the instruction then counts
itself and its elements, sets its flags and takes the head entry where it says so. -/

namespace Sys2Proof.Machine

/-! ### Where a tile's writes go -/

section
variable {w : ByteWrite} {at_ : Nat → Place} {t : TileDesc} {v : Nat → Nat → Nat}

theorem at_of_mem_elemWrites {bit n e : Nat} (h : w ∈ elemWrites at_ bit n e) : ∃ a, w.at_ = at_ a := by
  obtain ⟨i, _, rfl⟩ := List.mem_map.mp h
  exact ⟨_, rfl⟩

theorem at_of_mem_padWrites {i : Nat} (h : w ∈ t.padWrites at_ i) : ∃ a, w.at_ = at_ a := by
  unfold TileDesc.padWrites at h
  split at h
  · exact at_of_mem_elemWrites h
  · nomatch h

theorem at_of_mem_writes (h : w ∈ t.writes at_ v) : ∃ a, w.at_ = at_ a := by
  obtain ⟨i, _, hrow⟩ := List.mem_flatMap.mp h
  obtain helems | hpad := List.mem_append.mp hrow
  · obtain ⟨j, _, helem⟩ := List.mem_flatMap.mp helems
    exact at_of_mem_elemWrites helem
  · exact at_of_mem_padWrites hpad

theorem at_of_mem_scaleWrites (h : w ∈ t.scaleWrites at_ v) : ∃ a, w.at_ = at_ a := by
  unfold TileDesc.scaleWrites at h
  split at h
  · obtain ⟨i, _, hrow⟩ := List.mem_flatMap.mp h
    obtain ⟨b, _, rfl⟩ := List.mem_map.mp hrow
    exact ⟨_, rfl⟩
  · nomatch h

end

/-! ### What the engine's operations leave alone -/

/-- Nothing but the store and the tile buffers of cell p differs, apart from the Tally. -/
structure OnlyResult (p : Nat) (s t : State) : Prop where
  only : OnlyCell p s t
  cell : cellAt t p = { cellAt s p with store := (cellAt t p).store
                                        units := { (cellAt s p).units with bufs := (cellAt t p).units.bufs } }

theorem OnlyResult.refl (p : Nat) (s : State) : OnlyResult p s s := ⟨.refl p s, rfl⟩

theorem OnlyResult.trans {p : Nat} {s t u : State} (h : OnlyResult p s t) (g : OnlyResult p t u) : OnlyResult p s u where
  only := h.only.trans g.only
  cell := by rw [g.cell, h.cell]

/-- A byte written to the store of a cell changes that store alone. -/
theorem onlyResult_apply {p a : Nat} {w : ByteWrite} (h : w.at_ = .store p a) (s : State) : OnlyResult p s (w.apply s) := by
  simp only [ByteWrite.apply, h]
  exact ⟨.updCell p s _, by rw [cellAt_updCell]⟩

/-- A result goes to a tile of the cell's own store, or to one of its buffers (R174, R205). -/
theorem onlyResult_vecWrite (p : Nat) (d : VDst) (r : VResult) (s : State) : OnlyResult p s (vecWrite p d r s) := by
  unfold vecWrite
  split
  case h_1 =>
    refine List.foldlRecOn _ _ (motive := OnlyResult p s) (.refl p s) fun t ht w hw => ht.trans ?_
    obtain ⟨a, ha⟩ := (List.mem_append.mp hw).elim at_of_mem_writes at_of_mem_scaleWrites
    exact onlyResult_apply ha t
  case h_2 => exact ⟨.updCell p s _, by rw [cellAt_updCell]⟩
  case h_3 => exact .refl p s

theorem onlyCell_popVector (p : Nat) (s : State) : OnlyCell p s (popVector p s) := .updCell p s _

theorem issuer_popVector (s : State) (c : LCell) : issuer (popVector (cellOfL s c) s) c =
    { issuer s c with units := { (issuer s c).units with vector := (issuer s c).units.vector.tail } } := by
  rw [(onlyCell_popVector ..).issuer, popVector, cellAt_updCell]

/-- Registers are read as before. -/
theorem OnlyCell.effField {p : Nat} {s t : State} (h : OnlyCell p s t) (a hi lo : Nat) :
    effField t a hi lo = effField s a hi lo := by
  rw [h.1]; rfl

/-! ### Completing -/

/-- A cell whose vector instruction w of n elements has completed with flags fl: they are set, the instruction and its elements
are counted, and the head entry is gone where w says so (R210). -/
def Cell.vecRetired (x : Cell) (w : InsnWord) (n : Nat) (fl : Flags) : Cell :=
  { x with
    flags := x.flags ||| fl
    cnt := { x.cnt with vecInsns := satAdd 64 x.cnt.vecInsns 1
                        vecElems := satAdd 64 x.cnt.vecElems n
                        vecFlags := x.cnt.vecFlags ||| fl }
    units := { x.units with ftq := if vPop w then x.units.ftq.tail else x.units.ftq } }

/-- The machine once vector instruction w of cell p has completed. -/
def vecRetired (p : Nat) (w : InsnWord) (n : Nat) (fl : Flags) (s : State) : State :=
  let t := updCell (vecDone p n s) p (fun x =>
    Cell.raiseFlags { x with cnt := { x.cnt with vecFlags := x.cnt.vecFlags ||| fl } } fl)
  if vPop w then popEntry p t else t

theorem onlyCell_vecRetired (p : Nat) (w : InsnWord) (n : Nat) (fl : Flags) (s : State) :
    OnlyCell p s (vecRetired p w n fl s) := by
  have hdone : OnlyCell p s (vecDone p n s) := .updCell p s _
  unfold vecRetired
  split
  · exact (hdone.trans (.updCell ..)).trans (.updCell ..)
  · exact hdone.trans (.updCell ..)

theorem cellAt_vecRetired (p : Nat) (w : InsnWord) (n : Nat) (fl : Flags) (s : State) :
    cellAt (vecRetired p w n fl s) p = (cellAt s p).vecRetired w n fl := by
  unfold vecRetired Cell.vecRetired
  split <;> simp only [popEntry, vecDone, cellAt_updCell, Cell.raiseFlags]

/-! ### Starting -/

/-- Clean check bits raise nothing and count nothing, whatever they belong to (R158, R207). -/
theorem vecMeets_clean {l p : Nat} {o : UnitOp} {vs : List VSrc} {h : Hit} {s : State} (hclean : h.ecc = .clean) :
    vecMeets l p o vs h s = (s, none) := by
  simp only [vecMeets, hitStore, hclean, storeMeets, accMeets, reduceCtorEq, if_false, ite_self]
  split <;> rfl

/-- The result of an instruction on the sources vs in state s (R214 to R224). -/
def vecResult (l : Nat) (o : UnitOp) (vs : List VSrc) (d : VDst) (s : State) : VResult :=
  let ctx := ctxAt s ((ownerOf s (blockOf l)).getD 0)
  vecCompute (ctx.desc.mode / 4 % 2 == 1) ctx.desc.seed o vs d

/-- An instruction whose operands are well formed, and whose flags raise no fault, writes its result and completes. -/
theorem vecRun_completes {l p n : Nat} {o : UnitOp} {h : Hit} {s : State} {ct1 : Bool} {vs : List VSrc} {d : VDst}
    (hclean : h.ecc = .clean) (hshape : vecShape (vOp o.word) = some (n, ct1))
    (hsrc : vecSourceList (cellAt s p) o (vSources o.word) = .inr vs) (hct : vCt o.word = 1 → ct1 = true)
    (hfmt : vs.all (sourceFormatOk (vOp o.word) (vCt o.word)) = true) (hdst : vecDest (cellAt s p) o vs = .inr d)
    (hflags : Nat.land (vecResult l o vs d s).allFlags.toNat (effField s (regInst aVecCtl (regionOf l)) 7 0) = 0) :
    vecRun l p o h s =
      vecRetired p o.word (d.rows * d.cols) (vecResult l o vs d s).allFlags (vecWrite p d (vecResult l o vs d s) s) := by
  have haccepted : ¬ ((vCt o.word = 1 ∧ ct1 = false) ∨ vs.all (sourceFormatOk (vOp o.word) (vCt o.word)) = false) := by
    rintro (⟨hone, hno⟩ | hbad)
    · exact Bool.noConfusion (hno.symm.trans (hct hone))
    · exact Bool.noConfusion (hbad.symm.trans hfmt)
  have hquiet : Nat.land (vecResult l o vs d s).allFlags.toNat (effField
      (vecRetired p o.word (d.rows * d.cols) (vecResult l o vs d s).allFlags (vecWrite p d (vecResult l o vs d s) s))
      (regInst aVecCtl (regionOf l)) 7 0) = 0 := by
    rwa [(onlyCell_vecRetired ..).effField, (onlyResult_vecWrite ..).only.effField]
  simp only [vecRun, hshape, hsrc, if_neg haccepted, hdst, vecMeets_clean hclean]
  exact if_neg (not_not_intro hquiet)

section
variable {s : State} {c : LCell} {h : Hit} {o : UnitOp} {rest : List UnitOp}

/-- VENQ of a well-formed entry with room in the finished-tile queue (R226). -/
theorem execVecStart_venq (hq : (issuer s c).units.vector = o :: rest) (hop : vOp o.word = 0x38)
    (hok : venqOk (xGet o.x (wf o.word 55 52)) = true) (hroom : entriesDue (issuer s c).units < 2) :
    execVecStart c h s = .next (vecDone (cellOfL s c) 0 (updCell (popVector (cellOfL s c) s) (cellOfL s c)
      (fun x => { x with units := { x.units with ftq := x.units.ftq ++ [xGet o.x (wf o.word 55 52)] } }))) := by
  simp only [execVecStart, hq, hop, hok, Bool.not_true, Bool.false_eq_true, if_false, ge_iff_le,
    if_neg (Nat.not_le.mpr hroom)]

/-- ADROP with an entry in the finished-tile queue (R226). -/
theorem execVecStart_adrop (hq : (issuer s c).units.vector = o :: rest) (hop : vOp o.word = 0x39)
    (hentry : (issuer s c).units.ftq ≠ []) :
    execVecStart c h s = .next (vecDone (cellOfL s c) 0 (popEntry (cellOfL s c) (popVector (cellOfL s c) s))) := by
  have hfull : ¬ (issuer s c).units.ftq.isEmpty = true := mt List.isEmpty_iff.mp hentry
  simp only [execVecStart, hq, hop, if_neg hfull]

/-- An instruction with operands runs once there is an entry for an accumulator source (R210). -/
theorem execVecStart_runs (hq : (issuer s c).units.vector = o :: rest) (hvenq : vOp o.word ≠ 0x38)
    (hadrop : vOp o.word ≠ 0x39)
    (hentry : (vSources o.word).any (fun sp => sp / 16 == 3) = true → (issuer s c).units.ftq ≠ []) :
    execVecStart c h s = .next (vecRun c.toNat (cellOfL s c) o h (popVector (cellOfL s c) s)) := by
  have hready : ¬ ((vSources o.word).any (fun sp => sp / 16 == 3) && (issuer s c).units.ftq.isEmpty) = true := by
    rw [Bool.and_eq_true_iff, List.isEmpty_iff]
    exact fun ⟨hacc, hnone⟩ => hentry hacc hnone
  -- hvenq and hadrop leave the last case of the row's match
  simp only [execVecStart, hq, if_neg hready]

end

/-- An instruction that leaves its queue, updates its cell by f and completes with n elements counted changes that cell
alone. -/
theorem vecDone_frame (s : State) (c : LCell) (n : Nat) (f : Cell → Cell) :
    let p := cellOfL s c
    let t := vecDone p n (updCell (popVector p s) p f)
    let y := f (issuer (popVector p s) c)
    OnlyCell p s t ∧ issuer t c = { y with cnt := { y.cnt with vecInsns := satAdd 64 y.cnt.vecInsns 1
                                                               vecElems := satAdd 64 y.cnt.vecElems n } } := by
  intro p t y
  have hpop : OnlyCell p s (popVector p s) := onlyCell_popVector p s
  have hupd : OnlyCell p (popVector p s) (updCell (popVector p s) p f) := .updCell ..
  have honly : OnlyCell p s t := (hpop.trans hupd).trans (.updCell ..)
  have hy : y = f (cellAt (popVector p s) p) := congrArg f (hpop.issuer c)
  refine ⟨honly, ?_⟩
  rw [honly.issuer, hy]
  simp only [t, vecDone, cellAt_updCell, p]

/-- What a result and its completion leave of the cell and of the machine. -/
theorem vecRetired_frame {p n : Nat} {w : InsnWord} {d : VDst} {r : VResult} {s : State} (c : LCell) (hp : cellOfL s c = p) :
    let y := issuer (vecWrite p d r s) c
    let t := vecRetired p w n r.allFlags (vecWrite p d r s)
    OnlyCell p s t ∧ issuer t c = y.vecRetired w n r.allFlags ∧ (issuer t c).x = (issuer s c).x ∧
      (issuer t c).d = (issuer s c).d ∧ (issuer t c).acc = (issuer s c).acc := by
  subst hp
  have hwrite := onlyResult_vecWrite (cellOfL s c) d r s
  have honly := hwrite.only.trans (onlyCell_vecRetired _ w n r.allFlags _)
  have hcell : issuer (vecRetired (cellOfL s c) w n r.allFlags (vecWrite (cellOfL s c) d r s)) c =
      (issuer (vecWrite (cellOfL s c) d r s) c).vecRetired w n r.allFlags := by
    rw [honly.issuer, cellAt_vecRetired, hwrite.only.issuer]
  refine ⟨honly, hcell, ?_⟩
  rw [hcell, hwrite.only.issuer, hwrite.cell]
  exact ⟨rfl, rfl, rfl⟩

/-- Settles O12: VENQ and ADROP change the finished-tile queue and count themselves; an instruction with operands comes to its
result written and itself completed. -/
theorem vectorStart : Obligations.VectorStart := by
  unfold Obligations.VectorStart
  intro s c h o rest hclean hq p x counted
  have hpop : OnlyCell p s (popVector p s) := onlyCell_popVector p s
  have hx : x = cellAt (popVector p s) p := hpop.issuer c
  refine ⟨fun hop hok hroom => ?venq, fun hop hentry => ?adrop, ?operands⟩
  case venq => exact ⟨_, execVecStart_venq hq hop hok hroom, vecDone_frame s c 0 _⟩
  case adrop => exact ⟨_, execVecStart_adrop hq hop hentry, vecDone_frame s c 0 _⟩
  case operands =>
    intro n ct1 vs d hshape hvenq hadrop hsrc hct hfmt hdst hentry ctx r y hflags
    rw [hx] at hsrc hdst
    have hrun := vecRun_completes (l := c.toNat) hclean hshape hsrc hct hfmt hdst hflags
    obtain ⟨honly, hcell, hregs⟩ :=
      vecRetired_frame (n := d.rows * d.cols) (w := o.word) (d := d) (r := r) c (hpop.physOf c.toNat)
    refine ⟨_, (execVecStart_runs hq hvenq hadrop hentry).trans (congrArg _ hrun), hpop.trans honly, hcell, ?_⟩
    rwa [issuer_popVector] at hregs

end Sys2Proof.Machine

/-! What stands under the rules of memory: the records of faults and repairs change no memory, the tables of base dies and rows
are read back as written, and a table cut down to some keys reads there as it did. -/

namespace Sys2Proof.Machine

/-! ### Tables cut down to some keys -/

section
variable {α : Type} (p : Nat → Bool) (m : Sparse α) (k : Nat)

theorem sFind_filter : sFind (m.filter (fun e => p e.1)) k = if p k then sFind m k else none := by
  induction m with
  | nil => simp [sFind]
  | cons e t ih =>
    obtain ⟨j, v⟩ := e
    by_cases hjk : j = k
    · subst hjk
      cases hp : p j <;> simp [sFind, hp, ih]
    · cases hp : p j <;> simp [sFind, hp, hjk, ih]

theorem sGet_filter (d : α) : sGet d (m.filter (fun e => p e.1)) k = if p k then sGet d m k else d := by
  rw [sGet, sFind_filter]
  split <;> rfl

theorem sGet_clear (d : α) (lo hi : Nat) : sGet d (sClear m lo hi) k = if k < lo ∨ hi ≤ k then sGet d m k else d := by
  rw [sClear, sGet_filter (fun j => decide (j < lo) || decide (hi ≤ j))]
  simp only [Bool.or_eq_true, decide_eq_true_eq]

end

/-! ### Records -/

/-- Nothing but free values taken, registers and the Tally differs. -/
def OnlyRecords (s t : State) : Prop := t = { s with fresh := t.fresh, regs := t.regs, tly := t.tly }

namespace OnlyRecords

variable {s t u : State}

theorem trans (h : OnlyRecords s t) (g : OnlyRecords t u) : OnlyRecords s u := by
  unfold OnlyRecords at *
  rw [g, h]

theorem mem (h : OnlyRecords s t) : t.mem = s.mem := by rw [h]

theorem ctxs (h : OnlyRecords s t) : t.ctxs = s.ctxs := by rw [h]

theorem dieAt (h : OnlyRecords s t) (n : Nat) : dieAt t n = dieAt s n := by rw [Machine.dieAt, h.mem]; rfl

theorem rowAt (h : OnlyRecords s t) (k : Nat) : rowAt t k = rowAt s k := by rw [Machine.rowAt, h.mem]; rfl

end OnlyRecords

section
variable (s : State)

theorem onlyRecords_tallyAdd (q st u n : Nat) : OnlyRecords s (tallyAdd s q st u n) := rfl

theorem onlyRecords_tallyGauge (q st u v : Nat) : OnlyRecords s (tallyGauge s q st u v) := rfl

theorem onlyRecords_noteLast (note : List Nat) : OnlyRecords s (noteLast note s) := rfl

theorem onlyRecords_logAppend (type flags : Nat) (body : List Byte) : OnlyRecords s (logAppend s type flags body) := by
  unfold logAppend
  dsimp only
  split <;> rfl

theorem onlyRecords_freeDetail : OnlyRecords s (freeDetail s).2 := rfl

theorem onlyRecords_logRepair (action unit cause : Nat) : OnlyRecords s (logRepair s action unit cause) :=
  (onlyRecords_freeDetail s).trans (onlyRecords_logAppend (freeDetail s).2 4 0 _)

theorem onlyRecords_tallyMargin (st u n v : Nat) : OnlyRecords s (tallyMargin st u n v s) :=
  (onlyRecords_tallyGauge s ..).trans ((onlyRecords_tallyGauge ..).trans (onlyRecords_logAppend ..))

end

/-! ### Base dies and rows after updates -/

section
variable (s : State) (n k : Nat)

@[simp] theorem dieAt_updDie (f : Die → Die) : dieAt (updDie s n f) n = f (dieAt s n) := sGet_upd_same ..

@[simp] theorem dieAt_updRow (f : Row → Row) : dieAt (updRow k f s) n = dieAt s n := rfl

@[simp] theorem rowAt_updRow (f : Row → Row) : rowAt (updRow k f s) k = f (rowAt s k) := sGet_upd_same ..

@[simp] theorem rowAt_updDie (f : Die → Die) : rowAt (updDie s n f) k = rowAt s k := rfl

@[simp] theorem dieAt_tallyGauge (q st u v : Nat) : dieAt (tallyGauge s q st u v) n = dieAt s n := rfl

end

end Sys2Proof.Machine

/-! Atomics at the Squares (O16): a unit is applied in the scratch windows and nowhere else, and its flight takes in what it
returns. -/

namespace Sys2Proof.Machine

/-- The element at the index is what the function makes of it. -/
theorem getElem?_updAt {α : Type} (l : List α) (i : Nat) (f : α → α) : (updAt l i f)[i]? = l[i]?.map f := by
  induction l generalizing i with
  | nil => rfl
  | cons a t ih =>
    cases i with
    | zero => rfl
    | succ i => exact ih i

/-- Nothing but the Square scratch windows differs. -/
def OnlyScratch (s t : State) : Prop := t = { s with mem := { s.mem with scratch := t.mem.scratch } }

theorem OnlyScratch.trans {s t u : State} (h : OnlyScratch s t) (g : OnlyScratch t u) : OnlyScratch s u := by
  unfold OnlyScratch at *
  rw [g, h]

section
variable (c : Nat) (o : UnitOp) (src cmp : List Nat) (s : State)

theorem onlyScratch_atomElement (e : Nat × Nat) : OnlyScratch s (atomElement c o src cmp e s).2.2 := by
  unfold atomElement
  dsimp only
  split <;> rfl

theorem onlyScratch_atomApplyUnit (k : Nat) : OnlyScratch s (atomApplyUnit c o src cmp k s).2.2 := by
  refine List.foldlRecOn (motive := fun (r : List Nat × Flags × State) => OnlyScratch s r.2.2) (atomUnit o k) _ ?_ ?_
  · exact rfl
  · exact fun r hr e _ => hr.trans (onlyScratch_atomElement c o src cmp r.2.2 e)

end

/-- The next unit of an ATOM applied at the Square of its base die, its old values and flags taken in by its flight (R281). -/
def atomApplied (p i ctx : Nat) (f : Flight) (src cmp old : List Nat) (flags : Flags) (s : State) : State :=
  let r := atomApplyUnit ctx f.op src cmp old.length s
  updFlight p i (fun g => { g with
      kind := .atom src cmp (old ++ if atomOpc f.op.word = 5 then [0] else r.1) (flags ||| r.2.1) })
    (updDie r.2.2 (atomDie s ctx f.op old.length) (fun d => { d with atomics := satAdd 64 d.atomics 1 }))

section
variable {s : State} {c : LCell} {i : BitVec 2} {ctx : Nat} {f : Flight}

/-- A unit whose turn it is, in a Square without an error, is applied. -/
theorem atomicApply_clean {src cmp old : List Nat} {flags : Flags} (hf : (issuer s c).units.flights[i.toNat]? = some f)
    (hown : ownerOf s (blockOf c.toNat) = some ctx) (hkind : f.kind = .atom src cmp old flags)
    (hleft : old.length < atomUnits f.op)
    (hturn : atomWaits s ctx ((issuer s c).units.flights.take i.toNat) (atomDie s ctx f.op old.length) = false) :
    exec (.atomicApply c i .clean) s = .next (atomApplied (cellOfL s c) i.toNat ctx f src cmp old flags s) := by
  change execAtomicApply c i .clean s = _
  simp only [execAtomicApply, hf, hown, hkind, hturn, ge_iff_le, decide_eq_false (Nat.not_le.mpr hleft), Bool.or_false,
    Bool.false_eq_true, reduceCtorEq, if_false]
  rfl

/-- A flight that takes something in is the only one of its cell that changes. -/
theorem flight_updFlight (s : State) (p i : Nat) (g : Flight → Flight) :
    (cellAt (updFlight p i g s) p).units.flights[i]? = (cellAt s p).units.flights[i]?.map g := by
  rw [updFlight, cellAt_updCell]
  exact getElem?_updAt ..

/-- What the application of a unit leaves: the unit's windows, the flight's old values and flags, and the count of the Square. -/
theorem atomApplied_frame (src cmp old : List Nat) (flags : Flags) (hf : (issuer s c).units.flights[i.toNat]? = some f) :
    let r := atomApplyUnit ctx f.op src cmp old.length s
    let die := atomDie s ctx f.op old.length
    let t := atomApplied (cellOfL s c) i.toNat ctx f src cmp old flags s
    t.mem.scratch = r.2.2.mem.scratch ∧ t.mem.hbm = s.mem.hbm ∧
      ((issuer t c).units.flights[i.toNat]?).map (fun g => g.kind) =
        some (.atom src cmp (old ++ if atomOpc f.op.word = 5 then [0] else r.1) (flags ||| r.2.1)) ∧
      (dieAt t die).atomics = satAdd 64 (dieAt s die).atomics 1 ∧ t.ctxs = s.ctxs ∧ t.regs = s.regs := by
  intro r die t
  have hunit : OnlyScratch s r.2.2 := onlyScratch_atomApplyUnit ..
  have hhbm : r.2.2.mem.hbm = s.mem.hbm := by rw [hunit]
  have hctxs : r.2.2.ctxs = s.ctxs := by rw [hunit]
  have hregs : r.2.2.regs = s.regs := by rw [hunit]
  have hdies : dieAt r.2.2 die = dieAt s die := by rw [hunit]; rfl
  have hcells : cellAt r.2.2 (cellOfL s c) = issuer s c := by rw [hunit]; rfl
  have hname : cellOfL t c = cellOfL s c := by
    change cellOfL r.2.2 c = _
    rw [hunit]
    rfl
  have hdie : dieAt t die = { dieAt s die with atomics := satAdd 64 (dieAt s die).atomics 1 } :=
    (dieAt_updDie r.2.2 die _).trans (by rw [hdies])
  refine ⟨rfl, hhbm, ?_, by rw [hdie], hctxs, hregs⟩
  rw [issuer, hname]
  refine (congrArg _ (flight_updFlight ..)).trans ?_
  rw [show cellAt (updDie r.2.2 die _) (cellOfL s c) = issuer s c from hcells, hf]
  rfl

end

/-- Settles O16: an ATOM's next unit is applied in the scratch windows alone, and a GATHER goes through its shards. -/
theorem atomicApply : Obligations.AtomicApply := by
  unfold Obligations.AtomicApply
  intro s c i ctx f hf hown
  refine ⟨fun src cmp old flags hkind hleft => ?atom, fun id o lh hkind hop hgather => ?gather⟩
  case atom =>
    intro die hturn r
    exact ⟨_, atomicApply_clean hf hown hkind hleft hturn, atomApplied_frame src cmp old flags hf⟩
  case gather =>
    change execGatherApply c i lh s = _
    simp only [execGatherApply, hf, hkind, hop, if_pos hgather]

end Sys2Proof.Machine

/-! Repair of memory (O23): a conversion and a retired frame change rows, frames and base dies and leave records, and a Square unit
that has been cleared cuts the table of scratch bytes down. -/

namespace Sys2Proof.Machine

/-! ### Conversions (R291) -/

/-- A row in a slot of an idle stack, its bank with an hPPR left, is converted. -/
def rowFused (n la : Nat) (s : State) : State :=
  updDie (updRow (rowKey n la) (fun r => { r with state := .fused, slot := false }) s) n (fun d => { d with
    slots := d.slots - 1
    hppr := satAdd 16 d.hppr 1
    hpprUsed := sUpd 0 d.hpprUsed (pcOf la * 64 + bankOfBlock (la / 65536)) (fun v => v + 1) })

section
variable {s : State} {n : BitVec 3} {la : BitVec 37}

theorem hpprConversion_fuses (hrow : (rowAt s (rowKey n.toNat la.toNat)).state = .remapped1)
    (hcopied : (rowAt s (rowKey n.toNat la.toNat)).copying = false) (hen : effField s (regInst aSqCtl n.toNat) 2 2 = 1)
    (hidle : ∀ c ∈ holdersOfStack s n.toNat, (ctxAt s c).st ≠ .unparked)
    (hleft : sGet 0 (dieAt s n.toNat).hpprUsed (pcOf la.toNat * 64 + bankOfBlock (la.toNat / 65536)) < 2) :
    ∃ t, exec (.hpprConversion n la true) s = .next t ∧ OnlyRecords (rowFused n.toNat la.toNat s) t := by
  have hbusy : (holdersOfStack s n.toNat).any (fun c => decide ((ctxAt s c).st = .unparked)) = false := by
    simpa [List.any_eq_false] using hidle
  have hrun : execHpprConversion n la true s = .next (noteLast [rowKey n.toNat la.toNat, 2] (logRepair
      (tallyAdd (rowFused n.toNat la.toNat s) 0x06 0x0C (64 * n.toNat + pcOf la.toNat) 1) 7
      (tallyId 0x06 0x0C (64 * n.toNat + pcOf la.toNat)) 0)) := by
    simp only [execHpprConversion, hrow, hcopied, hen, hbusy, ge_iff_le, Nat.not_le.mpr hleft]
    rfl
  exact ⟨_, hrun, (onlyRecords_tallyAdd ..).trans ((onlyRecords_logRepair ..).trans (onlyRecords_noteLast ..))⟩

end

/-! ### Retired frames (R292, R293) -/

/-- A frame that is retired retires no longer and counts, and only its stack's base die and records change besides. -/
theorem retireFrame_frame (s : State) (frame n la : Nat) : let t := retireFrame s frame n la
    sGet false t.mem.retired frame = true ∧ sGet false t.mem.retiring frame = false ∧
      (dieAt t n).pending = (dieAt s n).pending ∧ (dieAt t n).retired = satAdd 16 (dieAt s n).retired 1 ∧
      t.mem.hbm = s.mem.hbm ∧ t.ctxs = s.ctxs := by
  unfold retireFrame
  extract_lets pc d count m marked counted tallied block logged t
  have hrecords : OnlyRecords counted logged := (onlyRecords_tallyAdd counted ..).trans (onlyRecords_logAppend tallied ..)
  have hmem : logged.mem = counted.mem := hrecords.mem
  have hctxs : logged.ctxs = s.ctxs := hrecords.ctxs
  have hdie : dieAt logged n = { dieAt s n with retired := satAdd 16 (dieAt s n).retired 1
                                                pcRetired := sSet 0 (dieAt s n).pcRetired (pcOf la) count } :=
    (hrecords.dieAt n).trans (dieAt_updDie marked n _)
  have hmarked : sGet false logged.mem.retired frame = true ∧ sGet false logged.mem.retiring frame = false ∧
      logged.mem.hbm = s.mem.hbm := by
    rw [hmem]
    exact ⟨sGet_set_same false s.mem.retired frame true, sGet_set_same false s.mem.retiring frame false, rfl⟩
  obtain ⟨hretired, hretiring, hhbm⟩ := hmarked
  clear_value logged
  unfold t
  split
  · refine ⟨hretired, hretiring, ?_, ?_, hhbm, hctxs⟩ <;> rw [dieAt_tallyGauge, dieAt_updDie, hdie]
  · refine ⟨hretired, hretiring, ?_, ?_, hhbm, hctxs⟩ <;> rw [hdie]

theorem frameRetire_retires {s : State} {n : BitVec 3} {la : BitVec 37} {pa : Nat} (hpa : paOf s n.toNat la.toNat = some pa)
    (hretiring : sGet false s.mem.retiring (pa / 2 ^ 21) = true) (hfree : mappers s (pa / 2 ^ 21) = [])
    (hrow : (rowAt s (rowKey n.toNat la.toNat)).state = .retired) :
    exec (.frameRetire n la) s = .next
      (retireFrame (updDie s n.toNat (fun d => { d with pending := d.pending - 1 })) (pa / 2 ^ 21) n.toNat la.toNat) := by
  change execFrameRetire n la s = _
  simp only [execFrameRetire, hpa, hretiring, hfree, hrow, List.isEmpty_nil, decide_true, Bool.and_self, if_true]

/-! ### Clearing of Square units (R274) -/

/-- The first byte of a unit's window. -/
def unitBase (die u : Nat) : Nat := die * 2 ^ 27 + u * 2 ^ 23

/-- A unit that has been cleared reads as zero, and is cleared no longer. -/
def unitCleared (die u : Nat) (s : State) : State :=
  updDie { s with mem := { s.mem with scratch := sClear s.mem.scratch (unitBase die u) (unitBase die u + 2 ^ 23) } } die
    (fun d => { d with clearing := d.clearing.filter (fun v => v != u) })

theorem squareClearDone_clears {s : State} {die : BitVec 3} {u : BitVec 4} (h : u.toNat ∈ (dieAt s die.toNat).clearing) :
    exec (.squareClearDone die u) s = .next (unitCleared die.toNat u.toNat s) := by
  change execSquareClearDone die u s = _
  simp only [execSquareClearDone, List.contains_iff_mem.mpr h, Bool.not_true, Bool.false_eq_true, if_false]
  rfl

theorem not_mem_clearing_unitCleared (die u : Nat) (s : State) : u ∉ (dieAt (unitCleared die u s) die).clearing := by
  rw [unitCleared, dieAt_updDie]
  simp [List.mem_filter]

theorem scratch_unitCleared (die u a : Nat) (s : State) : sGet 0#8 (unitCleared die u s).mem.scratch a =
    if a < unitBase die u ∨ unitBase die u + 2 ^ 23 ≤ a then sGet 0#8 s.mem.scratch a else 0#8 :=
  sGet_clear ..

/-- Settles O23: each end of a repair changes the row, the base die, the frame or the window that it names. -/
theorem memoryRepair : Obligations.MemoryRepair := by
  unfold Obligations.MemoryRepair
  refine ⟨fun s n la hcopying => ?copy, fun s n la hrow hcopied hen hidle hleft => ?fuse,
    fun s n la pa hpa hretiring hfree hrow => ?retire, fun s die u hu => ?clear⟩
  case copy =>
    change execRepairCopyDone n la s = _
    simp only [execRepairCopyDone, if_pos hcopying]
  case fuse =>
    obtain ⟨t, hrun, hrecords⟩ := hpprConversion_fuses hrow hcopied hen hidle hleft
    refine ⟨t, hrun, ?_, ?_, ?_, ?_, ?_, hrecords.ctxs⟩
    · rw [hrecords.rowAt, rowFused, rowAt_updDie, rowAt_updRow]
    · rw [hrecords.dieAt, rowFused, dieAt_updDie, dieAt_updRow]
    · rw [hrecords.dieAt, rowFused, dieAt_updDie, dieAt_updRow]
    · rw [hrecords.mem]
      rfl
    · rw [hrecords.mem]
      rfl
  case retire =>
    obtain ⟨hgone, hdone, hpending, hcount, hhbm, hctxs⟩ := retireFrame_frame
      (updDie s n.toNat (fun d => { d with pending := d.pending - 1 })) (pa / 2 ^ 21) n.toNat la.toNat
    rw [dieAt_updDie] at hpending hcount
    exact ⟨_, frameRetire_retires hpa hretiring hfree hrow, hgone, hdone, hpending, hcount, hhbm, hctxs⟩
  case clear =>
    intro lo
    refine ⟨_, squareClearDone_clears hu, not_mem_clearing_unitCleared _ _ s, fun a hlo hhi => ?_, fun a hout => ?_, rfl, rfl⟩
    · rw [scratch_unitCleared, if_neg (by simp only [unitBase]; omega)]
    · rw [scratch_unitCleared, if_pos (by simp only [unitBase]; omega)]

end Sys2Proof.Machine

/-! Service of memory (O24): a margining run leaves its margins in the base die, and a change of the ECC mode cuts the tables of
stack bytes down to the carve-out. -/

namespace Sys2Proof.Machine

/-! ### Margins of a stack (R294, R295) -/

/-- Nothing but base dies, free values taken, registers and the Tally differs. -/
def OnlyDies (s t : State) : Prop :=
  t = { s with fresh := t.fresh, regs := t.regs, tly := t.tly, mem := { s.mem with dies := t.mem.dies } }

namespace OnlyDies

variable {s t u : State}

theorem trans (h : OnlyDies s t) (g : OnlyDies t u) : OnlyDies s u := by
  unfold OnlyDies at *
  rw [g, h]

theorem of_records (h : OnlyRecords s t) : OnlyDies s t := by
  unfold OnlyRecords at h
  unfold OnlyDies
  rw [h]

theorem updDie (s : State) (n : Nat) (f : Die → Die) : OnlyDies s (updDie s n f) := rfl

end OnlyDies

/-- The margin of channel i among the steps of all channels that passed below and above nominal. -/
def marginOf (lows highs : BitVec 512) (i : Nat) : Margin :=
  ⟨true, min 64 (lows.toNat / 256 ^ i % 256), min 64 (highs.toNat / 256 ^ i % 256)⟩

/-- The margin of channel i of stack n is kept for the parameter margined, and goes to the Tally. -/
def marginTaken (n param : Nat) (lows highs : BitVec 512) (s : State) (i : Nat) : State :=
  let m := marginOf lows highs i
  tallyMargin 0x0E (4 * (64 * n + i) + param) 2 (2 ^ 16 + m.high * 2 ^ 8 + m.low)
    (updDie s n (fun d => { d with margins := sSet {} d.margins (64 * param + i) m }))

/-- The channels that a margining run names. -/
def marginChannels (j : Job) : List Nat := (List.range 64).filter (fun i => j.field 8 8 / 2 ^ i % 2 == 1)

/-- The run has ended: the margins are taken and the stack is as it was before it. -/
def marginsTaken (n : Nat) (lows highs : BitVec 512) (j : Job) (s : State) : State :=
  updDie ((marginChannels j).foldl (marginTaken n (j.field 1 1) lows highs) s) n (fun d => { d with state := j.vals.headD 1 })

section
variable (n param : Nat) (lows highs : BitVec 512)

theorem onlyDies_marginTaken (s : State) (i : Nat) : OnlyDies s (marginTaken n param lows highs s i) :=
  (OnlyDies.updDie s ..).trans (.of_records (onlyRecords_tallyMargin ..))

theorem onlyDies_foldl_marginTaken (is : List Nat) (s : State) :
    OnlyDies s (is.foldl (marginTaken n param lows highs) s) :=
  is.foldlRecOn (marginTaken n param lows highs) (motive := OnlyDies s) rfl
    fun t ht i _ => ht.trans (onlyDies_marginTaken n param lows highs t i)

theorem margins_marginTaken (s : State) (i : Nat) : (dieAt (marginTaken n param lows highs s i) n).margins =
    sSet {} (dieAt s n).margins (64 * param + i) (marginOf lows highs i) := by
  unfold marginTaken
  rw [(onlyRecords_tallyMargin ..).dieAt, dieAt_updDie]

/-- Every channel of the list has the margin that was found, and the others have those that they had. -/
theorem margin_foldl_marginTaken (is : List Nat) (s : State) (i : Nat) :
    sGet {} (dieAt (is.foldl (marginTaken n param lows highs) s) n).margins (64 * param + i) =
      if i ∈ is then marginOf lows highs i else sGet {} (dieAt s n).margins (64 * param + i) := by
  induction is generalizing s with
  | nil => rfl
  | cons k is ih =>
    rw [List.foldl_cons, ih, margins_marginTaken]
    by_cases hik : i = k
    · simp [hik]
    · have hkey : 64 * param + i ≠ 64 * param + k := by omega
      simp [hik, sGet_set_other _ _ _ hkey]

end

/-- The run of a stack without a copy of the carve-out ends with its margins taken. -/
theorem memMarginDone_ends {s : State} {n : BitVec 3} {lows highs : BitVec 512} {j : Job} (hplain : n.toNat % 4 ≠ 0)
    (hjob : (jobsOf s 0x0702 0).find? (fun j => j.field 0 1 == n.toNat) = some j) :
    let t := marginsTaken n.toNat lows highs j s
    exec (.memMarginDone n lows highs) s = .next (endJob j stOk t.beat.gnum [(marginChannels j).length] t) := by
  change execMemMarginDone n lows highs s = _
  simp only [execMemMarginDone, hjob, rewriteCopy, if_pos hplain]
  rfl

/-! ### The ECC mode (R254, R285) -/

theorem carveKey_hbmKey (n : Nat) {la : Nat} (hla : la < 2 ^ 37) :
    carveKey (hbmKey n la) = true ↔ n % 4 = 0 ∧ 88 * 2 ^ 30 ≤ la := by
  have hstack : (n * 2 ^ 37 + la) / 2 ^ 37 = n := by omega
  have hlocal : (n * 2 ^ 37 + la) % 2 ^ 37 = la := by omega
  simp only [carveKey, hbmKey, hstack, hlocal, Bool.and_eq_true, beq_iff_eq, decide_eq_true_eq]

theorem hbm_zeroJobSpace (s : State) (n : Nat) {la : Nat} (hla : la < 2 ^ 37) :
    sGet 0#8 (zeroJobSpace s).mem.hbm (hbmKey n la) =
      if n % 4 = 0 ∧ 88 * 2 ^ 30 ≤ la then sGet 0#8 s.mem.hbm (hbmKey n la) else 0#8 := by
  rw [zeroJobSpace, sGet_filter carveKey]
  simp only [carveKey_hbmKey n hla]

/-- Settles O24: each end leaves what its own rule says, and the reply is that of its job. -/
theorem memoryService : Obligations.MemoryService := by
  unfold Obligations.MemoryService
  refine ⟨fun s n lows highs j hplain hjob => ?margins, fun s j rest hjob => ?mode⟩
  case margins =>
    have honly : OnlyDies s (marginsTaken n.toNat lows highs j s) :=
      (onlyDies_foldl_marginTaken ..).trans (.updDie ..)
    refine ⟨_, _, memMarginDone_ends hplain hjob, ?_, ?_, fun i hi hnamed => ?_, ?_, ?_⟩
    · rw [marginsTaken, dieAt_updDie]
    · rw [honly]
    · have hmem : i ∈ marginChannels j := by simp [marginChannels, hi, hnamed]
      rw [marginsTaken, dieAt_updDie, margin_foldl_marginTaken, if_pos hmem]
      rfl
    · rw [honly]
    · rw [honly]
  case mode =>
    refine ⟨zeroJobSpace s, ?_, fun n la hla => hbm_zeroJobSpace s n hla, rfl, rfl, rfl, rfl⟩
    change execMemEccDone s = _
    simp only [execMemEccDone, hjob]

end Sys2Proof.Machine

/-! Commands on memory, self-test and reports (O48): what none of its checks refuses, each rule accepts or completes. -/

namespace Sys2Proof.Machine

section
variable {h : LineHit} {c : Cmd} {s t : State}

/-! ### The ECC mode and margining (R255, R285, R294) -/

theorem memEcc_accepts (hfree : residents s = []) (hidle : jobsOf s 0x0402 0 = []) :
    memEcc c s = acceptCmd c 0 0 [] { s with
      mem := { s.mem with strong := c.field 0 1 == 1 }
      sets := { s.sets with imap := {}, imapRaw := none, imapShadow := none } } := by
  simp only [memEcc, hfree, hidle, List.isEmpty_nil, Bool.not_true, Bool.or_self, Bool.false_eq_true, if_false]

theorem memMargin_accepts (hfree : stackBusy s (c.field 0 1) = false) (hscope : musterScope s ≠ some (3, c.field 0 1)) :
    memMargin c s = updDie (acceptCmd c 0 0 [(dieAt s (c.field 0 1)).state] s) (c.field 0 1)
      (fun d => { d with state := 3 }) := by
  have hother : (musterScope s == some (3, c.field 0 1)) = false := beq_eq_false_iff_ne.mpr hscope
  simp only [memMargin, hfree, hother, Bool.or_self, Bool.false_eq_true, if_false]

/-! ### MEM_READ and MEM_WRITE (R477) -/

theorem memRead_answers {q : ReadOut} (hout : deniedOut c (c.field 0x10 8) = false)
    (hrange : rangeFault (c.field 0 8) (c.field 8 4) = none)
    (hread : memPieces (c.field 0 8) h (pieces (c.field 0 8) (c.field 8 4)) 0 s = q) (hgood : q.bad = none) :
    memRead h c s = answerOut c (c.field 0x10 8) [c.field 8 4] q.bytes q.st := by
  simp [memRead, hout, hrange, hread, hgood]

theorem memWrite_inline (hsrc : c.field 0x10 8 = 0) (hport : c.fromRing = false)
    (hrange : rangeFault (c.field 0 8) (c.field 8 4) = none)
    (hput : putPieces (c.field 0 8) ((c.payload.drop 0x18).take (c.field 8 4)) (pieces (c.field 0 8) (c.field 8 4)) s = (none, t)) :
    memWrite h c s = completeCmd c stOk t.beat.gnum [c.field 8 4] [] t := by
  simp [memWrite, hsrc, hport, hrange, hput]

theorem memWrite_source {q : ReadOut} (hsrc : c.field 0x10 8 ≠ 0) (hrange : rangeFault (c.field 0 8) (c.field 8 4) = none)
    (hread : memPieces (c.field 0x10 8) h (pieces (c.field 0x10 8) (c.field 8 4)) 0 s = q) (hgood : q.bad = none)
    (hput : putPieces (c.field 0 8) q.bytes (pieces (c.field 0 8) (c.field 8 4)) q.st = (none, t)) :
    memWrite h c s = completeCmd c stOk t.beat.gnum [c.field 8 4] [] t := by
  simp [memWrite, hsrc, hrange, hread, hgood, hput]

/-! ### MUSTER_RUN and REPORT_GET (R527, R575) -/

theorem musterRun_accepts {id : Nat} (hunit : ¬ (c.field 0 1 = 0 ∧ c.field 2 2 < 4096 ∧ isVacant s (c.field 2 2) = true))
    (hid : (if c.field 0 1 = 0 then scopeCell s (c.field 2 2) else c.field 2 2) = id)
    (hfree : musterBusy s (c.field 0 1) (c.field 1 1) id = false) :
    musterRun c s = musterStarts (c.field 0 1) id (acceptCmd c 0 0 (id :: musterBefore s (c.field 0 1) id) s) := by
  simp only [musterRun, if_neg hunit, hid, hfree, Bool.false_eq_true, if_false]

theorem reportGet_accepts (hid : s.boot.idOk = true) (hout : deniedOut c (c.field 0x18 8) = false)
    (hroom : c.field 0x18 8 = 0 ∨ 96 + (reportBody s (c.field 0 2) (c.field 2 2) c.ctx).1.length + 64 ≤ c.field 0x20 4) :
    reportGet c s = acceptCmd c 0 0 [] s := by
  have hfits : ¬ (c.field 0x18 8 ≠ 0 ∧
      c.field 0x20 4 < 96 + (reportBody s (c.field 0 2) (c.field 2 2) c.ctx).1.length + 64) :=
    fun ⟨hne, hlt⟩ => hroom.elim hne (Nat.not_le.mpr hlt)
  simp only [reportGet, hid, hout, if_neg hfits, Bool.true_eq_false, Bool.false_eq_true, or_self, if_false]

end

/-- Settles O48: each command reaches Ozmin and is decided by its own rule, and a Muster run ends with its job's reply. -/
theorem memoryAndTestCommands : Obligations.MemoryAndTestCommands := by
  unfold Obligations.MemoryAndTestCommands
  refine ⟨fun r h s s₁ c => ?commands, fun s x j hjob => ?ended⟩
  case commands =>
    intro a n at_
    refine ⟨fun hreach hfree hidle => hreach.gives rfl (memEcc_accepts hfree hidle),
      fun hreach hout hrange => ?read, fun t hreach hrange => ⟨fun hsrc hport hput => ?inline, ?source⟩,
      fun hreach hfree hscope => hreach.gives rfl (memMargin_accepts hfree hscope), fun hreach hunit => ?muster,
      fun hreach hid hout hroom => hreach.gives rfl (reportGet_accepts hid hout hroom)⟩
    case read =>
      intro q hgood
      exact hreach.gives rfl (memRead_answers hout hrange rfl hgood)
    case inline => exact hreach.gives rfl (memWrite_inline hsrc hport hrange hput)
    case source =>
      intro q hsrc hgood hput
      exact hreach.gives rfl (memWrite_source hsrc hrange rfl hgood hput)
    case muster =>
      intro kind id hfree
      exact hreach.gives rfl (musterRun_accepts hunit rfl hfree)
  case ended =>
    intro e
    change execMusterRunDone x s = _
    simp only [execMusterRunDone, hjob]
    rfl

end Sys2Proof.Machine

/-! Accesses by cores of the Hall (O55): a running core's access does what the place of its address gives. -/

namespace Sys2Proof.Machine

@[simp] theorem length_natLe (n v : Nat) : (natLe n v).length = n := by
  induction n generalizing v with
  | zero => rfl
  | succ n ih => rw [natLe, List.length_cons, ih]

section
variable {s : State} {core : Fin 36} {addr : BitVec 40} {h : LineHit}

/-! ### The row of a core that runs (R548) -/

theorem hallAccess_load (hrun : coreRuns s core.val = true) (n : BitVec 6) {bs : List Byte} {t : State}
    (hload : hallLoad core.val addr.toNat (n.toNat + 1) h s = (bs, t)) :
    exec (.hallAccess core addr (.load n) h) s = .next (flushOut { t with readOut := bs }) := by
  change execHallAccess core addr (.load n) h s = _
  simp only [execHallAccess, hrun, hload, Bool.not_true, Bool.false_eq_true, if_false]

theorem hallAccess_store (hrun : coreRuns s core.val = true) (n : BitVec 6) (v : BitVec 512) :
    exec (.hallAccess core addr (.store n v) h) s =
      .next (flushOut (hallStore core.val addr.toNat (natLe (n.toNat + 1) v.toNat) s)) := by
  change execHallAccess core addr (.store n v) h s = _
  simp only [execHallAccess, hrun, Bool.not_true, Bool.false_eq_true, if_false]

theorem hallAccess_inner (hrun : coreRuns s core.val = true) :
    exec (.hallAccess core addr .inner h) s =
      .next (flushOut (if core.val < 32 then { s with readOut := List.replicate 8 0#8 } else s)) := by
  change execHallAccess core addr .inner h s = _
  simp only [execHallAccess, hrun, Bool.not_true, Bool.false_eq_true, if_false]

end

/-! ### Memory (R253, R254, R287) -/

section
variable {s : State} {a : Nat} (hreg : physAt s a ≠ .reg) (hres : physAt s a ≠ .reserved)
include hreg hres

/-- A load of memory outside Safe-Hold reads it, and what an uncorrectable line returns is free. -/
theorem hallLoad_memory (core n : Nat) (h : LineHit) (hopen : s.flt.safeHold = false) : hallLoad core a n h s =
    (physRead s a n h.ecc h.which).bad.elim ((physRead s a n h.ecc h.which).bytes, (physRead s a n h.ecc h.which).st)
      (fun pa => freeBytes n (hallUe pa (physRead s a n h.ecc h.which).st)) := by
  unfold hallLoad
  split
  case h_1 hat => exact absurd hat hreg
  case h_2 hat => exact absurd hat hres
  case h_3 =>
    simp only [hopen, Bool.false_eq_true, if_false]
    cases (physRead s a n h.ecc h.which).bad <;> rfl

/-- A store to memory writes it outside Safe-Hold. -/
theorem hallStore_memory (core : Nat) (bs : List Byte) (hopen : s.flt.safeHold = false) : hallStore core a bs s =
    (physWrite s a bs).2.elim (physWrite s a bs).1 (fun pa => hallUe pa (physWrite s a bs).1) := by
  unfold hallStore
  split
  case h_1 hat => exact absurd hat hreg
  case h_2 hat => exact absurd hat hres
  case h_3 =>
    simp only [hopen, Bool.false_eq_true, if_false]
    cases (physWrite s a bs).2 <;> rfl

/-- A store to memory in Safe-Hold is dropped (log entry 45). -/
theorem hallStore_held (core : Nat) (bs : List Byte) (hheld : s.flt.safeHold = true) : hallStore core a bs s = s := by
  unfold hallStore
  split
  case h_1 hat => exact absurd hat hreg
  case h_2 hat => exact absurd hat hres
  case h_3 => rw [if_pos hheld]

end

/-- Settles O55: the place of the address picks what the access does. -/
theorem hallAccesses : Obligations.HallAccesses := by
  unfold Obligations.HallAccesses
  intro s core addr n v h hrun a k load store got put
  have hstore : store = .next (flushOut (hallStore core.val a (natLe k v.toNat) s)) := hallAccess_store hrun n v
  have hload {bs : List Byte} {t : State} (hgives : hallLoad core.val a k h s = (bs, t)) :
      load = .next (flushOut { t with readOut := bs }) := hallAccess_load hrun n hgives
  refine ⟨fun hreg hres hopen => ⟨fun hgood => ?good, fun pa hbad => ?bad, fun hgood => ?put, fun pa hbad => ?refused⟩,
    fun hreg hres hheld => ?held, fun hat => ⟨hload ?zeros, ?dropped⟩, fun part hat hpart => hload ?register,
    fun hos => ?inner, fun hfirm => ?firmware⟩
  case good =>
    refine hload ?_
    rw [hallLoad_memory hreg hres _ _ h hopen, show (physRead s a k h.ecc h.which).bad = none from hgood]
    rfl
  case bad =>
    have hfree : hallLoad core.val a k h s = freeBytes k (hallUe pa got.st) := by
      rw [hallLoad_memory hreg hres _ _ h hopen, show (physRead s a k h.ecc h.which).bad = some pa from hbad]
      rfl
    exact ⟨(freeBytes k (hallUe pa got.st)).1, (freeBytes k (hallUe pa got.st)).2, hload hfree, length_natLe k _, rfl⟩
  case put =>
    rw [hstore, hallStore_memory hreg hres _ _ hopen, show (physWrite s a (natLe k v.toNat)).2 = none from hgood]
    rfl
  case refused =>
    rw [hstore, hallStore_memory hreg hres _ _ hopen, show (physWrite s a (natLe k v.toNat)).2 = some pa from hbad]
    rfl
  case held => rw [hstore, hallStore_held hreg hres _ _ hheld]
  case zeros => rw [hallLoad, hat]
  case dropped => rw [hstore, hallStore, hat]
  case register =>
    rw [hallLoad, hat]
    simp only [coreRead, hpart]
  case inner => rw [hallAccess_inner hrun, if_pos hos]
  case firmware => rw [hallAccess_inner hrun, if_neg (Nat.not_lt.mpr hfirm)]

end Sys2Proof.Machine

/-! Issue into the sync queue (O8): the fetch leaves what a wait's timeout comes from, so the operation joins as it stands and
WAIT, TAKE and LWAIT block the cell from the cycle of issue. -/

namespace Sys2Proof.Machine

theorem onlyCell_fetched (s : State) (c : LCell) (m : Meet) : OnlyCell (cellOfL s c) s (fetched s c m) := by
  unfold fetched
  split
  · exact (OnlyCell.updCell ..).trans (.tallyAdd ..)
  · exact .refl ..

/-- The microseconds that a wait lasts: its own TIMEOUT, else that of its context, else that of BELL_CTL (R305). -/
def waitMicros (s : State) (c : LCell) (w : InsnWord) : Nat :=
  let own := (ctxAt s ((ownerOf s (blockOf c.toNat)).getD 0)).desc.timeout
  if wf w 57 38 ≠ 0 then wf w 57 38 else if own ≠ 0 then own else effField s aBellCtl 19 0

/-- The timeout comes from the word, the contexts and the registers, and a change of one cell leaves it. -/
theorem OnlyCell.waitMicros {p : Nat} {s t : State} (h : OnlyCell p s t) (c : LCell) (w : InsnWord) :
    waitMicros t c w = waitMicros s c w := by
  obtain ⟨honly, _⟩ := h
  rw [honly]
  rfl

/-- The bell that a word names with the registers of its cell (R193). -/
def Cell.bellNamed (x : Cell) (w : InsnWord) : Nat :=
  if wf w 111 111 = 1 then (xGet x.x (wf w 115 112)).toNat % 65536 else wf w 110 95

/-- The wait that the operation op of the word begins now: none for POST and ARRIVE, one on a line for LWAIT, one on a bell for
WAIT and TAKE (R304, R305). -/
def begunWait (s : State) (c : LCell) (w : InsnWord) (op : Nat) : Option PendingWait :=
  if op = 1 ∨ op = 4 then none
  else some ⟨op == 5, op == 3, if op = 5 then wf w 94 90 else (issuer s c).bellNamed w, BitVec.ofNat 32 (wf w 89 58), s.cycle,
    s.cycle + 3000 * waitMicros s c w, false, s.cycle, (issuer s c).seq.pc, w⟩

/-- The cell once the word has joined its sync queue: it goes on, and waits where there is something to wait for (R161,
R304). -/
def Cell.syncJoined (x : Cell) (w : InsnWord) (wait : Option PendingWait) : Cell :=
  let y := Cell.next { x with units := { x.units with sync := x.units.sync ++ [x.capture w] } }
  match wait with
  | none => y
  | some _ => { y with seq := { y.seq with wait := wait } }

/-- A sync operation that issues with room in its queue joins it, with the wait that it begins. -/
theorem syncIssue_go {s : State} {c : LCell} {m : Meet} {w : InsnWord} {op : Nat} (h : Issues s c w 5 op)
    (hm : m.imem ≠ .uncorrectable) (hl : syncLegal w = true) (hroom : (issuer s c).units.sync.length < 4) :
    syncIssue op c m s = issued s c m (fun y => y.syncJoined w (begunWait s c w op)) := by
  have hmicros := (onlyCell_fetched s c m).waitMicros c w
  have hcycle : (fetched s c m).cycle = s.cycle := (sameWork_fetched s c m).cycle
  unfold syncIssue
  rw [fetchFor_go h hm (decide_eq_true h.op) hl, issueWith, fetched_units, if_neg (Nat.not_le.mpr hroom), begunWait,
    ← hmicros, ← hcycle, ← fetched_seq s c m, Cell.bellNamed, ← fetched_x s c m]
  by_cases hgoes : op = 1 ∨ op = 4
  · simp only [if_pos hgoes]
    rfl
  · simp only [if_neg hgoes]
    rfl

/-- Settles O8: every row is the issue of its own operation, with the wait that it begins. -/
theorem Cell.syncIssue : Obligations.SyncIssue := by
  unfold Obligations.SyncIssue
  intro s c m w hm hl hroom x own us bell joins waits
  have row {i : Instr} {op : Nat} {wait : Option PendingWait} (hi : exec i s = .next (Machine.syncIssue op c m s))
      (hwait : begunWait s c w op = wait) : joins i op wait := fun h => by
    rw [hi, syncIssue_go h hm hl hroom, hwait]
    rfl
  exact ⟨row rfl rfl, row rfl rfl, row rfl rfl, row rfl rfl, row rfl rfl⟩

end Sys2Proof.Machine

/-! The sync unit (O17): taking the head of the queue leaves bells, lines, partitions and links, and each operation then goes by
its own rule. -/

namespace Sys2Proof.Machine

/-! ### One equation for each operation (R193) -/

/-- An operation on a bell goes to the bell's store, where its context owns the bell and a way is up (R299). -/
def startOnBell (c l : Nat) (o : UnitOp) (k : BellOpKind) (s : State) : State :=
  if !ownsBell s c (syncBell o) then raiseCellFault (opFault 0x0122 o) l s
  else if routeDown s (regionOf l) (syncBell o / 16384) then raiseRouteDown c s
  else sendBellOp ⟨syncBell o, k, some l, c, o.pc, o.word⟩ s

section
variable {c l : Nat} {o : UnitOp} {s : State}

theorem startSync_post (h : classOp o.word = (5, 1)) :
    startSync c l o s = startOnBell c l o (.post (BitVec.ofNat 32 (wf o.word 89 58))) s := by
  rw [startSync, h]; rfl

theorem startSync_wait (h : classOp o.word = (5, 2)) :
    startSync c l o s = startOnBell c l o (.wait (BitVec.ofNat 32 (wf o.word 89 58))) s := by
  rw [startSync, h]; rfl

theorem startSync_take (h : classOp o.word = (5, 3)) : startSync c l o s = startOnBell c l o .take s := by
  rw [startSync, h]; rfl

theorem startSync_arrive (h : classOp o.word = (5, 4)) :
    startSync c l o s = arrive c (wf o.word 94 90) l (fun code s => raiseCellFault (opFault code o) l s) s := by
  rw [startSync, h]; rfl

theorem startSync_lwait (h : classOp o.word = (5, 5)) :
    startSync c l o s = lwait c (wf o.word 94 90) l (fun code s => raiseCellFault (opFault code o) l s) s := by
  rw [startSync, h]; rfl

/-- An operation on a bell of the context's run, over links that are up, is on its way. -/
theorem startOnBell_sends {k : BellOpKind} (hown : ownsBell s c (syncBell o) = true)
    (hup : routeDown s (regionOf l) (syncBell o / 16384) = false) :
    startOnBell c l o k s = sendBellOp ⟨syncBell o, k, some l, c, o.pc, o.word⟩ s := by
  simp only [startOnBell, hown, hup, Bool.not_true, Bool.false_eq_true, if_false]

/-- A participant that has not arrived, and whose latch of the last completion is taken, arrives (R311). -/
theorem arrive_first {line cell : Nat} {fault : Nat → State → State} (hown : ownsLine s c line = true)
    (hmask : sGet false (lineAt s line).mask (lineBit s c cell) = true)
    (hnew : sGet false (lineAt s line).arrived (lineBit s c cell) = false)
    (htaken : sGet false (lineAt s line).latch (lineBit s c cell) = false) (hdone : (lineAt s line).latchDue = false) :
    arrive c line cell fault s = completeLine line (tellPeers c line
      (updLine line (fun n => { n with arrived := sSet false n.arrived (lineBit s c cell) true }) s)) := by
  simp only [arrive, hown, hmask, hnew, htaken, hdone, Bool.not_true, Bool.or_self, Bool.false_eq_true, if_false]

/-- A participant whose latch is set takes it and goes on (R311). -/
theorem lwait_latched {line cell : Nat} {fault : Nat → State → State} (hown : ownsLine s c line = true)
    (hmask : sGet false (lineAt s line).mask (lineBit s c cell) = true)
    (hset : sGet false (lineAt s line).latch (lineBit s c cell) = true) :
    lwait c line cell fault s = resumeCell cell
      (updLine line (fun n => { n with latch := sSet false n.latch (lineBit s c cell) false }) s) := by
  simp only [lwait, hown, hmask, hset, Bool.not_true, Bool.or_self, Bool.false_eq_true, if_false, if_true]

end

theorem syncStart_head {s : State} {c : LCell} {ctx : Nat} {o : UnitOp} {rest : List UnitOp}
    (hown : ownerOf s (blockOf c.toNat) = some ctx) (hsync : (issuer s c).units.sync = o :: rest) :
    exec (.syncStart c) s = .next (startSync ctx c.toNat o (popSync (cellOfL s c) s)) := by
  change execSyncStart c s = _
  simp only [execSyncStart, hsync, hown]

/-- Settles O17: by the operation at the head, on the state without it. -/
theorem syncStart : Obligations.SyncStart := by
  unfold Obligations.SyncStart
  intro s c ctx o rest hown hsync s₁ gives v sends l b
  have hgives {t : State} (hstart : startSync ctx c.toNat o s₁ = t) : gives t :=
    (syncStart_head hown hsync).trans (congrArg _ hstart)
  refine ⟨fun hop hbell hup => hgives ?post, fun hop hbell hup => hgives ?wait, fun hop hbell hup => hgives ?take,
    fun hop hline hmask hnew htaken hdone => hgives ?arrive, fun hop hline hmask hset => hgives ?lwait⟩
  case post => exact (startSync_post hop).trans (startOnBell_sends hbell hup)
  case wait => exact (startSync_wait hop).trans (startOnBell_sends hbell hup)
  case take => exact (startSync_take hop).trans (startOnBell_sends hbell hup)
  case arrive => exact (startSync_arrive hop).trans (arrive_first hline hmask hnew htaken hdone)
  case lwait => exact (startSync_lwait hop).trans (lwait_latched hline hmask hset)

end Sys2Proof.Machine

/-! Bells and waits (O18, O20): a store with a good count word applies what arrives by the rule of its kind; a wait ends, expires
or lends by what stands in the cell. -/

namespace Sys2Proof.Machine

/-! ### The store of a bell (R299 to R302) -/

/-- A clean check of a word without an earlier error lets an operation through (R299). -/
theorem bellMeets_clean {s : State} {b : Nat} (hgood : (bellAt s b).bad = false) : bellMeets b .clean s = (false, s) := by
  simp only [bellMeets, hgood, Bool.false_eq_true, if_false]

section
variable {o : BellOp} {s : State}

theorem applyBellOp_post {k : BitVec 32} (hgood : (bellAt s o.bell).bad = false) (hkind : o.kind = .post k)
    (hrange : k.toNat < 2 ^ 31) : applyBellOp o .clean s = regCount aBellPosts 1 (bellPost o.bell k s) := by
  simp only [applyBellOp, bellMeets_clean hgood, hkind, Bool.false_eq_true, if_false, ge_iff_le,
    if_neg (Nat.not_le.mpr hrange)]

theorem applyBellOp_wait_reached {v : BitVec 32} {l : Nat} (hgood : (bellAt s o.bell).bad = false)
    (hkind : o.kind = .wait v) (hcell : o.cell = some l) (hreached : reached (bellAt s o.bell).count v = true) :
    applyBellOp o .clean s = release l s := by
  simp only [applyBellOp, bellMeets_clean hgood, hkind, hcell, hreached, Bool.false_eq_true, if_false, if_true]

/-- A WAIT that is not reached, within the range of the serial comparison (R301). -/
theorem applyBellOp_wait_left {v : BitVec 32} {l : Nat} (hgood : (bellAt s o.bell).bad = false)
    (hkind : o.kind = .wait v) (hcell : o.cell = some l) (hleft : reached (bellAt s o.bell).count v = false)
    (hrange : (v - (bellAt s o.bell).count).toNat ≠ 2 ^ 31) :
    applyBellOp o .clean s = registerWaiter o.bell ⟨l, false, v⟩ s := by
  simp only [applyBellOp, bellMeets_clean hgood, hkind, hcell, hleft, if_neg hrange, Bool.false_eq_true, if_false]

theorem applyBellOp_take_served {l : Nat} (hgood : (bellAt s o.bell).bad = false) (hkind : o.kind = .take)
    (hcell : o.cell = some l) (hreached : reached (bellAt s o.bell).count 1#32 = true) :
    applyBellOp o .clean s = release l (updBell s o.bell (fun x => { x with count := x.count - 1#32 })) := by
  simp only [applyBellOp, bellMeets_clean hgood, hkind, hcell, hreached, Bool.false_eq_true, if_false, if_true]

theorem applyBellOp_take_left {l : Nat} (hgood : (bellAt s o.bell).bad = false) (hkind : o.kind = .take)
    (hcell : o.cell = some l) (hleft : reached (bellAt s o.bell).count 1#32 = false) :
    applyBellOp o .clean s = registerWaiter o.bell ⟨l, true, 0#32⟩ s := by
  simp only [applyBellOp, bellMeets_clean hgood, hkind, hcell, hleft, Bool.false_eq_true, if_false]

end

/-- An operation arrives once no earlier one of its cell to its bell is on its way (R304). -/
theorem bellOpApply_arrives {s : State} {i : BitVec 16} {e : Ecc} {o : BellOp} (ho : s.sync.ops[i.toNat]? = some o)
    (hturn : (s.sync.ops.take i.toNat).any (fun q => q.cell == o.cell && q.bell == o.bell) = false) :
    exec (.bellOpApply i e) s = .next
      (applyBellOp o e { s with sync := { s.sync with ops := s.sync.ops.eraseIdx i.toNat } }) := by
  change execBellOpApply i e s = _
  simp only [execBellOpApply, ho, hturn, Bool.false_eq_true, if_false]

/-- Settles O18: by the kind of the operation, on the state that it has left. -/
theorem bellApply : Obligations.BellApply := by
  unfold Obligations.BellApply
  intro s i o ho hturn hgood b n s₁ gives
  have hgives {t : State} (happly : applyBellOp o .clean s₁ = t) : gives t :=
    (bellOpApply_arrives ho hturn).trans (congrArg _ happly)
  exact ⟨fun k hkind hrange => hgives (applyBellOp_post hgood hkind hrange),
    fun v l hkind hcell hreached => hgives (applyBellOp_wait_reached hgood hkind hcell hreached),
    fun v l hkind hcell hleft hrange => hgives (applyBellOp_wait_left hgood hkind hcell hleft hrange),
    fun l hkind hcell hreached => hgives (applyBellOp_take_served hgood hkind hcell hreached),
    fun l hkind hcell hleft => hgives (applyBellOp_take_left hgood hkind hcell hleft)⟩

/-! ### The end of a wait (R303, R306) -/

theorem reclaimPower_none {s : State} {l : Nat} (hloan : s.pwr.loans.find? (fun e => e.1 == l) = none) :
    reclaimPower l s = s := by
  simp only [reclaimPower, hloan]

/-- A cell that waits with its clocks on, and has lent nothing, goes on. -/
theorem resumeCell_ungated {s : State} {l : Nat} {w : PendingWait} (hwait : (cellAt s (physOf s l)).seq.wait = some w)
    (hclocked : w.gated = false) (hloan : s.pwr.loans.find? (fun e => e.1 == l) = none) :
    resumeCell l s = updCell s (physOf s l) (fun x => { x with seq := { x.seq with wait := none } }) := by
  simp only [resumeCell, reclaimPower_none hloan, hwait]
  split
  case h_1 w' _ hw _ =>
    obtain rfl := Option.some.inj hw
    simp only [hclocked, Bool.false_eq_true, if_false]
  case h_2 => rfl

/-- A cancel of a wait on a bell where its cell is registered no longer changes nothing (R306). -/
theorem applyCancel_served {s : State} {l n : Nat} {w : PendingWait} (hwait : (cellAt s (physOf s l)).seq.wait = some w)
    (hbell : w.isLine = false) (hserved : (bellAt s w.id).waiters.any (fun v => v.cell == l) = false) :
    applyCancel l n s = s := by
  simp only [applyCancel, hwait]
  split
  case h_1 w' _ hw _ =>
    obtain rfl := Option.some.inj hw
    simp only [hbell, hserved, Bool.false_eq_true, if_false]
  case h_2 => rfl

/-! ### Waiting without power (R308) -/

/-- A cell that waits, whose units are idle, and which has no POST on its way gates its clocks at LEND_THRESH or now, whichever is
later, and lends its power. -/
theorem cellLend_gates {s : State} {c : LCell} {w : PendingWait} (hwait : (issuer s c).seq.wait = some w)
    (hclocked : w.gated = false) (hthresh : effField s aBellCtl 47 40 ≠ 0) (hsync : (issuer s c).units.sync = [])
    (hposts : ∀ o ∈ s.sync.ops, o.cell = some c.toNat → ∀ n, o.kind ≠ .post n)
    (hmatrix : matrixQuiet (issuer s c).units = true) (hvector : (issuer s c).units.vector = [])
    (hmove : moveQuiet (issuer s c).units = true) :
    let now := max s.cycle (w.since + 300 * effField s aBellCtl 47 40)
    exec (.cellLend c) s = .next (regCount aBellLends 1 (lendPower c.toNat (updCell { s with cycle := now } (cellOfL s c)
      (fun x => { x with seq := { x.seq with wait := some { w with gated := true, since := now } } })))) := by
  intro now
  change execCellLend c s = _
  unfold execCellLend
  simp only [hwait, hclocked, beq_eq_false_iff_ne.mpr hthresh, hsync, hmatrix, hvector, hmove, List.isEmpty_nil, Bool.not_true,
    Bool.or_false, Bool.false_or]
  refine congrArg _ (if_neg fun hsome => ?_)
  obtain ⟨o, ho, hpost⟩ := List.any_eq_true.mp hsome
  obtain ⟨hcell, hkind⟩ := Bool.and_eq_true_iff.mp hpost
  split at hkind
  case h_1 n hn => exact hposts o ho (beq_iff_eq.mp hcell) n hn
  case h_2 => exact Bool.false_ne_true hkind

/-- Settles O20: each end of a wait by its own rule. -/
theorem waitsEnd : Obligations.WaitsEnd := by
  unfold Obligations.WaitsEnd
  refine ⟨fun s i l w hrelease hwait hclocked hloan => ?release, fun s c w hwait hfirst => ?expiry,
    fun s i l n w hcancel hwait hbell hquiet hserved => ?cancel, fun s c w => cellLend_gates⟩
  case release =>
    change execBellRelease i s = _
    simp only [execBellRelease, hrelease]
    exact congrArg _ (resumeCell_ungated hwait hclocked hloan)
  case expiry =>
    change execWaitTimeout c s = _
    simp only [execWaitTimeout, hwait, hfirst, Bool.false_eq_true, if_false]
  case cancel =>
    change execCancelApply i s = _
    simp only [execCancelApply, hcancel, hquiet, Bool.not_true, Bool.false_eq_true, if_false]
    exact congrArg _ (applyCancel_served hwait hbell hserved)

end Sys2Proof.Machine

/-! Commands on contexts (O28): what none of its checks refuses, each rule decides; records, replies, bells and lines are apart
from the table of contexts, so that a context created or destroyed there stands so at the end. -/

namespace Sys2Proof.Machine

/-! ### Operations that leave the contexts alone -/

/-- What leaves the contexts alone at each item leaves them alone over a list. -/
theorem foldl_ctxs {β : Type} {f : State → β → State} (h : ∀ s b, (f s b).ctxs = s.ctxs) (l : List β) (s : State) :
    (l.foldl f s).ctxs = s.ctxs := by
  induction l generalizing s with
  | nil => rfl
  | cons b l ih => exact (ih _).trans (h s b)

theorem ctxAt_of_ctxs {s t : State} (h : t.ctxs = s.ctxs) (k : Nat) : ctxAt t k = ctxAt s k := by
  rw [ctxAt, h]; rfl

@[simp] theorem sendTagged_ctxs (num addr port kind : Nat) (body : List Byte) (s : State) :
    (sendTagged num addr port kind body s).ctxs = s.ctxs := by
  unfold sendTagged
  dsimp only
  split <;> rfl

@[simp] theorem sendReply_ctxs (o : Origin) (r : Reply) (inline : List Byte) (s : State) :
    (sendReply o r inline s).ctxs = s.ctxs := by
  unfold sendReply
  split
  case h_1 => split <;> rfl
  case h_2 => exact sendTagged_ctxs ..

@[simp] theorem keepReply_ctxs (o : Origin) (r : Reply) (s : State) : (keepReply o r s).ctxs = s.ctxs := by
  unfold keepReply
  split <;> split <;> rfl

@[simp] theorem endJob_ctxs (j : Job) (status gnum : Nat) (det : List Nat) (s : State) :
    (endJob j status gnum det s).ctxs = s.ctxs :=
  (sendReply_ctxs ..).trans (keepReply_ctxs ..)

@[simp] theorem clearTallyCtx_ctxs (c : Nat) (s : State) : (clearTallyCtx c s).ctxs = s.ctxs :=
  foldl_ctxs (fun s q => by dsimp only; split <;> rfl) ctxQtys s

@[simp] theorem logContextEnd_ctxs (c : Nat) (s : State) : (logContextEnd c s).ctxs = s.ctxs :=
  (onlyRecords_logAppend ..).ctxs

@[simp] theorem resetBells_ctxs (c : Nat) (s : State) : (resetBells c s).ctxs = s.ctxs :=
  foldl_ctxs (fun _ _ => updBell_ctxs ..) _ s

@[simp] theorem foldl_updLine_ctxs (f : Line → Line) (ls : List Nat) (s : State) :
    (ls.foldl (fun s l => updLine l f s) s).ctxs = s.ctxs :=
  foldl_ctxs (fun _ _ => updLine_ctxs ..) ls s

theorem ctxAt_skipStep_other {c k : Nat} (h : k ≠ c) (s : State) : ctxAt (skipStep c s) k = ctxAt s k := by
  unfold skipStep
  dsimp only
  split
  · rfl
  · exact ctxAt_updCtx_other _ _ h

/-- The step that a context parked within ends in that context alone (R335). -/
theorem ctxAt_abandonParked_other {c k : Nat} (h : k ≠ c) (status : Nat) (s : State) :
    ctxAt (abandonParked c status s) k = ctxAt s k := by
  unfold abandonParked
  dsimp only
  rw [updKept, ctxAt_updCtx_other _ _ h, ctxAt_skipStep_other h]
  split
  · exact ctxAt_of_ctxs (endJob_ctxs ..) k
  · rfl

/-! ### CTX_CREATE and CTX_QUERY (R320, R321) -/

section
variable {h : LineHit} {c : Cmd} {s t : State}

theorem ctxCreate_creates (hst : (ctxAt s c.ctx).st = .free) (hroom : (claimants s).length < 256)
    (hread : readRegions h [(c.field 0 8, 256), (peekNat s (c.field 0 8 + 0x68) 8, 0x40)] 0 s = (none, t)) :
    let bs := peek t (c.field 0 8) 256
    descFail t c.ctx bs = none → almCreateFail t (fieldAt bs 0x68 8) = none → bellsMeet t c.ctx (descOf bs) = false →
    linesMeet t c.ctx (descOf bs) = false →
    ctxCreate h c s = completeCmd c stOk t.beat.gnum [] [] (createCtx c.ctx bs t) := by
  intro bs hdesc halm hbells hlines
  have hgood : (descFail t c.ctx bs).or (almCreateFail t (fieldAt bs 0x68 8)) = none := by rw [hdesc, halm]; rfl
  simp only [ctxCreate, hst, Nat.not_le.mpr hroom, readingCmd_good hread, ne_eq, not_true_eq_false, if_false]
  rw [hgood]
  simp only [hbells, hlines, Bool.false_eq_true, if_false, bs]

/-- A context as CTX_CREATE leaves it: PARKED, with RESUME all ones. -/
theorem ctxAt_createCtx (n : Nat) (bs : List Byte) (s : State) :
    (ctxAt (createCtx n bs s) n).st = .parked ∧ (ctxAt (createCtx n bs s) n).kept = { resume := 0xFFFF } := by
  simp [createCtx, ctxAt]

theorem ctxQuery_answers (hout : deniedOut c (c.field 0 8) = false) :
    ctxQuery c s = answerOut c (c.field 0 8) [256] (descBytes s c.ctx) s := by
  simp only [ctxQuery, hout, Bool.false_eq_true, if_false]

/-! ### CTX_PARK and CTX_UNPARK (R326, R332, R610) -/

theorem ctxPark_stores (hopt : c.field 8 4 = 4) (hst : (ctxAt s c.ctx).st = .parked) (hfree : transferring s c.ctx = false) :
    ctxPark c s = completeCmd c stOk (ctxAt s c.ctx).kept.parkGnum [0] [] (storeCtx c.ctx s) := by
  simp [ctxPark, hopt, hst, hfree]

theorem ctxPark_accepts (hopt : c.field 8 4 ≠ 4) (hst : (ctxAt s c.ctx).st = .unparked)
    (htime : c.field 0 8 = 0 ∨ s.beat.gnum < c.field 0 8) (hmap : resharding s c.ctx = false)
    (hjobs : jobsOf s 0x0102 c.ctx = []) (hroom : saveTooSmall s c.ctx (c.field 8 4 / 2 % 2 == 1) = false) :
    ctxPark c s = acceptCmd c (c.field 0 8) 0 [c.field 8 4] s := by
  have hnow : ¬ (c.field 0 8 ≠ 0 ∧ c.field 0 8 ≤ s.beat.gnum) :=
    fun ⟨hne, hle⟩ => htime.elim hne (Nat.not_lt.mpr hle)
  simp only [ctxPark, hopt, hst, if_neg hnow, hmap, hjobs, hroom, List.isEmpty_nil, ne_eq, not_true_eq_false, Bool.not_true,
    Bool.false_eq_true, if_false]

theorem ctxUnpark_accepts (hgood : unparkFault s c = none) : ctxUnpark c s = acceptCmd c (c.field 0 8) 0 [] s := by
  rw [ctxUnpark, hgood]

/-! ### CTX_RESIZE and CTX_DESTROY (R335, R336) -/

theorem ctxResize_completes (hst : (ctxAt s c.ctx).st = .parked) (hfree : transferring s c.ctx = false) :
    let t := clearValid c.ctx (clearLanes c.ctx (resetResidency c.ctx (abandonParked c.ctx stStepAbandoned s)))
    ctxResize c s = completeCmd c stOk t.beat.gnum [] [] (updCtx t c.ctx (fun x => { x with saved := false })) := by
  simp only [ctxResize, hst, hfree, ne_eq, not_true_eq_false, Bool.false_eq_true, if_false]

/-- What CTX_DESTROY leaves before its reply: the step, the entries of the Tally, bells, lines and the descriptor of the context
gone (R336). -/
def ctxDestroyed (c : Nat) (s : State) : State :=
  let x := ctxAt s c
  let t := clearTallyCtx c (logContextEnd c (abandonParked c stStepAbandoned s))
  let t := (ctxLineIds x).foldl (fun s l => updLine l (fun _ => {}) s) (resetBells c t)
  { t with ctxs := sSet {} t.ctxs c {} }

theorem ctxDestroy_completes (hst : (ctxAt s c.ctx).st = .parked ∨ (ctxAt s c.ctx).st = .stored)
    (hfree : transferring s c.ctx = false) (hnone : holdsAny s c.ctx = false) :
    let k := (ctxAt s c.ctx).kept
    let t := ctxDestroyed c.ctx s
    ctxDestroy c s = completeCmd c stOk t.beat.gnum [k.energy, k.runBeats, k.gated, k.acct] [] t := by
  have hidle : (ctxAt s c.ctx).st ≠ .unparked ∧ (ctxAt s c.ctx).st ≠ .free := by
    rcases hst with hst | hst <;> simp [hst]
  simp only [ctxDestroy, hidle, hfree, hnone, Bool.false_eq_true, or_self, if_false]
  rfl

/-- A destroyed context is FREE, its descriptor as if it had never been. -/
theorem ctxAt_ctxDestroyed (n : Nat) (s : State) : ctxAt (ctxDestroyed n s) n = {} := by
  simp [ctxAt, ctxDestroyed]

theorem ctxAt_ctxDestroyed_other {n k : Nat} (h : k ≠ n) (s : State) : ctxAt (ctxDestroyed n s) k = ctxAt s k :=
  calc ctxAt (ctxDestroyed n s) k
    _ = ctxAt (abandonParked n stStepAbandoned s) k := by simp [ctxAt, ctxDestroyed, sGet_set_other _ _ _ h]
    _ = ctxAt s k := ctxAt_abandonParked_other h ..

/-! ### RING_SET, GRANARY_SWAP and MEM_MAP (R266, R338, R340, R461) -/

theorem ringSetCmd_removes (hjobs : s.jobs = []) (hqueue : s.oz.queue = []) (hslots : c.field 0x18 4 = 0) :
    ringSetCmd c s = updRingSet c.ctx (fun _ => {}) (completeCmd c stOk s.beat.gnum [] [] s) := by
  simp [ringSetCmd, hjobs, hqueue, hslots]

theorem granarySwap_accepts (hres : (ctxAt s c.ctx).st.resident = true) (hwin : (ctxAt s c.ctx).desc.gwCount ≠ 0)
    (hnone : jobsOf s 0x0108 c.ctx = []) (hidle : ∀ op ∈ writingOps, jobsOf s op c.ctx = [])
    (hpark : ∀ j ∈ jobsOf s 0x0102 c.ctx, j.phase ≠ 1) : granarySwap c s = acceptCmd c 0 0 [] s := by
  have hwriting : writingOps.any (fun op => !(jobsOf s op c.ctx).isEmpty) = false :=
    List.any_eq_false.mpr fun op hop => by simp [hidle op hop]
  have hsaving : (jobsOf s 0x0102 c.ctx).any (fun j => j.phase == 1) = false :=
    List.any_eq_false.mpr fun j hj => by simp [hpark j hj]
  simp only [granarySwap, hres, hwin, hnone, hwriting, hsaving, List.isEmpty_nil, Bool.not_true, Bool.or_self, Bool.true_eq_false,
    Bool.false_eq_true, if_false]

/-- Pages of a context that is not unparked are checked and not loaded. -/
theorem memMap_checks {m : Sparse XEntry} (hst : (ctxAt s c.ctx).st = .parked ∨ (ctxAt s c.ctx).st = .stored) :
    let x := ctxAt s c.ctx
    let ps := (List.range (c.field 8 4)).map (fun k =>
      512 * granaryIndex x ((c.field 0 8 / 2 ^ 21 + k) / 512) + (c.field 0 8 / 2 ^ 21 + k) % 512)
    readRegions h (xlateRegions s c.ctx (distinct (ps.map (fun p => p / 512)))) 0 s = (none, t) →
    readPages t c.ctx ps = .inr m → m.any (fun e => e.2.kind != 2 && frameShared t c.ctx e.2.frame) = false →
    memMap h c s = completeCmd c stOk t.beat.gnum [c.field 8 4] [] t := by
  intro x ps hread hpages hown
  have hidle : x.st ≠ .unparked ∧ x.st ≠ .free := by
    rcases hst with hst | hst <;> simp [x, hst]
  rw [memMap, if_neg hidle.2, readingCmd_good hread]
  simp only [x, ps] at hpages hidle
  simp only [hpages, hown, hidle.1, ne_eq, not_false_eq_true, if_true, Bool.false_eq_true, if_false]

end

/-- Settles O28: each command reaches Ozmin and is decided by its own rule. -/
theorem contextCommands : Obligations.ContextCommands := by
  unfold Obligations.ContextCommands
  intro r s s₁ c x
  refine ⟨fun h d hreach hst hroom hread => ?create, fun hreach hopt hst hfree => ?store,
    fun hreach hopt hst htime hmap hjobs hroom => ?park, fun hreach hgood => hreach.gives rfl (ctxUnpark_accepts hgood),
    fun hreach hst hfree => hreach.gives rfl (ctxResize_completes hst hfree), fun hreach hst hfree hnone => ?destroy,
    fun hreach hout => hreach.gives rfl (ctxQuery_answers hout),
    fun hreach hjobs hqueue hslots => hreach.gives rfl (ringSetCmd_removes hjobs hqueue hslots),
    fun hreach hres hwin hnone hidle hpark => hreach.gives rfl (granarySwap_accepts hres hwin hnone hidle hpark),
    fun h d m hreach hst => ?map⟩
  case create =>
    intro bs hdesc halm hbells hlines
    exact ⟨hreach.gives rfl (ctxCreate_creates hst hroom hread hdesc halm hbells hlines), ctxAt_createCtx ..⟩
  case store => exact hreach.gives rfl (ctxPark_stores hopt hst hfree)
  case park => exact hreach.gives rfl (ctxPark_accepts hopt hst htime hmap hjobs hroom)
  case destroy =>
    have hgone := ctxAt_ctxDestroyed c.ctx s₁
    exact ⟨ctxDestroyed c.ctx s₁, hreach.gives rfl (ctxDestroy_completes hst hfree hnone), by rw [hgone], hgone,
      fun k hk => ctxAt_ctxDestroyed_other hk s₁⟩
  case map =>
    intro ps hread hpages hown
    exact hreach.gives rfl (memMap_checks hst hread hpages hown)

end Sys2Proof.Machine

/-! Passes of the Mills, reshards and snapshots (O39): what each event leaves when its work has been done without a fault. -/

namespace Sys2Proof.Machine

section
variable {ctx : BitVec 14} {h : LineHit} {s t : State}

/-! ### Passes (R369, R384, R389, R449) -/

section
variable {u : Update}

/-- After pass A the norms go to the leader. -/
theorem millPassADone_tells (hupd : (ctxAt s ctx.toNat).upd = some u) (hmills : u.mills ≠ []) (habort : u.abort = none)
    (hplain : u.fused = false) (hphase : (ctxAt s ctx.toNat).alm.upd = 1)
    (hpass : overTensors (passA ctx.toNat (ctxAt s ctx.toNat).alm.cb u h) (millTensors s ctx.toNat u) ⟨0, s⟩ = (true, t)) :
    execMillPassADone ctx h s = .next (flushOut (tellNorms ctx.toNat (updUpdate ctx.toNat (fun u => { u with mills := [] }) t))) := by
  simp [execMillPassADone, hupd, hmills, habort, hplain, hphase, hpass]

/-- After pass B the parity refresh of a refresh step, or DONE. -/
theorem millPassBDone_follows (hupd : (ctxAt s ctx.toNat).upd = some u) (hmills : u.mills ≠ []) (habort : u.abort = none)
    (hplain : u.fused = false) (hphase : (ctxAt s ctx.toNat).alm.upd = 2)
    (hpass : overTensors (passB ctx.toNat (ctxAt s ctx.toNat).alm.cb u h) (millTensors s ctx.toNat u) ⟨0, s⟩ = (true, t)) :
    execMillPassBDone ctx h s = .next (flushOut (afterPassB ctx.toNat (ctxAt s ctx.toNat).alm.cb u.t t)) := by
  simp [execMillPassBDone, hupd, hmills, habort, hplain, hphase, hpass]

/-- A fused pass awaits the boundary, marked for its discard where a result is not finite. -/
theorem millFusedDone_marks (hupd : (ctxAt s ctx.toNat).upd = some u) (hmills : u.mills ≠ []) (habort : u.abort = none)
    (hfused : u.fused = true)
    (hpass : overTensors (if u.apply_ then passApply ctx.toNat (ctxAt s ctx.toNat).alm.cb u h
      else passRefresh ctx.toNat (ctxAt s ctx.toNat).alm.cb u h) (millTensors s ctx.toNat u) ⟨0, s⟩ = (true, t)) :
    execMillFusedDone ctx h s = .next (updUpdate ctx.toNat (fun u =>
      { u with mills := [], abort := if u.nonfiniteB then some 1 else u.abort }) t) := by
  simp [execMillFusedDone, hupd, hmills, habort, hfused, hpass]

end

/-! ### RESHARD (R366) -/

theorem reshardDone_ends {got : List Byte} {served : BitVec 64} {j : Job} {rest : List Job}
    (hjobs : jobsOf s 0x0303 ctx.toNat = j :: rest)
    (hwrite : writeItems ctx.toNat h (reshardItems s ctx.toNat) 0 got s = (true, t)) :
    let x := ctxAt s ctx.toNat
    let here := ((reshardItems s ctx.toNat).filter (fun i => i.src.isNone)).map (fun i => i.size)
    execReshardDone ctx got served false h s = .next (endJob j stOk t.beat.gnum
      [here.foldl (fun a b => a + b) 0, served.toNat, if mapsEquivalent t (shardMapOf x) (shadowShard x) then 1 else 0]
      (updCtx t ctx.toNat (fun x => { x with resharded := true }))) := by
  simp only [execReshardDone, hjobs, hwrite, Bool.false_eq_true, Bool.not_true, if_false]

/-! ### SNAPSHOT (R341 to R343) -/

section
variable {j : Job}

theorem snapshotStageEnd_ships {image : List Byte} (hjob : (jobsOf s 0x0605 ctx.toNat).find? (fun j => j.phase == 1) = some j)
    (hread : ctxReadAll ctx.toNat h (j.extents.map (fun e => (e.1, e.2.2))) 0 s = (some image, t)) :
    execSnapshotStageEnd ctx h s = .next (flushOut (shipStaged j image (updJob j.id (fun j =>
      { j with phase := 2, vals := [j.vals.headD 0, image.length, crc32c image, 0] })
      (writeRuns ctx.toNat (j.extents.map (fun e => (e.2.1, e.2.2))) image t)))) := by
  simp only [execSnapshotStageEnd, hjob, hread]

theorem snapshotShipDone_ends (hjob : (jobsOf s 0x0605 ctx.toNat).find? (fun j => j.phase == 2) = some j)
    (hbulk : j.field 0x12 1 = 1) (hacked : j.vals.getD 1 0 ≤ j.vals.getD 3 0) :
    execSnapshotShipDone ctx s = .next (endJob j stOk s.beat.gnum [j.vals.getD 0 0, j.vals.getD 1 0, j.vals.getD 2 0]
      { s with oz := { s.oz with xfers := s.oz.xfers.filter (fun x => x.job != j.id) } }) := by
  simp only [execSnapshotShipDone, hjob, hbulk, hacked, decide_true, if_true]

end

end

/-- Settles O39: each event by its own rule, its work done without a fault. -/
theorem millPasses : Obligations.MillPasses := by
  unfold Obligations.MillPasses
  refine ⟨fun s ctx h u t => ?passes, fun s ctx got served h j rest t => ?reshard, fun s ctx h j image t => ?stage,
    fun s ctx j hjob hbulk hacked => snapshotShipDone_ends hjob hbulk hacked⟩
  case passes =>
    intro c x all idle hupd hmills habort
    exact ⟨fun hplain hphase hpass => millPassADone_tells hupd hmills habort hplain hphase hpass,
      fun hplain hphase hpass => millPassBDone_follows hupd hmills habort hplain hphase hpass,
      fun hfused hpass => millFusedDone_marks hupd hmills habort hfused hpass⟩
  case reshard =>
    intro c x here same hjobs hwrite
    exact reshardDone_ends hjobs hwrite
  case stage =>
    intro c hjob hread
    exact snapshotStageEnd_ships hjob hread

end Sys2Proof.Machine

/-! Commands on coded state and snapshots (O43): what none of its checks refuses, each rule decides; one that takes time starts on
the job that it has just been accepted as. -/

namespace Sys2Proof.Machine

/-! ### The job accepted last -/

/-- The job that a command becomes on acceptance. -/
def acceptedJob (c : Cmd) (at_ phase : Nat) (vals : List Nat) (s : State) : Job :=
  ⟨s.nextJob, c.origin, c.opcode, c.tag, c.seq, c.ctx, c.payload, at_, phase, vals, []⟩

@[simp] theorem lastJob_acceptCmd (c : Cmd) (at_ phase : Nat) (vals : List Nat) (s : State) :
    lastJob (acceptCmd c at_ phase vals s) = some (acceptedJob c at_ phase vals s) :=
  List.getLast?_concat ..

theorem lastJob_updJob {s : State} {j : Job} (hlast : lastJob s = some j) (f : Job → Job) :
    lastJob (updJob j.id f s) = some (f j) := by
  rw [lastJob] at hlast
  simp [lastJob, updJob, hlast]

section
variable {h : LineHit} {c : Cmd} {s t : State}

/-! ### CODE_SET (R445, R451) -/

theorem codeSet_removes (hst : (ctxAt s c.ctx).st ≠ .free) (hupd : (ctxAt s c.ctx).alm.upd = 0)
    (hidle : codeBusy (ctxAt s c.ctx) = false) (hzero : c.field 0 8 = 0) :
    codeSet h c s = completeCmd c stOk s.beat.gnum [] [] (updCode c.ctx (fun _ => {}) (clearValid c.ctx s)) := by
  simp [codeSet, hst, hupd, hidle, hzero]

/-- A coding descriptor taken; the renamed nodes stay. -/
def codingTaken (n a : Nat) (s : State) : State :=
  updCode n (fun d => { codingOf s a with renames := d.renames }) s

theorem codeSet_takes (hst : (ctxAt s c.ctx).st ≠ .free) (hupd : (ctxAt s c.ctx).alm.upd = 0)
    (hidle : codeBusy (ctxAt s c.ctx) = false) (haddr : c.field 0 8 ≠ 0)
    (hread : readRegions h [(c.field 0 8, 64), (peekNat s (c.field 0 8 + 0x10) 8, 4 * peekNat s (c.field 0 8 + 8) 2)] 0 s = (none, t))
    (hgood : codingFail t c.ctx (c.field 0 8) = none) :
    let u := codingTaken c.ctx (c.field 0 8) (clearValid c.ctx t)
    codeSet h c s = completeCmd c stOk u.beat.gnum [] [] u := by
  simp only [codeSet, hst, hupd, hidle, haddr, readingCmd_good hread, hgood, ne_eq, not_true_eq_false, Bool.false_eq_true, or_self,
    if_false]
  rfl

theorem code_codingTaken (n a : Nat) (s : State) : (ctxAt (codingTaken n a s) n).code =
    { codingOf s a with renames := (ctxAt s n).code.renames } := by
  rw [codingTaken, updCode, ctxAt_updCtx]

/-! ### CODE_REFRESH, CODE_COMMIT and CODE_REBUILD (R450, R452, R453) -/

/-- Members named as lost within the coded group pass the check of their numbers. -/
theorem codeRebuild_members {lost : List (Nat × Nat)} {members : Nat}
    (hlost : (List.range (c.field 1 1)).map (fun i => (c.field (2 + 2 * i) 2, c.field (8 + 2 * i) 2)) = lost)
    (hmembers : ∀ i, i < c.field 1 1 → c.field (2 + 2 * i) 2 < members) :
    lost.zipIdx.find? (fun e => decide (members ≤ e.1.1)) = none := by
  subst hlost
  rw [List.find?_eq_none]
  intro e he
  obtain ⟨i, hi, hfst⟩ := List.mem_map.mp (List.fst_mem_of_mem_zipIdx he)
  simpa [← hfst] using hmembers i (List.mem_range.mp hi)

section
variable (hst : (ctxAt s c.ctx).st = .unparked) (hupd : (ctxAt s c.ctx).alm.upd = 0) (hstep : stepInFlight s c.ctx = false)
  (hidle : codeBusy (ctxAt s c.ctx) = false) (hcoded : (ctxAt s c.ctx).code.present = true)
include hst hupd hstep hidle hcoded

theorem codeRefresh_starts {image : List Byte} (hread : ctxReadAll c.ctx h (imageRuns (acceptCmd c 0 0 [] s) c.ctx
      (shardMapOf (ctxAt s c.ctx)) (ctxAt s c.ctx).alm.cb) 0 (acceptCmd c 0 0 [] s) = (some image, t)) :
    codeRefresh h c s =
      startRefresh c.ctx (some s.nextJob) (ctxAt s c.ctx).alm.cb (ctxAt s c.ctx).alm.step image t := by
  simp [codeRefresh, hst, hupd, hstep, hidle, hcoded, hread, acceptedJob]

section
variable {lost : List (Nat × Nat)}
  (hlost : (List.range (c.field 1 1)).map (fun i => (c.field (2 + 2 * i) 2, c.field (8 + 2 * i) 2)) = lost)
  (htwo : c.field 1 1 ≤ 2) (hmembers : ∀ i, i < c.field 1 1 → c.field (2 + 2 * i) 2 < (ctxAt s c.ctx).code.members)
include hlost htwo hmembers

theorem codeRebuild_asks (hrole : c.field 0 1 ≠ 1) : let s₂ := lost.foldl (fun s e => renameNode c.ctx e.1 e.2 s) s
    codeRebuild h c s =
      startRebuild c.ctx s₂.nextJob (ctxAt s c.ctx).alm.step (lost.map (fun e => e.1)) (acceptCmd c 0 0 [] s₂) := by
  have hgood := codeRebuild_members hlost hmembers
  simp [codeRebuild, hst, hupd, hstep, hidle, hcoded, hlost, Nat.not_lt.mpr htwo, hgood, hrole, acceptedJob]

theorem codeRebuild_rollsBack (hrole : c.field 0 1 = 1) (hvalid : (ctxAt s c.ctx).code.valid = true)
    (hback : rollBack c.ctx h (lost.foldl (fun s e => renameNode c.ctx e.1 e.2 s) s) = (true, t)) :
    codeRebuild h c s = completeCmd c stOk t.beat.gnum [(ctxAt s c.ctx).code.cstep, 0] [] t := by
  have hgood := codeRebuild_members hlost hmembers
  simp [codeRebuild, hst, hupd, hstep, hidle, hcoded, hlost, Nat.not_lt.mpr htwo, hgood, hrole, hvalid, hback]

end

end

theorem codeCommit_accepts (hst : (ctxAt s c.ctx).st ≠ .free) (hready : (ctxAt s c.ctx).code.ready = true) :
    codeCommit c s = acceptCmd c (if c.field 0 8 = 0 then s.beat.gnum + 1 else c.field 0 8) 0 [] s := by
  simp [codeCommit, hst, hready]

/-! ### SNAPSHOT (R341) -/

/-- A snapshot accepted, its extents kept with its job. -/
def snapshotAccepted (c : Cmd) (step : Nat) (s : State) : State :=
  let t := acceptCmd c 0 (if c.field 0 8 = 0 then 1 else 0) [step] s
  updJob s.nextJob (fun j => { j with data := peek t (c.field 8 8) (24 * c.field 0x10 2) }) t

theorem snapshot_accepts (hres : (ctxAt s c.ctx).st.resident = true) (hport : ¬ (c.field 0x12 1 = 2 ∧ c.fromRing = true))
    (hfree : ∀ j ∈ s.jobs, j.opcode = 0x0605 → j.phase = 0)
    (hread : readRegions h [(c.field 8 8, 24 * c.field 0x10 2)] 0 s = (none, t))
    (hextents : ∀ i, i < c.field 0x10 2 → extentFail t c.ctx (c.field 8 8) i = none) :
    snapshot h c s = snapshotAccepted c (ctxAt s c.ctx).alm.step t := by
  have hshipping : s.jobs.any (fun j => j.opcode == 0x0605 && j.phase != 0) = false := by
    simpa using hfree
  have hgood : firstFail ((List.range (c.field 0x10 2)).map (extentFail t c.ctx (c.field 8 8))) = none := by
    simpa [firstFail] using hextents
  simp only [snapshot, hres, if_neg hport, hshipping, readingCmd_good hread, hgood, lastJob_acceptCmd, Bool.not_true,
    Bool.false_eq_true, if_false]
  rfl

theorem lastJob_snapshotAccepted (c : Cmd) (step : Nat) (s : State) :
    let phase := if c.field 0 8 = 0 then 1 else 0
    lastJob (snapshotAccepted c step s) = some { acceptedJob c 0 phase [step] s with
      data := peek (acceptCmd c 0 phase [step] s) (c.field 8 8) (24 * c.field 0x10 2) } :=
  lastJob_updJob (lastJob_acceptCmd ..) _

end

/-- Settles O43: each command reaches Ozmin and is decided by its own rule. -/
theorem codeCommands : Obligations.CodeCommands := by
  unfold Obligations.CodeCommands
  intro r h s s₁ c x a job
  refine ⟨fun hreach hst hupd hidle => ⟨fun hzero => ?remove, fun t haddr hread hgood => ?take⟩,
    fun image t hst hupd hstep hidle hcoded => ⟨fun hreach hread => ?refresh, fun hreach htwo hmembers => ⟨fun hrole => ?ask,
      fun t hrole hvalid hback => ?back⟩⟩,
    fun hreach hst hready => hreach.gives rfl (codeCommit_accepts hst hready),
    fun t hreach hres hport hfree hread hextents => ?snapshot⟩
  case remove => exact hreach.gives rfl (codeSet_removes hst hupd hidle hzero)
  case take => exact ⟨_, hreach.gives rfl (codeSet_takes hst hupd hidle haddr hread hgood), code_codingTaken ..⟩
  case refresh => exact hreach.gives rfl (codeRefresh_starts hst hupd hstep hidle hcoded hread)
  case ask => exact hreach.gives rfl (codeRebuild_asks hst hupd hstep hidle hcoded rfl htwo hmembers hrole)
  case back => exact hreach.gives rfl (codeRebuild_rollsBack hst hupd hstep hidle hcoded rfl htwo hmembers hrole hvalid hback)
  case snapshot =>
    exact ⟨_, hreach.gives rfl (snapshot_accepts hres hport hfree hread hextents), lastJob_snapshotAccepted ..⟩

end Sys2Proof.Machine

/-! Deferred lanes (O32): reading memory as it stands, and so a lane, comes to the same before and after the word is fetched. -/

namespace Sys2Proof.Machine

/-! ### Memory as it stands -/

/-- Memory, the sets that place it and the jobs in progress are the same: what a clean read of memory depends on. -/
structure SameMemory (s t : State) : Prop where
  mem : t.mem = s.mem
  sets : t.sets = s.sets
  jobs : t.jobs = s.jobs

theorem OnlyRecords.sameMemory {s t : State} (h : OnlyRecords s t) : SameMemory s t := by
  rw [h]; exact ⟨rfl, rfl, rfl⟩

/-- A clean check of a line finds it bad where it was poisoned before, and brings nothing about (R287). -/
theorem readLine_clean (s : State) (stack la : Nat) :
    readLine s stack la .clean = (sGet false s.mem.poison (hbmKey stack la / 64), s) := by
  unfold readLine
  cases sGet false s.mem.poison (hbmKey stack la / 64) <;> rfl

namespace SameMemory

variable {s t u : State}

theorem symm (h : SameMemory s t) : SameMemory t s := ⟨h.mem.symm, h.sets.symm, h.jobs.symm⟩

theorem trans (h : SameMemory s t) (g : SameMemory t u) : SameMemory s u :=
  ⟨g.mem.trans h.mem, g.sets.trans h.sets, g.jobs.trans h.jobs⟩

theorem physAt (h : SameMemory s t) (pa : Nat) : physAt t pa = physAt s pa := by
  unfold Machine.physAt jobBytes imapEntry; rw [h.mem, h.sets]

theorem copyOut (h : SameMemory s t) (n : Nat) : copyOut t n = copyOut s n := by
  unfold Machine.copyOut musterScope dieAt; rw [h.mem, h.jobs]

theorem hbmBytes (h : SameMemory s t) (stack la n : Nat) : hbmBytes t stack la n = hbmBytes s stack la n := by
  simp only [Machine.hbmBytes, h.mem]

theorem hbmPut (h : SameMemory s t) (stack la : Nat) (bs : List Byte) :
    SameMemory (hbmPut s stack la bs) (hbmPut t stack la bs) :=
  ⟨by simp only [Machine.hbmPut, h.mem], h.sets, h.jobs⟩

theorem logRepair (h : SameMemory s t) (action unit cause : Nat) :
    SameMemory (logRepair s action unit cause) (logRepair t action unit cause) :=
  (onlyRecords_logRepair ..).sameMemory.symm.trans (h.trans (onlyRecords_logRepair ..).sameMemory)

theorem readPiece (h : SameMemory s t) (pa n : Nat) :
    SameMemory (readPiece s pa n .clean).st (readPiece t pa n .clean).st ∧
      (readPiece t pa n .clean).bytes = (readPiece s pa n .clean).bytes := by
  unfold Machine.readPiece
  rw [h.physAt]
  cases Machine.physAt s pa with
  | hbm stack la =>
    simp only [readLine_clean]
    exact ⟨h, h.hbmBytes ..⟩
  | carve off =>
    simp only [readLine_clean, h.copyOut, h.mem, h.hbmBytes]
    split
    · exact ⟨h, rfl⟩
    split
    · exact ⟨h, rfl⟩
    split
    · exact ⟨h, rfl⟩
    have hput := h.hbmPut 0 (carveLa off - carveLa off % 64) (Machine.hbmBytes s 4 (carveLa off - carveLa off % 64) 64)
    exact ⟨hput.logRepair .., hput.hbmBytes ..⟩
  | scratch off => exact ⟨h, by rw [h.mem]⟩
  | reg => exact ⟨h, rfl⟩
  | reserved => exact ⟨⟨h.mem, h.sets, h.jobs⟩, rfl⟩

theorem readPieces (h : SameMemory s t) (pa which : Nat) (ps : List (Nat × Nat)) (i : Nat) :
    (readPieces t pa .clean which ps i).bytes = (readPieces s pa .clean which ps i).bytes := by
  induction ps generalizing s t i with
  | nil => rfl
  | cons p ps ih =>
    obtain ⟨hst, hbytes⟩ := h.readPiece (pa + p.1) p.2
    simp only [Machine.readPieces, ite_self, hbytes, ih hst]

theorem peekNat (h : SameMemory s t) (pa n : Nat) : peekNat t pa n = peekNat s pa n :=
  congrArg leNat (h.readPieces pa 0 (pieces pa n) 0)

theorem laneCount (h : SameMemory s t) (lane : Nat) : laneCount t lane = laneCount s lane := by
  simp only [Machine.laneCount, h.peekNat]

end SameMemory

/-! ### What lanes and bells are once the word is fetched -/

section
variable (s : State) (c : LCell) (m : Meet)

theorem sameMemory_fetched : SameMemory s (fetched s c m) := by
  unfold fetched; split <;> exact ⟨rfl, rfl, rfl⟩

theorem ctxAt_fetched (ctx : Nat) : ctxAt (fetched s c m) ctx = ctxAt s ctx := by
  unfold fetched; split <;> rfl

theorem ownerOf_fetched (g : Nat) : ownerOf (fetched s c m) g = ownerOf s g := by
  unfold fetched; split <;> rfl

theorem partIndex_fetched (ctx g : Nat) : partIndex (fetched s c m) ctx g = partIndex s ctx g := by
  unfold fetched; split <;> rfl

theorem laneOf_fetched (ctx l : Nat) : laneOf (fetched s c m) ctx l = laneOf s ctx l := by
  simp only [laneOf, ctxAt_fetched, partIndex_fetched, (sameMemory_fetched s c m).peekNat]

theorem ownsBell_fetched (ctx b : Nat) : ownsBell (fetched s c m) ctx b = ownsBell s ctx b := by
  simp only [ownsBell, ctxAt_fetched]

theorem bellAt_fetched (b : Nat) : bellAt (fetched s c m) b = bellAt s b := by
  unfold fetched; split <;> rfl

end

/-- A good count word, read without an uncorrectable error, lets the operation go on, and a corrected error is counted in the
Tally alone (R299). -/
theorem bellMeets_good {s : State} {b : Nat} {e : Ecc} (p : Nat) (hgood : (bellAt s b).bad = false) (he : e ≠ .uncorrectable) :
    (bellMeets b e s).1 = false ∧ OnlyCell p s (bellMeets b e s).2 ∧ cellAt (bellMeets b e s).2 p = cellAt s p ∧
      bellAt (bellMeets b e s).2 b = bellAt s b := by
  cases e with
  | clean => rw [bellMeets_clean hgood]; exact ⟨rfl, .refl p s, rfl, rfl⟩
  | corrected => simp only [bellMeets, hgood, Bool.false_eq_true, if_false]; exact ⟨trivial, .tallyAdd .., rfl, rfl⟩
  | uncorrectable => exact absurd rfl he

/-! ### The operations (R359 to R361) -/

section
variable {s : State} {c : LCell} {m : Meet} {w : InsnWord}

/-- DQPUSH onto a lane with room writes the entry and TAIL, and HWM where the count is the highest so far (R358, R359). -/
theorem execDqpush_pushes {lane : Nat × Nat} (h : Issues s c w 0 0x15) (hm : m.imem ≠ .uncorrectable)
    (hl : controlLegal w = true) (hlane : laneOf s ((ownerOf s (blockOf c.toNat)).getD 0) c.toNat = lane)
    (hlanes : lane.1 ≠ 0) (hroom : laneCount s lane.2 < lane.1) :
    let n := laneCount s lane.2
    let tail := peekNat s (lane.2 + 4) 4
    let t := poke (poke (fetched s c m) (lane.2 + 64 + 16 * (tail % lane.1))
      (natLe 2 (wf w 11 0) ++ natLe 2 (wf w 31 16) ++ natLe 4 0 ++ natLe 8 (raOf (issuer s c) w).toNat))
      (lane.2 + 4) (natLe 4 (tail + 1))
    exec (.dqpush c m) s = .next (updCell
      (if n + 1 > peekNat t (lane.2 + 8) 2 then poke t (lane.2 + 8) (natLe 2 (n + 1)) else t) (cellOfL s c) Cell.next) := by
  intro n tail t
  have hmem := sameMemory_fetched s c m
  change execDqpush c m s = _
  simp only [execDqpush, control_go h hm hl, ownerOf_fetched, laneOf_fetched, hlane, hmem.laneCount, hmem.peekNat,
    raOf_fetched, if_neg hlanes, ge_iff_le, if_neg (Nat.not_le.mpr hroom)]
  rfl

/-- DQPOP goes on where the frame is not fillable and where the lane holds no entry (R360). -/
theorem execDqpop_goesOn {ctx : Nat} {lane : Nat × Nat} (h : Issues s c w 0 0x16) (hm : m.imem ≠ .uncorrectable)
    (hl : controlLegal w = true) (hctx : (ownerOf s (blockOf c.toNat)).getD 0 = ctx) (hlane : laneOf s ctx c.toNat = lane)
    (hnone : (ctxAt s ctx).run.flags / 2 % 2 = 0 ∨ lane.1 = 0 ∨ laneCount s lane.2 = 0) :
    exec (.dqpop c m) s = .next (issued s c m Cell.next) := by
  change execDqpop c m s = _
  simp only [execDqpop, control_go h hm hl, ownerOf_fetched, hctx, laneOf_fetched, hlane, ctxAt_fetched,
    (sameMemory_fetched s c m).laneCount, if_pos hnone]
  rfl

/-- DQPOP takes the head entry, read without an error and within the fill limit: HEAD moves on, ARG goes to x[RD] and the cell
goes on at ENTRY (R360). -/
theorem execDqpop_takes {ctx : Nat} {lane : Nat × Nat} {r : ReadOut} (h : Issues s c w 0 0x16) (hm : m.imem ≠ .uncorrectable)
    (hl : controlLegal w = true) (hctx : (ownerOf s (blockOf c.toNat)).getD 0 = ctx) (hlane : laneOf s ctx c.toNat = lane)
    (hsome : ¬ ((ctxAt s ctx).run.flags / 2 % 2 = 0 ∨ lane.1 = 0 ∨ laneCount s lane.2 = 0))
    (hread : physRead (fetched s c m) (lane.2 + 64 + 16 * (peekNat s lane.2 4 % lane.1)) 16 m.data 0 = r)
    (hgood : r.bad = none)
    (hfits : r.st.cycle - r.st.beat.openAt + 16 * leNat ((r.bytes.drop 2).take 2) ≤ fillLimit r.st) :
    exec (.dqpop c m) s = .next (updCell (poke r.st lane.2 (natLe 4 (peekNat s lane.2 4 + 1))) (cellOfL s c) (fun _ =>
      let y := issuer (fetched s c m) c
      { y with x := xSet y.x (wf w 115 112) (BitVec.ofNat 64 (leNat (r.bytes.drop 8)))
               seq := { y.seq with pc := leNat (r.bytes.take 2) % 4096 } })) := by
  have hmem := sameMemory_fetched s c m
  change execDqpop c m s = _
  simp only [execDqpop, control_go h hm hl, ownerOf_fetched, hctx, laneOf_fetched, hlane, ctxAt_fetched, hmem.laneCount,
    hmem.peekNat, if_neg hsome, hread, hgood, gt_iff_lt, if_neg (Nat.not_lt.mpr hfits), issuer, cellOfL, physOf_fetched]

/-- BTEST of a bell of the context's run writes the result of the comparison, on the state once the count word is read. -/
theorem execBtest_tests {b : Nat} (h : Issues s c w 0 0x17) (hm : m.imem ≠ .uncorrectable) (hl : controlLegal w = true)
    (hb : (raOf (issuer s c) w).toNat % 65536 = b) (hown : ownsBell s ((ownerOf s (blockOf c.toNat)).getD 0) b = true)
    (hgood : (bellAt s b).bad = false) (hdata : m.data ≠ .uncorrectable) :
    exec (.btest c m) s = .next (writeRd (bellMeets b m.data (fetched s c m)).2 (cellOfL s c) w
      (if reached (bellAt s b).count ((rbOf (issuer s c) w).setWidth 32) then 1#64 else 0#64)) := by
  obtain ⟨hmeets, _, _, hbell⟩ := bellMeets_good (cellOfL s c) (bellAt_fetched s c m b ▸ hgood) hdata
  change execBtest c m s = _
  simp only [execBtest, control_go h hm hl, ownerOf_fetched, raOf_fetched, rbOf_fetched, hb, ownsBell_fetched, hown, hmeets,
    hbell, bellAt_fetched, Bool.not_true, Bool.false_eq_true, if_false]

/-- A cell that goes on with x[RD] written, its state having changed nothing else but the Tally. -/
theorem issuer_writeRd {u : State} {v : Word} (hframe : OnlyCell (cellOfL s c) s u) :
    issuer (writeRd u (cellOfL s c) w v) c =
      { cellAt u (cellOfL s c) with x := xSet (cellAt u (cellOfL s c)).x (wf w 115 112) v }.next := by
  have hcell : cellOfL (writeRd u (cellOfL s c) w v) c = cellOfL s c := hframe.physOf c.toNat
  rw [issuer, hcell, writeRd, cellAt_updCell]

/-- A YIELD whose units are quiet retires, unless its frame ends a step with entries left in the lane (R48, R361). -/
theorem execYieldRetire_retires {ctx : Nat} {lane : Nat × Nat} (hrun : (issuer s c).seq.running = true)
    (hissued : (issuer s c).seq.yieldIssued = true) (hnot : (issuer s c).seq.yielded = false)
    (hmatrix : matrixQuiet (issuer s c).units = true) (hvector : (issuer s c).units.vector = [])
    (hmove : moveQuiet (issuer s c).units = true) (hsync : syncQuiet s c.toNat = true)
    (hctx : (ownerOf s (blockOf c.toNat)).getD 0 = ctx) (hlane : laneOf s ctx c.toNat = lane)
    (hempty : ¬ ((ctxAt s ctx).run.flags % 2 = 1 ∧ lane.1 ≠ 0 ∧ laneCount s lane.2 ≠ 0)) :
    exec (.yieldRetire c) s = .next (updCell s (cellOfL s c) (fun x =>
      { x with seq := { x.seq with running := false, yielded := true, yieldedAt := s.cycle } })) := by
  change execYieldRetire c s = _
  simp only [execYieldRetire, hrun, hissued, hnot, hmatrix, hvector, hmove, hsync, List.isEmpty_nil, Bool.not_false,
    Bool.and_self, if_true, hctx, hlane, if_neg hempty]

end

/-- Settles O32: the operations by what they come to once the word is fetched, which changes no memory and no bell, and the
retiring of YIELD by its condition. -/
theorem deferredLanes : Obligations.DeferredLanes := by
  unfold Obligations.DeferredLanes
  intro s c m w hm hl x ctx lane at_
  refine ⟨fun h hlanes hroom => execDqpush_pushes h hm hl rfl hlanes hroom,
    fun h hnone => execDqpop_goesOn h hm hl rfl rfl hnone, ?pop, ?test, ?retire⟩
  case pop =>
    intro h hflag hlanes hcount head r hgood hfits
    have hsome : ¬ ((ctxAt s ctx).run.flags / 2 % 2 = 0 ∨ lane.1 = 0 ∨ laneCount s lane.2 = 0) := by omega
    exact execDqpop_takes h hm hl rfl rfl hsome rfl hgood hfits
  case test =>
    intro h b hown hgood hdata v
    obtain ⟨_, hmeets, hcell, _⟩ := bellMeets_good (cellOfL s c) (bellAt_fetched s c m b ▸ hgood) hdata
    have hframe := (onlyCell_fetched s c m).trans hmeets
    refine ⟨_, execBtest_tests h hm hl rfl hown hgood hdata, hframe.trans (.updCell ..), ?_⟩
    rw [issuer_writeRd hframe, hcell]
    exact ⟨by rw [← fetched_x s c m]; rfl, congrArg (fun q => q.advance q.pc) (fetched_seq s c m), fetched_store s c m⟩
  case retire =>
    intro hrun hissued hnot hmatrix hvector hmove hsync hempty
    have hnone : ¬ ((ctxAt s ctx).run.flags % 2 = 1 ∧ lane.1 ≠ 0 ∧ laneCount s lane.2 ≠ 0) := by omega
    exact execYieldRetire_retires hrun hissued hnot hmatrix hvector hmove hsync rfl rfl hnone

end Sys2Proof.Machine

/-! Exchanges between gates (O41): a gate message at its place of the inbox is taken, which changes the links alone, and
answered by the rule of its row; the fault of a refusal, of a deadline or of another member reaches the contexts that it names. -/

namespace Sys2Proof.Machine

/-- A COLL message of operation op stands at place i of the inbox, with the header h, and without it the state is s₁. -/
structure CollComes (s : State) (i : BitVec 16) (op : Nat) (m : InMsg) (h : CollHead) (s₁ : State) : Prop where
  msg : gateMsg s i.toNat 1 op = some m
  head : CollHead.ofBytes m.bytes = h
  taken : freeMsg i.toNat m s = s₁

/-- The rule of the message's row runs on the state without it. -/
theorem CollComes.row {s s₁ : State} {i : BitVec 16} {op : Nat} {m : InMsg} {h : CollHead} (hcomes : CollComes s i op m h s₁)
    (go : CollHead → List Byte → State → State) : gateRow 1 op i go s = flushOut (go h m.bytes s₁) := by
  simp only [gateRow, hcomes.msg, hcomes.head, hcomes.taken]

/-! ### FETCH (R353, R437) -/

section
variable {h : CollHead} {lh : LineHit} {s : State} {c : Nat}

theorem serveFetch_unknown (hno : servingCtx s h.key = none) : serveFetch h lh s = refuse 1 6 h 0 1 s := by
  simp only [serveFetch, hno]

/-- A shard that another member owns is refused with STATUS 3. -/
theorem serveFetch_foreign {e : Tensor} (hctx : servingCtx s h.key = some c)
    (he : smTensor s (shardMapOf (ctxAt s c)) h.tensor = e)
    (hother : h.shard % (ctxGroup s c (shardMapOf (ctxAt s c)) e.group).members ≠
      (ctxGroup s c (shardMapOf (ctxAt s c)) e.group).self) :
    serveFetch h lh s = refuse 1 6 h c 3 s := by
  simp only [serveFetch, hctx, he, ne_eq, hother, not_false_eq_true, or_true, if_true]

/-- A shard that this device owns is read in the image of the committed buffer and sent. -/
theorem serveFetch_own {e : Tensor} {g : Group} {bs : List Byte} {t : State} (hctx : servingCtx s h.key = some c)
    (he : smTensor s (shardMapOf (ctxAt s c)) h.tensor = e) (hg : ctxGroup s c (shardMapOf (ctxAt s c)) e.group = g)
    (htensor : h.tensor < smTensors s (shardMapOf (ctxAt s c))) (hshard : h.shard < e.shards) (hmembers : g.members ≠ 0)
    (hown : h.shard % g.members = g.self)
    (hread : ctxRead c (e.image (ctxAt s c).alm.cb + e.slotOff (h.shard / g.members) e.gsize) (e.shardBytes e.gsize) lh s =
      (some bs, t)) :
    serveFetch h lh s = sendShard c { h with member := g.self } (ctxAt s c).alm.step bs t := by
  have hserved : ¬ (h.tensor ≥ smTensors s (shardMapOf (ctxAt s c)) ∨ h.shard ≥ e.shards ∨ g.members = 0 ∨
      h.shard % g.members ≠ g.self) := by omega
  simp only [serveFetch, hctx, he, hg, if_neg hserved, hread]

end

/-! ### The rows (R433 to R439) -/

section
variable {s s₁ : State} {i : BitVec 16} {m : InMsg} {h : CollHead} {o : GateOp} {c : Nat}

theorem execFetch_serves {lh : LineHit} {t : State} (hcomes : CollComes s i 1 m h s₁) (hserve : serveFetch h lh s₁ = t) :
    exec (.fetch i lh) s = .next (flushOut t) := by
  change execFetch i lh s = _
  rw [execFetch, hcomes.row, hserve]

theorem execShard_joins (hcomes : CollComes s i 2 m h s₁) (hop : opOf s₁ true h.key h.tag = some o)
    (htensor : h.tensor = o.tensor) :
    let e := smTensor s₁ (shardMapOf (ctxAt s₁ o.ctx)) o.tensor
    exec (.shard i) s = .next (flushOut (takeChunk o.id h.shard h (chunkData (e.shardBytes e.gsize) h m.bytes) s₁)) := by
  change execShard i s = _
  simp only [execShard, hcomes.row, hop, htensor, ne_eq, not_true_eq_false, if_false]

theorem execPull_unknown (hcomes : CollComes s i 3 m h s₁) (hno : servingCtx s₁ h.key = none) :
    exec (.pull i) s = .next (flushOut (refuse 1 6 h 0 1 s₁)) := by
  change execPull i s = _
  simp only [execPull, hcomes.row, hno]

theorem execPull_serves (hcomes : CollComes s i 3 m h s₁) (hctx : servingCtx s₁ h.key = some c)
    (hop : opOf s₁ false h.key h.tag = some o) : exec (.pull i) s = .next (flushOut (servePull o h s₁)) := by
  change execPull i s = _
  simp only [execPull, hcomes.row, hctx, hop]

/-- A request that comes before its operation has issued is held (R437). -/
theorem execPull_holds (hcomes : CollComes s i 3 m h s₁) (hctx : servingCtx s₁ h.key = some c)
    (hop : opOf s₁ false h.key h.tag = none) :
    exec (.pull i) s = .next (flushOut { s₁ with gate := { s₁.gate with
      held := s₁.gate.held ++ [(c, ⟨32, 1, 0, m.bytes, s₁.cycle⟩)] } }) := by
  change execPull i s = _
  simp only [execPull, hcomes.row, hctx, hop]

/-- The item of a collective that a chunk of a contribution is for. -/
def partItem (o : GateOp) (h : CollHead) : Nat := if o.fn = 0 then h.shard else if o.fn = 2 then h.member else o.first

theorem execPart_joins (hcomes : CollComes s i 4 m h s₁) (hop : opOf s₁ false h.key h.tag = some o) :
    exec (.partMsg i) s = .next (flushOut (takeChunk o.id (partItem o h) h (chunkData (itemBytes o) h m.bytes) s₁)) := by
  change execPart i s = _
  simp only [execPart, hcomes.row, hop, partItem]
  split
  next hfn => rw [if_pos hfn]
  next hfn => rw [hfn]; rfl
  next hzero htwo => rw [if_neg hzero, if_neg htwo]

/-- The contribution, as item and member, whose acknowledgement a DONE_ACK is. -/
def ackedServe (o : GateOp) (h : CollHead) : Nat × Nat :=
  if o.fn = 0 then (h.shard, h.member) else if o.fn = 2 then (h.member, h.member) else (o.first, o.first)

theorem execDoneAck_ends (hcomes : CollComes s i 5 m h s₁) (hop : opOf s₁ false h.key h.tag = some o) :
    exec (.doneAck i) s = .next (flushOut (updGateOp o.id (fun p =>
      { p with serves := p.serves.filter (fun v => v != ackedServe o h) }) s₁)) := by
  change execDoneAck i s = _
  simp only [execDoneAck, hcomes.row, hop, ackedServe]
  split
  next hfn => rw [if_pos hfn]
  next hfn => rw [hfn]; rfl
  next hzero htwo => rw [if_neg hzero, if_neg htwo]

/-- A fetch that is refused, and was not a second one, raises FLT_SHARD_OWNER (R353, R439). -/
theorem execCollRefuse_fetch {x : GateItem} (hcomes : CollComes s i 6 m h s₁) (hop : opOf s₁ true h.key h.tag = some o)
    (hfn : o.fn = 3) (hitem : o.item h.shard = some x) (hfirst : x.retried = []) :
    exec (.collRefuse i) s = .next (flushOut (raiseFault { code := 0x0309 } [o.ctx] s₁)) := by
  change execCollRefuse i s = _
  simp only [execCollRefuse, hcomes.row, hop, hitem, Option.isSome_some, if_true, hfn, true_or, hfirst, List.isEmpty_nil,
    Bool.not_true, Bool.false_eq_true, if_false]

/-- An operation that is not complete at its deadline raises FLT_COLL_TIMEOUT, no earlier than then (R440). -/
theorem execCollTimeout_raises {d : Nat} (ho : s.gate.ops[i.toNat]? = some o) (hdeadline : o.deadline = some d)
    (hopen : o.complete = false) :
    exec (.collTimeout i) s = .next (flushOut (raiseCollTimeout (regionOf o.cell) o.ctx d s)) := by
  change execCollTimeout i s = _
  simp only [execCollTimeout, ho, hdeadline, hopen, Bool.false_eq_true, if_false]

/-- The contexts that a JOB_FAULT is for: those of its C_KEY and epoch (R443). -/
def jobFaultHits (m : InMsg) (s : State) : List Nat :=
  (unparked s).filter (fun c => (ctxAt s c).cKey == fieldAt m.bytes 4 4 && !(ctxAt s c).cNodes.isEmpty &&
    (ctxAt s c).run.epoch == fieldAt m.bytes 0x10 2)

/-- The fault that a JOB_FAULT brings: the node, the code and the epoch of the message (R443, R493). -/
def jobFaultRec (m : InMsg) : FaultRec :=
  { code := 0x0310, unit := fieldAt m.bytes 0x12 2, arg := fieldAt m.bytes 2 2, d0 := fieldAt m.bytes 0x10 2 }

theorem execJobFault_takes (hmsg : ctlMsg s i.toNat 5 1 = some m) :
    let s₁ := freeMsg i.toNat m s
    let hit := jobFaultHits m s₁
    exec (.jobFault i) s = .next (if hit = [] then s₁ else flushOut (raiseRemote (jobFaultRec m) hit s₁)) := by
  intro s₁ hit
  change execJobFault i s = _
  simp only [execJobFault, hmsg]
  split
  next hnone => exact congrArg _ (if_pos hnone).symm
  next hsome => exact congrArg _ (if_neg hsome).symm

end

/-- Settles O41: each message by the rule of its row on the state without it, and the two faults by their own rows. -/
theorem gateExchanges : Obligations.GateExchanges := by
  unfold Obligations.GateExchanges
  refine ⟨fun s i m lh => ?message, fun s i o d ho hdeadline hopen => execCollTimeout_raises ho hdeadline hopen,
    fun s i m hmsg => ?jobFault⟩
  case message =>
    intro s₁ h comes gives
    have coll {op : Nat} (hmsg : comes op) : CollComes s i op m h s₁ := ⟨hmsg, rfl, rfl⟩
    have hcycle : s₁.cycle = s.cycle := by simp only [s₁]; rw [freeMsg_link]
    refine ⟨fun hmsg hno => execFetch_serves (coll hmsg) (serveFetch_unknown hno), ?fetch,
      fun o hmsg hop htensor => execShard_joins (coll hmsg) hop htensor, fun hmsg hno => execPull_unknown (coll hmsg) hno,
      fun c o hmsg hctx hop => execPull_serves (coll hmsg) hctx hop,
      fun c hmsg hctx hop => hcycle ▸ execPull_holds (coll hmsg) hctx hop, fun o hmsg hop => execPart_joins (coll hmsg) hop,
      fun o hmsg hop => execDoneAck_ends (coll hmsg) hop,
      fun o x hmsg hop hfn hitem hfirst => execCollRefuse_fetch (coll hmsg) hop hfn hitem hfirst⟩
    case fetch =>
      intro c bs t hmsg hctx map e g x htensor hshard hmembers
      exact ⟨fun hother => execFetch_serves (coll hmsg) (serveFetch_foreign hctx rfl hother), fun hown hread =>
        execFetch_serves (coll hmsg) (serveFetch_own hctx rfl rfl htensor hshard hmembers hown hread)⟩
  case jobFault =>
    intro s₁ hit
    have hrow := execJobFault_takes hmsg
    exact ⟨fun hnone => hrow.trans (congrArg _ (if_pos hnone)), fun hsome => hrow.trans (congrArg _ (if_neg hsome))⟩

end Sys2Proof.Machine

/-! The update of a step across its commit group (O40): a message of an update is taken at the member whose update it is for,
and acts by the rule of its type; the leader, whose update is open, tells the other members what VOTE, DONE and its deadline
bring about. -/

namespace Sys2Proof.Machine

/-! ### An update's record and its messages -/

section
variable (c : Nat) (f : Update → Update) (s : State)

@[simp] theorem ctxAt_updUpdate : ctxAt (updUpdate c f s) c = { ctxAt s c with upd := (ctxAt s c).upd.map f } :=
  ctxAt_updCtx s c _

theorem updUpdate_upd {u : Update} (hu : (ctxAt s c).upd = some u) : (ctxAt (updUpdate c f s) c).upd = some (f u) := by
  rw [ctxAt_updUpdate]; exact congrArg (Option.map f) hu

@[simp] theorem updUpdate_out : (updUpdate c f s).out = s.out := rfl

/-- Whether COMMIT is in time depends on the clock and the frame alone. -/
@[simp] theorem commitLate_updUpdate : commitLate (updUpdate c f s) c = commitLate s c := by
  simp only [commitLate, ctxAt_updUpdate]; rfl

end

/-- The messages of a type by which a member, in the update of step t, tells the other members of its commit group (R385). -/
def toOthers (ctx : Nat) (x : Ctx) (t type : Nat) (body : List Byte) : List OutMsg :=
  (otherMembers x).map (fun k => ⟨x.cNodes.getD k 0, 0, 4, ctx, updateBytes type 0 x.cKey x.cSelf 0 t body⟩)

/-- What the members are told does not depend on the update's record but for its step. -/
@[simp] theorem toOthers_updUpdate (c : Nat) (f : Update → Update) (s : State) (t type : Nat) (body : List Byte) :
    toOthers c (ctxAt (updUpdate c f s) c) t type body = toOthers c (ctxAt s c) t type body := by
  rw [ctxAt_updUpdate]; rfl

section
variable {s : State} {c : Nat} {u : Update}

theorem tellCommit_out (hu : (ctxAt s c).upd = some u) (type : Nat) (body : List Byte) :
    (tellCommit c (otherMembers (ctxAt s c)) type body s).out = s.out ++ toOthers c (ctxAt s c) u.t type body := by
  simp only [tellCommit, hu, toOthers]

theorem tellCommit_upd (hu : (ctxAt s c).upd = some u) (members : List Nat) (type : Nat) (body : List Byte) :
    (ctxAt (tellCommit c members type body s) c).upd = some u := by
  simp only [tellCommit, hu]; exact hu

section
variable (hu : (ctxAt s c).upd = some u) (hopen : u.settled = false)
include hu hopen

/-! ### ABORT (R386) -/

/-- The leader of an open update tells ABORT and gives the update up. -/
theorem sendAbort_open (cause : Nat) : sendAbort c cause s =
    updUpdate c (fun u => { u with settled := true, abort := some cause, mills := [] })
      (tellCommit c (otherMembers (ctxAt s c)) 7 (natLe 8 0 ++ natLe 8 cause) s) := by
  simp only [sendAbort, hu, hopen, Bool.false_eq_true, if_false]

theorem sendAbort_out (cause : Nat) :
    (sendAbort c cause s).out = s.out ++ toOthers c (ctxAt s c) u.t 7 (natLe 8 0 ++ natLe 8 cause) := by
  rw [sendAbort_open hu hopen, updUpdate_out, tellCommit_out hu]

theorem sendAbort_upd (cause : Nat) : (ctxAt (sendAbort c cause s) c).upd =
    some { u with settled := true, abort := some cause, mills := [] } := by
  rw [sendAbort_open hu hopen, updUpdate_upd _ _ _ (tellCommit_upd hu ..)]

end

/-! ### DONE (R384, R386) -/

/-- The DONE of a member is noted at the leader. -/
def noteDone (member : Nat) (ok : Bool) (u : Update) : Update :=
  { u with dones := u.dones.filter (fun v => v.1 != member) ++ [(member, ok)] }

/-- The DONE of every member of a group of n has come once the last member's is noted. -/
theorem all_done_noteDone {n member : Nat} (ok : Bool)
    (hdone : ∀ k, k < n → k = member ∨ ∃ b, (k, b) ∈ u.dones) :
    (List.range n).any (fun m => !(noteDone member ok u).dones.any (fun v => v.1 == m)) = false := by
  rw [List.any_eq_false]
  intro k hk
  have hnoted : ∃ b, (k, b) ∈ (noteDone member ok u).dones := by
    by_cases hlast : k = member
    · exact ⟨ok, List.mem_append_right _ (by simp [hlast])⟩
    · obtain ⟨b, hb⟩ := (hdone k (List.mem_range.mp hk)).resolve_left hlast
      exact ⟨b, List.mem_append_left _ (List.mem_filter.mpr ⟨hb, by simpa using hlast⟩)⟩
  obtain ⟨b, hb⟩ := hnoted
  rw [Bool.not_eq_true, Bool.not_eq_false', List.any_eq_true]
  exact ⟨_, hb, beq_self_eq_true k⟩

section
variable (hu : (ctxAt s c).upd = some u) (hopen : u.settled = false)
include hu hopen

/-- A DONE with OK 0 aborts with CAUSE 1. -/
theorem recordDone_failed (member : Nat) :
    recordDone c member false s = sendAbort c 1 (updUpdate c (noteDone member false) s) := by
  simp only [recordDone, ctxAt_updUpdate, hu, Option.map_some, hopen, Bool.false_eq_true, if_false, Bool.not_false, if_true]
  rfl

/-- The last DONE, in time, commits the leader and tells COMMIT. -/
theorem recordDone_commits {member : Nat}
    (hdone : ∀ k, k < (ctxAt s c).cNodes.length → k = member ∨ ∃ b, (k, b) ∈ u.dones) (htime : commitLate s c = false) :
    let t := updUpdate c (noteDone member true) s
    recordDone c member true s = updUpdate c (fun u => { u with commit := true, settled := true })
      (tellCommit c (otherMembers (ctxAt t c)) 6 [] t) := by
  have hall := all_done_noteDone true hdone
  simp only [noteDone] at hall
  simp only [recordDone, ctxAt_updUpdate, hu, Option.map_some, hopen, Bool.false_eq_true, if_false, Bool.not_true, hall,
    commitLate_updUpdate, htime]
  rfl

/-! ### VOTE (R384, R386) -/

/-- The VOTE of a member is noted at the leader. -/
def noteVote (member : Nat) (ok : Bool) (clip : Nat) (u : Update) : Update :=
  { u with votes := u.votes.filter (fun v => v.1 != member) ++ [(member, ok, clip)] }

/-- A VOTE with OK 0 aborts with CAUSE 1, where no decision has been made. -/
theorem recordVote_failed (member clip : Nat) (hundecided : u.decision = none) :
    recordVote c member false clip s = sendAbort c 1 (updUpdate c (noteVote member false clip) s) := by
  simp only [recordVote, ctxAt_updUpdate, hu, Option.map_some, hopen, hundecided, Option.isSome_none, Bool.or_self,
    Bool.false_eq_true, if_false, Bool.not_false, if_true]
  rfl

end

end

/-! ### The rows (R385) -/

/-- An update message of a type stands at place i of the inbox, for the update of context ctx; without it the state is s₁. -/
structure UpdateComes (s : State) (i : BitVec 16) (type : Nat) (m : InMsg) (ctx : Nat) (s₁ : State) : Prop where
  msg : ctlMsg s i.toNat 4 type = some m
  taken : freeMsg i.toNat m s = s₁
  goesTo : updateFor s₁ m.bytes (decide (type ≤ 2)) = some ctx

/-- The rule of the message's row runs at its context, on the state without it. -/
theorem UpdateComes.row {s s₁ : State} {i : BitVec 16} {type : Nat} {m : InMsg} {ctx : Nat}
    (hcomes : UpdateComes s i type m ctx s₁) (go : Nat → List Byte → State → State) :
    updateRow i type go s = flushOut (go ctx m.bytes s₁) := by
  simp only [updateRow, hcomes.msg, hcomes.taken, hcomes.goesTo]

section
variable {s s₁ : State} {i : BitVec 16} {m : InMsg} {ctx : Nat} {e : Nat × Group} {u : Update}

theorem execNorms_takes (hcomes : UpdateComes s i 1 m ctx s₁) (he : groupByKey s₁ ctx (fieldAt m.bytes 4 4) = some e) :
    let es := normEntries m.bytes (groupTensors s₁ ctx e.1) (fieldAt m.bytes 8 2)
    exec (.norms i) s = .next (flushOut (castVote ctx (sumGroup ctx e.1 (updUpdate ctx (fun u => { u with
      norms := u.norms.filter (fun n =>
        !es.any (fun x => x.key == n.key && x.member == n.member && x.tensor == n.tensor)) ++ es }) s₁)))) := by
  change execNorms i s = _
  simp only [execNorms, hcomes.row, he]

theorem execNormsSum_takes (hcomes : UpdateComes s i 2 m ctx s₁) (he : groupByKey s₁ ctx (fieldAt m.bytes 4 4) = some e)
    (hself : e.2.self ≠ 0) :
    exec (.normsSum i) s = .next (flushOut (castVote ctx
      ((normEntries m.bytes (groupTensors s₁ ctx e.1) 0).foldl (fun s n => takeSum ctx n s) s₁))) := by
  change execNormsSum i s = _
  simp only [execNormsSum, hcomes.row, he, if_neg hself]

theorem execVote_records (hcomes : UpdateComes s i 3 m ctx s₁) (hleader : (ctxAt s₁ ctx).cSelf = 0) :
    exec (.vote i) s = .next (flushOut
      (recordVote ctx (fieldAt m.bytes 8 2) (fieldAt m.bytes 0x20 1 == 1) (fieldAt m.bytes 0x18 8) s₁)) := by
  change execVote i s = _
  simp only [execVote, hcomes.row, if_pos hleader]

/-- DECISION 1 begins pass B at a member that has voted and knows of no decision and no ABORT. -/
theorem execVoteSum_begins (hcomes : UpdateComes s i 4 m ctx s₁) (hmember : (ctxAt s₁ ctx).cSelf ≠ 0)
    (hu : (ctxAt s₁ ctx).upd = some u) (hvoted : u.voted = true) (hundecided : u.decision = none) (hlive : u.abort = none)
    (hyes : fieldAt m.bytes 0x20 1 = 1) :
    exec (.voteSum i) s = .next (flushOut (startPassB ctx (fieldAt m.bytes 0x18 8) s₁)) := by
  change execVoteSum i s = _
  simp only [execVoteSum, hcomes.row, hu, hvoted, hundecided, hlive, hmember, hyes, takeDecision, Option.isNone_none,
    Bool.and_self, ne_eq, not_false_eq_true, and_self, beq_self_eq_true, if_true]

theorem execDone_records (hcomes : UpdateComes s i 5 m ctx s₁) (hleader : (ctxAt s₁ ctx).cSelf = 0) :
    exec (.doneMsg i) s = .next (flushOut (recordDone ctx (fieldAt m.bytes 8 2) (fieldAt m.bytes 0x20 1 == 1) s₁)) := by
  change execDone i s = _
  simp only [execDone, hcomes.row, if_pos hleader]

theorem execCommit_commits (hcomes : UpdateComes s i 6 m ctx s₁) (hmember : (ctxAt s₁ ctx).cSelf ≠ 0) :
    exec (.commitMsg i) s =
      .next (flushOut (updUpdate ctx (fun u => { u with commit := true, settled := true }) s₁)) := by
  change execCommit i s = _
  simp only [execCommit, hcomes.row, if_neg hmember]

/-- The update is given up for the CAUSE of an ABORT, unless one is known, and its parity refresh with it (R386, R449). -/
def takeAbort (ctx cause : Nat) (s : State) : State :=
  updCode ctx (fun d => { d with op := d.op.filter (fun o => o.job.isSome) })
    (updUpdate ctx (fun u => { u with abort := u.abort.or (some cause), settled := true, mills := [] }) s)

theorem takeAbort_upd (hu : (ctxAt s ctx).upd = some u) (hlive : u.abort = none) (cause : Nat) :
    (ctxAt (takeAbort ctx cause s) ctx).upd = some { u with abort := some cause, settled := true, mills := [] } := by
  simp only [takeAbort, updCode, ctxAt_updCtx, ctxAt_updUpdate, hu, Option.map_some, hlive, Option.none_or]

theorem execAbort_aborts (hcomes : UpdateComes s i 7 m ctx s₁) (hmember : (ctxAt s₁ ctx).cSelf ≠ 0) :
    exec (.abortMsg i) s = .next (flushOut (takeAbort ctx (fieldAt m.bytes 0x20 1) s₁)) := by
  change execAbort i s = _
  simp only [execAbort, hcomes.row, if_neg hmember, takeAbort]

end

/-- The leader's deadline, in the last beat of a step whose update is open, aborts with CAUSE 3 (R386). -/
theorem execUpdateDeadline_aborts {s : State} {ctx : BitVec 14} {u : Update} (hu : (ctxAt s ctx.toNat).upd = some u)
    (hpasses : u.fused = false) (hopen : u.settled = false) (hleader : (ctxAt s ctx.toNat).cSelf = 0)
    (hbegun : (ctxAt s ctx.toNat).alm.upd ≠ 0) (hahead : (ctxAt s ctx.toNat).alm.upd ≠ 4)
    (hframe : (ctxAt s ctx.toNat).run.inFrame = true) (hlast : (ctxAt s ctx.toNat).run.flags % 2 = 1) :
    exec (.updateDeadline ctx) s = .next (flushOut (sendAbort ctx.toNat 3
      { s with cycle := max s.cycle (guardPoint s - 3000 * beatNotice s) })) := by
  change execUpdateDeadline ctx s = _
  simp only [execUpdateDeadline, updateDeadline, hu, hpasses, hopen, hleader, hbegun, hahead, hframe, hlast, ne_eq,
    not_true_eq_false, beq_self_eq_true, Bool.and_self, Bool.true_eq_false, Bool.false_eq_true, or_self, if_false]

/-- Settles O40: each message by the rule of its row on the state without it, and what the leader tells by what it then notes. -/
theorem commitProtocol : Obligations.CommitProtocol := by
  unfold Obligations.CommitProtocol
  refine ⟨fun s i m ctx u => ?message, fun s c member clip u => ?leader, fun s ctx u => execUpdateDeadline_aborts⟩
  case message =>
    intro s₁ f x comes gives hu
    have arrives {type : Nat} (hcomes : comes type) : UpdateComes s i type m ctx s₁ := ⟨hcomes.1, rfl, hcomes.2⟩
    exact ⟨fun e hcomes he => execNorms_takes (arrives hcomes) he,
      fun e hcomes he hself => execNormsSum_takes (arrives hcomes) he hself,
      fun hcomes hleader => execVote_records (arrives hcomes) hleader,
      fun hcomes hmember hvoted hundecided hlive hyes =>
        execVoteSum_begins (arrives hcomes) hmember hu hvoted hundecided hlive hyes,
      fun hcomes hleader => execDone_records (arrives hcomes) hleader,
      fun hcomes hmember => execCommit_commits (arrives hcomes) hmember,
      fun hcomes hmember hlive => ⟨_, execAbort_aborts (arrives hcomes) hmember, takeAbort_upd hu hlive _⟩⟩
  case leader =>
    intro x hu hopen told
    refine ⟨?failed, fun hdone htime => ?commits, fun hundecided => ?refused⟩
    case failed =>
      have hnoted := updUpdate_upd c (noteDone member false) s hu
      rw [recordDone_failed hu hopen, sendAbort_out hnoted hopen, sendAbort_upd hnoted hopen, toOthers_updUpdate]
      exact ⟨rfl, rfl⟩
    case commits =>
      have hnoted := updUpdate_upd c (noteDone member true) s hu
      rw [recordDone_commits hu hopen hdone htime, updUpdate_out, tellCommit_out hnoted, toOthers_updUpdate,
        updUpdate_upd _ _ _ (tellCommit_upd hnoted ..)]
      exact ⟨rfl, rfl⟩
    case refused =>
      have hnoted := updUpdate_upd c (noteVote member false clip) s hu
      rw [recordVote_failed hu hopen member clip hundecided, sendAbort_out hnoted hopen, toOthers_updUpdate]
      rfl

end Sys2Proof.Machine

/-! Safe-Hold lasts (O60): every row but those of resets keeps it, by the Keeps lemma of the row, and the clock by its own; the
assertion of PERST_N leaves the reset state but for flash, the log and the rails. -/

namespace Sys2Proof.Machine

/-- A row that answers t keeps Safe-Hold where its outcome keeps what every operation keeps. -/
theorem Answers.keeps {s t : State} {r : Host.Outcome State Fault Refusal} (h : Answers s r) (hnext : r = .next t) :
    Keeps s t := by
  rw [hnext] at h
  exact h

/-- Settles O60: the rows by keeps_exec, the clock by keeps_tick, and PERST_N by what a reset leaves. -/
theorem safeHoldLasts : Obligations.SafeHoldLasts := by
  unfold Obligations.SafeHoldLasts
  refine ⟨fun s t i hhold hout hperst hprot hrel hnext => ?row, fun s hhold hout => ?clock, fun s => ?perst⟩
  case row => exact ((keeps_exec i s hperst hprot hrel (Keeps.refl s)).keeps hnext).hold hhold hout
  case clock => exact (keeps_tick s (Keeps.refl s)).hold hhold hout
  case perst => exact ⟨resetDevice s, rfl, rfl, rfl, rfl, rfl⟩

end Sys2Proof.Machine

/-! Steps of the machine (O1): the front of the queue runs on its rest, and an empty queue lets a cycle pass. -/

namespace Sys2Proof.Machine

/-- With no message handed to the links there is nothing to flush. -/
theorem flushOut_quiet {s : State} (h : s.out = []) : flushOut s = s := by
  rw [flushOut, h, List.foldl_nil, ← h]

/-- Settles O1: by the two cases of the queue, and for the clock by the links having nothing to send. -/
theorem stepRunsTheFront : Obligations.StepRunsTheFront := by
  unfold Obligations.StepRunsTheFront
  refine ⟨fun s i => rfl, fun s hempty => ?_, fun s hquiet => flushOut_quiet hquiet⟩
  rw [step, hempty]

end Sys2Proof.Machine

/-! How commands reach Ozmin (O25, O27): a command with its SEQ in order that draws no refusal and need not wait goes on to its
own rule, from a ring, a session or the queue of its class; the checks before that answer it or refuse it. -/

namespace Sys2Proof.Machine

section
variable {s : State} {c : Cmd} {bs : List Byte} {go : Cmd → State → State}

/-! ### Admission (R465, R467, R473) -/

/-- What TAG, header and class let through is decided by its own rule. -/
theorem admitCmd_goes (htag : tagCheck c s = none) (hhead : headerFault s c (pktField bs 6 2) bs = none)
    (hfree : mustWait c s.oz.queue s = false) : admitCmd c bs go s = go c s := by
  simp only [admitCmd, htag, hhead, hfree, Bool.false_eq_true, if_false]

/-- A header or payload that draws a refusal is refused with it. -/
theorem admitCmd_refuses {e : Nat × List Nat} (htag : tagCheck c s = none)
    (hhead : headerFault s c (pktField bs 6 2) bs = some e) : admitCmd c bs go s = refuseCmd c e.1 e.2 s := by
  simp only [admitCmd, htag, hhead]

/-- A copy of a command whose reply is kept answers that reply again; without RETRY its TAG is busy (R467). -/
theorem tagCheck_kept {r : Reply} (hkept : (keptReplies s c.origin).find? (fun x => x.tag == c.tag) = some r) :
    tagCheck c s = some (if c.flags / 2 % 2 = 1 then sendReply c.origin { r with dup := true, seq := c.seq } [] s
      else refuseCmd c stTagBusy [] s) := by
  simp only [tagCheck, hkept, beq_iff_eq]
  split <;> rfl

end

/-! ### The routes (R465, R468, R473) -/

section
variable {s : State} {bs : List Byte} {go : Cmd → State → State}

/-- The SEQ that is due at the head of a ring. -/
def seqDue (s : State) (c : Nat) (urgent : Bool) : Nat := if urgent then (ringSet s c).uqSeq else (ringSet s c).sqSeq

theorem takeRing_inOrder {c : Nat} {urgent : Bool} (hseq : (cmdOf (.ring c urgent) bs).seq = seqDue s c urgent) :
    let m := cmdOf (.ring c urgent) bs
    takeRing c urgent bs go s = admitCmd m bs go (popRing c urgent m.seq s) := by
  intro m
  exact if_neg (not_not_intro hseq)

theorem takeRing_outOfOrder {c : Nat} {urgent : Bool} (hseq : (cmdOf (.ring c urgent) bs).seq ≠ seqDue s c urgent) :
    let m := cmdOf (.ring c urgent) bs
    takeRing c urgent bs go s = refuseCmd m stSeq [] (popRing c urgent m.seq s) := by
  intro m
  exact if_pos hseq

/-- The command at the head of a normal ring is taken, and the reserved opcodes behind it are passed over. -/
theorem command_normal {c : BitVec 14} (hpkt : ringPacket s c.toNat false = some bs) :
    command (pktField bs 0 2) (.normal c) go s = flushOut (routeAfter (.normal c) (takeRing c.toNat false bs go s)) := by
  simp only [command, hpkt, if_true, routeAfter]

theorem command_urgent {c : BitVec 14} (hpkt : ringPacket s c.toNat true = some bs) :
    command (pktField bs 0 2) (.urgent c) go s = flushOut (routeAfter (.urgent c) (takeRing c.toNat true bs go s)) := by
  simp only [command, hpkt, if_true, routeAfter]

/-- A session's datagram that verifies, with a SEQ not seen, is noted and admitted. -/
theorem takeDatagram_admits {d : Datagram} (hon : mgmtOn s = true) (hok : datagramOk d = true)
    (hauth : datagramAuth s d = true) :
    let n := fieldAt d.bytes 0 4
    let m := cmdOf (.session n d.addr.toNat d.port.toNat) (datagramBody d true)
    seqFresh (sessionAt s n) m.seq = true →
    takeDatagram m.opcode d go s =
      admitCmd m (datagramBody d true) go (noteSeq n m.seq (regCount aMgmtRx 1 s)) := by
  intro n m hfresh
  refine if_pos ?_
  rw [hon, hok, hauth, hfresh]
  simp only [Bool.and_true, Bool.true_and]
  exact decide_eq_true rfl

/-- A command that has waited is decided where nothing before it holds it up, and everything of a higher class still waits. -/
theorem takeQueued_goes {i : Nat} {q : Queued} (hq : s.oz.queue[i]? = some q) :
    let m := cmdOf q.origin q.packet
    mustWait m (s.oz.queue.take i) s = false →
    (∀ k x, s.oz.queue[k]? = some x → (classOf (pktField x.packet 0 2)).rank < (classOf m.opcode).rank →
      mustWait (cmdOf x.origin x.packet) (s.oz.queue.take k) s = true) →
    takeQueued m.opcode i go s = go m { s with oz := { s.oz with queue := s.oz.queue.eraseIdx i } } := by
  intro m hfree habove
  simp only [takeQueued, hq]
  refine if_pos ⟨rfl, by rw [hfree]; rfl, List.any_eq_false.mpr fun k _ => ?_⟩
  split
  next x hx =>
    rw [Bool.and_eq_true, decide_eq_true_eq]
    rintro ⟨hrank, hready⟩
    rw [habove k x hx hrank] at hready
    exact Bool.false_ne_true hready
  next => exact Bool.false_ne_true

end

/-! ### Reaching Ozmin (R459) -/

section
variable {s : State} {bs : List Byte}

theorem reaches_normal {c : BitVec 14} (hpkt : ringPacket s c.toNat false = some bs) :
    let m := cmdOf (.ring c.toNat false) bs
    let s₁ := popRing c.toNat false m.seq s
    m.seq = (ringSet s c.toNat).sqSeq → tagCheck m s₁ = none → headerFault s₁ m (pktField bs 6 2) bs = none →
    mustWait m s₁.oz.queue s₁ = false → Reaches m.opcode (.normal c) s s₁ m := by
  intro m s₁ hseq htag hhead hfree go
  rw [← admitCmd_goes htag hhead hfree (go := go), ← takeRing_inOrder hseq]
  exact command_normal hpkt

theorem reaches_urgent {c : BitVec 14} (hpkt : ringPacket s c.toNat true = some bs) :
    let m := cmdOf (.ring c.toNat true) bs
    let s₁ := popRing c.toNat true m.seq s
    m.seq = (ringSet s c.toNat).uqSeq → tagCheck m s₁ = none → headerFault s₁ m (pktField bs 6 2) bs = none →
    mustWait m s₁.oz.queue s₁ = false → Reaches m.opcode (.urgent c) s s₁ m := by
  intro m s₁ hseq htag hhead hfree go
  rw [← admitCmd_goes htag hhead hfree (go := go), ← takeRing_inOrder hseq]
  exact command_urgent hpkt

theorem reaches_session {d : Datagram} (hon : mgmtOn s = true) (hok : datagramOk d = true) (hauth : datagramAuth s d = true) :
    let n := fieldAt d.bytes 0 4
    let bs := datagramBody d true
    let m := cmdOf (.session n d.addr.toNat d.port.toNat) bs
    let s₁ := noteSeq n m.seq (regCount aMgmtRx 1 s)
    seqFresh (sessionAt s n) m.seq = true → tagCheck m s₁ = none → headerFault s₁ m (pktField bs 6 2) bs = none →
    mustWait m s₁.oz.queue s₁ = false → Reaches m.opcode (.session d) s s₁ m := by
  intro n bs m s₁ hfresh htag hhead hfree go
  exact congrArg flushOut ((takeDatagram_admits hon hok hauth hfresh).trans (admitCmd_goes htag hhead hfree))

theorem reaches_queued {i : BitVec 16} {q : Queued} (hrun : s.oz.running = true) (hq : s.oz.queue[i.toNat]? = some q) :
    let m := cmdOf q.origin q.packet
    mustWait m (s.oz.queue.take i.toNat) s = false →
    (∀ k x, s.oz.queue[k]? = some x → (classOf (pktField x.packet 0 2)).rank < (classOf m.opcode).rank →
      mustWait (cmdOf x.origin x.packet) (s.oz.queue.take k) s = true) →
    Reaches m.opcode (.queued i) s { s with oz := { s.oz with queue := s.oz.queue.eraseIdx i.toNat } } m := by
  intro m hfree habove go
  exact congrArg flushOut ((if_pos hrun).trans (takeQueued_goes hq hfree habove))

end

/-- Settles O25: by the route. -/
theorem routesDeliver : Obligations.RoutesDeliver := by
  unfold Obligations.RoutesDeliver
  refine ⟨?normal, ?urgent, ?session, ?queued⟩
  case normal =>
    rintro s _ x bs hpkt rfl c s₁ hseq htag hhead hfree
    exact reaches_normal hpkt hseq htag hhead hfree
  case urgent =>
    rintro s _ x bs hpkt rfl c s₁ hseq htag hhead hfree
    exact reaches_urgent hpkt hseq htag hhead hfree
  case session =>
    rintro s _ d hon hok hauth n bs c s₁ rfl hfresh htag hhead hfree
    exact reaches_session hon hok hauth hfresh htag hhead hfree
  case queued =>
    rintro s _ i q hrun hq c rfl hfree habove
    exact reaches_queued hrun hq hfree habove

/-! ### Replies kept for RETRY (R467) -/

section
variable (l : List Reply) (r : Reply)

/-- The last reply kept is the newest one. -/
theorem getLast?_keepIn : (keepIn l r).getLast? = some r := by
  simp only [keepIn, List.getLast?_drop, List.length_append, List.length_singleton]
  rw [if_neg (by omega), List.getLast?_concat]

theorem length_keepIn : (keepIn l r).length ≤ 1024 := by
  simp only [keepIn, List.length_drop]
  omega

theorem mem_keepIn {x : Reply} (h : x ∈ keepIn l r) : x = r ∨ (x ∈ l ∧ x.tag ≠ r.tag) := by
  have hmem := List.mem_of_mem_drop h
  simp only [List.mem_append, List.mem_filter, bne_iff_ne, List.mem_singleton] at hmem
  exact hmem.symm

end

/-- Settles O27: the head of a ring by its SEQ, header and class, a datagram by its route, and a copy by the reply kept for it. -/
theorem commandsAreAdmitted : Obligations.CommandsAreAdmitted := by
  unfold Obligations.CommandsAreAdmitted
  refine ⟨fun s c bs hpkt => ?ring, ?session, fun l r => ⟨getLast?_keepIn l r, length_keepIn l r, fun x => mem_keepIn l r⟩,
    fun s c r hkept => ⟨fun hretry => ?copy, fun hfirst => ?busy⟩⟩
  case ring =>
    intro m s₁
    refine ⟨fun hseq go => ?_, fun hseq htag => ⟨fun e hhead go => ?_, reaches_normal hpkt hseq htag⟩⟩
    · rw [← takeRing_outOfOrder hseq (go := go)]
      exact command_normal hpkt
    · rw [← admitCmd_refuses htag hhead (go := go), ← takeRing_inOrder hseq]
      exact command_normal hpkt
  case session =>
    intro s d bs n m s₁ hon hok hauth hfresh
    exact reaches_session hon hok hauth hfresh
  case copy => rw [tagCheck_kept hkept, if_pos hretry]
  case busy => rw [tagCheck_kept hkept, if_neg (by omega)]

end Sys2Proof.Machine

/-! Doorbells and replies of a ring set (O26): each doorbell is admitted by the room of its ring, and the oldest reply held goes
into the completion ring. -/

namespace Sys2Proof.Machine

section
variable {s : State} {c : Nat} (hset : (ringSet s c).slots ≠ 0)

include hset in
/-- A tail no further past the head than the ring's size is published (R462). -/
theorem publishTail_normal {v : Nat} (hroom : (v + 2 ^ 32 - (ringSet s c).sqHead) % 2 ^ 32 ≤ (ringSet s c).slots) :
    publishTail c false v s =
      refuseReserved c false (ringSet s c).slots (updRingSet c (fun r => { r with sqTail := v }) s) :=
  if_neg (not_or_intro hset (Nat.not_lt.mpr hroom))

include hset in
theorem publishTail_urgent {v : Nat} (hroom : (v + 2 ^ 32 - (ringSet s c).uqHead) % 2 ^ 32 ≤ 16) :
    publishTail c true v s = refuseReserved c true 16 (updRingSet c (fun r => { r with uqTail := v }) s) :=
  if_neg (not_or_intro hset (Nat.not_lt.mpr hroom))

include hset in
/-- A completion head no further than the replies written is published (R463). -/
theorem publishHead_admits {v : Nat} (hwritten : (v + 2 ^ 32 - (ringSet s c).cqHead) % 2 ^ 32 ≤
      ((ringSet s c).cqTail + 2 ^ 32 - (ringSet s c).cqHead) % 2 ^ 32) :
    publishHead c v s = refuseReserved c false (ringSet s c).slots
      (refuseReserved c true 16 (updRingSet c (fun r => { r with cqHead := v }) s)) :=
  if_neg (not_or_intro hset (Nat.not_lt.mpr hwritten))

/-- The oldest reply held goes into the slot at the completion tail, which moves on by one (R463). -/
theorem postReply_writes {p : Reply} {rest : List Reply} (hrun : s.oz.running = true) (hopen : s.flt.safeHold = false)
    (hheld : (ringSet s c).held = p :: rest)
    (hroom : ((ringSet s c).cqTail + 2 ^ 32 - (ringSet s c).cqHead) % 2 ^ 32 < (ringSet s c).slots + 16) :
    postReply c s = updRingSet c (fun r => { r with held := rest, cqTail := (r.cqTail + 1) % 2 ^ 32 })
      (poke s ((ringSet s c).cqBase + 64 * ((ringSet s c).cqTail % ((ringSet s c).slots + 16))) p.bytes) := by
  simp only [postReply, hheld, hrun, hopen, Bool.true_eq_false, Bool.false_eq_true, ge_iff_le, Nat.not_le.mpr hroom, or_self,
    if_false]

end

/-- Settles O26: each doorbell by the room of its ring, and REPLY_POST by that of the completion ring. -/
theorem ringDoorbells : Obligations.RingDoorbells := by
  unfold Obligations.RingDoorbells
  intro s c hset r
  exact ⟨fun v hroom => congrArg Host.Outcome.next (publishTail_normal hset hroom),
    fun v hroom => congrArg Host.Outcome.next (publishTail_urgent hset hroom),
    fun v hwritten => congrArg Host.Outcome.next (publishHead_admits hset hwritten),
    fun p rest hrun hopen hheld hroom => congrArg Host.Outcome.next (postReply_writes hrun hopen hheld hroom)⟩

end Sys2Proof.Machine

/-! The management port (O31): what it answers where it takes packets, a transfer that has stood still, and the speed of its
lane. -/

namespace Sys2Proof.Machine

/-- Where the port takes packets, each is answered or counted by its kind (R488). -/
theorem execMgmtDatagram_on {s : State} (hon : mgmtOn s = true) :
    (∀ a, exec (.mgmtDatagram (.solicit a)) s = .next { s with oz := { s.oz with
      sent := s.oz.sent ++ [⟨a.toNat, 0, true, natLe 6 (regGet s aMgmtMac).toNat⟩] } }) ∧
    (∀ a bs, exec (.mgmtDatagram (.echo a bs)) s = .next { s with oz := { s.oz with
      sent := s.oz.sent ++ [⟨a.toNat, 0, true, bs⟩] } }) ∧
    exec (.mgmtDatagram .fragment) s = .next (regCount aMgmtDrops 1 s) := by
  have hopen : ¬ mgmtOn s = false := by simp [hon]
  exact ⟨fun a => congrArg _ (if_neg hopen), fun a bs => congrArg _ (if_neg hopen), congrArg _ (if_neg hopen)⟩

section
variable {s : State} {n tag : BitVec 32} {x : Xfer} (hx : xferOf s n.toNat tag.toNat = some x)
include hx

/-- After a second without progress a transfer is sent again from the byte acknowledged (R475). -/
theorem execXferResend_resends :
    let r := pushXfer 256 { x with sent := x.acked } { s with cycle := max s.cycle (x.at_ + 3000000000) }
    exec (.xferResend n tag) s = .next (putXfer r.1 r.2) := by
  intro r
  change execXferResend n tag s = _
  simp only [execXferResend, hx]
  rfl

/-- After ten seconds it ends. -/
theorem execXferTimeout_ends :
    exec (.xferTimeout n tag) s = .next (endXfer x stXferTimeout { s with cycle := max s.cycle (x.at_ + 30000000000) }) := by
  change execXferTimeout n tag s = _
  simp only [execXferTimeout, hx]
  rfl

end

/-- Straps that allow every speed let the lane come up (R601, R603). -/
theorem execMgmtLinkUp_free {s : State} {v : BitVec 2} (hspeed : v.toNat < 3) (hstraps : s.pins.straps % 4 = 0) :
    exec (.mgmtLinkUp v) s = .next { s with pins := { s.pins with mgmtSpeed := v.toNat } } :=
  congrArg Host.Outcome.next (if_neg (by omega))

/-- Settles O31: packets by their kind, transfers by the time that they stood still, and the lane by its straps. -/
theorem managementPort : Obligations.ManagementPort := by
  unfold Obligations.ManagementPort
  exact ⟨fun s hon => execMgmtDatagram_on hon,
    fun s n tag x hx => ⟨execXferResend_resends hx, execXferTimeout_ends hx⟩,
    fun s v hspeed hstraps => execMgmtLinkUp_free hspeed hstraps⟩

end Sys2Proof.Machine

/-! Power and urgent commands (O49): what none of its checks refuses is accepted for the boundary or the guard point. -/

namespace Sys2Proof.Machine

section
variable {c : Cmd} {s : State}

theorem pwrCap_accepts (hcap : c.field 0 4 = 0 ∨ (1500 ≤ c.field 0 4 ∧ c.field 0 4 ≤ 3600)) :
    pwrCap c s = acceptCmd c (s.beat.gnum + 1) 0 [if c.field 0 4 = 0 then 3600 else c.field 0 4] s :=
  if_neg (by omega)

theorem pwrShare_accepts (hst : (ctxAt s c.ctx).st ≠ .free) :
    pwrShare c s = acceptCmd c (s.beat.gnum + 1) 0 [c.field 0 4] s := if_neg hst

/-! ### STOP (R484) -/

theorem stop_unparked (hone : c.field 0 1 ≠ 1) (hst : (ctxAt s c.ctx).st = .unparked) :
    stop c s = acceptCmd c 0 (guardPhase s) [] s := by
  simp only [stop, if_neg hone, hst]

/-- A context that is parked or stored stops at once. -/
theorem stop_resting (hone : c.field 0 1 ≠ 1) (hst : (ctxAt s c.ctx).st = .parked ∨ (ctxAt s c.ctx).st = .stored) :
    stop c s = completeCmd c stOk s.beat.gnum [] [] (stopParked c.ctx s) := by
  rcases hst with hst | hst <;> simp only [stop, if_neg hone, hst]

theorem stop_all (hall : c.field 0 1 = 1) (hnone : parkedOrStored s = []) : stop c s = acceptCmd c 0 (guardPhase s) [] s := by
  simp only [stop, if_pos hall, hnone, List.foldl_nil]

end

/-- Settles O49: each command reaches Ozmin and is decided by its own rule. -/
theorem powerAndUrgentCommands : Obligations.PowerAndUrgentCommands := by
  unfold Obligations.PowerAndUrgentCommands
  intro r s s₁ c v phase
  refine ⟨fun hreach hcap => hreach.gives rfl (pwrCap_accepts hcap), fun hreach hst => hreach.gives rfl (pwrShare_accepts hst),
    fun hreach => ⟨fun hone hst => hreach.gives rfl (stop_unparked hone hst),
      fun hone hst => hreach.gives rfl (stop_resting hone hst), fun hall hnone => hreach.gives rfl (stop_all hall hnone)⟩,
    fun hreach => hreach.gives (go := fenceCell) rfl rfl, fun hreach => hreach.gives (go := quarantine) rfl rfl⟩

end Sys2Proof.Machine

/-! Firmware, quotes and the owner record (O50): what no check refuses is accepted or completes; an erased sector leaves every
other byte of the flash; and a written owner record closes every session. -/

namespace Sys2Proof.Machine

section
variable {h : LineHit} {c : Cmd} {s t : State}

/-! ### FW_WRITE and FW_ACTIVATE (R550, R551) -/

theorem fwWrite_inline (hfits : c.field 0 4 + c.field 4 4 ≤ 0x1000000) (hshadow : bootActive s ≠ shadowSlot s)
    (hsrc : c.field 8 8 = 0) (hport : c.fromRing = false) :
    fwWrite h c s = acceptCmd { c with payload := c.payload.take (16 + c.field 4 4) } 0 0 [] s := by
  simp only [fwWrite, hsrc, hport, Bool.false_eq_true, and_false, if_false, if_neg (Nat.not_lt.mpr hfits), if_neg hshadow,
    gt_iff_lt, if_true]

theorem fwWrite_source (hfits : c.field 0 4 + c.field 4 4 ≤ 0x1000000) (hshadow : bootActive s ≠ shadowSlot s)
    (hsrc : c.field 8 8 ≠ 0) (hread : readRegions h [(c.field 8 8, c.field 4 4)] 0 s = (none, t)) :
    fwWrite h c s =
      acceptCmd { c with payload := c.payload.take 16 ++ peek t (c.field 8 8) (c.field 4 4) } 0 0 [] t := by
  simp only [fwWrite, hsrc, false_and, if_false, if_neg (Nat.not_lt.mpr hfits), if_neg hshadow, gt_iff_lt,
    readingCmd_good hread]

/-- The image in the shadow slot becomes the active one, on trial, and its sectors are no longer erased ones. -/
def imageActivated (s : State) : State :=
  let t := rewriteBoot (shadowSlot s) true (bootFloor s) s
  { t with boot := { t.boot with erased := [] } }

theorem fwActivate_activates (hlen : flashNat s (slotOff (shadowSlot s) + 0x10) 4 + 192 = c.field 0 4)
    (hgood : ozminImageOk s (shadowSlot s) = true) (hfloor : bootFloor s ≤ imageVersion s (slotOff (shadowSlot s)))
    (htried : bootTrial s = false ∨ bootActive s ≠ s.boot.slot) (hstay : c.field 4 4 ≠ 1) :
    fwActivate c s = completeCmd c stOk (imageActivated s).beat.gnum
      [imageVersion (imageActivated s) (slotOff (shadowSlot s))] [] (imageActivated s) := by
  have hkeep : (c.field 4 4 == 1) = false := beq_eq_false_iff_ne.mpr hstay
  have hfree : ¬ (bootTrial s = true ∧ bootActive s = s.boot.slot) := by
    rintro ⟨htrial, hactive⟩
    exact htried.elim (fun hno => by simp [hno] at htrial) (fun hne => hne hactive)
  simp only [fwActivate, hlen, hgood, hkeep, hfree, if_neg (Nat.not_lt.mpr hfloor), ne_eq, not_true_eq_false,
    Bool.true_eq_false, Bool.false_eq_true, false_and, or_self, if_false]
  rfl

/-! ### ATTEST_QUOTE and TICKET_FLOOR (R540, R554) -/

theorem attestQuote_answers (hid : s.boot.idOk = true) (hout : deniedOut c (c.field 0x20 8) = false) :
    attestQuote c s = answerOut c (c.field 0x20 8) [(quoteBytes s (c.payload.take 32)).length]
      (quoteBytes s (c.payload.take 32)) s := by
  simp only [attestQuote, hid, hout, Bool.true_eq_false, Bool.false_eq_true, or_self, if_false]

section
variable {k b : List Byte} (hsecret : s.boot.secret = some k) (hrecord : ownerRecord s = some b)
include hsecret hrecord

theorem ticketFloor_keeps (hlow : c.field 8 8 ≤ fieldAt b (0x160 + 8 * c.field 0 1) 8) :
    ticketFloor c s = completeCmd c stOk s.beat.gnum [] [] s := by
  simp only [ticketFloor, hsecret, hrecord, if_neg (Nat.not_lt.mpr hlow)]

theorem ticketFloor_raises (hhigh : fieldAt b (0x160 + 8 * c.field 0 1) 8 < c.field 8 8) :
    let t := programOwner k (putBytes b (0x160 + 8 * c.field 0 1) (natLe 8 (c.field 8 8))) s
    ticketFloor c s =
      completeCmd c stOk t.beat.gnum [] [] { t with boot := { t.boot with ownerChanged := true } } := by
  simp only [ticketFloor, hsecret, hrecord, if_pos hhigh]

end

end

/-! ### Programming and trial (R550, R553) -/

theorem execImageProgrammingDone_programs {s : State} {j : Job}
    (hjob : s.jobs.find? (fun j => j.opcode == 0x0A04) = some j) :
    let data := j.payload.drop 16
    let base := slotOff (shadowSlot s)
    let fresh := (sectorsOf (j.field 0 4) data.length).filter (fun k => !s.boot.erased.contains k)
    let t := fresh.foldl (fun s k => flashErase (base + 0x10000 * k) 0x10000 s) s
    exec .imageProgrammingDone s = .next (endJob j stOk s.beat.gnum [data.length] (flashPut (base + j.field 0 4) data
      { t with boot := { t.boot with erased := t.boot.erased ++ fresh } })) := by
  intro data base fresh t
  have hgnum : t.beat.gnum = s.beat.gnum :=
    fresh.foldlRecOn _ (motive := fun (t : State) => t.beat.gnum = s.beat.gnum) rfl fun _ ht _ _ => ht
  change execImageProgrammingDone s = _
  simp only [execImageProgrammingDone, hjob]
  rw [← hgnum]

/-- A trial that runs from the active image is confirmed. -/
theorem execTrialConfirm_confirms {s : State} (hrun : s.oz.running = true) (htrial : bootTrial s = true)
    (hactive : bootActive s = s.boot.slot) :
    exec .trialConfirm s = .next (rewriteBoot (bootActive s) false
      (max (bootFloor s) (flashNat s (slotOff s.boot.slot + 0x0C) 4))
      { s with cycle := max s.cycle (s.oz.since + 180000000000) }) := by
  change execTrialConfirm s = _
  simp only [execTrialConfirm, hrun, htrial, hactive, Bool.true_eq_false, ne_eq, not_true_eq_false, or_self, if_false]
  rfl

/-! ### Sessions close (R472, R540) -/

/-- Nothing but Ozmin's own state, the commands in progress and registers differs. -/
def OnlyOzmin (s t : State) : Prop := t = { s with regs := t.regs, jobs := t.jobs, oz := t.oz }

theorem OnlyOzmin.trans {s t u : State} (h : OnlyOzmin s t) (g : OnlyOzmin t u) : OnlyOzmin s u := by
  unfold OnlyOzmin at *
  rw [g, h]

section
variable (s : State)

theorem onlyOzmin_closeSession (n : Nat) : OnlyOzmin s (closeSession n s) := rfl

theorem onlyOzmin_closeSessions : OnlyOzmin s (closeSessions s) :=
  (openSessions s).foldlRecOn _ (motive := OnlyOzmin s) rfl fun t ht n _ => ht.trans (onlyOzmin_closeSession t n)

theorem sessionAt_closeSession (n k : Nat) :
    sessionAt (closeSession n s) k = if k = n then {} else sessionAt s k := by
  change sGet {} (sSet {} s.oz.sessions n {}) k = _
  split
  next hkn => rw [hkn, sGet_set_same]
  next hkn => exact sGet_set_other _ _ _ hkn

/-- A session is closed once it has been closed, whichever close after it. -/
theorem isOpen_foldl_closeSession (ns : List Nat) (k : Nat) :
    (sessionAt (ns.foldl (fun s n => closeSession n s) s) k).isOpen = true → k ∉ ns ∧ (sessionAt s k).isOpen = true := by
  induction ns generalizing s with
  | nil => exact fun hopen => ⟨List.not_mem_nil, hopen⟩
  | cons n ns ih =>
    intro hopen
    obtain ⟨hrest, hafter⟩ := ih (closeSession n s) hopen
    rw [sessionAt_closeSession] at hafter
    split at hafter
    next => exact absurd hafter Bool.false_ne_true
    next hkn => exact ⟨fun hmem => (List.mem_cons.mp hmem).elim hkn hrest, hafter⟩

theorem mem_of_sFind {α : Type} {m : Sparse α} {k : Nat} {v : α} (h : sFind m k = some v) : (k, v) ∈ m := by
  induction m with
  | nil => cases h
  | cons e m ih =>
    rw [sFind] at h
    split at h
    next hk => cases h; exact hk ▸ List.mem_cons_self
    next => exact List.mem_cons_of_mem _ (ih h)

theorem mem_openSessions {k : Nat} (hopen : (sessionAt s k).isOpen = true) : k ∈ openSessions s := by
  cases hfind : sFind s.oz.sessions k with
  | none => rw [sessionAt, sGet, hfind] at hopen; cases hopen
  | some x =>
    rw [sessionAt, sGet, hfind] at hopen
    exact List.mem_map.mpr ⟨(k, x), List.mem_filter.mpr ⟨mem_of_sFind hfind, hopen⟩, rfl⟩

theorem isOpen_closeSessions (k : Nat) : (sessionAt (closeSessions s) k).isOpen = false := by
  rw [Bool.eq_false_iff]
  intro hopen
  obtain ⟨hclosed, hbefore⟩ := isOpen_foldl_closeSession s (openSessions s) k hopen
  exact hclosed (mem_openSessions s hbefore)

end

/-! ### The owner record (R540, R556) -/

theorem flash_flashErase (s : State) {off n o : Nat} (hin : off ≤ o) (hout : n ≤ o - off) :
    sGet 0xFF#8 (flashErase off n s).boot.flash o = sGet 0xFF#8 s.boot.flash o := by
  rw [flashErase, sGet_clear, if_pos (by omega)]

/-- Sessions close once the record has been written, or both copies erased, which changes the boot state alone. -/
theorem execOwnerRecordWritten_closes {s : State} {w : OwnerWrite} (hw : s.boot.writing = some w) :
    ∃ t, exec .ownerRecordWritten s = .next (closeSessions t) ∧ t = { s with boot := t.boot } ∧ t.boot.writing = none ∧
      t.boot.ownerChanged = true ∧ (w = .release → t.boot.flash = (flashErase (ownerOff 0) 0x20000 s).boot.flash) := by
  change ∃ t, execOwnerRecordWritten s = _ ∧ _
  simp only [execOwnerRecordWritten, hw]
  cases w with
  | release => exact ⟨_, rfl, rfl, rfl, rfl, fun _ => rfl⟩
  | commit items => exact ⟨_, rfl, rfl, rfl, rfl, fun h => nomatch h⟩

/-- Settles O50: each command reaches Ozmin and is decided by its own rule, and each event by its row. -/
theorem firmwareCommands : Obligations.FirmwareCommands := by
  unfold Obligations.FirmwareCommands
  refine ⟨fun r h s s₁ c => ?commands, fun s j hjob => execImageProgrammingDone_programs hjob,
    fun s hrun htrial hactive => execTrialConfirm_confirms hrun htrial hactive, fun s w hw => ?owner⟩
  case commands =>
    intro len base
    exact ⟨fun hreach hfits hshadow =>
        ⟨fun hsrc hport => hreach.gives rfl (fwWrite_inline hfits hshadow hsrc hport),
          fun t hsrc hread => hreach.gives rfl (fwWrite_source hfits hshadow hsrc hread)⟩,
      fun hreach hlen hgood hfloor htried hstay =>
        hreach.gives rfl (fwActivate_activates hlen hgood hfloor htried hstay),
      fun hreach hid hout => hreach.gives rfl (attestQuote_answers hid hout),
      fun k b hreach hsecret hrecord => ⟨fun hlow => hreach.gives rfl (ticketFloor_keeps hsecret hrecord hlow),
        fun hhigh => hreach.gives rfl (ticketFloor_raises hsecret hrecord hhigh)⟩⟩
  case owner =>
    obtain ⟨t, hexec, honly, hwriting, hchanged, hflash⟩ := execOwnerRecordWritten_closes hw
    have hclose : closeSessions t = _ := onlyOzmin_closeSessions t
    refine ⟨_, hexec, ?_, ?_, fun n => isOpen_closeSessions t n, ?_, ?_, fun hrelease o hout hin => ?_⟩
    · rw [hclose]; exact hwriting
    · rw [hclose]; exact hchanged
    · rw [hclose, honly]
    · rw [hclose, honly]
    · rw [hclose, ← flash_flashErase s hin hout, ← hflash hrelease]

end Sys2Proof.Machine

/-! The debug ports (O56): who owns the debug interface and how far boot has come decide whether a register is reached; the TAP
loads its instructions and the I3C target answers its commands. -/

namespace Sys2Proof.Machine

section
variable {s : State} {a : Nat}

/-! ### Access by the owner (R555, R608) -/

/-- The owner reaches registers out of reset once boot has reached stage 3. -/
theorem debugOpen_owner {port : Nat} (howner : s.pins.owner = port) (hout : s.pins.inReset = false) (hstage : 3 ≤ s.boot.stage)
    (a : Nat) (write : Bool) : debugOpen s port a write = true := by
  simp [debugOpen, howner, hout, hstage]

/-- A port that is not the owner gets nothing. -/
theorem debugOpen_other {port : Nat} (hother : s.pins.owner ≠ port) (a : Nat) (write : Bool) :
    debugOpen s port a write = false := by
  simp [debugOpen, hother]

theorem debugRead_register (hreg : isRegAddr a = true) : debugRead a s = readReg s a := if_pos hreg

theorem debugWrite_admitted (h : debugAdmitted s a = true) (v : Nat) :
    debugWrite a v s = flushOut (writeReg a .whole v s) := if_pos h

theorem debugWrite_refused (h : debugAdmitted s a = false) (v : Nat) : debugWrite a v s = s := by
  rw [debugWrite, h]
  rfl

/-! ### The TAP (R586, R587, R606) -/

theorem execExtest_outOfReset (hout : s.pins.inReset = false) : exec .extest s = .next (loadBypass s) := by
  change execExtest s = _
  rw [execExtest, hout]
  rfl

theorem execExtest_inReset (hin : s.pins.inReset = true) :
    exec .extest s = .next (loadTap 0x00 (scanCells s).1 (scanCells s).2) :=
  congrArg Host.Outcome.next (if_pos hin)

theorem execJtagClaim_held (howner : s.pins.owner = 2) : exec .jtagClaim s = .next (loadBypass s) :=
  congrArg Host.Outcome.next (if_pos howner)

theorem execJtagClaim_claims (howner : s.pins.owner ≠ 2) :
    exec .jtagClaim s = .next (loadTap 0x20 (natLe 1 ((takeFree s).1 % 2))
      (updPins (fun p => { p with owner := 1 }) (takeFree s).2)) :=
  congrArg Host.Outcome.next (if_neg howner)

theorem execMusterTap_closed {payload : Word} {r : MusterResult} (hclosed : tapMusterOpen s = false) :
    exec (.musterTap payload r) s = .next (loadBypass s) := by
  change execMusterTap payload r s = _
  rw [execMusterTap, hclosed]
  rfl

theorem execMusterTap_runs {payload : Word} {r : MusterResult} {kind id tests : Nat} (hopen : tapMusterOpen s = true)
    (hscope : tapScope payload s = some (kind, id, tests)) :
    let e := musterEnds kind id tests (musterBefore s kind id) r (musterStarts kind id s)
    exec (.musterTap payload r) s = .next (flushOut (loadTap 0x21 (e.1.flatMap (natLe 8)) e.2)) := by
  change execMusterTap payload r s = _
  simp only [execMusterTap, hopen, hscope, Bool.not_true, Bool.false_eq_true, if_false]

/-- REGACC where the TAP does not own the interface, and I3C does not either: done stays clear. -/
theorem execRegacc_unowned {addr : BitVec 40} {v : Word} {write : Bool} (howner : s.pins.owner = 0) :
    exec (.regacc addr v write) s = .next (loadTap 0x22 (natLe 14 (regaccWord addr.toNat v.toNat write false)) s) := by
  have hclosed := debugOpen_other (s := s) (port := 1) (by omega) addr.toNat write
  change execRegacc addr v write s = _
  simp only [execRegacc, howner, hclosed, Bool.not_false, Bool.true_or, if_true, OfNat.zero_ne_ofNat, if_false]

section
variable (howner : s.pins.owner = 1) (hout : s.pins.inReset = false) (hstage : 3 ≤ s.boot.stage) {addr : BitVec 40}
  (halign : addr.toNat % 8 = 0) (v : Word)
include howner hout hstage halign

/-- REGACC of the owner reads or writes the register, and sets done. -/
theorem execRegacc_read : exec (.regacc addr v false) s = .next (loadTap 0x22
    (natLe 14 (regaccWord addr.toNat (debugRead addr.toNat s).1 false true)) (debugRead addr.toNat s).2) := by
  change execRegacc addr v false s = _
  simp [execRegacc, howner, debugOpen_owner howner hout hstage, halign]

theorem execRegacc_write : exec (.regacc addr v true) s = .next (loadTap 0x22
    (natLe 14 (regaccWord addr.toNat v.toNat true true)) (debugWrite addr.toNat v.toNat s)) := by
  change execRegacc addr v true s = _
  simp [execRegacc, howner, debugOpen_owner howner hout hstage, halign]

end

/-! ### Private commands of the I3C target (R586, R608) -/

theorem i3cPrivate_owner (howner : s.pins.owner = 2) (hout : s.pins.inReset = false) (hstage : 3 ≤ s.boot.stage) (a : Nat)
    (write : Bool) (go : State → State) : i3cPrivate a write go s = go s :=
  if_pos (debugOpen_owner howner hout hstage a write)

theorem i3cPrivate_other (hother : s.pins.owner ≠ 2) (a : Nat) (write : Bool) (go : State → State) :
    i3cPrivate a write go s = i3cAnswer none s := by
  rw [i3cPrivate, debugOpen_other hother]
  rfl

theorem execI3cClaim_held (howner : s.pins.owner = 1) (v : BitVec 8) : exec (.i3cClaim v) s = .next (i3cAnswer none s) :=
  congrArg Host.Outcome.next (if_pos howner)

theorem execI3cClaim_takes (howner : s.pins.owner ≠ 1) (v : BitVec 8) :
    exec (.i3cClaim v) s = .next (i3cAnswer (some []) (updPins (fun p => { p with
      owner := if v.toNat = 1 then 2 else if v.toNat = 0 then 0 else p.owner }) s)) :=
  congrArg Host.Outcome.next (if_neg howner)

theorem execSetaddr_owner (howner : s.pins.owner = 2) (hout : s.pins.inReset = false) (hstage : 3 ≤ s.boot.stage)
    {addr : BitVec 40} (halign : addr.toNat % 8 = 0) :
    exec (.setaddr addr) s = .next (i3cAnswer (some []) (updPins (fun p => { p with i3cReg := addr.toNat }) s)) := by
  change execSetaddr addr s = _
  rw [execSetaddr, i3cPrivate_owner howner hout hstage, if_pos halign]

theorem execI3cRead_owner (howner : s.pins.owner = 2) (hout : s.pins.inReset = false) (hstage : 3 ≤ s.boot.stage) :
    exec .i3cRead s = .next (i3cAnswer (some (natLe 8 (debugRead s.pins.i3cReg s).1))
      (i3cAdvance (debugRead s.pins.i3cReg s).2)) :=
  congrArg Host.Outcome.next (i3cPrivate_owner howner hout hstage _ _ _)

theorem execI3cWrite_owner (howner : s.pins.owner = 2) (hout : s.pins.inReset = false) (hstage : 3 ≤ s.boot.stage) (v : Word) :
    exec (.i3cWrite v) s = .next (i3cAnswer (some []) (i3cAdvance (debugWrite s.pins.i3cReg v.toNat s))) :=
  congrArg Host.Outcome.next (i3cPrivate_owner howner hout hstage _ _ _)

/-! ### Common commands of the I3C target (log entry 26) -/

/-- A bus reset ends the target's ownership and names the default action of the next one; a reset of the interface drops the
dynamic address. -/
theorem execI3cBusReset_resets : ∃ t, exec .i3cBusReset s = .next t ∧ t = { s with pins := t.pins } ∧ t.pins.i3cRst = 1 ∧
    t.pins.i3cOut = none ∧ t.pins.owner = (if s.pins.owner = 2 then 0 else s.pins.owner) ∧
    (s.pins.i3cRst ≠ 0 → t.pins.i3cAddr = 0) := by
  refine ⟨_, rfl, rfl, ?_⟩
  simp only [updPins]
  split
  next hzero => exact ⟨rfl, rfl, rfl, fun hne => absurd hzero hne⟩
  next => exact ⟨rfl, rfl, rfl, fun _ => rfl⟩

theorem execEntdaa_free (hfree : s.pins.i3cAddr = 0) (addr : BitVec 7) :
    exec (.entdaa addr) s =
      .next (i3cAnswer (some i3cIdentity) (updPins (fun p => { p with i3cAddr := addr.toNat }) s)) :=
  congrArg Host.Outcome.next (if_neg (not_not_intro hfree))

theorem execSetdasa_free (hfree : s.pins.i3cAddr = 0) {static : BitVec 7} (hstatic : static.toNat = staticAddr s)
    (addr : BitVec 7) : exec (.setdasa static addr) s =
      .next (i3cAnswer (some []) (updPins (fun p => { p with i3cAddr := addr.toNat }) s)) :=
  congrArg Host.Outcome.next (if_pos ⟨hstatic, hfree⟩)

theorem i3cDirect_addressed (haddr : s.pins.i3cAddr ≠ 0) (go : State → State) : i3cDirect go s = go s := if_neg haddr

theorem execRstact_named {action : BitVec 8} (hnamed : action.toNat ≤ 2) :
    exec (.rstact action) s = .next (i3cAnswer (some []) (updPins (fun p => { p with i3cRst := action.toNat }) s)) :=
  congrArg Host.Outcome.next (if_pos hnamed)

end

/-- Settles O56: each instruction of the TAP and each command of the I3C target by its own row. -/
theorem debugPorts : Obligations.DebugPorts := by
  unfold Obligations.DebugPorts
  intro s pins tap bypass i3c
  refine ⟨⟨rfl, rfl, execExtest_outOfReset, fun hin => ⟨_, _, execExtest_inReset hin, rfl⟩, ⟨_, _, rfl, rfl⟩,
      execJtagClaim_held, fun howner => ⟨_, _, execJtagClaim_claims howner, rfl⟩, rfl⟩,
    fun payload r => ⟨execMusterTap_closed, fun hopen kind id tests hscope => execMusterTap_runs hopen hscope⟩,
    fun addr v => ⟨execRegacc_unowned, fun howner hout hstage halign => ?regacc⟩,
    fun v => ⟨fun howner => execI3cClaim_held howner v, fun howner hv => ?claim, fun howner hv => ?release⟩,
    fun addr v => ⟨fun hother => ?other, fun howner hout hstage => ?owner⟩, execI3cBusReset_resets,
    fun addr static hfree => ⟨execEntdaa_free hfree addr, fun hstatic => execSetdasa_free hfree hstatic addr⟩, rfl,
    fun haddr => ?direct, fun e => ⟨rfl, rfl, execRstact_named⟩⟩
  case regacc =>
    refine ⟨fun hreg => ?_, fun hgood => ?_, fun hbad => ?_⟩
    · rw [execRegacc_read howner hout hstage halign, debugRead_register hreg]
      rfl
    · rw [execRegacc_write howner hout hstage halign, debugWrite_admitted hgood]
      rfl
    · rw [execRegacc_write howner hout hstage halign, debugWrite_refused hbad]
      rfl
  case claim =>
    rw [execI3cClaim_takes howner, hv]
    rfl
  case release =>
    rw [execI3cClaim_takes howner, hv]
    rfl
  case other =>
    exact ⟨congrArg Host.Outcome.next (i3cPrivate_other hother _ _ _),
      congrArg Host.Outcome.next (i3cPrivate_other hother _ _ _), congrArg Host.Outcome.next (i3cPrivate_other hother _ _ _)⟩
  case owner =>
    refine ⟨execSetaddr_owner howner hout hstage, fun hreg => ?_, fun hbad => ?_, fun hgood => ?_⟩
    · rw [execI3cRead_owner howner hout hstage, debugRead_register hreg]
      rfl
    · rw [execI3cWrite_owner howner hout hstage, debugWrite_refused hbad]
      rfl
    · rw [execI3cWrite_owner howner hout hstage, debugWrite_admitted hgood]
      rfl
  case direct =>
    exact ⟨congrArg Host.Outcome.next (i3cDirect_addressed haddr _), congrArg Host.Outcome.next (i3cDirect_addressed haddr _),
      congrArg Host.Outcome.next (i3cDirect_addressed haddr _),
      ⟨_, _, congrArg Host.Outcome.next (i3cDirect_addressed haddr _), length_natLe 2 _, rfl⟩⟩

end Sys2Proof.Machine

/-! The environment (O52): a sample changes its sensor and records alone; a trigger of a booted device enters Safe-Hold, where the
replies that go out change Ozmin's state alone; the checks of units by their own rows. -/

namespace Sys2Proof.Machine

/-! ### Samples (R561 to R563) -/

theorem onlyRecords_tallyExtreme (s : State) (q st u : Nat) (better : Nat → Nat → Bool) (v : Nat) :
    OnlyRecords s (tallyExtreme s q st u better v) := by
  unfold tallyExtreme
  dsimp only
  split <;> rfl

/-- A sample of sensor k has been read: how many in a row lie outside its range, and the extremes of the Tally. -/
def sensorRead (k : Nat) (v : Int) (n : Nat) (s : State) : State :=
  let t : State := { s with pwr := { s.pwr with sensors := sSet {} s.pwr.sensors k ⟨v, n⟩ } }
  tallyExtreme (tallyExtreme t 0x30 0x19 k readingGt (signedWord v)) 0x31 0x19 k (fun a b => readingGt b a) (signedWord v)

theorem sensorRead_frame (k : Nat) (v : Int) (n : Nat) (s : State) :
    OnlyRecords { s with pwr := { s.pwr with sensors := sSet {} s.pwr.sensors k ⟨v, n⟩ } } (sensorRead k v n s) := by
  unfold sensorRead
  exact (onlyRecords_tallyExtreme ..).trans (onlyRecords_tallyExtreme ..)

/-- Samples outside their sensor's range, in a row, once one more has come. -/
def outsideRun (k : Nat) (v : Int) (s : State) : Nat :=
  if (sensorRule k v).1 then (sGet {} s.pwr.sensors k).outside + 1 else 0

theorem execEnvSensorSample_reads {s : State} (hout : s.pins.inReset = false) (k : BitVec 2) (v : Int) :
    let t := sensorRead k.toNat v (outsideRun k.toNat v s) s
    exec (.envSensorSample k v) s = .next (if outsideRun k.toNat v s = (sensorRule k.toNat v).2.1 then
      flushOut (envTrigger (envFault (sensorRule k.toNat v).2.2 k.toNat v) t) else t) := by
  have hrun : ¬ s.pins.inReset = true := by simp [hout]
  exact congrArg Host.Outcome.next (if_neg hrun)

/-! ### Safe-Hold (R507) -/

section
variable (s : State)

theorem onlyOzmin_sendTagged (num addr port kind : Nat) (body : List Byte) :
    OnlyOzmin s (sendTagged num addr port kind body s) := by
  unfold sendTagged
  dsimp only
  split <;> rfl

theorem onlyOzmin_sendReply (o : Origin) (r : Reply) (inline : List Byte) : OnlyOzmin s (sendReply o r inline s) := by
  cases o with
  | ring c urgent => unfold sendReply; dsimp only; split <;> rfl
  | session n addr port => exact onlyOzmin_sendTagged ..

theorem onlyOzmin_keepReply (o : Origin) (r : Reply) : OnlyOzmin s (keepReply o r s) := by
  unfold keepReply
  split <;> split <;> rfl

theorem onlyOzmin_endJob (j : Job) (status gnum : Nat) (det : List Nat) : OnlyOzmin s (endJob j status gnum det s) :=
  OnlyOzmin.trans (t := dropJob j.id s) rfl ((onlyOzmin_keepReply ..).trans (onlyOzmin_sendReply ..))

theorem onlyOzmin_refuseCmd (c : Cmd) (status : Nat) (det : List Nat) : OnlyOzmin s (refuseCmd c status det s) :=
  OnlyOzmin.trans (t := regCount aCmdRefused 1 s) rfl (onlyOzmin_sendReply ..)

/-- What changes Ozmin's state alone at each item changes no more over a list. -/
theorem onlyOzmin_foldl {β : Type} {f : State → β → State} (hf : ∀ s b, OnlyOzmin s (f s b)) (l : List β) :
    OnlyOzmin s (l.foldl f s) :=
  l.foldlRecOn f (motive := OnlyOzmin s) rfl fun t ht b _ => ht.trans (hf t b)

/-- The commands in progress end in Ozmin's state alone. -/
theorem onlyOzmin_endAllJobs : OnlyOzmin s (endAllJobs s) := by
  unfold endAllJobs
  extract_lets _ ended refused held
  have hended : OnlyOzmin s ended := by
    refine OnlyOzmin.trans (t := { s with oz := { s.oz with xfers := [] } }) rfl (onlyOzmin_foldl _ (fun s j => ?_) _)
    split
    · exact onlyOzmin_endJob ..
    · rfl
  have hrefused : OnlyOzmin s refused := by
    refine hended.trans (onlyOzmin_foldl _ (fun s q => ?_) _)
    split
    · exact onlyOzmin_refuseCmd ..
    · rfl
  exact hrefused.trans rfl

theorem askCheckpoint_frame : askCheckpoint s = { s with tly := (askCheckpoint s).tly } := by
  unfold askCheckpoint
  split <;> rfl

end

/-- A fault of R506 outside Safe-Hold enters it: ALERT_N is asserted and power good withdrawn, gates and loans have stopped. -/
theorem enterSafeHold_holds {s : State} (f : FaultRec) (hopen : s.flt.safeHold = false) :
    let t := enterSafeHold f s
    t.flt.safeHold = true ∧ t.pins.alert = true ∧ t.pins.pwrgd = false ∧ t.gate.ops = [] ∧ t.pwr.loans = [] := by
  intro t
  have hclosed : ¬ s.flt.safeHold = true := by simp [hopen]
  have henter : t = _ := if_neg hclosed
  generalize raiseFault { f with flags := f.flags ||| recSafeHold } (residents s) s = u at henter
  have hjobs : endAllJobs (darken (haltAll u)) = _ := onlyOzmin_endAllJobs _
  rw [henter, askCheckpoint_frame, hjobs]
  exact ⟨rfl, rfl, rfl, rfl, rfl⟩

theorem envTrigger_booted {s : State} (f : FaultRec) (hbooted : s.boot.booted = true) : envTrigger f s = enterSafeHold f s :=
  if_pos (.inr (.inl hbooted))

/-! ### Checks of units (R490, R571) -/

theorem writePiece_out (s : State) (pa : Nat) (bs : List Byte) : (writePiece s pa bs).1.out = s.out := by
  unfold writePiece
  split
  case h_1 => split <;> rfl
  case h_2 => dsimp only; split <;> rfl
  all_goals rfl

theorem poke_out (s : State) (pa : Nat) (bs : List Byte) : (poke s pa bs).out = s.out := by
  suffices hpieces : ∀ (l : List (Nat × Nat)) (s : State), (writePieces s pa bs l).1.out = s.out from hpieces _ s
  intro l
  induction l with
  | nil => exact fun s => rfl
  | cons p l ih => exact fun s => (ih _).trans (writePiece_out ..)

theorem logAppend_out (s : State) (type flags : Nat) (body : List Byte) : (logAppend s type flags body).out = s.out := by
  rw [onlyRecords_logAppend s type flags body]

/-- Records hand nothing to the links. -/
theorem record0_out (f : FaultRec) (s : State) : (record0 f s).out = s.out := by
  unfold record0
  extract_lets s₁ s₂ s₃ s₄ s₅
  have hcounted : s₂.out = s.out := by
    unfold s₂
    split <;> rfl
  have hlogged : s₃.out = s.out := (logAppend_out ..).trans hcounted
  clear_value s₃
  split
  · exact hlogged
  · have hpoked : s₄.out = s.out := (poke_out ..).trans hlogged
    clear_value s₄
    exact hpoked

theorem unitCheck_bars {s : State} (hquiet : s.out = []) (hnone : residents s = []) (f : FaultRec) :
    (unitCheck f s).flt.unparkBarred = true := by
  have hrecorded : (raiseDeviceFault f s).out = [] := by
    rw [raiseDeviceFault, hnone]
    exact (record0_out f s).trans hquiet
  unfold unitCheck
  generalize raiseDeviceFault f s = t at hrecorded
  rw [flushOut_quiet (s := { t with flt := { t.flt with unparkBarred := true } }) hrecorded]

theorem execFltCellInternal_raises {s : State} {c : LCell} (hheld : isVacant s c.toNat = false) :
    exec (.fltCellInternal c) s = .next (flushOut (raiseCellFault { code := 0x0131 } c.toNat s)) := by
  change execFltCellInternal c s = _
  rw [execFltCellInternal, hheld]
  rfl

/-- A domain whose PLL loses lock, sensor 3 within its range, stops. -/
theorem execPllLockLoss_stops {s : State} {k : BitVec 6} (hinside : (sensorRule 3 (sGet {} s.pwr.sensors 3).value).1 = false) :
    exec (.pllLockLoss k) s = .next (unitCheck { code := 0x0407, unit := k.toNat } { s with pwr := { s.pwr with
      domains := sUpd {} s.pwr.domains k.toNat (fun d => { d with running := false, locked := false }) } }) := by
  have hgood : ¬ (sensorRule 3 (sGet {} s.pwr.sensors 3).value).1 = true := by simp [hinside]
  exact congrArg Host.Outcome.next (if_neg hgood)

/-! ### The triggers that are no sample (R561, R563) -/

section
variable {s : State} (hout : s.pins.inReset = false)
include hout

theorem execRefclockLoss_triggers :
    exec .refclockLoss s = .next (flushOut (envTrigger (envFault 0x040A 3 (sGet {} s.pwr.sensors 3).value) s)) := by
  change execRefclockLoss s = _
  rw [execRefclockLoss, hout]
  rfl

theorem execThermtrip_holds {die : BitVec 5} (hdie : die.toNat < 29) :
    exec (.thermtrip die) s = .next (flushOut (enterSafeHold { code := 0x040B, unit := die.toNat }
      { s with pins := { s.pins with tripped := true } })) := by
  change execThermtrip die s = _
  rw [execThermtrip, if_neg (Nat.not_le.mpr hdie), hout]
  rfl

end

/-- Settles O52: a sample by the run of its sensor, and every trigger and check by its own row. -/
theorem environment : Obligations.Environment := by
  unfold Obligations.Environment
  refine ⟨fun s k v hout => ?sample, fun s f hopen hbooted => ?trigger,
    fun s hout => ⟨execRefclockLoss_triggers hout, fun die => execThermtrip_holds hout⟩,
    fun s => ⟨⟨_, rfl, rfl⟩, ⟨_, rfl, rfl⟩, fun c => execFltCellInternal_raises, fun r => rfl,
      fun k => execPllLockLoss_stops, unitCheck_bars⟩⟩
  case sample =>
    intro old n
    have hrow := execEnvSensorSample_reads hout k v
    have hframe : sensorRead k.toNat v n s = _ := sensorRead_frame k.toNat v n s
    refine ⟨sensorRead k.toNat v n s, ?_, ?_, ?_, ?_, ?_, fun hleft => hrow.trans (congrArg _ (if_neg hleft)),
      fun hlimit => hrow.trans (congrArg _ (if_pos hlimit))⟩ <;> rw [hframe]
  case trigger => exact ⟨_, envTrigger_booted f hbooted, enterSafeHold_holds f hopen⟩

end Sys2Proof.Machine

/-! Events of the Tally (O53): the readings of dies and oscillators, the end of a period, checkpoints and the log, and an interval
of the power manager. -/

namespace Sys2Proof.Machine

/-! ### Temperatures (R517, R563) -/

/-- The first reading of die d in a period has been taken. -/
def tempTaken (d : Nat) (temp : Int) (s : State) : State :=
  let t : State := { s with tly := { s.tly with temps := sPut s.tly.temps d temp, tempsNew := d :: s.tly.tempsNew } }
  let t := if 12 ≤ d ∧ d < 20 then updDie t (d - 12) (fun x => { x with temp := temp.toNat }) else t
  if d < 4 then
    let rest := t.pwr.hot.filter (fun r => r != d)
    { t with pwr := { t.pwr with hot := if 100 ≤ temp then d :: rest else rest } }
  else t

section
variable (d : Nat) (temp : Int) (s : State)

theorem tempTaken_tly : (tempTaken d temp s).tly =
    { s.tly with temps := sPut s.tly.temps d temp, tempsNew := d :: s.tly.tempsNew } := by
  unfold tempTaken
  dsimp only
  split <;> split <;> rfl

theorem tempTaken_ctxs : (tempTaken d temp s).ctxs = s.ctxs := by
  unfold tempTaken
  dsimp only
  split <;> split <;> rfl

/-- A region is hot where its reading is 100 °C or more. -/
theorem mem_hot_tempTaken (hregion : d < 4) : d ∈ (tempTaken d temp s).pwr.hot ↔ 100 ≤ temp := by
  have hother : ¬ (12 ≤ d ∧ d < 20) := by omega
  have hnot (l : List Nat) : d ∉ l.filter (fun r => r != d) := by simp
  simp only [tempTaken, if_neg hother, if_pos hregion]
  by_cases hhot : 100 ≤ temp
  · simp [hhot]
  · simp [hhot, hnot]

/-- A base die's reading is that of its stack (R297). -/
theorem dieAt_tempTaken (hlow : 12 ≤ d) (hhigh : d < 20) : (dieAt (tempTaken d temp s) (d - 12)).temp = temp.toNat := by
  have hother : ¬ d < 4 := by omega
  simp only [tempTaken, if_pos (And.intro hlow hhigh), if_neg hother, dieAt_updDie]

end

theorem execDieTempRead_takes {s : State} {die : BitVec 5} {temp : Int} (hdie : die.toNat < 29)
    (hnew : die.toNat ∉ s.tly.tempsNew) : exec (.dieTempRead die temp) s = .next (tempTaken die.toNat temp s) := by
  have hfirst : ¬ s.tly.tempsNew.contains die.toNat = true := by simpa using hnew
  exact congrArg Host.Outcome.next (if_neg (not_or_intro (Nat.not_le.mpr hdie) hfirst))

/-! ### Droops (R519) -/

/-- The domain's last droop is now. -/
def droopSeen (k : Nat) (s : State) : State :=
  { s with pwr := { s.pwr with
    domains := sSet {} s.pwr.domains k { sGet {} s.pwr.domains k with droop := true, last := s.cycle + 1 } } }

theorem execDroopEvent_counts {s : State} {k : BitVec 6} : exec (.droopEvent k) s = .next
    (if (sGet {} s.pwr.domains k.toNat).last ≠ 0 ∧ s.cycle + 1 < (sGet {} s.pwr.domains k.toNat).last + 3000 then
      droopSeen k.toNat s else tallyAdd (droopSeen k.toNat s) 0x20 0x1A k.toNat 1) := by
  change execDroopEvent k s = _
  simp only [execDroopEvent, decide_eq_true_eq]
  rfl

/-! ### Aging oscillators (R520) -/

theorem factoryNat_tly (s : State) (tly : Tally) (off n : Nat) :
    factoryNat { s with tly := tly } off n = factoryNat s off n := rfl

/-- An oscillator that was skipped is read again at once: the gauge takes its shift in ppm. -/
theorem execAgeRead_late {s : State} {unit : BitVec 6} {hz : Nat} {f0 k : Int × Nat} (hunit : unit.toNat < 60)
    (hlate : unit.toNat ∈ s.tly.ageLate) (hf0 : fp32Ratio (factoryNat s (0x9A00 + 8 * unit.toNat) 4) = some f0)
    (hk : fp32Ratio (factoryNat s (0x9A00 + 8 * unit.toNat + 4) 4) = some k) (hpos : 0 < f0.1) :
    exec (.ageRead unit hz) s = .next (tallyGauge
      { s with tly := { s.tly with ageLate := s.tly.ageLate.filter (fun v => v != unit.toNat) } } 0x21 0x1B unit.toNat
      (signedWord (agePpm hz f0 k ((sFind s.tly.temps (oscDie unit.toNat)).getD 60)))) := by
  have hskipped : s.tly.ageLate.contains unit.toNat = true := by simpa using hlate
  change execAgeRead unit hz s = _
  simp only [execAgeRead, ge_iff_le, if_neg (Nat.not_le.mpr hunit), hskipped, true_or, if_true, factoryNat_tly, hf0, hk,
    if_neg (not_le.mpr hpos)]

/-! ### The end of a period (R518, R529, R530) -/

/-- The value in effect is the one put in effect last. -/
theorem regEff_regEffSet (s : State) (a : Nat) (v : Word) : regEff (regEffSet s a v) a = v.toNat := by
  simp only [regEff, regEffSet, regTable]
  split
  next hreset => rw [sFind_erase_same, Option.getD_none, hreset]
  next => rw [sFind_put_same, Option.getD_some]

/-- With no REPORT_GET in progress no report is due. -/
theorem sendReports_none {s : State} (hnone : ∀ j ∈ s.jobs, j.opcode ≠ 0x0801) : sendReports s = s := by
  have hdue : s.jobs.filter (fun j => j.opcode == 0x0801 && j.phase == 0) = [] :=
    List.filter_eq_nil_iff.mpr fun j hj => by simp [hnone j hj]
  rw [sendReports, hdue, List.foldl_nil]

/-- The readings of a period join the bands and the maxima of the Tally (R518). -/
def bandsCounted (s : State) : State :=
  s.tly.temps.foldl (fun s e => tallyExtreme (tallyAdd s (0x28 + bandOf e.2) 0x18 e.1 s.tly.period) 0x30 0x18 e.1 readingGt
    (signedWord e.2)) s

theorem bandsCounted_none {s : State} (hnone : s.tly.temps = []) : bandsCounted s = s := by
  rw [bandsCounted, hnone, List.foldl_nil]

/-- The next period has begun at the given cycle, by what TLY_CTL holds. -/
def periodBegun (at_ : Nat) (s : State) : State :=
  let t := regEffSet s aTlyCtl (regGet s aTlyCtl)
  { t with tly := { t.tly with tempsNew := [], periodAt := at_, period := effField t aTlyCtl 15 0 } }

theorem period_periodBegun (at_ : Nat) (s : State) : (periodBegun at_ s).tly.period = regField s aTlyCtl 15 0 := by
  simp only [periodBegun, effField, regEff_regEffSet, regField]

theorem execSensePeriodEnd_eq (s : State) : exec .sensePeriodEnd s = .next (
    let at_ := s.tly.periodAt + millis s.tly.period
    let t := periodBegun at_ (bandsCounted { s with cycle := max s.cycle at_ })
    sendReports (if t.tly.ready ∧ t.tly.ckptAt + minutes (effField t aTlyCtl 31 24) ≤ t.cycle then askCheckpoint t else t)) :=
  rfl

/-- A period without readings, before the log is ready and with no report due, only gives way to the next. -/
theorem execSensePeriodEnd_begins {s : State} {at_ : Nat} (hat : s.tly.periodAt + millis s.tly.period = at_)
    (htemps : s.tly.temps = []) (hready : s.tly.ready = false) (hnone : ∀ j ∈ s.jobs, j.opcode ≠ 0x0801) :
    exec .sensePeriodEnd s = .next (periodBegun at_ { s with cycle := max s.cycle at_ }) := by
  have hbands : bandsCounted { s with cycle := max s.cycle at_ } = { s with cycle := max s.cycle at_ } :=
    bandsCounted_none htemps
  have hearly : ¬ (periodBegun at_ { s with cycle := max s.cycle at_ }).tly.ready = true := Bool.eq_false_iff.mp hready
  rw [execSensePeriodEnd_eq, hat]
  dsimp only
  rw [hbands, if_neg (fun hdue => hearly hdue.1)]
  exact congrArg Host.Outcome.next (sendReports_none hnone)

/-! ### Checkpoints and the log (R523, R524) -/

theorem execCheckpoint_starts {s : State} (hready : s.tly.ready = true) (hidle : s.tly.ckptLeft = 0) :
    exec .checkpoint s = .next (startCheckpoint
      { s with cycle := max s.cycle (s.tly.ckptAt + 180000000000 * effField s aTlyCtl 31 24) }) := by
  have hdue : minutes (effField s aTlyCtl 31 24) = 180000000000 * effField s aTlyCtl 31 24 := by
    rw [minutes]
    omega
  change execCheckpoint s = _
  simp only [execCheckpoint, hready, hidle, decide_true, Bool.and_self, if_true, hdue]

theorem execLogProgram_programs {s : State} {x : LogRec} {rest : List LogRec} (hrun : s.oz.running = true)
    (hqueue : s.tly.queue = x :: rest) :
    exec .logProgram s = .next (programRec x { s with tly := { s.tly with
      queue := rest, ckptLeft := if x.type = 2 then s.tly.ckptLeft - 1 else s.tly.ckptLeft } }) := by
  change execLogProgram s = _
  simp only [execLogProgram, hrun, hqueue]

/-! ### An interval of the power manager (R563, R567) -/

theorem settleLoans_none {s : State} (hnone : s.pwr.loans = []) : settleLoans s = s := by
  rw [settleLoans, hnone, List.filter_nil, List.foldl_nil]

/-- The power of what belongs to no region, the newest of the 100 intervals that count (log entry 43). -/
def otherPower (m : PowerReading) : Nat :=
  (m.dies.take 8).foldl (fun a x => a + x.1) 0 + (m.engines.take 8).foldl (fun a x => a + x.1) 0 + m.hall + m.loss

theorem otherPower_eq (m : PowerReading) : ((m.dies.take 8).map (fun x => x.1)).foldl (fun a b => a + b) 0 +
    ((m.engines.take 8).map (fun x => x.1)).foldl (fun a b => a + b) 0 + m.hall + m.loss = otherPower m := by
  rw [otherPower, List.foldl_map, List.foldl_map]

/-- The levels of the regions once an interval's power is known, and whether some context is over its share. -/
def intervalPaced (m : PowerReading) (s : State) : Bool × State :=
  [0, 1, 2, 3].foldl (paceRegion m)
    (false, { s with pwr := { s.pwr with other := (otherPower m :: s.pwr.other).take 100 } })

theorem execPowerInterval_divides {m : PowerReading} {s : State} {a : Bool × State} (hout : s.pins.inReset = false)
    (hopen : s.flt.safeHold = false) (hloans : s.pwr.loans = []) (ha : intervalPaced m s = a) :
    let t := { a.2 with pwr := { a.2.pwr with overCap := a.1 } }
    exec (.powerInterval m) s =
      .next (divideInterval m (regCount aPwrPaced m.held (if a.1 then regCount aPwrOver 1 t else t))) := by
  unfold intervalPaced otherPower at ha
  change execPowerInterval m s = _
  simp only [execPowerInterval, hout, hopen, Bool.false_eq_true, or_self, if_false, settleLoans_none hloans, ha]

/-- Settles O53: each event by its own row. -/
theorem tallyEvents : Obligations.TallyEvents := by
  unfold Obligations.TallyEvents
  refine ⟨fun s die temp hdie hnew => ?temp, fun s unit => rfl, fun s k => ?droop,
    fun s unit hz f0 k => execAgeRead_late, fun s htemps hready hnone => ?period, fun s => execCheckpoint_starts,
    fun s x rest => execLogProgram_programs, fun s m hout hopen hloans => ?power⟩
  case temp =>
    refine ⟨_, execDieTempRead_takes hdie hnew, ?_, ?_, mem_hot_tempTaken _ _ _, dieAt_tempTaken _ _ _, tempTaken_ctxs ..⟩
    · rw [tempTaken_tly]
    · rw [tempTaken_tly]
  case droop =>
    intro d t
    exact ⟨fun hjoined => execDroopEvent_counts.trans (congrArg _ (if_pos hjoined)),
      fun hapart => execDroopEvent_counts.trans (congrArg _ (if_neg hapart))⟩
  case period =>
    intro at_
    have hat : s.tly.periodAt + millis s.tly.period = at_ := by rw [millis, Nat.mul_comm]
    clear_value at_
    exact ⟨_, execSensePeriodEnd_begins hat htemps hready hnone, rfl, rfl, rfl, period_periodBegun .., rfl⟩
  case power =>
    refine ⟨intervalPaced m s, _, execPowerInterval_divides hout hopen hloans rfl, ?_, rfl⟩
    rw [otherPower_eq]
    rfl

end Sys2Proof.Machine

/-! Coded state (O42): a message of it is taken, which changes the links alone, and the rule of its row runs for the context that
its KEY names; a refresh or rebuild that is complete ends with the reply of its job. -/

namespace Sys2Proof.Machine

/-- A PAR message of operation op stands at place i of the inbox, with the header h, for the context c; without it the state is
s₁. -/
structure ParComes (s : State) (i : BitVec 16) (op : Nat) (m : InMsg) (h : CollHead) (c : Nat) (s₁ : State) : Prop where
  msg : gateMsg s i.toNat 3 op = some m
  head : CollHead.ofBytes m.bytes = h
  taken : freeMsg i.toNat m s = s₁
  ctx : codingCtx s₁ h.key = some c

/-- The rule of the message's row runs on the state without it. -/
theorem ParComes.row {s s₁ : State} {i : BitVec 16} {op : Nat} {m : InMsg} {h : CollHead} {c : Nat}
    (hcomes : ParComes s i op m h c s₁) (go : CollHead → List Byte → State → State) :
    gateRow 3 op i go s = flushOut (go h m.bytes s₁) := by
  simp only [gateRow, hcomes.msg, hcomes.head, hcomes.taken]

/-! ### The rows (R437, R449, R453) -/

section
variable {s s₁ : State} {i : BitVec 16} {m : InMsg} {h : CollHead} {c : Nat}

/-- A PIECE of a data slot, for an own parity, is taken in. -/
theorem execPiece_takes (hcomes : ParComes s i 1 m h c s₁) (hslot : h.shard < (ctxAt s₁ c).code.k)
    (hown : h.tensor = (ctxAt s₁ c).code.ownStripe 0 ∨ h.tensor = (ctxAt s₁ c).code.ownStripe 1) :
    let r := takeParChunk c h m.bytes s₁
    exec (.piece i) s = .next (flushOut (settleRefresh c (settlePiece c r.1 r.2))) := by
  intro r
  change execPiece i s = _
  simp only [execPiece, hcomes.row, hcomes.ctx, if_pos (And.intro hslot hown), r]

theorem execPieceAck_ends (hcomes : ParComes s i 2 m h c s₁) :
    exec (.pieceAck i) s = .next (flushOut (settleRefresh c (updOp c (fun o => if o.cstep = h.gnum then
      { o with unacked := o.unacked.filter (fun e => e != (h.tensor, h.shard, h.member)) } else o) s₁))) := by
  change execPieceAck i s = _
  simp only [execPieceAck, hcomes.row, hcomes.ctx]

section
variable {lh : LineHit} (hcomes : ParComes s i 3 m h c s₁)
include hcomes

theorem execPieceReq_answers {step : Nat} {runs : List (Nat × Nat)} {bs : List Byte} {t : State}
    (hruns : symbolRuns s₁ c h = .inl (step, runs)) (hread : ctxReadAll c lh runs 0 s₁ = (some bs, t)) :
    exec (.pieceReq i lh) s =
      .next (flushOut (sendPiece 4 c h.src step h.tensor h.shard (ctxAt s₁ c).code.piece bs t)) := by
  change execPieceReq i lh s = _
  simp only [execPieceReq, hcomes.row, hcomes.ctx, hruns, hread]

theorem execPieceReq_refuses {status : Nat} (hruns : symbolRuns s₁ c h = .inr status) :
    exec (.pieceReq i lh) s = .next (flushOut (refuse 3 5 h c status s₁)) := by
  change execPieceReq i lh s = _
  simp only [execPieceReq, hcomes.row, hcomes.ctx, hruns]

end

section
variable {o : ParOp} (hop : (ctxAt s₁ c).code.op = some o) (hrebuild : o.rebuild = true) (hwanted : (h.tensor, h.shard) ∈ o.want)
include hop hrebuild hwanted

/-- A SYMBOL that a rebuild wants, of the step that it rebuilds, joins it. -/
theorem execSymbol_joins (hcomes : ParComes s i 4 m h c s₁) (hstep : h.gnum = o.cstep) :
    let n := (chunkData (ctxAt s₁ c).code.piece h m.bytes).length
    let r := takeParChunk c h m.bytes (updOp c (fun o => { o with bytes := o.bytes + n }) s₁)
    exec (.symbol i) s = .next (flushOut (settleSymbol c r.1 r.2)) := by
  have hasked : o.want.contains (h.tensor, h.shard) = true := List.contains_iff_mem.mpr hwanted
  intro n r
  change execSymbol i s = _
  simp only [execSymbol, hcomes.row, hcomes.ctx, hop, hrebuild, hasked, hstep, Bool.not_true, Bool.false_eq_true, ne_eq,
    not_true_eq_false, if_true, if_false, r, n]

/-- A refused symbol is lost, and another takes its place, unless its holder's state is stale. -/
theorem execParRefuse_loses (hcomes : ParComes s i 5 m h c s₁) (hstatus : h.status ≠ 4) :
    exec (.parRefuse i) s = .next (flushOut (loseSymbol c h.tensor h.shard s₁)) := by
  have hasked : o.want.contains (h.tensor, h.shard) = true := List.contains_iff_mem.mpr hwanted
  change execParRefuse i s = _
  simp only [execParRefuse, hcomes.row, hcomes.ctx, hop, hrebuild, hasked, if_neg hstatus, Bool.not_true, Bool.false_eq_true,
    if_true, if_false]

end

end

/-! ### The ends (R449, R453) -/

section
variable {s : State} {ctx : BitVec 14} {o : ParOp} {id : Nat} {j : Job} (hop : (ctxAt s ctx.toNat).code.op = some o)
  (hid : o.job = some id) (hjob : jobById s id = some j)
include hop hid hjob

theorem execCodeRefreshDone_ends (hkind : j.opcode = 0x0602) (hdone : (ctxAt s ctx.toNat).code.refreshed = true) :
    exec (.codeRefreshDone ctx) s = .next (endJob j stOk s.beat.gnum [o.cstep]
      (updCode ctx.toNat (fun d => { d with ready := true }) (finishRefresh ctx.toNat s))) := by
  change execCodeRefreshDone ctx s = _
  simp only [execCodeRefreshDone, hop, hid, Option.bind_some, hjob, if_pos (And.intro hkind hdone)]

theorem execCodeRebuildDone_ends (hrebuild : o.rebuild = true) (hgood : o.fail = none)
    (hdone : (ctxAt s ctx.toNat).code.rebuilt = true) :
    exec (.codeRebuildDone ctx) s = .next (endJob j stOk s.beat.gnum [o.cstep, o.bytes]
      (finishRebuild ctx.toNat (shardMapOf (ctxAt s ctx.toNat)) (ctxAt s ctx.toNat).alm.cb s)) := by
  change execCodeRebuildDone ctx s = _
  simp only [execCodeRebuildDone, hop, hid, Option.bind_some, hjob, hrebuild, hgood, hdone, Bool.true_eq_false, if_true, if_false]

end

/-- Settles O42: each message by the rule of its row on the state without it, and the two ends by their own rows. -/
theorem codedMessages : Obligations.CodedMessages := by
  unfold Obligations.CodedMessages
  refine ⟨fun s i m lh c => ?message, fun s ctx o id j => ?ends⟩
  case message =>
    intro s₁ h d comes gives
    have arrives {op : Nat} (hcomes : comes op) : ParComes s i op m h c s₁ := ⟨hcomes.1, rfl, rfl, hcomes.2⟩
    exact ⟨fun hcomes hslot hown => execPiece_takes (arrives hcomes) hslot hown,
      fun hcomes => execPieceAck_ends (arrives hcomes),
      fun step runs bs t hcomes hruns hread => execPieceReq_answers (arrives hcomes) hruns hread,
      fun status hcomes hruns => execPieceReq_refuses (arrives hcomes) hruns,
      fun o hop hrebuild hwanted => ⟨fun hcomes hstep => execSymbol_joins hop hrebuild hwanted (arrives hcomes) hstep,
        fun hcomes hstatus => execParRefuse_loses hop hrebuild hwanted (arrives hcomes) hstatus⟩⟩
  case ends =>
    intro c x hop hid hjob
    exact ⟨execCodeRefreshDone_ends hop hid hjob, execCodeRebuildDone_ends hop hid hjob⟩

end Sys2Proof.Machine

/-! Flits of a port (O44): a good flit gives back its ACK and credits before its kind decides what it brings; a message that has
come joins the inbox, and a bulk message is taken from it. -/

namespace Sys2Proof.Machine

/-! ### Ports after updates -/

@[simp] theorem portAt_updPort (s : State) (p : Nat) (f : Port → Port) : portAt (updPort p f s) p = f (portAt s p) :=
  sGet_upd_same ..

/-! ### Flits of a coded port (R404, R405, R408) -/

section
variable {s : State} {port : BitVec 5} {raw : BitVec 2048} {rs : Bool} (hcoded : (portAt s port.toNat).coded = true)
include hcoded

theorem execDataFlit_bad (hbad : flitGood (flitBytes raw) rs = false) :
    exec (.dataFlit port raw rs) s = .next (updPort port.toNat (fun t => { t with nakOut := true }) s) := by
  change execDataFlit port raw rs s = _
  simp only [execDataFlit, hcoded, hbad, Bool.not_true, Bool.not_false, Bool.false_eq_true, if_false, if_true]

/-- IDLE and NAK flits that are bad are discarded and counted. -/
theorem returnFlit_bad (hbad : flitGood (flitBytes raw) rs = false) (kind : Nat) (after : State → State) :
    returnFlit kind port.toNat raw rs after s = drop port.toNat s := by
  simp only [returnFlit, hcoded, hbad, Bool.not_true, Bool.not_false, Bool.false_eq_true, if_false, if_true]

section
variable {h : FlitHead} (hgood : flitGood (flitBytes raw) rs = true) (hhead : flitHead (fieldAt (flitBytes raw) 0 8) = h)
include hgood hhead

theorem execDataFlit_good (hkind : h.kind = 0) : exec (.dataFlit port raw rs) s = .next (
    let s₁ := takeReturn port.toNat h s
    let d := seqAhead (portAt s port.toNat).expect h.seq
    if d = 0 then flushOut (acceptFlit port.toNat h (((flitBytes raw).drop 8).take 240) s₁)
    else if d < 32768 then updPort port.toNat (fun t => { t with nakOut := true }) s₁
    else s₁) := by
  change execDataFlit port raw rs s = _
  simp only [execDataFlit, hcoded, hgood, hhead, hkind, Bool.not_true, Bool.false_eq_true, ne_eq, not_true_eq_false, if_false]

theorem returnFlit_good {kind : Nat} (hkind : h.kind = kind) (after : State → State) :
    returnFlit kind port.toNat raw rs after s = after (takeReturn port.toNat h s) := by
  simp only [returnFlit, hcoded, hgood, hhead, hkind, Bool.not_true, Bool.false_eq_true, ne_eq, not_true_eq_false, if_false]

end

end

theorem seqAhead_self (a : Nat) : seqAhead a a = 0 := by
  rw [seqAhead, Nat.add_sub_cancel_left]

/-! ### A message of one flit (R406, R427) -/

/-- The next flit in sequence has been accepted at a port. -/
def flitTaken (p : Nat) (s : State) : State :=
  updPort p (fun t => { t with expect := (t.expect + 1) % 65536, nakOut := false }) s

theorem poolHeld_flitTaken (p cls : Nat) (s : State) : poolHeld (flitTaken p s) p cls = poolHeld s p cls := by
  simp only [poolHeld, flitTaken, portAt_updPort]
  rfl

/-- A CTL message of a consumer of this device joins the inbox. -/
theorem acceptFlit_ctl {p : Nat} {h : FlitHead} {body : List Byte} {s : State} (hroom : poolHeld s p h.cls < poolSize h.cls)
    (hdest : h.dest = ownNode s) (hcls : h.cls = 0) (hsub : h.sub ≠ 0) (hlast : h.sub ≤ 5) :
    acceptFlit p h body s = { flitTaken p s with link := { (flitTaken p s).link with
      inbox := s.link.inbox ++ [⟨p, 0, h.sub, body, s.cycle⟩] } } := by
  have hheld : ¬ poolHeld (flitTaken p s) p h.cls ≥ poolSize h.cls := by
    rw [poolHeld_flitTaken]
    exact Nat.not_le.mpr hroom
  have hknown : ¬ (h.sub = 0 ∨ h.sub > 5) := by omega
  refine (if_neg hheld).trans ((if_pos hdest).trans ?_)
  simp only [deliverFlit, if_neg hknown, hcls]
  rfl

/-! ### Waiting for ACK (R409, R410) -/

section
variable {s : State} {port : BitVec 5} (hcoded : (portAt s port.toNat).coded = true)
include hcoded

theorem execAckTimeout_demands (hsent : (portAt s port.toNat).unacked ≠ []) :
    exec (.ackTimeout port) s = .next (demandReplay port.toNat { s with
      cycle := max s.cycle ((portAt s port.toNat).ackAt + ackWait (portAt s port.toNat)) }) := by
  have hwaits : (portAt s port.toNat).unacked.isEmpty = false := by simpa using hsent
  change execAckTimeout port s = _
  simp only [execAckTimeout, hcoded, hwaits, Bool.not_true, Bool.or_self, Bool.false_eq_true, if_false]

theorem execLlrWindowExpiry_drops {e : Episode} (hopen : (portAt s port.toNat).episode = some e) :
    exec (.llrWindowExpiry port) s = .next (portDown port.toNat 1 { s with
      cycle := max s.cycle (e.t0 + 3000 * lnkCtl s port.toNat 12 8) }) := by
  change execLlrWindowExpiry port s = _
  simp only [execLlrWindowExpiry, hopen, hcoded, Bool.not_true, Bool.false_eq_true, if_false]

end

/-! ### Bulk messages (R406) -/

/-- A BULK message of an operation is taken and its row's rule runs. -/
theorem bulkRow_takes {s : State} {i : BitVec 16} {op : Nat} {m : InMsg} (hmsg : gateMsg s i.toNat 2 op = some m)
    (go : List Byte → State → State) : bulkRow op i go s = flushOut (go m.bytes (freeMsg i.toNat m s)) := by
  simp only [bulkRow, hmsg]

/-- Settles O44: each flit by whether it is good, its kind and its SEQ, and each wait and bulk message by its own row. -/
theorem linkFlits : Obligations.LinkFlits := by
  unfold Obligations.LinkFlits
  refine ⟨fun s port raw rs => ?flit, fun s p h body hroom hdest hcls hsub hlast => ?message, fun s port hcoded => ?waits,
    fun s i m => ?bulk⟩
  case flit =>
    intro p bs h t s₁ hcoded
    refine ⟨fun hbad => ⟨execDataFlit_bad hcoded hbad, congrArg _ (returnFlit_bad hcoded hbad ..),
      congrArg _ (returnFlit_bad hcoded hbad ..)⟩, fun hgood => ⟨fun hkind hseq => ?_, fun hkind hahead hnear => ?_,
        fun hkind => congrArg _ (returnFlit_good hcoded hgood rfl hkind _),
        fun hkind => congrArg _ (returnFlit_good hcoded hgood rfl hkind _)⟩⟩
    · refine (execDataFlit_good hcoded hgood rfl hkind).trans (congrArg _ (if_pos ?_))
      exact hseq ▸ seqAhead_self _
    · exact (execDataFlit_good hcoded hgood rfl hkind).trans
        (congrArg _ ((if_neg (Nat.ne_of_gt hahead)).trans (if_pos hnear)))
  case message =>
    refine ⟨_, acceptFlit_ctl hroom hdest hcls hsub hlast, rfl, ?_, rfl, rfl⟩
    change (portAt (flitTaken p s) p).expect = _
    rw [flitTaken, portAt_updPort]
  case waits => exact ⟨execAckTimeout_demands hcoded, fun e => execLlrWindowExpiry_drops hcoded⟩
  case bulk =>
    intro s₁ f
    refine ⟨fun hmsg => ?_, fun j hmsg hjob => ?_⟩
    · exact congrArg _ (bulkRow_takes hmsg _)
    · refine congrArg _ ((bulkRow_takes hmsg _).trans (congrArg flushOut ?_))
      simp only [s₁, f] at hjob
      simp only [hjob]
      rfl

end Sys2Proof.Machine

/-! Training and measurement of a port (O46): a training frame by the neighbour that it names and the phase of its state, a
link-control message by the rule of its row on the state without it, and the bounds of the phases. -/

namespace Sys2Proof.Machine

/-! ### Training frames (R422) -/

section
variable {s : State} {port lane : BitVec 5} {raw : BitVec 2048} {t : Port} {bs : List Byte}
  (hport : portAt s port.toNat = t) (hbytes : flitBytes raw = bs) (hstate : t.state = 1) (hbegun : 1 ≤ t.phase)
  (hearly : t.phase ≤ 4) (hmagic : fieldAt bs 0 8 = 0x5A5AA5A50FF0C33C) (hcrc : crc32c (bs.take 0xFC) = fieldAt bs 0xFC 4)
include hport hbytes hstate hbegun hearly hmagic hcrc

/-- A good frame, on a port in its first four phases, is judged by the neighbour that it names. -/
theorem execTrainingFrame_good : exec (.trainingFrame port lane raw) s = .next (
    let p := port.toNat
    if fieldAt bs 8 1 ≠ farLane s p lane.toNat ∨ fieldAt bs 9 1 ≠ expectedPort s p ∨ fieldAt bs 0xA 2 ≠ expectedNode s p then
      updPort p (fun t => { t with state := 4 }) s
    else if fieldAt bs 0xE 2 / 4 % 2 = 1 then
      sendHello p (updPort p (fun t => { t.fresh 5 s.cycle with peerNode := expectedNode s p }) s)
    else
      let phase := if fieldAt bs 0xE 2 / 2 % 2 = 1 then 4 else 3
      updPort p (fun t => if t.phase < phase then
        { t with phase := phase, phaseAt := if t.phase ≤ 1 ∨ phase = 4 then s.cycle else t.phaseAt } else t) s) := by
  have htaken : ¬ (t.state ≠ 1 ∨ t.phase = 0 ∨ t.phase > 4 ∨ fieldAt bs 0 8 ≠ 0x5A5AA5A50FF0C33C ∨
      crc32c (bs.take 0xFC) ≠ fieldAt bs 0xFC 4) := by
    rintro (hne | hzero | hlate | hne | hne)
    · exact hne hstate
    · omega
    · omega
    · exact hne hmagic
    · exact hne hcrc
  subst hport hbytes
  exact congrArg Host.Outcome.next (if_neg htaken)

theorem execTrainingFrame_miswire (hother : fieldAt bs 0xA 2 ≠ expectedNode s port.toNat) :
    exec (.trainingFrame port lane raw) s = .next (updPort port.toNat (fun t => { t with state := 4 }) s) :=
  (execTrainingFrame_good hport hbytes hstate hbegun hearly hmagic hcrc).trans
    (congrArg Host.Outcome.next (if_pos (.inr (.inr hother))))

section
variable (hlane : fieldAt bs 8 1 = farLane s port.toNat lane.toNat) (hfar : fieldAt bs 9 1 = expectedPort s port.toNat)
  (hnode : fieldAt bs 0xA 2 = expectedNode s port.toNat)
include hlane hfar hnode

/-- A neighbour ready for coded flits brings the port to the exchange of HELLO. -/
theorem execTrainingFrame_ready (hready : fieldAt bs 0xE 2 / 4 % 2 = 1) :
    exec (.trainingFrame port lane raw) s = .next (sendHello port.toNat
      (updPort port.toNat (fun t => { t.fresh 5 s.cycle with peerNode := expectedNode s port.toNat }) s)) := by
  have hexpected : ¬ (fieldAt bs 8 1 ≠ farLane s port.toNat lane.toNat ∨ fieldAt bs 9 1 ≠ expectedPort s port.toNat ∨
      fieldAt bs 0xA 2 ≠ expectedNode s port.toNat) := by simp [hlane, hfar, hnode]
  exact (execTrainingFrame_good hport hbytes hstate hbegun hearly hmagic hcrc).trans
    (congrArg Host.Outcome.next ((if_neg hexpected).trans (if_pos hready)))

/-- A neighbour that has trained lifts the port to phase 4. -/
theorem execTrainingFrame_trained (hnot : fieldAt bs 0xE 2 / 4 % 2 = 0) (htrained : fieldAt bs 0xE 2 / 2 % 2 = 1) :
    exec (.trainingFrame port lane raw) s = .next (updPort port.toNat
      (fun t => if t.phase < 4 then { t with phase := 4, phaseAt := s.cycle } else t) s) := by
  have hexpected : ¬ (fieldAt bs 8 1 ≠ farLane s port.toNat lane.toNat ∨ fieldAt bs 9 1 ≠ expectedPort s port.toNat ∨
      fieldAt bs 0xA 2 ≠ expectedNode s port.toNat) := by simp [hlane, hfar, hnode]
  have hunready : ¬ fieldAt bs 0xE 2 / 4 % 2 = 1 := by omega
  rw [execTrainingFrame_good hport hbytes hstate hbegun hearly hmagic hcrc]
  dsimp only
  rw [if_neg hexpected, if_neg hunready]
  simp only [if_pos htrained, or_true, if_true]

end

end

/-- Taking a message leaves the tables of ports and routes alone. -/
theorem freeMsg_tables (i : Nat) (m : InMsg) (s : State) : (freeMsg i m s).link.tables = s.link.tables := by
  unfold freeMsg
  dsimp only
  split <;> rfl

/-! ### Link-control messages (R410, R420, R423, R424) -/

/-- A link-control message of a type is taken and its row's rule runs. -/
theorem linkCtlRow_takes {s : State} {i type : Nat} {m : InMsg} (hmsg : ctlMsg s i 1 type = some m)
    (go : InMsg → State → State) : linkCtlRow i type go s = flushOut (go m (freeMsg i m s)) := by
  simp only [linkCtlRow, hmsg]

/-- HELLO of the expected neighbour begins the measurement. -/
theorem execHello_measures {s s₁ : State} {i : BitVec 16} {m : InMsg} {t : Port} (htaken : freeMsg i.toNat m s = s₁)
    (hmsg : ctlMsg s i.toNat 1 1 = some m) (hport : portAt s₁ m.port = t) (hstate : t.state = 1)
    (hphase : t.phase = 5) (hnode : fieldAt m.bytes 2 2 = expectedNode s₁ m.port)
    (hfar : fieldAt m.bytes 4 1 = expectedPort s₁ m.port) :
    exec (.hello i) s = .next (flushOut (sendEcho m.port (updPort m.port (fun t => { t with
      peerNode := fieldAt m.bytes 2 2, peerPort := fieldAt m.bytes 4 1, hello := true, farTx := fieldAt m.bytes 0x14 4
      farRx := fieldAt m.bytes 0x18 4, phase := 6, phaseAt := s₁.cycle }) s₁))) := by
  change execHello i s = _
  rw [execHello, linkCtlRow_takes hmsg, htaken]
  simp only [hport, hstate, hphase, ← hnode, ← hfar, ne_eq, not_true_eq_false, or_self, if_false]

/-- The round trip that a reply measures, less the turnaround that it names (R423). -/
def roundTrip (m : InMsg) (t : Port) : Nat := m.at_ * 65536 / 3 - t.echoT1 * 65536 - fieldAt m.bytes 0x1C 4

/-- Half of what the delays of the two ways differ by, and the adjustment of the port's entry. -/
def asymmetry (s : State) (p : Nat) (t : Port) : Int :=
  ((Config.txDelay p : Int) + (t.farRx : Int) - ((t.farTx : Int) + (Config.rxDelay p : Int))) / 2 + asymAdj s p

/-- A port measured by one more reply. -/
def Port.measured (t : Port) (rtt : Nat) (asym : Int) : Port := { t with rtt := rtt, asym := asym, echoes := t.echoes + 1 }

/-- The sixteenth reply of training brings the port to its last phase where four waits for ACK fit LLR_WINDOW (R410). -/
theorem execEchoReply_measured {s s₁ : State} {i : BitVec 16} {m : InMsg} {t : Port} (htaken : freeMsg i.toNat m s = s₁)
    (hmsg : ctlMsg s i.toNat 1 3 = some m) (hport : portAt s₁ m.port = t) (hawaited : fieldAt m.bytes 0x18 2 = t.echoSeq)
    (hstate : t.state = 1) (hphase : t.phase = 6) (hechoes : t.echoes = 15)
    (hfits : 4 * ((roundTrip m t + 65536 * 1000) * 3 / 65536) ≤ 3000 * lnkCtl s₁ m.port 12 8) :
    ∃ u, exec (.echoReply i) s = .next (flushOut u) ∧ portAt u m.port =
      { t.measured (roundTrip m t) (asymmetry s₁ m.port t) with phase := 7, phaseAt := s₁.cycle } := by
  have hcoded : t.coded = true := by simp [Port.coded, hstate, hphase]
  let u := updPort m.port (fun u => u.measured (roundTrip m t) (asymmetry s₁ m.port t)) s₁
  refine ⟨updPort m.port (fun u => { u with phase := 7, phaseAt := s₁.cycle }) u, ?_, ?_⟩
  · have hu : portAt u m.port = t.measured (roundTrip m t) (asymmetry s₁ m.port t) := by rw [portAt_updPort, hport]
    have hwait : 4 * ackWait (portAt u m.port) ≤ 3000 * lnkCtl u m.port 12 8 := by rw [hu]; exact hfits
    have hmeasuring : ¬ ((portAt u m.port).state ≠ 1 ∨ (portAt u m.port).phase ≠ 6) := by
      rw [hu]
      simp [Port.measured, hstate, hphase]
    have hlast : ¬ (portAt u m.port).echoes < 16 := by
      rw [hu]
      simp [Port.measured, hechoes]
    have hgood : ¬ (fieldAt m.bytes 0x18 2 ≠ t.echoSeq ∨ t.coded = false) := by simp [hawaited, hcoded]
    change execEchoReply i s = _
    rw [execEchoReply, linkCtlRow_takes hmsg, htaken]
    dsimp only
    rw [hport, if_neg hgood]
    exact congrArg (fun v => Host.Outcome.next (flushOut v))
      ((if_neg hmeasuring).trans ((if_neg hlast).trans (if_pos hwait)))
  · rw [portAt_updPort, portAt_updPort, hport]

theorem execEcho_answers {s : State} {i : BitVec 16} {m : InMsg} (turn : BitVec 32) (hmsg : ctlMsg s i.toNat 1 2 = some m) :
    exec (.echo i turn) s = .next (flushOut (sendOn m.port 3
      ((m.bytes.drop 0x10).take 10 ++ natLe 2 0 ++ natLe 4 turn.toNat) (freeMsg i.toNat m s))) :=
  congrArg Host.Outcome.next (linkCtlRow_takes hmsg _)

/-- UNREACH raises FLT_PEER_LOST of the one operation that names its node, where no coded state awaits it. -/
theorem execUnreach_raises {s s₁ u : State} {i : BitVec 16} {m : InMsg} {o : GateOp} {dest : Nat}
    (hmsg : ctlMsg s i.toNat 1 6 = some m) (htaken : freeMsg i.toNat m s = s₁) (hdest : fieldAt m.bytes 0x10 2 = dest)
    (hops : s₁.gate.ops.filter (fun o => o.nodes.contains dest) = [o]) (hop : gateOp s₁ o.id = some o)
    (hraised : raisePeerLost (regionOf o.cell) o.ctx (if m.port < 32 then m.port else 0xFFFF) dest 5 (if o.fn = 3 then 1 else 3)
      o.key o.tag s₁ = u) (hnone : parAwaiting u dest = []) :
    exec (.unreach i) s = .next (flushOut u) := by
  change execUnreach i s = _
  rw [execUnreach, linkCtlRow_takes hmsg, htaken]
  simp only [hdest, hops, List.foldl_cons, List.foldl_nil, hop, Option.isSome_some, if_true, hraised, hnone]

/-! ### Intervals and bounds (R422, R423) -/

theorem execEchoInterval_sends {s : State} {port : BitVec 5} (hup : (portAt s port.toNat).state = 2) :
    exec (.echoInterval port) s = .next (sendEcho port.toNat s) := congrArg Host.Outcome.next (if_pos hup)

/-- A phase of training that lasts past its bound fails. -/
theorem execTrainingPhaseTimeout_fails {s : State} {port : BitVec 5} (hstate : (portAt s port.toNat).state = 1)
    (hbegun : 1 ≤ (portAt s port.toNat).phase) (hopen : (portAt s port.toNat).phase < 7) :
    exec (.trainingPhaseTimeout port) s = .next
      (updPort port.toNat (fun t => { t with state := 3, laser := false, waiting := [], unacked := [] })
        { s with cycle := max s.cycle ((portAt s port.toNat).phaseAt + phaseBound (portAt s port.toNat).phase) }) :=
  congrArg Host.Outcome.next (if_neg (by omega))

/-- Settles O46: a training frame by what it names, and each message, interval and bound by its own row. -/
theorem linkTraining : Obligations.LinkTraining := by
  unfold Obligations.LinkTraining
  refine ⟨fun s port lane raw => ?frame, fun s i m turn => ?message,
    fun s port => ⟨execEchoInterval_sends, execTrainingPhaseTimeout_fails⟩, fun s i m o hmsg => ?unreach⟩
  case frame =>
    intro p bs t hstate hbegun hearly hmagic hcrc
    refine ⟨fun hlane hfar hnode => ⟨?_, ?_⟩, execTrainingFrame_miswire rfl rfl hstate hbegun hearly hmagic hcrc⟩
    · exact execTrainingFrame_ready rfl rfl hstate hbegun hearly hmagic hcrc hlane hfar hnode
    · exact fun hnot htrained _ =>
        execTrainingFrame_trained rfl rfl hstate hbegun hearly hmagic hcrc hlane hfar hnode hnot htrained
  case message =>
    intro s₁ f p t
    have hlink : s₁ = { s with link := s₁.link } := freeMsg_link i.toNat m s
    have htables : s₁.link.tables = s.link.tables := freeMsg_tables i.toNat m s
    have hentry : portEntry s₁ p = portEntry s p := by rw [portEntry, htables]; rfl
    refine ⟨fun hmsg hstate hphase hnode hfar => ?_, execEcho_answers turn, fun hmsg hawaited hstate hphase hechoes => ?_⟩
    · have hcycle : s₁.cycle = s.cycle := by rw [hlink]
      rw [← hcycle]
      refine execHello_measures rfl hmsg rfl hstate hphase (hnode.trans ?_) (hfar.trans ?_)
      · rw [expectedNode, expectedNode, hentry]
      · rw [expectedPort, expectedPort, hentry]
    · intro rtt hfits
      have hctl : lnkCtl s₁ p 12 8 = lnkCtl s p 12 8 := by rw [hlink]; rfl
      have hadj : asymAdj s₁ p = asymAdj s p := by rw [asymAdj, asymAdj, hentry]
      obtain ⟨u, hexec, hmeasured⟩ := execEchoReply_measured rfl hmsg rfl hawaited hstate hphase hechoes (hctl.symm ▸ hfits)
      refine ⟨u, hexec, ?_, ?_, ?_, ?_⟩ <;> rw [hmeasured]
      · rfl
      · exact congrArg (· + 1) hechoes
      · exact congrArg (_ + ·) hadj
  case unreach =>
    intro s₁ dest hops hop u hnone
    exact execUnreach_raises hmsg rfl rfl hops hop rfl hnone

end Sys2Proof.Machine
